-- ==== Sys2Proof/Word.lean ====
section
/-! DEFINITION. The word types of the H2's model, the plain sparse map that every array of State is kept in, and
the access to a field of a word by its bit range [msb:lsb] (00_scope.md, "Numbers, units and figures"). -/

namespace Sys2Proof

/-- One byte of memory or of a message. -/
abbrev Byte := BitVec 8
/-- A half word: 16 bits. -/
abbrev W16 := BitVec 16
/-- A 32-bit word: a register of 32 bits, a binary32 value, a square's count. -/
abbrev W32 := BitVec 32
/-- A 64-bit word: the unit that the (72,64) code protects (R375). -/
abbrev W64 := BitVec 64
/-- An engine instruction word (R111), a nonce. -/
abbrev W128 := BitVec 128
/-- A digest, a scalar or a coordinate of P-256. -/
abbrev W256 := BitVec 256
/-- A descriptor, a cell or a parameter block: 64 bytes, byte 0 in bits [7:0] (R3). -/
abbrev W512 := BitVec 512

/-- An array kept sparsely: (index, value) pairs with strictly rising indices. What an unlisted index holds is
the default that the reader names, and no pair holds that default. -/
abbrev SMap (α : Type) := List (Nat × α)

/-- Bits [hi:lo] of a word, as a number. -/
def bits {n : Nat} (v : BitVec n) (hi lo : Nat) : Nat := (v.toNat >>> lo) % 2 ^ (hi + 1 - lo)

/-- Bit i of a word. -/
def bit {n : Nat} (v : BitVec n) (i : Nat) : Bool := v.toNat.testBit i

end Sys2Proof
end

