-- ==== Sys2Proof/Syntax.lean ====
section
/-! DEFINITION. The commands of the H2: one constructor for each row of spec/opcode_table.json. The table gives the
rows no bits and no operands, so the operands are the model's (log entry 6): the unit that acts, and what comes from
outside the package (a frame, a host read's data, a sensor sample, an operator's choice). -/

namespace Sys2Proof

/-- A word of a cell, with its poison mark (R378). -/
structure CWord where
  v : W64
  psn : Bool
  deriving DecidableEq, Repr

/-- A packet (R258-R260): the fields of its header word and the payload words of its cells in order. -/
structure Pkt where
  dst : Nat
  src : Nat
  cls : Nat
  vc : Nat
  epoch : Nat
  typ : Nat
  seq : Nat
  flow : Nat
  words : List CWord
  deriving DecidableEq, Repr

/-- Who writes a register: the host through BAR0, management firmware, or a control core of the quarter (R46, R108). -/
inductive Src where
  | host
  | fw
  | cc (q : Fin 96) (i : Fin 2)
  deriving DecidableEq, Repr

/-- The PCIe errors of R349 beside poison, Completion Timeout and Surprise Down: the correctable ones, those that are not
fatal by default, the fatal ones. -/
inductive PcieErr where
  | receiver | badTlp | badDllp | replayTimer | replayRollover | advisory
  | unexpected | unsupported | ecrc
  | dataLink | malformed | overflow
  deriving DecidableEq, Repr

/-- What a change of the link brings beside its width and rate (R339, R349): L0p is in use, and errors of the port. -/
structure LinkSeen where
  l0p : Bool
  errs : List PcieErr
  deriving DecidableEq, Repr

/-- The register that an access names (R7, R337, R341): by its offset in BAR0, or in configuration space. -/
inductive RegAt where
  | bar0 (off : Nat)
  | config (off : Nat)
  deriving DecidableEq, Repr

/-- What a lane measures (R302, R320): the received power in 0.1 dBm, and the bit errors before FEC among the bits of the last
100 us. -/
structure RxMeasure where
  power : Int
  errs : Nat
  bits : Nat
  deriving DecidableEq, Repr

/-- The outcome of a PCIe read of the H2's own (R349): the data, data received poisoned, or another PCIe error. -/
inductive Answer (α : Type) where
  | data (d : α)
  | poison
  | error (e : PcieErr)
  deriving DecidableEq, Repr

/-- How a message of MCTP comes (R350, R384): on SMBus, or as a PCIe message; its SMBus address, and whether the Packet Error
Code of each of its packets is right; its destination endpoint; its type, with the Vendor ID of a vendor-defined one, and the
command code of a control or vendor-defined one. -/
structure MctpIn where
  smb : Bool
  addr : BitVec 7
  pec : Bool
  eid : Byte
  typ : Byte
  vendor : W16
  code : Byte
  deriving DecidableEq, Repr

/-- The read-modify-write operations of RV64A on a word or doubleword. -/
inductive AmoOp where
  | swap | add | xor | and | or | min | max | minu | maxu
  deriving DecidableEq, Repr

/-- The access of a control core (R146): a fetch, a load, a store, the atomic operations of RV64A, a write of a
machine-mode control and status register, and MRET (RISC-V; log entry 10). -/
inductive CcAccess where
  | fetch
  | load (bytes : Fin 9)
  | store (bytes : Fin 9) (v : W64)
  | amo (op : AmoOp) (dword : Bool) (v : W64)
  | lr (dword : Bool)
  | sc (dword : Bool) (v : W64)
  | csr (num : BitVec 12) (v : W64)
  | mret
  deriving DecidableEq, Repr

/-- The cause of LANE_DOWN (R305): the lock-in error, the pilot, or the bit errors before FEC among the bits of the last
100 us. -/
inductive LaneCause where
  | lock
  | pilot
  | ber (errs bits : Nat)
  deriving DecidableEq, Repr

/-- What ends in the relock of a lane (R306, R307): the sweep begins, lock-in has converged, the pilots of the rings of a
wavelength are verified, the error-ratio test has met so many errors in 10^7 bits, or the sequence has failed. -/
inductive RelockStage where
  | seek
  | locked
  | pilot (wl : Fin 16)
  | trained (errs : Nat)
  | failed
  deriving DecidableEq, Repr

/-- Where a word in error was found (R377, R381): an uncorrectable word on a shared-cache fill, a segment decode or a
metadata line; a corrected word of a stack; a word of a local store that a unit of a source code reads; a square; an
accumulator bank; another internal SRAM. -/
inductive WordErr where
  | fill
  | corrected
  | store (src : Byte)
  | square (n : BitVec 16)
  | bank (q : Fin 96) (c : Fin 4) (b : Fin 2)
  | sram
  deriving DecidableEq, Repr

/-- What a boot stage finds (R191, R367, R368, R410): the stacks that fail power-on training, the lanes that fail their eye
test by channel, the units that fail self-test in the layout of MGT_PART_SELFTEST, the lowest VID code at which each
die's monitors pass (31: the shared logic fails at code 30), the lasers that failed, OPT_RINGOK of the 32 ports. -/
structure BootRes where
  untrained : BitVec 8
  eyes : List (Fin 8 × Fin 128 × List (Fin 20))
  failed : W128
  vidE : Fin 32
  vidW : Fin 32
  lasers : W128
  rings : List W32
  deriving DecidableEq, Repr

/-- The commands. -/
inductive Instr where
  -- engine instructions (05): quarter q, stream s or unit
  | nop (q : Fin 96) (s : Fin 14)
  | mma (q : Fin 96) (c : Fin 4)
  | mmaEnd (q : Fin 96) (c : Fin 4)
  | dcfg (q : Fin 96) (d : Fin 4)
  | drain (q : Fin 96) (d : Fin 4)
  | drainEnd (q : Fin 96) (d : Fin 4)
  | valu (q : Fin 96) (c : Fin 4)
  | vld (q : Fin 96) (c : Fin 4)
  | vst (q : Fin 96) (c : Fin 4)
  | vred (q : Fin 96) (c : Fin 4)
  | momfin (q : Fin 96) (c : Fin 4)
  | vrelay (q : Fin 96) (c : Fin 4)
  | topk (q : Fin 96) (c : Fin 4)
  | dropout (q : Fin 96) (c : Fin 4)
  | maskapply (q : Fin 96) (c : Fin 4)
  | moveCopy (q : Fin 96)
  | moveAtomicAdd (q : Fin 96)
  | dispatch (q : Fin 96)
  | gatherRows (q : Fin 96)
  | combine (q : Fin 96)
  | scatterAdd (q : Fin 96)
  | scatterRows (q : Fin 96)
  | rotate (q : Fin 96)
  | sketch (q : Fin 96)
  | prjSubmissionEnd
  | sqsig (q : Fin 96) (s : Fin 14)
  | sqwait (q : Fin 96) (s : Fin 14)
  | sqwaitResume (q : Fin 96) (s : Fin 14)
  | sqset (q : Fin 96) (s : Fin 14)
  | streamFetch (q : Fin 96) (s : Fin 14)
  | engineOpRetire (q : Fin 96) (s : Fin 14)
  | waitTo (q : Fin 96) (s : Fin 14)
  | streamHeadWrite (q : Fin 96) (s : Fin 14) (v : W64) (src : Src)
  | streamGateWrite (q : Fin 96) (s : Fin 14) (v : W64) (src : Src)
  | streamDisable (q : Fin 96) (s : Fin 14) (v : W64) (src : Src)
  | ccStart (q : Fin 96) (v : W64) (src : Src)
  | ldone (q : Fin 96) (v : W32) (src : Src)
  | launchEnd (q : Fin 96)
  -- queues and descriptors (09)
  | sqDoorbell (n : Fin 64) (v : W32)
  | cqDoorbell (n : Fin 64) (v : W32)
  | doorbellIgnored (off : Nat) (bytes : Nat) (v : Option W64)
  | descriptorFetch (a : Answer W512)
  | launch
  | copy (a : Answer (List W512)) (n : Nat)
  | signal
  | update
  | stop
  | load
  | select
  | loadSelect
  | settleEnd
  | tracking (refs : Nat)
  | writeRt (a : Answer (List W64))
  | writeCirc (a : Answer (List W64))
  | writeCal (a : Answer (List W64))
  | flip
  | discover
  | helloResend (p : Fin 32)
  | discoverEnd
  | loadPlan (a : Answer (List Byte))
  -- beats (09)
  | start
  | tickSend
  | tick (p : Fin 32) (k : Pkt) (at_ : Nat)
  | tickMissed
  | beatBoundary
  | fullRetrainEnd (k : Fin 8) (bad : List (Fin 128 × List (Fin 20)))
  | cut
  -- update chiplets (07)
  | pass1Start (ue : List (BitVec 40))
  | pass1End (k : Fin 8)
  | seqrec (n : Fin 1024) (cell : List CWord)
  | pass2Start (k : Fin 8) (blocks : Nat) (ue : List (BitVec 40))
  | updateEnd
  | chainTo
  -- training numerics (06)
  | loss (v : W32)
  | restart
  | gradNfRaise
  | close
  | closeEnd
  -- stacked memory and shared cache (08)
  | stackTempSample (k : Fin 8) (t : Int)
  | driftTracking (k : Fin 8) (c : Fin 128) (lane : Fin 20) (up : Bool)
  | emergencyRetrain (k : Fin 8) (c : Fin 128)
  | emergencyRetrainEnd (k : Fin 8) (c : Fin 128) (bad : List (Fin 20))
  | reqTo (a : BitVec 40) (rd : Bool) (bytes : Fin 2049)
  | ueReread (a : BitVec 40) (w : WordErr) (good : Bool)
  | tgStart (k : Fin 8) (c : Fin 128) (v : W64)
  | tgEnd (k : Fin 8) (c : Fin 128) (errors : W32) (lanes : BitVec 20) (first : BitVec 30)
  | channelRetire (k : Fin 8) (v : W32)
  | regionWrite (n : Fin 64) (v : W64)
  | atomicRegionEnable (n : Fin 16) (v : W64)
  | atomicRegionDisable (n : Fin 16) (v : W64)
  -- fabric (10)
  | frameRx (p : Fin 32) (l : Fin 8) (ws : List (W64 × Byte)) (ret : BitVec 24)
  | replayTimeout (p : Fin 32) (l : Fin 8)
  | round (p : Fin 32)
  | ctrlDisplace (p : Fin 24)
  | write (p : Fin 32) (k : Pkt)
  | read (p : Fin 32) (k : Pkt)
  | reqSignal (p : Fin 32) (k : Pkt)
  | atomicAdd (p : Fin 32) (k : Pkt)
  | ack (p : Fin 32) (k : Pkt)
  | readData (p : Fin 32) (k : Pkt)
  | error (p : Fin 32) (k : Pkt)
  | stopCell (p : Fin 32) (k : Pkt)
  | hello (p : Fin 32) (k : Pkt)
  | helloSig (p : Fin 32) (k : Pkt)
  | echo (p : Fin 32) (k : Pkt) (turn : Nat)
  | echoReply (p : Fin 32) (k : Pkt) (rtt parentDly : Nat)
  | writeHead (n : Fin 1024) (cell : List CWord)
  | circuitSignal (n : Fin 1024) (cell : List CWord)
  | circuitDataCell (n : Fin 1024) (cell : List CWord)
  | e2eTimeout (flow : Fin 512) (seq : Fin 4096)
  -- photonic links (11)
  | optSensorSample (die : Fin 2) (i : Fin 64) (t : Int)
  | ringFeedforward
  | laneDown (p : Fin 32) (l : Fin 8) (cause : LaneCause)
  | laneRelockEnd (p : Fin 32) (l : Fin 8) (r : RelockStage)
  | laneManagementWord (p : Fin 32) (l : Fin 8) (w : W64 × Byte)
  | rxPowerMeasure (p : Fin 32) (l : Fin 8) (m : RxMeasure)
  | laserFail (n : Fin 128)
  | laserSwap (n : Fin 128)
  | laserAgeWarn (n : Fin 128)
  | announceBlock (p : Fin 8) (l : Fin 8) (ws : List (W64 × Byte))
  | avAssignment
  -- host interface (13)
  | bar4Read (off : Nat) (bytes : Nat)
  | bar4Write (off : Nat) (data : List Byte) (ep : Bool)
  | bar4BaseWrite (v : W64)
  | registerWrite (off : RegAt) (bytes : Nat) (v : W64) (src : Src) (ep : Bool)
  | registerReadClear (off : RegAt) (bytes : Nat) (src : Src)
  | sqBaseWrite (n : Fin 64) (v : W64)
  | sqCfgWrite (n : Fin 64) (v : W32)
  | cqEnable (n : Fin 64) (v : W32)
  | cqDisable (n : Fin 64) (v : W32)
  | irqSrcEnable (e : Fin 16) (v : W32)
  | bmeClear (v : Bool)
  | mseClear (v : Bool)
  | d3hot
  | d0Return
  | linkChange (width : Fin 17) (rate : Fin 7) (flit : Bool) (seen : LinkSeen)
  | flr
  | hotReset
  | perstN (us : Nat)
  | porN (us : Nat)
  -- clocks, reset, boot, identity (14)
  | resetRelease
  | bootStageEnd (r : BootRes)
  | getBootStatus (b : MctpIn)
  | flashRead (b : MctpIn) (off : W32) (len : Byte)
  | flashErase (b : MctpIn) (off : W32)
  | flashWrite (b : MctpIn) (off : W32) (data : List Byte)
  | getPartRecord (b : MctpIn) (off : W16) (len : Byte)
  | reset (b : MctpIn)
  | setEndpointId (b : MctpIn) (eid : Byte)
  | getVersion (b : MctpIn) (req : List Byte)
  | getCapabilities (b : MctpIn) (req : List Byte)
  | negotiateAlgorithms (b : MctpIn) (req : List Byte)
  | getDigests (b : MctpIn) (req : List Byte)
  | getCertificate (b : MctpIn) (req : List Byte)
  | challenge (b : MctpIn) (req : List Byte)
  | getMeasurements (b : MctpIn) (req : List Byte)
  | smbusTimeout
  | tapInstruction (ir : Nat)
  | clockFault (d : Fin 25)
  | heartbeat (d : Fin 25)
  | domainStuck (d : Fin 25)
  -- errors and job stop (15)
  | force
  | jobStopCompletions
  | readable
  | rearm
  -- power (17)
  | dieSensorSample (die : Fin 2) (i : Fin 52) (t : Int)
  | powerSample (w : Nat)
  | thermtrip
  -- performance counters (16)
  | clear
  | h1CounterWrite (j : Fin 64) (v : W32)
  -- control cores, PCIe and the rest
  | controlCoreLoadStore (q : Fin 96) (i : Fin 2) (acc : CcAccess) (a : W64)
  | machineTimerInterrupt (q : Fin 96) (i : Fin 2)
  | completionTimeout (what : Fin 3)
  | surpriseDown
  | entropyHealthFail
  | sccAtomBusyEnd (n : Fin 16)
  | resizableBarWrite (log2 : Nat)
  | msixFunctionMaskWrite (enable mask : Bool)
  | smbusResponseRead
  deriving DecidableEq, Repr

end Sys2Proof
end

