-- ==== Sys2Proof/Decode.lean ====
section
/-! DEFINITION. The H2 takes commands; spec/opcode_table.json gives no row any bits, so no word spells a command. -/

namespace Sys2Proof

/-- The command that a word of `nbits` bits spells under the bits of spec/opcode_table.json: none, since its rows give
none. -/
def decodeTableWord (_nbits _w : Nat) : Option Instr := none

end Sys2Proof
end

