-- ==== Sys2Proof/Config.lean ====
section
/-! DEFINITION. What the spec leaves open and the model leaves free: each constant is opaque, so nothing can be
proved of its value, and a claim holds whatever it is. Every one is named in the assumption log. -/

namespace Sys2Proof.Config

/-- Free 32-bit values, one for each draw of the State counter `free` (log entry 1). -/
opaque free32 : Nat → W32
/-- Free 64-bit values, as `free32`. -/
opaque free64 : Nat → W64
/-- Free 256-bit values, as `free32`: nonces, random values, PUF read-out (R289, R370, R371). -/
opaque free256 : Nat → W256
/-- EXPERT and WEIGHT of a TOPK entry whose rank is beyond E (R86, R89; log entry 15): a function of the token's logits, the
bias vector, the fields and the rank. -/
opaque topkFree : List W32 → List W32 → Nat → Nat → W64
/-- The analog noise of a projector output (R327, R335; log entry 1), in units of 2^-24, for each draw of the State counter
`free`. -/
opaque prjNoise : Nat → Int
/-- The cycle of its clock in which a lane consumes its random generator (R102-R104, log entry 5): a number that
the spec leaves to timing. -/
opaque rngCycle : Nat → Nat
/-- SHA-256 of the vendor root key, held in mask ROM (R365); the spec gives no value. -/
opaque rootKeyHash : W256
/-- Digest of the mask ROM (R372 index 1); the spec gives no value. -/
opaque maskRomDigest : W256
/-- Bits of the SRAM PUF read-out after the vendor's correction (R370): the seed, or none where it cannot be
corrected, and the percentage of bits corrected; a function of the helper data's digest and the boot. -/
opaque pufSeed : W256 → Nat → Option (W256 × Nat)
/-- Gain of ring r of port p, from the photonic calibration image (R304), in heater steps per degree. -/
opaque ringGain : Nat → Nat → Int
/-- The gain of phase shifter k of the projector, from the photonic calibration image (R322, R304), and the sensor of the
west die (0 to 63) that it follows, which the spec does not place. -/
opaque shifterGain : Nat → Int
opaque shifterSensor : Nat → Nat
/-- The set that the shared cache gives a line address (R203 names 8,192 sets and no index function). -/
opaque cacheSet : Nat → Nat
/-- The byte that a temperature field holds for a value below 0 degrees (R416, OPT_STATUS): the spec gives no coding. -/
opaque tempCode : Int → Byte
/-- The vendor identity certificate check of R370 step 4 (X.509 in DER): whether the certificate bytes verify
under the vendor root key and which public key they hold (X, Y). -/
opaque certKey : List Byte → Option (W256 × W256)
/-- The root hash and the certificates of the SPDM chain of slot 0 (R351), from the flash region that holds the identity
certificate (R364): the spec does not lay the chain out. -/
opaque certChain : List Byte → List Byte
/-- Bodies of the SPDM responses CAPABILITIES and ALGORITHMS (R351), from the request: sizes and timeouts that the spec
does not give. -/
opaque spdmBody : Nat → List Byte → List Byte
/-- The identification code of the test access port (R385); the spec gives no value. -/
opaque idcode : W32
/-- The resident quarter runtime (R147, R368): bytes by local-store offset, and its entry in words of 4 B. The spec gives
neither. -/
opaque runtime : List (Nat × Byte)
opaque runtimeEntry : Nat
/-- The routine that a LAUNCH starts (R187; log entry 81): the local address of the factor record, for the descriptors with
which the resident runtime runs KREFRESH. The spec gives the routine no entry and no argument. -/
opaque kRefresh : W512 → Option Nat
/-- Newton iterations of one group, the stage of a refresh (R187). -/
opaque kNewtonGroup : Nat
/-- The fixed split of a matrix product of KREFRESH over K, as first position and length of each part in link order (R69,
R187), by n. -/
opaque kSplit : Nat → List (Nat × Nat)
/-- A number less the sum of the products of pairs, and a quotient, in the roundings of KREFRESH's Cholesky factorization,
which the spec does not give (R187). -/
opaque kLess : W32 → List (W32 × W32) → W32
opaque kQuot : W32 → W32 → W32
/-- A word of a traffic generator's pattern other than ADDR_WALK (R214; log entry 87), by TG_CTL, channel and word: the spec
does not say how the lanes of a burst make up words. -/
opaque tgWord : W64 → Nat → Nat → W64
/-- Bytes that the flash holds beyond the 64 MiB that R364 asks for. -/
opaque flashMore : Nat
end Sys2Proof.Config
end

