-- ==== Sys2Proof/Machine/Num.lean ====
section
/-! DEFINITION. Exact values, rounding and the formats of 02_number_formats.md: binary32 and binary64 (R27, R28),
the Milpex formats (R17-R22), the integer formats (R25), the conversions rne (R29), sr (R34) and widen (R33), maximum,
minimum and comparison (R35, R36). Every arithmetic operation is an exact operation followed by one rounding (R12). -/

namespace Sys2Proof

/-- An exact value: NaN, an infinity, or (-1)^neg * m * 2^e; a zero keeps its sign. -/
inductive FVal where
  | nan
  | inf (neg : Bool)
  | fin (neg : Bool) (m : Nat) (e : Int)
  deriving DecidableEq, Repr

/-- m * 2^k for k of either sign, as a numerator and a denominator. -/
def scale2 (m : Nat) (k : Int) : Nat × Nat :=
  match k with
  | .ofNat n => (m <<< n, 1)
  | .negSucc n => (m, 1 <<< (n + 1))

/-- The floor of log2 (num / den), both positive. -/
def log2Ratio (num den : Nat) : Int :=
  let l : Int := (Nat.log2 num : Int) - (Nat.log2 den : Int)
  let below : Bool := match l with
    | .ofNat n => decide (num < den <<< n)
    | .negSucc n => decide (num <<< (n + 1) < den)
  if below then l - 1 else l

/-- The quantum exponent of the grid of precision p and least quantum 2^qmin at num / den * 2^e. -/
def gridExp (p : Nat) (qmin : Int) (num den : Nat) (e : Int) : Int :=
  max (log2Ratio num den + e - (p : Int) + 1) qmin

/-- num / den * 2^e as floor and remainder (over a common denominator) in units of 2^q. -/
def gridParts (num den : Nat) (e q : Int) : Nat × Nat × Nat :=
  let (a, b) := scale2 num (e - q)
  let d := den * b
  (a / d, a % d, d)

/-- num / den * 2^e rounded to nearest, ties to even, onto the grid; the result is m * 2^q. -/
def roundGrid (p : Nat) (qmin : Int) (num den : Nat) (e : Int) : Nat × Int :=
  if num = 0 then (0, qmin) else
    let q := gridExp p qmin num den e
    let (f, r, d) := gridParts num den e q
    let up := d < 2 * r || (2 * r = d && f % 2 = 1)
    (if up then f + 1 else f, q)

/-- An IEEE 754 binary format: exponent bits and mantissa bits. -/
structure IeeeFmt where
  eb : Nat
  mb : Nat
  deriving DecidableEq, Repr

def fmtB32 : IeeeFmt := ⟨8, 23⟩
def fmtB64 : IeeeFmt := ⟨11, 52⟩

def ieeeBias (f : IeeeFmt) : Nat := 2 ^ (f.eb - 1) - 1
/-- Exponent of the least quantum: 2^(1 - bias - mb). -/
def ieeeQmin (f : IeeeFmt) : Int := 1 - (ieeeBias f : Int) - (f.mb : Int)
/-- The canonical NaN (R27: 0x7FC0_0000 in binary32). -/
def ieeeNaN (f : IeeeFmt) : Nat := ((2 ^ f.eb - 1) * 2 + 1) <<< (f.mb - 1)
def ieeeInf (f : IeeeFmt) (neg : Bool) : Nat :=
  ((2 ^ f.eb - 1) <<< f.mb) + (if neg then 1 <<< (f.eb + f.mb) else 0)

/-- The value of a code of an IEEE format. -/
def ieeeVal (f : IeeeFmt) (x : Nat) : FVal :=
  let neg := x.testBit (f.eb + f.mb)
  let e := (x >>> f.mb) % 2 ^ f.eb
  let m := x % 2 ^ f.mb
  if e = 2 ^ f.eb - 1 then (if m = 0 then .inf neg else .nan)
  else if e = 0 then .fin neg m (ieeeQmin f)
  else .fin neg (m + 2 ^ f.mb) ((e : Int) - (ieeeBias f : Int) - (f.mb : Int))

/-- The code of (-1)^neg * m * 2^q, a value of the unbounded grid; beyond the range it is an infinity. -/
def ieeePack (f : IeeeFmt) (neg : Bool) (m : Nat) (q : Int) : Nat :=
  let s := if neg then 1 <<< (f.eb + f.mb) else 0
  -- a carry out of the significand moves to the next binade
  let (m, q) := if m = 2 ^ (f.mb + 1) then (2 ^ f.mb, q + 1) else (m, q)
  if m < 2 ^ f.mb then s + m
  else
    let e := (q - ieeeQmin f).toNat + 1
    if 2 ^ f.eb - 1 ≤ e then ieeeInf f neg else s + (e <<< f.mb) + (m - 2 ^ f.mb)

/-- rne of (-1)^neg * num / den * 2^e to an IEEE format (f32 and f64 of 00_scope.md). -/
def ieeeRound (f : IeeeFmt) (neg : Bool) (num den : Nat) (e : Int) : Nat :=
  let (m, q) := roundGrid (f.mb + 1) (ieeeQmin f) num den e
  ieeePack f neg m q

/-- rne of an exact value. -/
def ieeeOf (f : IeeeFmt) : FVal → Nat
  | .nan => ieeeNaN f
  | .inf n => ieeeInf f n
  | .fin n m e => ieeeRound f n m 1 e

/-! ### Exact operations -/

def fvNeg : FVal → FVal
  | .nan => .nan
  | .inf n => .inf !n
  | .fin n m e => .fin (!n) m e

def fvAbs : FVal → FVal
  | .nan => .nan
  | .inf _ => .inf false
  | .fin _ m e => .fin false m e

/-- The exact sum under the rules of IEEE 754 for zeros, infinities and NaN (R27, R40). -/
def fvAdd : FVal → FVal → FVal
  | .nan, _ => .nan
  | _, .nan => .nan
  | .inf a, .inf b => if a = b then .inf a else .nan
  | .inf a, .fin _ _ _ => .inf a
  | .fin _ _ _, .inf b => .inf b
  | .fin a m e, .fin b n g =>
    if m = 0 ∧ n = 0 then .fin (a && b) 0 0
    else
      let q := min e g
      let x : Int := (m <<< (e - q).toNat : Nat)
      let y : Int := (n <<< (g - q).toNat : Nat)
      let s := (if a then -x else x) + (if b then -y else y)
      .fin (decide (s < 0)) s.natAbs q

/-- The exact product. -/
def fvMul : FVal → FVal → FVal
  | .nan, _ => .nan
  | _, .nan => .nan
  | .inf a, .inf b => .inf (a != b)
  | .inf a, .fin b m _ => if m = 0 then .nan else .inf (a != b)
  | .fin a m _, .inf b => if m = 0 then .nan else .inf (a != b)
  | .fin a m e, .fin b n g => .fin (a != b) (m * n) (e + g)

def fvIsNaN : FVal → Bool
  | .nan => true
  | _ => false

def fvIsFinite : FVal → Bool
  | .fin _ _ _ => true
  | _ => false

/-- a < b on the values, false for NaN (R36). -/
def fvLt : FVal → FVal → Bool
  | .nan, _ => false
  | _, .nan => false
  | .inf a, .inf b => a && !b
  | .inf a, .fin _ _ _ => a
  | .fin _ _ _, .inf b => !b
  | .fin a m e, .fin b n g =>
    let q := min e g
    let x : Int := (m <<< (e - q).toNat : Nat)
    let y : Int := (n <<< (g - q).toNat : Nat)
    decide ((if a then -x else x) < (if b then -y else y))

/-- a = b on the values, +0 = -0, false for NaN (R36). -/
def fvEq (a b : FVal) : Bool := !fvIsNaN a && !fvIsNaN b && !fvLt a b && !fvLt b a

/-! ### binary32 and binary64 -/

def f32v (x : W32) : FVal := ieeeVal fmtB32 x.toNat
def f32r (v : FVal) : W32 := BitVec.ofNat 32 (ieeeOf fmtB32 v)
def f64v (x : W64) : FVal := ieeeVal fmtB64 x.toNat
def f64r (v : FVal) : W64 := BitVec.ofNat 64 (ieeeOf fmtB64 v)

/-- The canonical NaN of R27. -/
def f32NaN : W32 := 0x7FC00000#32
def f32One : W32 := 0x3F800000#32
def f32Zero : W32 := 0#32

def f32IsNaN (x : W32) : Bool := fvIsNaN (f32v x)
def f32IsFinite (x : W32) : Bool := fvIsFinite (f32v x)
/-- Positive, finite and normal: the demand on every scale (R42). -/
def f32IsScale (x : W32) : Bool := decide (0x00800000 ≤ x.toNat ∧ x.toNat < 0x7F800000)
/-- Finite, and +0 or positive. -/
def f32IsNonneg (x : W32) : Bool := decide (x.toNat < 0x7F800000)

def f32Add (a b : W32) : W32 := f32r (fvAdd (f32v a) (f32v b))
def f32Sub (a b : W32) : W32 := f32r (fvAdd (f32v a) (fvNeg (f32v b)))
def f32Mul (a b : W32) : W32 := f32r (fvMul (f32v a) (f32v b))
/-- a * b + c, rounded once. -/
def f32Fma (a b c : W32) : W32 := f32r (fvAdd (fvMul (f32v a) (f32v b)) (f32v c))
/-- Changes only the sign bit, then canonicalises a NaN (R80). -/
def f32Abs (a : W32) : W32 := if f32IsNaN a then f32NaN else a &&& 0x7FFFFFFF#32
def f32Neg (a : W32) : W32 := if f32IsNaN a then f32NaN else a ^^^ 0x80000000#32

/-- a / b, correctly rounded (R27, R80). -/
def ieeeDiv (f : IeeeFmt) : FVal → FVal → Nat
  | .nan, _ => ieeeNaN f
  | _, .nan => ieeeNaN f
  | .inf _, .inf _ => ieeeNaN f
  | .inf a, .fin b _ _ => ieeeInf f (a != b)
  | .fin a _ _, .inf b => ieeePack f (a != b) 0 0
  | .fin a m e, .fin b n g =>
    if n = 0 then (if m = 0 then ieeeNaN f else ieeeInf f (a != b))
    else ieeeRound f (a != b) m n (e - g)
def f32Div (a b : W32) : W32 := BitVec.ofNat 32 (ieeeDiv fmtB32 (f32v a) (f32v b))

/-- f32 of an exact quotient of natural numbers (R91). -/
def f32Ratio (n d : Nat) : W32 := BitVec.ofNat 32 (ieeeRound fmtB32 false n d 0)
def f32OfNat (n : Nat) : W32 := f32Ratio n 1
def f32OfInt (i : Int) : W32 := BitVec.ofNat 32 (ieeeRound fmtB32 (decide (i < 0)) i.natAbs 1 0)

/-- Bits of the integer square root of n, from bit k down to 0, with r found so far. -/
def isqrtLoop (n : Nat) : Nat → Nat → Nat
  | 0, r => r
  | k + 1, r =>
    let c := r + (1 <<< k)
    isqrtLoop n k (if c * c ≤ n then c else r)
/-- The floor of the square root of n. -/
def isqrt (n : Nat) : Nat := isqrtLoop n (Nat.log2 n / 2 + 1) 0

/-- Square root, correctly rounded: 2r + (1 when inexact) decides every rounding, r having more bits than p. -/
def ieeeSqrt (f : IeeeFmt) : FVal → Nat
  | .nan => ieeeNaN f
  | .inf n => if n then ieeeNaN f else ieeeInf f false
  | .fin n m e =>
    if m = 0 then ieeePack f n 0 0
    else if n then ieeeNaN f
    else
      let (m, e) := if e % 2 = 0 then (m, e) else (2 * m, e - 1)
      let k := f.mb + 4
      let x := m <<< (2 * k)
      let r := isqrt x
      ieeeRound f false (2 * r + (if r * r = x then 0 else 1)) 1 (e / 2 - (k : Int) - 1)
def f32Sqrt (a : W32) : W32 := BitVec.ofNat 32 (ieeeSqrt fmtB32 (f32v a))

/-- 1 / sqrt x, correctly rounded (R82), and the special inputs of R83. -/
def f32Rsqrt (a : W32) : W32 :=
  match f32v a with
  | .nan => f32NaN
  | .inf n => if n then f32NaN else f32Zero
  | .fin n m e =>
    if m = 0 then BitVec.ofNat 32 (ieeeInf fmtB32 n)
    else if n then f32NaN
    else
      let (m, e) := if e % 2 = 0 then (m, e) else (2 * m, e - 1)
      let t := 64
      let r := isqrt ((1 <<< (2 * t)) / m)
      let exact := r * r * m = 1 <<< (2 * t)
      BitVec.ofNat 32 (ieeeRound fmtB32 false (2 * r + (if exact then 0 else 1)) 1 (-(e / 2) - (t : Int) - 1))
/-- 1 / x (R82, R83). -/
def f32Rcp (a : W32) : W32 := f32Div f32One a

/-- Maximum under R35: a NaN gives way, and max (+0, -0) is +0. -/
def f32Max (a b : W32) : W32 :=
  if f32IsNaN a then (if f32IsNaN b then f32NaN else b)
  else if f32IsNaN b then a
  else if fvLt (f32v a) (f32v b) then b
  else if fvLt (f32v b) (f32v a) then a
  else a &&& b
/-- Minimum under R35: min (+0, -0) is -0. -/
def f32Min (a b : W32) : W32 :=
  if f32IsNaN a then (if f32IsNaN b then f32NaN else b)
  else if f32IsNaN b then a
  else if fvLt (f32v a) (f32v b) then a
  else if fvLt (f32v b) (f32v a) then b
  else a ||| b
def f32Lt (a b : W32) : Bool := fvLt (f32v a) (f32v b)
def f32Eq (a b : W32) : Bool := fvEq (f32v a) (f32v b)
def f32Le (a b : W32) : Bool := f32Lt a b || f32Eq a b

def f64Add (a b : W64) : W64 := f64r (fvAdd (f64v a) (f64v b))
def f64Mul (a b : W64) : W64 := f64r (fvMul (f64v a) (f64v b))
/-- 1 - p in binary64 (R179). -/
def f64OneMinus (p : W64) : W64 := f64r (fvAdd (.fin false 1 0) (fvNeg (f64v p)))
def f64Sqrt (a : W64) : W64 := BitVec.ofNat 64 (ieeeSqrt fmtB64 (f64v a))
/-- binary32 to binary64, exact (R28). -/
def f64Of32 (a : W32) : W64 := f64r (f32v a)
/-- f32 of the exact quotient of two binary values (R179: max_norm / norm, 1 / f64 x). -/
def f32DivV (a b : FVal) : W32 := BitVec.ofNat 32 (ieeeDiv fmtB32 a b)

/-! ### The storage formats (R24) -/

/-- The formats that R24 gives codes; `res` is a reserved code. -/
inductive Fmt where
  | hf4 | hf6 | hf8m | hf8r | hu8 | hf16 | b32 | b64 | int4 | int8 | int32 | res
  deriving DecidableEq, Repr

/-- The 4-bit codes of R24. -/
def fmtOfCode : Nat → Fmt
  | 0 => .hf4 | 1 => .hf6 | 2 => .hf8m | 3 => .hf8r | 4 => .hu8 | 5 => .hf16
  | 6 => .b32 | 7 => .b64 | 8 => .int4 | 9 => .int8 | 10 => .int32 | _ => .res

/-- Element bits (R24). -/
def fmtBits : Fmt → Nat
  | .hf4 => 4 | .hf6 => 6 | .hf8m => 8 | .hf8r => 8 | .hu8 => 8 | .hf16 => 16
  | .b32 => 32 | .b64 => 64 | .int4 => 4 | .int8 => 8 | .int32 => 32 | .res => 8

def fmtIsMilpex : Fmt → Bool
  | .hf4 | .hf6 | .hf8m | .hf8r | .hu8 | .hf16 => true
  | _ => false
def fmtIsInt : Fmt → Bool
  | .int4 | .int8 | .int32 => true
  | _ => false

/-- Exponent bits, mantissa bits and bias of a Milpex format (R19). -/
structure MxFmt where
  eb : Nat
  mb : Nat
  bias : Nat
  signed : Bool
  deriving DecidableEq, Repr

def mxOf : Fmt → MxFmt
  | .hf4 => ⟨2, 1, 1, true⟩
  | .hf6 => ⟨3, 2, 3, true⟩
  | .hf8m => ⟨4, 3, 8, true⟩
  | .hf8r => ⟨5, 2, 16, true⟩
  | .hu8 => ⟨5, 3, 20, false⟩
  | _ => ⟨6, 9, 32, true⟩

/-- The single NaN code (R17, R19). -/
def mxNaN (f : MxFmt) : Nat := if f.signed then 1 <<< (f.eb + f.mb) else 2 ^ (f.eb + f.mb) - 1
/-- The code of the largest finite value. -/
def mxMax (f : MxFmt) : Nat := if f.signed then 2 ^ (f.eb + f.mb) - 1 else 2 ^ (f.eb + f.mb) - 2
def mxQmin (f : MxFmt) : Int := 1 - (f.bias : Int) - (f.mb : Int)

/-- decode (R18): the value of a code. -/
def mxVal (f : MxFmt) (c : Nat) : FVal :=
  if c = mxNaN f then .nan
  else
    let neg := f.signed && c.testBit (f.eb + f.mb)
    let e := (c >>> f.mb) % 2 ^ f.eb
    let m := c % 2 ^ f.mb
    if e = 0 then .fin neg m (mxQmin f)
    else .fin neg (m + 2 ^ f.mb) ((e : Int) - (f.bias : Int) - (f.mb : Int))

/-- The counts kept during conversion (R31). -/
structure Cnt where
  sat : Nat := 0
  flush : Nat := 0
  nonfin : Nat := 0
  deriving DecidableEq, Repr

def cntAdd (a b : Cnt) : Cnt := ⟨a.sat + b.sat, a.flush + b.flush, a.nonfin + b.nonfin⟩

/-- Magnitude code of m * 2^q on the unbounded grid: exponent fields go on rising past the largest. -/
def mxMag (f : MxFmt) (m : Nat) (q : Int) : Nat :=
  let (m, q) := if m = 2 ^ (f.mb + 1) then (2 ^ f.mb, q + 1) else (m, q)
  if m < 2 ^ f.mb then m
  else (((q - mxQmin f).toNat + 1) <<< f.mb) + (m - 2 ^ f.mb)

/-- Steps 3, 4 and 5 of R29 on a result that overflows: ±max, or the NaN under NAN_ON_OVF. -/
def mxOverflow (f : MxFmt) (novf : Bool) (neg : Bool) (infin : Bool) : Nat × Cnt :=
  if novf then (mxNaN f, ⟨1, 0, 1⟩)
  else (mxMax f + (if neg then 1 <<< (f.eb + f.mb) else 0), ⟨1, 0, if infin then 1 else 0⟩)

/-- The last part of step 5 of R29 for a rounded magnitude m * 2^q. -/
def mxFinish (f : MxFmt) (novf neg : Bool) (m : Nat) (q : Int) : Nat × Cnt :=
  let c := mxMag f m q
  if mxMax f < c then mxOverflow f novf neg false
  else if c = 0 then (0, ⟨0, 1, 0⟩)
  else (c + (if neg then 1 <<< (f.eb + f.mb) else 0), {})

/-- rne (x, fmt) of an exact value to a Milpex format with its counts: R29, R30, R31. -/
def mxRne (f : MxFmt) (novf : Bool) : FVal → Nat × Cnt
  | .nan => (mxNaN f, ⟨0, 0, 1⟩)
  | .inf n =>
    if n && !f.signed then
      (if novf then (mxNaN f, ⟨1, 0, 1⟩) else (0, ⟨1, 0, 1⟩))
    else mxOverflow f novf n true
  | .fin n m e =>
    if m = 0 then (0, {})
    else if n && !f.signed then
      (if novf then (mxNaN f, ⟨1, 0, 1⟩) else (0, ⟨1, 0, 0⟩))
    else
      let (r, q) := roundGrid (f.mb + 1) (mxQmin f) m 1 e
      mxFinish f novf n r q

/-- sr (x, fmt, u) of num / den * 2^e (R34): the upper neighbour when u < (x - lo) / (hi - lo), u in units of 2^-24. -/
def mxSrRatio (f : MxFmt) (novf neg : Bool) (num den : Nat) (e : Int) (u : Nat) : Nat × Cnt :=
  if num = 0 then (0, {})
  else if neg && !f.signed then
    (if novf then (mxNaN f, ⟨1, 0, 1⟩) else (0, ⟨1, 0, 0⟩))
  else
    let q := gridExp (f.mb + 1) (mxQmin f) num den e
    let (fl, r, d) := gridParts num den e q
    -- for x < 0 the magnitude's floor is hi, and x - lo = 1 - r / d unless x lies on the grid
    let away := if neg then !(r = 0) && !decide (u * d < 2 ^ 24 * (d - r)) else decide (u * d < 2 ^ 24 * r)
    mxFinish f novf neg (if away then fl + 1 else fl) q

/-- sr of an exact value. -/
def mxSr (f : MxFmt) (novf : Bool) (u : Nat) : FVal → Nat × Cnt
  | .fin n m e => mxSrRatio f novf n m 1 e u
  | v => mxRne f novf v

/-- Ends of the range of an integer format (R25). -/
def intLo : Fmt → Int
  | .int4 => -8 | .int8 => -128 | _ => -2147483648
def intHi : Fmt → Int
  | .int4 => 7 | .int8 => 127 | _ => 2147483647

/-- Saturation to the range of an integer format, with the saturation count (R26, R32). -/
def intSat (f : Fmt) (i : Int) : Int × Nat :=
  if i < intLo f then (intLo f, 1) else if intHi f < i then (intHi f, 1) else (i, 0)

/-- The nearest integer to (-1)^neg * m * 2^e, ties to even. -/
def nearestInt (neg : Bool) (m : Nat) (e : Int) : Int :=
  if m = 0 then 0 else
    let (f, r, d) := gridParts m 1 e 0
    let k : Int := (if d < 2 * r || (2 * r = d && f % 2 = 1) then f + 1 else f : Nat)
    if neg then -k else k

/-- The code of an integer in two's complement. -/
def intCode (f : Fmt) (i : Int) : Nat := (i % (2 ^ fmtBits f : Nat)).toNat
/-- The integer of a two's complement code. -/
def intOfCode (f : Fmt) (c : Nat) : Int :=
  if c.testBit (fmtBits f - 1) then (c : Int) - (2 ^ fmtBits f : Nat) else (c : Int)

/-- Conversion of a binary32 value to an integer format (R32). -/
def intRne (f : Fmt) : FVal → Nat × Cnt
  | .nan => (0, ⟨0, 0, 1⟩)
  | .inf n => (intCode f (if n then intLo f else intHi f), ⟨1, 0, 1⟩)
  | .fin n m e =>
    let (i, s) := intSat f (nearestInt n m e)
    (intCode f i, ⟨s, 0, 0⟩)

/-- The exact value that a stored code stands for (R18, R25, R27). -/
def fmtVal (f : Fmt) (c : Nat) : FVal :=
  match f with
  | .b32 => ieeeVal fmtB32 c
  | .b64 => ieeeVal fmtB64 c
  | .int4 | .int8 | .int32 =>
    let i := intOfCode f c
    .fin (decide (i < 0)) i.natAbs 0
  | f => mxVal (mxOf f) c

/-- widen: the binary32 value of a stored code (R33); exact but for INT32. -/
def widen (f : Fmt) (c : Nat) : W32 :=
  match f with
  | .b32 => BitVec.ofNat 32 c
  | f => f32r (fmtVal f c)

/-- Conversion of a binary32 or exact value to any storage format but binary64, with its counts (R29, R32). -/
def convV (f : Fmt) (novf : Bool) (v : FVal) : Nat × Cnt :=
  match f with
  | .b32 => (ieeeOf fmtB32 v, {})
  | .b64 => (ieeeOf fmtB64 v, {})
  | .int4 | .int8 | .int32 => intRne f v
  | f => mxRne (mxOf f) novf v

/-- The code that stands for NaN; 0 for an integer format (R42). -/
def fmtNaN (f : Fmt) : Nat :=
  match f with
  | .b32 => ieeeNaN fmtB32
  | .b64 => ieeeNaN fmtB64
  | .int4 | .int8 | .int32 => 0
  | f => mxNaN (mxOf f)

end Sys2Proof
end

