-- ==== Sys2Proof/Machine/Regs.lean ====
section
/-! DEFINITION. The registers of BAR0, as the register tables of 03 to 17 give them: name, offset, index strides and
counts, width, reset value and fields with their access codes (00_scope.md, "Register tables"). A bit in no field is
reserved (R8). Reset values that depend on the part record (PRESENT, IDLE) are composed at the read. -/

namespace Sys2Proof

/-- The access codes of R7. -/
inductive Acc where
  | rw | ro | wo | w1c | w1s | rc | rwi
  deriving DecidableEq, Repr

/-- A field [hi:lo] and its access code. -/
structure Fld where
  hi : Nat
  lo : Nat
  acc : Acc
  deriving DecidableEq, Repr

/-- A row of the register tables: the registers at base + s1 * i + s2 * j, i < n1, j < n2. -/
structure RegD where
  name : String
  base : Nat
  s1 : Nat
  n1 : Nat
  s2 : Nat
  n2 : Nat
  wid : Nat
  reset : Nat
  flds : List Fld
  deriving DecidableEq, Repr

/-- Rows of the register tables, part 0. -/
def regRows0 : List RegD := [
  ⟨"QTR_CTL", 0x1400000, 131072, 96, 0, 1, 32, 0x40, [⟨6, 4, .rw⟩, ⟨0, 0, .rwi⟩]⟩,
  ⟨"QTR_STATUS", 0x1400004, 131072, 96, 0, 1, 32, 0xc0000000, [⟨31, 31, .ro⟩, ⟨30, 30, .ro⟩, ⟨29, 24, .ro⟩, ⟨23, 0, .ro⟩]⟩,
  ⟨"QTR_WAIT_TO", 0x1400008, 131072, 96, 0, 1, 32, 0x3e8, [⟨15, 0, .rw⟩]⟩,
  ⟨"QTR_ERR", 0x140000c, 131072, 96, 0, 1, 32, 0x0, [⟨9, 9, .w1c⟩, ⟨8, 8, .w1c⟩, ⟨7, 7, .w1c⟩, ⟨6, 6, .w1c⟩, ⟨5, 5, .w1c⟩, ⟨4, 4, .w1c⟩, ⟨3, 3, .w1c⟩, ⟨2, 2, .w1c⟩, ⟨1, 1, .w1c⟩, ⟨0, 0, .w1c⟩]⟩,
  ⟨"QTR_ERR_REC", 0x1400010, 131072, 96, 0, 1, 64, 0x0, [⟨63, 63, .ro⟩, ⟨51, 48, .ro⟩, ⟨47, 40, .ro⟩, ⟨39, 0, .ro⟩]⟩,
  ⟨"MGT_RNG_SEED", 0x400, 0, 1, 0, 1, 64, 0x0, [⟨63, 0, .rwi⟩]⟩,
  ⟨"QTR_STRMs_CFG", 0x1400100, 131072, 96, 16, 14, 64, 0x0, [⟨31, 31, .rwi⟩, ⟨30, 30, .rwi⟩, ⟨29, 26, .rwi⟩, ⟨25, 22, .rw⟩, ⟨21, 0, .rwi⟩]⟩,
  ⟨"QTR_STRMs_PTR", 0x1400108, 131072, 96, 16, 14, 64, 0x0, [⟨48, 48, .rw⟩, ⟨47, 32, .rw⟩, ⟨31, 16, .ro⟩, ⟨15, 0, .rw⟩]⟩,
  ⟨"QTR_ENG_FAULT", 0x1400018, 131072, 96, 0, 1, 64, 0x0, [⟨63, 63, .w1c⟩, ⟨51, 48, .ro⟩, ⟨47, 40, .ro⟩, ⟨21, 0, .ro⟩]⟩,
  ⟨"QTR_CC_CTL", 0x1400020, 131072, 96, 0, 1, 64, 0x3, [⟨53, 32, .rwi⟩, ⟨1, 1, .rw⟩, ⟨0, 0, .rw⟩]⟩,
  ⟨"QTR_CC_IRQ", 0x1400028, 131072, 96, 0, 1, 32, 0x0, [⟨21, 16, .rw⟩, ⟨13, 8, .rw⟩, ⟨5, 0, .w1c⟩]⟩,
  ⟨"QTR_MTIME", 0x1400030, 131072, 96, 0, 1, 64, 0x0, [⟨63, 0, .ro⟩]⟩]

/-- Rows of the register tables, part 1. -/
def regRows1 : List RegD := [
  ⟨"QTR_MTIMECMP", 0x1400038, 131072, 96, 8, 2, 64, 0xffffffffffffffff, [⟨63, 0, .rw⟩]⟩,
  ⟨"QTR_MCn_GCTL", 0x1400300, 131072, 96, 32, 4, 32, 0x0, [⟨31, 20, .rw⟩, ⟨2, 2, .rw⟩, ⟨1, 1, .rw⟩, ⟨0, 0, .rw⟩]⟩,
  ⟨"QTR_MCn_ROWM0", 0x1400308, 131072, 96, 32, 4, 64, 0xffffffffffffffff, [⟨63, 0, .rw⟩]⟩,
  ⟨"QTR_MCn_ROWM1", 0x1400310, 131072, 96, 32, 4, 64, 0xffffffffffffffff, [⟨63, 0, .rw⟩]⟩,
  ⟨"QTR_MCn_BLKM", 0x1400318, 131072, 96, 32, 4, 64, 0xffffffffffffffff, [⟨63, 0, .rw⟩]⟩,
  ⟨"MGT_GFT_CTL", 0x800, 0, 1, 0, 1, 64, 0x8047130, [⟨63, 32, .ro⟩, ⟨27, 26, .rwi⟩, ⟨25, 24, .rwi⟩, ⟨23, 16, .rwi⟩, ⟨15, 12, .rwi⟩, ⟨11, 8, .rwi⟩, ⟨7, 4, .rwi⟩, ⟨2, 2, .ro⟩, ⟨1, 1, .wo⟩, ⟨0, 0, .rwi⟩]⟩,
  ⟨"MGT_GFT_THR", 0x808, 0, 1, 0, 1, 64, 0x40028f600400419, [⟨63, 48, .rwi⟩, ⟨47, 32, .rwi⟩, ⟨31, 16, .rwi⟩, ⟨15, 0, .rwi⟩]⟩,
  ⟨"MGT_GFTn_CNTA", 0x80000, 32, 4096, 0, 1, 64, 0x0, [⟨63, 32, .rw⟩, ⟨31, 0, .rw⟩]⟩,
  ⟨"MGT_GFTn_CNTB", 0x80008, 32, 4096, 0, 1, 64, 0x0, [⟨63, 32, .rw⟩, ⟨31, 0, .rw⟩]⟩,
  ⟨"MGT_GFTn_STATE", 0x80010, 32, 4096, 0, 1, 64, 0x52, [⟨63, 48, .rw⟩, ⟨47, 32, .rw⟩, ⟨31, 24, .rw⟩, ⟨23, 16, .rw⟩, ⟨7, 4, .ro⟩, ⟨1, 0, .rw⟩]⟩,
  ⟨"MGT_LW_CTL", 0x840, 0, 1, 0, 1, 64, 0x4040000000640600, [⟨63, 32, .rw⟩, ⟨31, 16, .rw⟩, ⟨11, 8, .rw⟩, ⟨1, 1, .wo⟩, ⟨0, 0, .rw⟩]⟩,
  ⟨"MGT_LW_LOSS", 0x848, 0, 1, 0, 1, 32, 0x0, [⟨31, 0, .wo⟩]⟩]

/-- Rows of the register tables, part 2. -/
def regRows2 : List RegD := [
  ⟨"MGT_LW_STATUS", 0x850, 0, 1, 0, 1, 64, 0x0, [⟨47, 32, .ro⟩, ⟨4, 4, .ro⟩, ⟨3, 3, .ro⟩, ⟨2, 2, .w1c⟩, ⟨1, 1, .w1c⟩, ⟨0, 0, .w1c⟩]⟩,
  ⟨"MGT_LW_STATE", 0x858, 0, 1, 0, 1, 64, 0x0, [⟨63, 32, .rw⟩, ⟨31, 0, .rw⟩]⟩,
  ⟨"MGT_LW_N", 0x860, 0, 1, 0, 1, 32, 0x0, [⟨31, 0, .rw⟩]⟩,
  ⟨"MGT_LW_RAISE", 0x868, 0, 1, 0, 1, 32, 0x0, [⟨0, 0, .wo⟩]⟩,
  ⟨"UPD_STATUS", 0x1000000, 524288, 8, 0, 1, 32, 0xc0000000, [⟨31, 31, .ro⟩, ⟨30, 30, .ro⟩, ⟨29, 28, .ro⟩, ⟨15, 0, .ro⟩]⟩,
  ⟨"UPD_ERR", 0x1000008, 524288, 8, 0, 1, 32, 0x0, [⟨5, 5, .w1c⟩, ⟨4, 4, .w1c⟩, ⟨3, 3, .w1c⟩, ⟨2, 2, .w1c⟩, ⟨1, 1, .w1c⟩, ⟨0, 0, .w1c⟩]⟩,
  ⟨"UPD_ERR_REC", 0x1000010, 524288, 8, 0, 1, 64, 0x0, [⟨63, 63, .ro⟩, ⟨59, 56, .ro⟩, ⟨55, 40, .ro⟩, ⟨39, 0, .ro⟩]⟩,
  ⟨"UPD_P1_SUMSQ", 0x1000018, 524288, 8, 0, 1, 64, 0x0, [⟨63, 0, .ro⟩]⟩,
  ⟨"UPD_P1_CLIP", 0x1000020, 524288, 8, 0, 1, 32, 0x3f800000, [⟨31, 0, .ro⟩]⟩,
  ⟨"UPD_SEQ_CTL", 0x1001000, 0, 1, 0, 1, 32, 0x3e8, [⟨15, 0, .rw⟩]⟩,
  ⟨"UPD_SEQ_STATUS", 0x1001008, 0, 1, 0, 1, 64, 0x0, [⟨63, 32, .rc⟩, ⟨17, 16, .ro⟩, ⟨15, 0, .ro⟩]⟩,
  ⟨"MEM_STATUS", 0x800000, 1048576, 8, 0, 1, 32, 0x80000000, [⟨31, 31, .ro⟩, ⟨30, 30, .ro⟩, ⟨29, 29, .ro⟩, ⟨28, 28, .ro⟩, ⟨15, 8, .ro⟩, ⟨7, 0, .rc⟩]⟩]

/-- Rows of the register tables, part 3. -/
def regRows3 : List RegD := [
  ⟨"MEM_CTL", 0x800008, 1048576, 8, 0, 1, 32, 0xc84000, [⟨31, 16, .rw⟩, ⟨15, 8, .rw⟩, ⟨0, 0, .rwi⟩]⟩,
  ⟨"MEM_RETIRE", 0x800010, 1048576, 8, 0, 1, 32, 0x0, [⟨31, 31, .rwi⟩, ⟨6, 0, .rwi⟩]⟩,
  ⟨"MEM_ERR", 0x800018, 1048576, 8, 0, 1, 32, 0x0, [⟨8, 8, .w1c⟩, ⟨7, 7, .w1c⟩, ⟨6, 6, .w1c⟩, ⟨5, 5, .w1c⟩, ⟨4, 4, .w1c⟩, ⟨3, 3, .w1c⟩, ⟨2, 2, .w1c⟩, ⟨1, 1, .w1c⟩, ⟨0, 0, .w1c⟩]⟩,
  ⟨"MEM_ERR_REC", 0x800020, 1048576, 8, 0, 1, 64, 0x0, [⟨63, 63, .ro⟩, ⟨51, 48, .ro⟩, ⟨46, 40, .ro⟩, ⟨39, 0, .ro⟩]⟩,
  ⟨"MEM_MAINT", 0x800100, 0, 1, 0, 1, 32, 0x3e80000, [⟨31, 16, .rwi⟩, ⟨2, 0, .ro⟩]⟩,
  ⟨"MEM_REGn", 0x810000, 8, 64, 0, 1, 64, 0x0, [⟨63, 63, .rwi⟩, ⟨62, 62, .rwi⟩, ⟨61, 61, .rwi⟩, ⟨60, 59, .rwi⟩, ⟨58, 58, .rwi⟩, ⟨57, 42, .rwi⟩, ⟨19, 10, .rwi⟩, ⟨9, 0, .rwi⟩]⟩,
  ⟨"MEM_CHc_STATUS", 0x840000, 1048576, 8, 2048, 128, 32, 0x0, [⟨31, 30, .ro⟩, ⟨21, 20, .ro⟩, ⟨5, 5, .ro⟩, ⟨4, 0, .ro⟩]⟩,
  ⟨"MEM_CHc_CE", 0x840008, 1048576, 8, 2048, 128, 64, 0x0, [⟨63, 32, .rc⟩, ⟨31, 0, .rc⟩]⟩,
  ⟨"MEM_CHc_LANES", 0x840010, 1048576, 8, 2048, 128, 32, 0x3ff, [⟨9, 5, .ro⟩, ⟨4, 0, .ro⟩]⟩,
  ⟨"MEM_CHc_TG_CTL", 0x840100, 1048576, 8, 2048, 128, 64, 0x0, [⟨63, 32, .rw⟩, ⟨31, 16, .rw⟩, ⟨15, 12, .rw⟩, ⟨9, 8, .rw⟩, ⟨1, 1, .wo⟩, ⟨0, 0, .ro⟩]⟩,
  ⟨"MEM_CHc_TG_RES", 0x840108, 1048576, 8, 2048, 128, 64, 0x0, [⟨63, 63, .ro⟩, ⟨51, 32, .ro⟩, ⟨31, 0, .ro⟩]⟩,
  ⟨"MEM_CHc_TG_FIRST", 0x840110, 1048576, 8, 2048, 128, 64, 0x0, [⟨29, 0, .ro⟩]⟩]

/-- Rows of the register tables, part 4. -/
def regRows4 : List RegD := [
  ⟨"SCC_MODE", 0x880000, 1048576, 8, 0, 1, 32, 0x40000002, [⟨31, 30, .ro⟩, ⟨2, 2, .rw⟩, ⟨1, 1, .rw⟩]⟩,
  ⟨"SCC_QUOTA", 0x880008, 1048576, 8, 0, 1, 32, 0x2228, [⟨15, 12, .rw⟩, ⟨11, 8, .rw⟩, ⟨7, 4, .rw⟩, ⟨3, 0, .rw⟩]⟩,
  ⟨"SCC_ATOMn", 0x890000, 16, 16, 0, 1, 64, 0x0, [⟨63, 63, .rwi⟩, ⟨62, 62, .ro⟩, ⟨53, 40, .rwi⟩, ⟨39, 11, .rwi⟩]⟩,
  ⟨"QTR_MAIL", 0x1400200, 131072, 96, 8, 8, 64, 0x0, [⟨63, 0, .ro⟩]⟩,
  ⟨"QTR_LDONE", 0x1400248, 131072, 96, 0, 1, 32, 0x0, [⟨7, 0, .wo⟩]⟩,
  ⟨"HST_Q_ERR", 0x100100, 0, 1, 0, 1, 32, 0x0, [⟨4, 4, .w1c⟩, ⟨3, 3, .w1c⟩, ⟨2, 2, .w1c⟩, ⟨1, 1, .w1c⟩, ⟨0, 0, .w1c⟩]⟩,
  ⟨"HST_SQn_BASE", 0x101000, 32, 64, 0, 1, 64, 0x0, [⟨63, 12, .rwi⟩]⟩,
  ⟨"HST_SQn_CFG", 0x101008, 32, 64, 0, 1, 32, 0x4, [⟨31, 31, .rw⟩, ⟨21, 16, .rwi⟩, ⟨4, 0, .rwi⟩]⟩,
  ⟨"HST_SQn_PTR", 0x101010, 32, 64, 0, 1, 32, 0x0, [⟨31, 16, .ro⟩, ⟨15, 0, .ro⟩]⟩,
  ⟨"HST_CQn_BASE", 0x102000, 32, 64, 0, 1, 64, 0x0, [⟨63, 12, .rwi⟩]⟩,
  ⟨"HST_CQn_CFG", 0x102008, 32, 64, 0, 1, 32, 0x4, [⟨31, 31, .rw⟩, ⟨23, 16, .rwi⟩, ⟨4, 0, .rwi⟩]⟩,
  ⟨"HST_CQn_PTR", 0x102010, 32, 64, 0, 1, 64, 0x100000000, [⟨32, 32, .ro⟩, ⟨31, 16, .ro⟩, ⟨15, 0, .ro⟩]⟩]

/-- Rows of the register tables, part 5. -/
def regRows5 : List RegD := [
  ⟨"CLK_BEAT_CTL", 0x180000, 0, 1, 0, 1, 32, 0x3e8, [⟨31, 31, .rwi⟩, ⟨30, 30, .wo⟩, ⟨29, 29, .ro⟩, ⟨13, 0, .rwi⟩]⟩,
  ⟨"CLK_BEAT_NUM", 0x180008, 0, 1, 0, 1, 64, 0x0, [⟨63, 0, .ro⟩]⟩,
  ⟨"CLK_TREE", 0x180010, 0, 1, 0, 1, 64, 0x0, [⟨55, 32, .rwi⟩, ⟨4, 0, .rwi⟩]⟩,
  ⟨"CLK_ALIGN", 0x180018, 0, 1, 0, 1, 64, 0x4e20, [⟨63, 32, .ro⟩, ⟨16, 0, .rwi⟩]⟩,
  ⟨"CLK_DERATE", 0x180020, 0, 1, 0, 1, 32, 0x0, [⟨5, 0, .rw⟩]⟩,
  ⟨"CLK_ERR", 0x180028, 0, 1, 0, 1, 32, 0x0, [⟨4, 4, .w1c⟩, ⟨3, 3, .w1c⟩, ⟨2, 2, .w1c⟩, ⟨1, 1, .w1c⟩, ⟨0, 0, .w1c⟩]⟩,
  ⟨"FAB_CTL", 0x200000, 0, 1, 0, 1, 64, 0x0, [⟨63, 32, .ro⟩, ⟨31, 16, .ro⟩, ⟨2, 2, .ro⟩, ⟨1, 1, .ro⟩]⟩,
  ⟨"FAB_ERR", 0x200008, 0, 1, 0, 1, 32, 0x0, [⟨12, 12, .w1c⟩, ⟨11, 11, .w1c⟩, ⟨10, 10, .w1c⟩, ⟨9, 9, .w1c⟩, ⟨8, 8, .w1c⟩, ⟨7, 7, .w1c⟩, ⟨6, 6, .w1c⟩, ⟨5, 5, .w1c⟩, ⟨4, 4, .w1c⟩, ⟨3, 3, .w1c⟩, ⟨2, 2, .w1c⟩, ⟨1, 1, .w1c⟩, ⟨0, 0, .w1c⟩]⟩,
  ⟨"FAB_ERR_REC", 0x200010, 0, 1, 0, 1, 64, 0x0, [⟨63, 63, .ro⟩, ⟨51, 48, .ro⟩, ⟨44, 40, .ro⟩, ⟨39, 0, .ro⟩]⟩,
  ⟨"FAB_RT_CTL", 0x200018, 0, 1, 0, 1, 64, 0x0, [⟨47, 32, .ro⟩, ⟨2, 2, .ro⟩, ⟨1, 1, .ro⟩, ⟨0, 0, .ro⟩]⟩,
  ⟨"FAB_PORTp", 0x200100, 8, 32, 0, 1, 32, 0x0, [⟨31, 31, .rwi⟩, ⟨30, 28, .rwi⟩, ⟨27, 27, .rwi⟩, ⟨23, 16, .ro⟩, ⟨15, 12, .ro⟩]⟩,
  ⟨"FAB_DISCp", 0x200200, 8, 32, 0, 1, 64, 0x0, [⟨63, 60, .ro⟩, ⟨52, 48, .ro⟩, ⟨47, 32, .ro⟩, ⟨31, 0, .ro⟩]⟩]

/-- Rows of the register tables, part 6. -/
def regRows6 : List RegD := [
  ⟨"FAB_RTb_e", 0x210000, 2048, 2, 8, 256, 64, 0x0, [⟨63, 63, .rw⟩, ⟨55, 32, .rw⟩, ⟨31, 16, .rw⟩, ⟨15, 0, .rw⟩]⟩,
  ⟨"FAB_CIRCn", 0x220000, 8, 1024, 0, 1, 64, 0x0, [⟨63, 63, .rwi⟩, ⟨62, 62, .rwi⟩, ⟨61, 57, .rwi⟩, ⟨56, 56, .rwi⟩, ⟨55, 32, .rwi⟩, ⟨31, 16, .rwi⟩, ⟨12, 0, .rwi⟩]⟩,
  ⟨"FAB_CALp_r", 0x230000, 128, 24, 8, 16, 64, 0x0, [⟨63, 48, .rwi⟩, ⟨47, 32, .rwi⟩, ⟨31, 16, .rwi⟩, ⟨15, 0, .rwi⟩]⟩,
  ⟨"OPT_STATUS", 0x400000, 0, 1, 0, 1, 32, 0x0, [⟨31, 31, .ro⟩, ⟨30, 30, .ro⟩, ⟨15, 8, .ro⟩, ⟨7, 0, .ro⟩]⟩,
  ⟨"OPT_CTL", 0x400008, 0, 1, 0, 1, 32, 0x141e1e, [⟨23, 16, .rw⟩, ⟨15, 8, .rw⟩, ⟨7, 0, .rw⟩]⟩,
  ⟨"OPT_ERR", 0x400010, 0, 1, 0, 1, 32, 0x0, [⟨11, 11, .w1c⟩, ⟨10, 10, .w1c⟩, ⟨9, 9, .w1c⟩, ⟨8, 8, .w1c⟩, ⟨7, 7, .w1c⟩, ⟨6, 6, .w1c⟩, ⟨5, 5, .w1c⟩, ⟨4, 4, .w1c⟩, ⟨3, 3, .w1c⟩, ⟨2, 2, .w1c⟩, ⟨1, 1, .w1c⟩, ⟨0, 0, .w1c⟩]⟩,
  ⟨"OPT_ERR_REC", 0x400018, 0, 1, 0, 1, 64, 0x0, [⟨63, 63, .ro⟩, ⟨51, 48, .ro⟩, ⟨44, 40, .ro⟩, ⟨34, 32, .ro⟩, ⟨6, 0, .ro⟩]⟩,
  ⟨"OPT_AV_CTL", 0x400100, 0, 1, 0, 1, 64, 0x138801000000, [⟨63, 63, .rwi⟩, ⟨51, 48, .rwi⟩, ⟨47, 32, .rwi⟩, ⟨31, 16, .rwi⟩]⟩,
  ⟨"OPT_AV_STATUS", 0x400108, 0, 1, 0, 1, 64, 0x0, [⟨63, 48, .ro⟩, ⟨47, 32, .ro⟩, ⟨31, 0, .ro⟩]⟩,
  ⟨"OPT_DMEMm", 0x400200, 8, 16, 0, 1, 32, 0x0, [⟨31, 31, .rwi⟩, ⟨15, 0, .rwi⟩]⟩,
  ⟨"OPT_DKEYm_w", 0x400400, 64, 16, 8, 8, 64, 0x0, [⟨63, 0, .rwi⟩]⟩,
  ⟨"OPT_STLMAPp", 0x401000, 8, 24, 0, 1, 32, 0xfdb97531, [⟨31, 0, .rwi⟩]⟩]

/-- Rows of the register tables, part 7. -/
def regRows7 : List RegD := [
  ⟨"OPT_LANEp_l", 0x402000, 64, 32, 8, 8, 64, 0x0, [⟨63, 60, .ro⟩, ⟨59, 56, .ro⟩, ⟨55, 48, .ro⟩, ⟨47, 40, .ro⟩, ⟨39, 32, .ro⟩, ⟨31, 28, .ro⟩, ⟨15, 0, .rc⟩]⟩,
  ⟨"OPT_RINGOKp", 0x403000, 8, 32, 0, 1, 32, 0x0, [⟨31, 16, .ro⟩, ⟨15, 0, .ro⟩]⟩,
  ⟨"OPT_LASERn", 0x404000, 8, 128, 0, 1, 32, 0x0, [⟨31, 29, .ro⟩, ⟨28, 28, .ro⟩, ⟨27, 27, .ro⟩, ⟨15, 8, .ro⟩, ⟨7, 0, .ro⟩]⟩,
  ⟨"PRJ_STATUS", 0x600000, 0, 1, 0, 1, 32, 0x80000000, [⟨31, 31, .ro⟩, ⟨30, 30, .ro⟩, ⟨29, 29, .ro⟩, ⟨28, 27, .ro⟩, ⟨26, 23, .ro⟩, ⟨18, 16, .ro⟩, ⟨6, 0, .ro⟩]⟩,
  ⟨"PRJ_CTL", 0x600008, 0, 1, 0, 1, 32, 0x2005, [⟨15, 8, .rw⟩, ⟨7, 0, .rw⟩]⟩,
  ⟨"PRJ_ERR", 0x600010, 0, 1, 0, 1, 32, 0x0, [⟨5, 5, .w1c⟩, ⟨4, 4, .w1c⟩, ⟨3, 3, .w1c⟩, ⟨2, 2, .w1c⟩, ⟨1, 1, .w1c⟩, ⟨0, 0, .w1c⟩]⟩,
  ⟨"PRJ_ERR_REC", 0x600018, 0, 1, 0, 1, 64, 0x0, [⟨63, 63, .ro⟩, ⟨51, 48, .ro⟩, ⟨41, 40, .ro⟩, ⟨39, 0, .ro⟩]⟩,
  ⟨"PRJ_TRACK", 0x600020, 0, 1, 0, 1, 32, 0x0, [⟨15, 0, .ro⟩]⟩,
  ⟨"PRJ_SLOTs", 0x600100, 8, 4, 0, 1, 64, 0x0, [⟨63, 63, .ro⟩, ⟨57, 56, .ro⟩, ⟨53, 48, .ro⟩, ⟨31, 0, .ro⟩]⟩,
  ⟨"HST_DEV_STATUS", 0x100000, 0, 1, 0, 1, 32, 0x0, [⟨31, 31, .ro⟩]⟩,
  ⟨"HST_LINK", 0x100008, 0, 1, 0, 1, 32, 0x0, [⟨20, 16, .ro⟩, ⟨15, 12, .ro⟩, ⟨8, 8, .ro⟩, ⟨0, 0, .ro⟩]⟩,
  ⟨"HST_BAR4_CTL", 0x100010, 0, 1, 0, 1, 64, 0x24, [⟨39, 30, .rw⟩, ⟨5, 0, .ro⟩]⟩]

/-- Rows of the register tables, part 8. -/
def regRows8 : List RegD := [
  ⟨"HST_PORT_ERR", 0x100020, 0, 1, 0, 1, 32, 0x0, [⟨5, 5, .w1c⟩, ⟨4, 4, .w1c⟩, ⟨3, 3, .w1c⟩, ⟨2, 2, .w1c⟩, ⟨1, 1, .w1c⟩, ⟨0, 0, .w1c⟩]⟩,
  ⟨"HST_PORT_ERR_REC", 0x100028, 0, 1, 0, 1, 64, 0x0, [⟨63, 63, .ro⟩, ⟨51, 48, .ro⟩, ⟨39, 0, .ro⟩]⟩,
  ⟨"HST_BME_DROPS", 0x100030, 0, 1, 0, 1, 64, 0x0, [⟨63, 32, .ro⟩, ⟨31, 0, .ro⟩]⟩,
  ⟨"HST_IRQ_SRCe", 0x100400, 8, 12, 0, 1, 32, 0x0, [⟨31, 31, .rw⟩, ⟨7, 0, .rw⟩]⟩,
  ⟨"MGT_BOOT_STATUS", 0x0, 0, 1, 0, 1, 64, 0x0, [⟨47, 40, .ro⟩, ⟨35, 32, .ro⟩, ⟨31, 8, .ro⟩, ⟨7, 7, .ro⟩, ⟨3, 0, .ro⟩]⟩,
  ⟨"MGT_ERR", 0x8, 0, 1, 0, 1, 32, 0x0, [⟨6, 6, .w1c⟩, ⟨5, 5, .w1c⟩, ⟨4, 4, .w1c⟩, ⟨3, 3, .w1c⟩, ⟨2, 2, .w1c⟩, ⟨1, 1, .w1c⟩, ⟨0, 0, .w1c⟩]⟩,
  ⟨"MGT_ERR_REC", 0x10, 0, 1, 0, 1, 64, 0x0, [⟨63, 63, .ro⟩, ⟨51, 48, .ro⟩, ⟨44, 40, .ro⟩, ⟨39, 36, .ro⟩, ⟨35, 35, .ro⟩, ⟨34, 0, .ro⟩]⟩,
  ⟨"MGT_PART_SELFTEST", 0x20, 8, 2, 0, 1, 64, 0x0, [⟨63, 0, .ro⟩]⟩,
  ⟨"MGT_IMGt", 0x108, 8, 5, 0, 1, 64, 0x0, [⟨40, 40, .ro⟩, ⟨39, 24, .ro⟩, ⟨23, 0, .ro⟩]⟩,
  ⟨"MGT_IDENT", 0x200, 0, 1, 0, 1, 64, 0x0, [⟨7, 6, .ro⟩, ⟨5, 0, .ro⟩]⟩,
  ⟨"MGT_IDKEYw", 0x240, 8, 8, 0, 1, 64, 0x0, [⟨63, 0, .ro⟩]⟩,
  ⟨"MGT_DOMAIN_STATUS", 0x300, 0, 1, 0, 1, 32, 0x1ffffff, [⟨24, 0, .ro⟩]⟩]

/-- Rows of the register tables, part 9. -/
def regRows9 : List RegD := [
  ⟨"FAB_E2E_TO", 0x200020, 0, 1, 0, 1, 64, 0x190000003e8, [⟨47, 32, .ro⟩, ⟨15, 0, .rw⟩]⟩,
  ⟨"FAB_E2E_STATUS", 0x200028, 0, 1, 0, 1, 64, 0x0, [⟨63, 32, .rc⟩, ⟨31, 0, .rc⟩]⟩,
  ⟨"MGT_STOP_STATUS", 0x500, 0, 1, 0, 1, 64, 0x0, [⟨63, 48, .ro⟩, ⟨47, 40, .ro⟩, ⟨39, 8, .ro⟩, ⟨4, 4, .ro⟩, ⟨3, 3, .ro⟩, ⟨2, 2, .ro⟩, ⟨1, 1, .ro⟩, ⟨0, 0, .ro⟩]⟩,
  ⟨"MGT_STOP_CTL", 0x508, 0, 1, 0, 1, 32, 0x0, [⟨1, 1, .wo⟩, ⟨0, 0, .wo⟩]⟩,
  ⟨"MGT_FAULT_SUM", 0x510, 0, 1, 0, 1, 32, 0x0, [⟨8, 0, .ro⟩]⟩,
  ⟨"MGT_PMC_USER_EN", 0x600, 0, 1, 0, 1, 32, 0x0, [⟨0, 0, .rw⟩]⟩,
  ⟨"MGT_PMC_CTL", 0x608, 0, 1, 0, 1, 32, 0x10, [⟨5, 5, .wo⟩, ⟨4, 2, .rw⟩, ⟨0, 0, .rw⟩]⟩,
  ⟨"MGT_PMC_OVF", 0x610, 0, 1, 0, 1, 64, 0x0, [⟨63, 0, .w1c⟩]⟩,
  ⟨"MGT_PMC_SELj", 0x700, 4, 64, 0, 1, 32, 0x0, [⟨10, 0, .rw⟩]⟩,
  ⟨"MGT_PMC_H1Wj", 0xe00, 4, 64, 0, 1, 32, 0x0, [⟨31, 0, .rw⟩]⟩,
  ⟨"PMC_CNTn", 0x3f00000, 8, 1417, 0, 1, 64, 0x0, [⟨63, 48, .ro⟩, ⟨47, 0, .ro⟩]⟩,
  ⟨"PMC_H1_j", 0x3f80000, 4, 64, 0, 1, 32, 0x0, [⟨31, 0, .ro⟩]⟩]

/-- Rows of the register tables, part 10. -/
def regRows10 : List RegD := [
  ⟨"MGT_PWR_CTL", 0xa00, 0, 1, 0, 1, 32, 0x8bb86400, [⟨31, 31, .rw⟩, ⟨27, 16, .rw⟩, ⟨15, 8, .rw⟩]⟩,
  ⟨"MGT_PWR_STATUS", 0xa08, 0, 1, 0, 1, 64, 0x0, [⟨63, 48, .ro⟩, ⟨47, 40, .ro⟩, ⟨39, 32, .ro⟩, ⟨28, 24, .ro⟩, ⟨20, 16, .ro⟩, ⟨15, 8, .ro⟩, ⟨2, 2, .ro⟩, ⟨1, 1, .ro⟩, ⟨0, 0, .ro⟩]⟩]

/-- All the registers of the spec. -/
def regTable : List RegD := regRows0 ++ regRows1 ++ regRows2 ++ regRows3 ++ regRows4 ++ regRows5 ++ regRows6 ++ regRows7 ++ regRows8 ++ regRows9 ++ regRows10

/-- Whether a row holds the register at a BAR0 offset, and its indices. -/
def regRowAt (d : RegD) (off : Nat) : Option (Nat × Nat) :=
  if off < d.base then none
  else
    let r := off - d.base
    let i := if d.n1 = 1 then 0 else r / d.s1
    let r1 := if d.n1 = 1 then r else r % d.s1
    let j := if d.n2 = 1 then 0 else r1 / d.s2
    let r2 := if d.n2 = 1 then r1 else r1 % d.s2
    if i < d.n1 ∧ j < d.n2 ∧ r2 = 0 then some (i, j) else none

/-- The row, and the indices, of the register at a BAR0 offset. -/
def regFind (off : Nat) : List RegD → Option (RegD × Nat × Nat)
  | [] => none
  | d :: t =>
    match regRowAt d off with
    | some (i, j) => some (d, i, j)
    | none => regFind off t

/-- The registers whose reset value is not 0; the others reset to 0 (R11). -/
def regResets : List RegD := regTable.filter fun d => d.reset != 0

/-- The reset value of the register at an offset (R11), 0 where there is none. -/
def regReset (off : Nat) : W64 :=
  match regFind off regResets with
  | some (d, _, _) => BitVec.ofNat 64 d.reset
  | none => 0#64

/-- BAR0 offset of QTR_CTL (03, after R76). -/
def aQtrCtl (i : Nat) : Nat := 0x1400000 + 0x20000 * i
/-- BAR0 offset of QTR_STATUS (03, after R76). -/
def aQtrStatus (i : Nat) : Nat := 0x1400004 + 0x20000 * i
/-- BAR0 offset of QTR_WAIT_TO (03, after R76). -/
def aQtrWaitTo (i : Nat) : Nat := 0x1400008 + 0x20000 * i
/-- BAR0 offset of QTR_ERR (03, after R76). -/
def aQtrErr (i : Nat) : Nat := 0x140000c + 0x20000 * i
/-- BAR0 offset of QTR_ERR_REC (03, after R76). -/
def aQtrErrRec (i : Nat) : Nat := 0x1400010 + 0x20000 * i
/-- BAR0 offset of MGT_RNG_SEED (04, after R101). -/
def aMgtRngSeed : Nat := 0x400
/-- BAR0 offset of QTR_STRMs_CFG (05, after R107). -/
def aQtrStrmCfg (i : Nat) (j : Nat) : Nat := 0x1400100 + 0x20000 * i + 0x10 * j
/-- BAR0 offset of QTR_STRMs_PTR (05, after R107). -/
def aQtrStrmPtr (i : Nat) (j : Nat) : Nat := 0x1400108 + 0x20000 * i + 0x10 * j
/-- BAR0 offset of QTR_ENG_FAULT (05, after R144). -/
def aQtrEngFault (i : Nat) : Nat := 0x1400018 + 0x20000 * i
/-- BAR0 offset of QTR_CC_CTL (05, after R146). -/
def aQtrCcCtl (i : Nat) : Nat := 0x1400020 + 0x20000 * i
/-- BAR0 offset of QTR_CC_IRQ (05, after R147). -/
def aQtrCcIrq (i : Nat) : Nat := 0x1400028 + 0x20000 * i
/-- BAR0 offset of QTR_MTIME (05, after R147). -/
def aQtrMtime (i : Nat) : Nat := 0x1400030 + 0x20000 * i
/-- BAR0 offset of QTR_MTIMECMP0 and QTR_MTIMECMP1 (05, after R147). -/
def aQtrMtimecmp (i : Nat) (j : Nat) : Nat := 0x1400038 + 0x20000 * i + 0x8 * j
/-- BAR0 offset of QTR_MCn_GCTL (06, after R154). -/
def aQtrMcGctl (i : Nat) (j : Nat) : Nat := 0x1400300 + 0x20000 * i + 0x20 * j
/-- BAR0 offset of QTR_MCn_ROWM0 (06, after R154). -/
def aQtrMcRowm0 (i : Nat) (j : Nat) : Nat := 0x1400308 + 0x20000 * i + 0x20 * j
/-- BAR0 offset of QTR_MCn_ROWM1 (06, after R154). -/
def aQtrMcRowm1 (i : Nat) (j : Nat) : Nat := 0x1400310 + 0x20000 * i + 0x20 * j
/-- BAR0 offset of QTR_MCn_BLKM (06, after R154). -/
def aQtrMcBlkm (i : Nat) (j : Nat) : Nat := 0x1400318 + 0x20000 * i + 0x20 * j
/-- BAR0 offset of MGT_GFT_CTL (06, after R162). -/
def aMgtGftCtl : Nat := 0x800
/-- BAR0 offset of MGT_GFT_THR (06, after R162). -/
def aMgtGftThr : Nat := 0x808
/-- BAR0 offset of MGT_GFTn_CNTA (06, after R162). -/
def aMgtGftCnta (i : Nat) : Nat := 0x80000 + 0x20 * i
/-- BAR0 offset of MGT_GFTn_CNTB (06, after R162). -/
def aMgtGftCntb (i : Nat) : Nat := 0x80008 + 0x20 * i
/-- BAR0 offset of MGT_GFTn_STATE (06, after R162). -/
def aMgtGftState (i : Nat) : Nat := 0x80010 + 0x20 * i
/-- BAR0 offset of MGT_LW_CTL (06, after R165). -/
def aMgtLwCtl : Nat := 0x840
/-- BAR0 offset of MGT_LW_LOSS (06, after R165). -/
def aMgtLwLoss : Nat := 0x848
/-- BAR0 offset of MGT_LW_STATUS (06, after R165). -/
def aMgtLwStatus : Nat := 0x850
/-- BAR0 offset of MGT_LW_STATE (06, after R165). -/
def aMgtLwState : Nat := 0x858
/-- BAR0 offset of MGT_LW_N (06, after R165). -/
def aMgtLwN : Nat := 0x860
/-- BAR0 offset of MGT_LW_RAISE (06, after R165). -/
def aMgtLwRaise : Nat := 0x868
/-- BAR0 offset of UPD_STATUS (07, after R188). -/
def aUpdStatus (i : Nat) : Nat := 0x1000000 + 0x80000 * i
/-- BAR0 offset of UPD_ERR (07, after R188). -/
def aUpdErr (i : Nat) : Nat := 0x1000008 + 0x80000 * i
/-- BAR0 offset of UPD_ERR_REC (07, after R188). -/
def aUpdErrRec (i : Nat) : Nat := 0x1000010 + 0x80000 * i
/-- BAR0 offset of UPD_P1_SUMSQ (07, after R189). -/
def aUpdP1Sumsq (i : Nat) : Nat := 0x1000018 + 0x80000 * i
/-- BAR0 offset of UPD_P1_CLIP (07, after R189). -/
def aUpdP1Clip (i : Nat) : Nat := 0x1000020 + 0x80000 * i
/-- BAR0 offset of UPD_SEQ_CTL (07, after R189). -/
def aUpdSeqCtl : Nat := 0x1001000
/-- BAR0 offset of UPD_SEQ_STATUS (07, after R189). -/
def aUpdSeqStatus : Nat := 0x1001008
/-- BAR0 offset of MEM_STATUS (08, after R214). -/
def aMemStatus (i : Nat) : Nat := 0x800000 + 0x100000 * i
/-- BAR0 offset of MEM_CTL (08, after R214). -/
def aMemCtl (i : Nat) : Nat := 0x800008 + 0x100000 * i
/-- BAR0 offset of MEM_RETIRE (08, after R214). -/
def aMemRetire (i : Nat) : Nat := 0x800010 + 0x100000 * i
/-- BAR0 offset of MEM_ERR (08, after R214). -/
def aMemErr (i : Nat) : Nat := 0x800018 + 0x100000 * i
/-- BAR0 offset of MEM_ERR_REC (08, after R214). -/
def aMemErrRec (i : Nat) : Nat := 0x800020 + 0x100000 * i
/-- BAR0 offset of MEM_MAINT (08, after R215). -/
def aMemMaint : Nat := 0x800100
/-- BAR0 offset of MEM_REGn (08, after R215). -/
def aMemReg (i : Nat) : Nat := 0x810000 + 0x8 * i
/-- BAR0 offset of MEM_CHc_STATUS (08, after R215). -/
def aMemChStatus (i : Nat) (j : Nat) : Nat := 0x840000 + 0x100000 * i + 0x800 * j
/-- BAR0 offset of MEM_CHc_CE (08, after R215). -/
def aMemChCe (i : Nat) (j : Nat) : Nat := 0x840008 + 0x100000 * i + 0x800 * j
/-- BAR0 offset of MEM_CHc_LANES (08, after R215). -/
def aMemChLanes (i : Nat) (j : Nat) : Nat := 0x840010 + 0x100000 * i + 0x800 * j
/-- BAR0 offset of MEM_CHc_TG_CTL (08, after R215). -/
def aMemChTgCtl (i : Nat) (j : Nat) : Nat := 0x840100 + 0x100000 * i + 0x800 * j
/-- BAR0 offset of MEM_CHc_TG_RES (08, after R215). -/
def aMemChTgRes (i : Nat) (j : Nat) : Nat := 0x840108 + 0x100000 * i + 0x800 * j
/-- BAR0 offset of MEM_CHc_TG_FIRST (08, after R215). -/
def aMemChTgFirst (i : Nat) (j : Nat) : Nat := 0x840110 + 0x100000 * i + 0x800 * j
/-- BAR0 offset of SCC_MODE (08, after R215). -/
def aSccMode (i : Nat) : Nat := 0x880000 + 0x100000 * i
/-- BAR0 offset of SCC_QUOTA (08, after R215). -/
def aSccQuota (i : Nat) : Nat := 0x880008 + 0x100000 * i
/-- BAR0 offset of SCC_ATOMn (08, after R215). -/
def aSccAtom (i : Nat) : Nat := 0x890000 + 0x10 * i
/-- BAR0 offset of QTR_MAIL0-QTR_MAIL7 (09, after R228). -/
def aQtrMail (i : Nat) (j : Nat) : Nat := 0x1400200 + 0x20000 * i + 0x8 * j
/-- BAR0 offset of QTR_LDONE (09, after R229). -/
def aQtrLdone (i : Nat) : Nat := 0x1400248 + 0x20000 * i
/-- BAR0 offset of HST_Q_ERR (09, after R256). -/
def aHstQErr : Nat := 0x100100
/-- BAR0 offset of HST_SQn_BASE (09, after R256). -/
def aHstSqBase (i : Nat) : Nat := 0x101000 + 0x20 * i
/-- BAR0 offset of HST_SQn_CFG (09, after R256). -/
def aHstSqCfg (i : Nat) : Nat := 0x101008 + 0x20 * i
/-- BAR0 offset of HST_SQn_PTR (09, after R256). -/
def aHstSqPtr (i : Nat) : Nat := 0x101010 + 0x20 * i
/-- BAR0 offset of HST_CQn_BASE (09, after R256). -/
def aHstCqBase (i : Nat) : Nat := 0x102000 + 0x20 * i
/-- BAR0 offset of HST_CQn_CFG (09, after R256). -/
def aHstCqCfg (i : Nat) : Nat := 0x102008 + 0x20 * i
/-- BAR0 offset of HST_CQn_PTR (09, after R256). -/
def aHstCqPtr (i : Nat) : Nat := 0x102010 + 0x20 * i
/-- BAR0 offset of CLK_BEAT_CTL (09, after R256). -/
def aClkBeatCtl : Nat := 0x180000
/-- BAR0 offset of CLK_BEAT_NUM (09, after R256). -/
def aClkBeatNum : Nat := 0x180008
/-- BAR0 offset of CLK_TREE (09, after R256). -/
def aClkTree : Nat := 0x180010
/-- BAR0 offset of CLK_ALIGN (09, after R256). -/
def aClkAlign : Nat := 0x180018
/-- BAR0 offset of CLK_DERATE (09, after R256). -/
def aClkDerate : Nat := 0x180020
/-- BAR0 offset of CLK_ERR (09, after R256). -/
def aClkErr : Nat := 0x180028
/-- BAR0 offset of FAB_CTL (10, after R297). -/
def aFabCtl : Nat := 0x200000
/-- BAR0 offset of FAB_ERR (10, after R297). -/
def aFabErr : Nat := 0x200008
/-- BAR0 offset of FAB_ERR_REC (10, after R297). -/
def aFabErrRec : Nat := 0x200010
/-- BAR0 offset of FAB_RT_CTL (10, after R298). -/
def aFabRtCtl : Nat := 0x200018
/-- BAR0 offset of FAB_PORTp (10, after R298). -/
def aFabPort (i : Nat) : Nat := 0x200100 + 0x8 * i
/-- BAR0 offset of FAB_DISCp (10, after R298). -/
def aFabDisc (i : Nat) : Nat := 0x200200 + 0x8 * i
/-- BAR0 offset of FAB_RTb_e (10, after R298). -/
def aFabRte (i : Nat) (j : Nat) : Nat := 0x210000 + 0x800 * i + 0x8 * j
/-- BAR0 offset of FAB_CIRCn (10, after R298). -/
def aFabCirc (i : Nat) : Nat := 0x220000 + 0x8 * i
/-- BAR0 offset of FAB_CALp_r (10, after R298). -/
def aFabCalr (i : Nat) (j : Nat) : Nat := 0x230000 + 0x80 * i + 0x8 * j
/-- BAR0 offset of OPT_STATUS (11, after R320). -/
def aOptStatus : Nat := 0x400000
/-- BAR0 offset of OPT_CTL (11, after R320). -/
def aOptCtl : Nat := 0x400008
/-- BAR0 offset of OPT_ERR (11, after R320). -/
def aOptErr : Nat := 0x400010
/-- BAR0 offset of OPT_ERR_REC (11, after R320). -/
def aOptErrRec : Nat := 0x400018
/-- BAR0 offset of OPT_AV_CTL (11, after R321). -/
def aOptAvCtl : Nat := 0x400100
/-- BAR0 offset of OPT_AV_STATUS (11, after R321). -/
def aOptAvStatus : Nat := 0x400108
/-- BAR0 offset of OPT_DMEMm (11, after R321). -/
def aOptDmem (i : Nat) : Nat := 0x400200 + 0x8 * i
/-- BAR0 offset of OPT_DKEYm_w (11, after R321). -/
def aOptDkeyw (i : Nat) (j : Nat) : Nat := 0x400400 + 0x40 * i + 0x8 * j
/-- BAR0 offset of OPT_STLMAPp (11, after R321). -/
def aOptStlmap (i : Nat) : Nat := 0x401000 + 0x8 * i
/-- BAR0 offset of OPT_LANEp_l (11, after R321). -/
def aOptLanel (i : Nat) (j : Nat) : Nat := 0x402000 + 0x40 * i + 0x8 * j
/-- BAR0 offset of OPT_RINGOKp (11, after R321). -/
def aOptRingok (i : Nat) : Nat := 0x403000 + 0x8 * i
/-- BAR0 offset of OPT_LASERn (11, after R321). -/
def aOptLaser (i : Nat) : Nat := 0x404000 + 0x8 * i
/-- BAR0 offset of PRJ_STATUS (12, after R335). -/
def aPrjStatus : Nat := 0x600000
/-- BAR0 offset of PRJ_CTL (12, after R335). -/
def aPrjCtl : Nat := 0x600008
/-- BAR0 offset of PRJ_ERR (12, after R335). -/
def aPrjErr : Nat := 0x600010
/-- BAR0 offset of PRJ_ERR_REC (12, after R335). -/
def aPrjErrRec : Nat := 0x600018
/-- BAR0 offset of PRJ_TRACK (12, after R336). -/
def aPrjTrack : Nat := 0x600020
/-- BAR0 offset of PRJ_SLOTs (12, after R336). -/
def aPrjSlot (i : Nat) : Nat := 0x600100 + 0x8 * i
/-- BAR0 offset of HST_DEV_STATUS (13, after R355). -/
def aHstDevStatus : Nat := 0x100000
/-- BAR0 offset of HST_LINK (13, after R355). -/
def aHstLink : Nat := 0x100008
/-- BAR0 offset of HST_BAR4_CTL (13, after R355). -/
def aHstBar4Ctl : Nat := 0x100010
/-- BAR0 offset of HST_PORT_ERR (13, after R355). -/
def aHstPortErr : Nat := 0x100020
/-- BAR0 offset of HST_PORT_ERR_REC (13, after R355). -/
def aHstPortErrRec : Nat := 0x100028
/-- BAR0 offset of HST_BME_DROPS (13, after R356). -/
def aHstBmeDrops : Nat := 0x100030
/-- BAR0 offset of HST_IRQ_SRCe (13, after R356). -/
def aHstIrqSrc (i : Nat) : Nat := 0x100400 + 0x8 * i
/-- BAR0 offset of MGT_BOOT_STATUS (14, after R373). -/
def aMgtBootStatus : Nat := 0x0
/-- BAR0 offset of MGT_ERR (14, after R373). -/
def aMgtErr : Nat := 0x8
/-- BAR0 offset of MGT_ERR_REC (14, after R373). -/
def aMgtErrRec : Nat := 0x10
/-- BAR0 offset of MGT_PART_SELFTEST (14, after R374). -/
def aMgtPartSelftest (i : Nat) : Nat := 0x20 + 0x8 * i
/-- BAR0 offset of MGT_IMGt (14, after R374). -/
def aMgtImg (i : Nat) : Nat := 0x100 + 0x8 * i
/-- BAR0 offset of MGT_IDENT (14, after R374). -/
def aMgtIdent : Nat := 0x200
/-- BAR0 offset of MGT_IDKEYw (14, after R374). -/
def aMgtIdkey (i : Nat) : Nat := 0x240 + 0x8 * i
/-- BAR0 offset of MGT_DOMAIN_STATUS (14, after R374). -/
def aMgtDomainStatus : Nat := 0x300
/-- BAR0 offset of FAB_E2E_TO (15, after R396). -/
def aFabE2eTo : Nat := 0x200020
/-- BAR0 offset of FAB_E2E_STATUS (15, after R396). -/
def aFabE2eStatus : Nat := 0x200028
/-- BAR0 offset of MGT_STOP_STATUS (15, after R396). -/
def aMgtStopStatus : Nat := 0x500
/-- BAR0 offset of MGT_STOP_CTL (15, after R396). -/
def aMgtStopCtl : Nat := 0x508
/-- BAR0 offset of MGT_FAULT_SUM (15, after R396). -/
def aMgtFaultSum : Nat := 0x510
/-- BAR0 offset of MGT_PMC_USER_EN (16, after R405). -/
def aMgtPmcUserEn : Nat := 0x600
/-- BAR0 offset of MGT_PMC_CTL (16, after R405). -/
def aMgtPmcCtl : Nat := 0x608
/-- BAR0 offset of MGT_PMC_OVF (16, after R405). -/
def aMgtPmcOvf : Nat := 0x610
/-- BAR0 offset of MGT_PMC_SELj (16, after R405). -/
def aMgtPmcSel (i : Nat) : Nat := 0x700 + 0x4 * i
/-- BAR0 offset of MGT_PMC_H1Wj (16, after R405). -/
def aMgtPmcH1w (i : Nat) : Nat := 0xe00 + 0x4 * i
/-- BAR0 offset of PMC_CNTn (16, after R405). -/
def aPmcCnt (i : Nat) : Nat := 0x3f00000 + 0x8 * i
/-- BAR0 offset of PMC_H1_j (16, after R405). -/
def aPmcH1j (i : Nat) : Nat := 0x3f80000 + 0x4 * i
/-- BAR0 offset of MGT_PWR_CTL (17, after R420). -/
def aMgtPwrCtl : Nat := 0xa00
/-- BAR0 offset of MGT_PWR_STATUS (17, after R420). -/
def aMgtPwrStatus : Nat := 0xa08

end Sys2Proof
end

