-- ==== Sys2Proof/Machine/SMap.lean ====
section
/-! DEFINITION. The sparse arrays of State: reading an index, writing one, and the canonical form (strictly rising
indices, no pair that holds the default), which every write keeps (Sys2Proof/Laws/SMap.lean). -/

namespace Sys2Proof

variable {α : Type}

/-- What index i holds: the listed value, or the default d. -/
def smGet (d : α) : SMap α → Nat → α
  | [], _ => d
  | (k, v) :: t, i => if k = i then v else smGet d t i

/-- The array without index i. -/
def smErase : SMap α → Nat → SMap α
  | [], _ => []
  | (k, v) :: t, i => if k = i then smErase t i else (k, v) :: smErase t i

/-- The array with v listed at index i, in its place. -/
def smInsert : SMap α → Nat → α → SMap α
  | [], i, v => [(i, v)]
  | (k, w) :: t, i, v =>
    if i < k then (i, v) :: (k, w) :: t
    else if i = k then (i, v) :: t
    else (k, w) :: smInsert t i v

/-- The array with index i holding v; writing the default removes the pair. -/
def smSet [DecidableEq α] (d : α) (m : SMap α) (i : Nat) (v : α) : SMap α :=
  if v = d then smErase m i else smInsert m i v

/-- The array with index i holding f of what it held. -/
def smMod [DecidableEq α] (d : α) (m : SMap α) (i : Nat) (f : α → α) : SMap α :=
  smSet d m i (f (smGet d m i))

/-- Every pair of `l` written in order. -/
def smSetMany [DecidableEq α] (d : α) (m : SMap α) : List (Nat × α) → SMap α
  | [] => m
  | (i, v) :: t => smSetMany d (smSet d m i v) t

/-- All indices from i on, n of them, hold the default. -/
def smClear (m : SMap α) (i n : Nat) : SMap α := m.filter fun p => p.1 < i || i + n ≤ p.1

/-- The canonical form, with a default that may depend on the index. -/
def smWf [DecidableEq α] (d : Nat → α) : SMap α → Bool
  | [] => true
  | [(k, v)] => decide (v ≠ d k)
  | (k, v) :: (k', v') :: t => decide (v ≠ d k) && decide (k < k') && smWf d ((k', v') :: t)

end Sys2Proof
end

