-- ==== Sys2Proof/Machine/State.lean ====
section
/-! DEFINITION. State: every register, memory, buffer, queue, counter, mode and pin that the spec gives the H2, as
plain data, with the queue of waiting commands; the reasons a step can stop; and the state after reset. -/

namespace Sys2Proof.Machine

/-- Why a step stops with a fault. -/
inductive Fault where
  /-- Raised by a command whose operands are no command of the block (WellFormed refuses it: a frame, a plan or a
  descriptor of the wrong length). Safe: the hardware cannot receive such a command. -/
  | illFormed
  deriving DecidableEq, Repr

/-- Why a command is refused. -/
inductive Refusal where
  /-- Raised by an arm of exec that has no meaning yet. Safe: nothing is claimed of it. -/
  | notModelled (mnemonic : String)
  deriving DecidableEq, Repr

/-! ### Quarters (03, 04, 05) -/

/-- The states of an accumulator bank (R55). -/
inductive BankSt where
  | empty | filling | held | full | draining
  deriving DecidableEq, Repr

/-- An accumulator bank: its state, format, elements (row * 128 + column), poison marks, counts (R55, R58, R422) and
the mask registers attached to it (R155). -/
structure Bank where
  st : BankSt
  int : Bool
  elems : SMap W32
  psn : SMap Bool
  sat : Nat
  metaF : Nat
  gctl : W64
  rowm0 : W64
  rowm1 : W64
  blkm : W64
  /-- the active region of the last MMA on the bank (R52, R63) -/
  rows : Nat
  cols : Nat
  /-- the bank is poisoned: a drain of it writes every output word poisoned (R58) -/
  bad : Bool
  deriving DecidableEq, Repr

/-- A bank after reset (R55, R422); the attached masks are those of the registers' reset values, and the region is the
whole bank (log entry 9). -/
def bank0 : Bank :=
  ⟨.empty, false, [], [], 0, 0, 0#64, BitVec.allOnes 64, BitVec.allOnes 64, BitVec.allOnes 64, 128, 128, false⟩

/-- A statistics record (R68): AMAX, NONFINITE, SATURATED, FLUSHED, META, FLAGS, ELEMENTS. -/
structure Stat where
  amax : W32
  nonfin : Nat
  sat : Nat
  flush : Nat
  metaF : Nat
  flags : Nat
  elems : Nat
  deriving DecidableEq, Repr

/-- What a dispatch still owes an expert of another chip after its rows are acknowledged (R75): the chip, the address
and value of the count word, the square, and whether the count word has been sent. -/
structure After where
  chip : Nat
  addr : Nat
  cnt : Nat
  sq : Nat
  sent : Bool
  deriving DecidableEq, Repr

/-- Where a header signal with SIGDST = 1 is taken (R122). -/
inductive SigTo where
  | here
  | chip (c : Nat)
  | circuit (n : Nat)
  deriving DecidableEq, Repr

/-- An engine operation in flight (R141, R143), in order of start. -/
structure Op where
  id : Nat
  stream : Nat
  off : Nat
  word : W128
  /-- it takes one of the quarter's 32 slots (R113) -/
  slot : Bool
  /-- its writes of steps 6 and 7 are done -/
  fin : Bool
  /-- it retires without its signals (R389, R250) -/
  dead : Bool
  /-- a quarter-scope VRED: VC1 to VC3 start nothing until it retires (R133) -/
  excl : Bool
  /-- the statistics of a drain, until DRAIN_END writes its record -/
  stat : Option Stat
  /-- bytes that step 7 writes at retirement (DROPS, R138) -/
  recs : List (Nat × Byte)
  sigTo : SigTo
  after : List After
  /-- slots that an MMA adds at retirement: RETIRED, WASTED, SKIPPED (R401, R402) -/
  slots : Nat × Nat × Nat
  /-- the ranges (address, bytes) of its data writes in local memory, in their order, while it writes them (R250) -/
  dst : List (Nat × Nat)
  /-- ranges that it reads or writes after its start, beside the destinations of its READs (R51) -/
  busy : List (Nat × Nat)
  deriving DecidableEq, Repr

/-- A word read from a ring, with the local-store offset of its slot (R107). -/
structure Fetched where
  off : Nat
  word : W128
  deriving DecidableEq, Repr

/-- A stream: the engine's queue of at most 4 words (R107), the predicate value of the word at its head once it is
read (R117), whether that word is a SQWAIT that waits (R120), and the ns time since which it lacks only one of the
quarter's slots (R143). -/
structure Strm where
  queue : List Fetched
  pred : Option Bool
  waiting : Bool
  ready : Option Nat
  deriving DecidableEq, Repr

/-- A launch of a quarter: the descriptor, and when the mailbox was written (R228, R229). -/
structure Launch where
  id : Nat
  t0 : Nat
  deriving DecidableEq, Repr

/-- A control core, as far as H2-specific rules act on it (R146, R147): pc, trap registers, interrupt enables, machine
timer pending, the datum and fault of its last access, an LR reservation. -/
structure CCore where
  pc : W64
  mtvec : W64
  mepc : W64
  mcause : W64
  mtval : W64
  mie : Bool
  mpie : Bool
  mtie : Bool
  meie : Bool
  mtip : Bool
  mscratch : W64
  last : W64
  lr : Option Nat
  deriving DecidableEq, Repr

def ccore0 : CCore := ⟨0, 0, 0, 0, 0, false, false, false, false, false, 0, 0, none⟩

/-- A quarter's execution state beside its registers, banks, slots and vector registers. -/
structure Quarter where
  streams : SMap Strm
  ops : List Op
  nextId : Nat
  /-- the R144 status of the fault that aborted the program -/
  aborted : Option Nat
  launch : Option Launch
  waiting : List Nat
  /-- CODE of QTR_LDONE and the operations then in flight (R229) -/
  ldone : Option (Nat × List Nat)
  ccs : SMap CCore
  deriving DecidableEq, Repr

def strm0 : Strm := ⟨[], none, false, none⟩
def quarter0 : Quarter := ⟨[], [], 0, none, none, [], none, []⟩

/-! ### Squares (09) -/

/-- A square (R237, R421). -/
structure Square where
  count : W32
  sigseq : W16
  psn : Bool
  deriving DecidableEq, Repr

def square0 : Square := ⟨0, 0, false⟩

/-! ### Dispatcher (09) -/

/-- An admitted descriptor (R245): its ring, slot, completion ring, bytes, beat, and its outcome once it has one: the
status, DETAIL and time of R233. -/
structure Adm where
  id : Nat
  ring : Nat
  slot : Nat
  cq : Nat
  raw : W512
  beat : Nat
  started : Bool
  /-- LAUNCH: the quarters in which it has not ended, and R235's bits -/
  left : List Nat
  exceeded : Bool
  /-- the first fault or failure of a LAUNCH: quarter, status code of R234, and the DETAIL byte -/
  bad : Option (Nat × Nat × Nat)
  /-- COPY: 64 B units moved -/
  moved : Nat
  status : Option (Nat × Nat × Nat)
  /-- ns time at which its beat began -/
  t0 : Nat
  deriving DecidableEq, Repr

/-- The dispatcher and the beat machinery. -/
structure Disp where
  rr : Nat
  nextId : Nat
  adms : List Adm
  /-- ns time at which the running beat began, and whether its cut has begun -/
  beatStart : Nat
  cut : Bool
  /-- the derate in force in the running beat (R244) -/
  dRun : Nat
  miss : Nat
  /-- on the town-clock chip: when the next tick leaves, and its number (R239) -/
  startAt : Option Nat
  nextTick : Nat
  /-- boundaries to come, from accepted ticks or a single miss: beat number and ns time (R240, R241) -/
  ticks : List (Nat × Nat)
  /-- the beat whose STOP ends the job (R232) -/
  stopBeat : Option Nat
  /-- a reason for JOB_STOP at the end of the running beat (R251, R381, R389) -/
  endStop : Option Nat
  /-- the seed that every generator has loaded (R101) -/
  seed : Option W64
  /-- the highest beat each ring's last admitted descriptor went to (R245 step 2) -/
  lastBeat : SMap Nat
  deriving DecidableEq, Repr

def disp0 : Disp := ⟨0, 0, [], 0, false, 0, 0, none, 0, [], none, none, none, []⟩

/-! ### Stacks and shared cache (08) -/

/-- A line of a slice's general array: its address, the order of its fill and the dirty 64 B parts (R203-R206). -/
structure CLine where
  addr : Nat
  fill : Nat
  dirty : Nat
  deriving DecidableEq, Repr

/-- What the stacks and the shared cache hold beside registers and contents. -/
structure Stk where
  /-- last samples per stack, newest first (R193) -/
  temps : SMap (List Int)
  discards : SMap Nat
  failed : SMap Bool
  /-- channel states (R211, R212), by stack * 128 + channel: 0 IN_SERVICE, 1 RETRAINING, 2 DOWN, 3 RETIRED -/
  chan : SMap Nat
  /-- lane offsets in taps, by (stack * 128 + channel) * 32 + lane (R209) -/
  drift : SMap Int
  /-- second triggers that wait, by stack: channel numbers (R211) -/
  retrainQ : SMap (List Nat)
  /-- the stack in its window, and windows that wait for a retrain or for another window to end (R210, R211) -/
  window : Option Nat
  windowQ : List Nat
  /-- compression nibbles by granule index (R200) -/
  nibble : SMap Nat
  /-- lines by (slice * 8192 + set) * 16 + way (R203), and the fill count -/
  lines : SMap CLine
  fills : Nat
  /-- lines whose recovery is in hand: the address of the line, and of the line or segment that was asked of the replica (R382,
  R383) -/
  recov : List (Nat × Nat)
  /-- stacks out of service since power-on training (R367) -/
  off : SMap Bool
  /-- corrected words of a channel in the running 1 ms interval, with the number of the interval (R211) -/
  ceIn : SMap (Nat × Nat)
  deriving DecidableEq, Repr

def stk0 : Stk := ⟨[], [], [], [], [], [], none, [], [], [], 0, [], [], []⟩

/-! ### Fabric (10) -/

/-- An outstanding packet request (R273, R286, R389): target, FLOW, SEQ, type, the local address and length that a
READ fills, the quarter and operation that wait (96: none), when it was injected, and for a READ whose data is added to
an atomic region (R98, R137) the element format. -/
structure Req where
  dst : Nat
  flow : Nat
  seq : Nat
  typ : Nat
  addr : Nat
  len : Nat
  q : Nat
  op : Nat
  t : Nat
  add : Option Nat
  deriving DecidableEq, Repr

/-- A packet held in the chip: the packet, the street port whose input buffer holds it, or 64 + 8 * port + lane for an
avenue lane (32: none), and the channel of that buffer: 0 REQ0, 1 REQ1, 2 RSP0, 3 RSP1, 4 CTRL (R264, R271). -/
structure QPkt where
  k : Pkt
  src : Nat
  chan : Nat
  deriving DecidableEq, Repr

/-- A frame that a lane sent and keeps until it is acknowledged (R263, R268): KIND, circuit, cells, tag word and return
field as last sent, times failed. -/
structure TxFrame where
  seq : Nat
  kind : Nat
  circuit : Nat
  cells : List (List CWord)
  tag : W64
  ret : Nat
  fails : Nat
  deriving DecidableEq, Repr

/-- A frame that must leave on another lane than the one that held it (R269): KIND, circuit, cells. -/
structure MovedFrame where
  kind : Nat
  circuit : Nat
  cells : List (List CWord)
  deriving DecidableEq, Repr

/-- A lane (R268, R269): SEQ of the next frame sent, of the last frame accepted, whether NAK is to be sent, the frames
held, the packet and the CTRL packet in assembly, and the cells of packets whose turn on the lane has come. -/
structure Lane where
  txSeq : Nat
  rxSeq : Nat
  nak : Bool
  held : List TxFrame
  asm : Option Pkt
  asmC : Option Pkt
  out : List (List CWord)
  deriving DecidableEq, Repr

def lane0 : Lane := ⟨0, 255, false, [], none, none, []⟩

/-- The sink of a circuit (R261, R281, R285): where the next data cell goes, how many are to come, whether the rest of
the transfer is discarded, whether every cell is discarded until the job ends, cells not yet returned as credit. -/
structure Sink where
  addr : Nat
  left : Nat
  skip : Bool
  dead : Bool
  freed : Nat
  deriving DecidableEq, Repr

def sink0 : Sink := ⟨0, 0, false, false, 0⟩

/-- A port's part in DISCOVER (R289-R292): the nonce it sent, when it began, the partner's HELLO (chip, port, plan),
the result of the signature check, whether its own HELLO was answered, and whether the error-ratio test of the pair has
passed (R313). -/
structure Disco where
  nonce : W128
  t0 : Nat
  seen : Option (Nat × Nat × Nat)
  sig : Option Bool
  active : Bool
  test : Bool
  deriving DecidableEq, Repr

def disco0 : Disco := ⟨0, 0, none, none, false, false⟩

/-- The fabric beside its registers. -/
structure Fab where
  /-- lanes by port * 8 + lane -/
  lanes : SMap Lane
  /-- frames that a lane out of service still held, by port (R269) -/
  moved : SMap (List MovedFrame)
  /-- cells sent into a channel of the next hop and not yet returned, by buffer * 8 + channel (R271); a buffer is a street
  port, or 64 + 8 * port + lane for an avenue lane, which leads to a chip of its own (R312) -/
  vcUsed : SMap Nat
  /-- packets waiting at a street port, at 100 + plane * 16 + position for an avenue lane, at 300 + position where no
  plane carries the position (R317); CTRL packets waiting at a street port, or in the queue of an avenue lane -/
  pktQ : SMap (List QPkt)
  ctrlQ : SMap (List Pkt)
  /-- when a port's oldest CTRL packet found no position, and a displacement in its next round (R267) -/
  ctrlWait : SMap Nat
  displ : SMap Bool
  /-- pending returns by buffer: 24-bit values (R264, R312) -/
  rets : SMap (List Nat)
  /-- cells waiting at a source for credit, by circuit, each with the operation that sends it; and cells at a port for its
  calendar, by port * 1024 + circuit -/
  circSrc : SMap (List (Nat × List CWord))
  /-- data cells of the transfer that a source is sending, still to go (R262) -/
  srcLeft : SMap Nat
  circQ : SMap (List (List CWord))
  /-- credit of a source by circuit (R281); for a tree, returns by port * 1024 + circuit (R282) -/
  cred : SMap Nat
  treeRet : SMap Nat
  treeSent : SMap Nat
  sinks : SMap Sink
  /-- circuit cells and packets delivered and not yet acted on -/
  circRx : SMap (List (List CWord))
  inbox : List QPkt
  reqs : List Req
  nextSeq : SMap Nat
  /-- ports in DISCOVER, and the completion that waits for it (R289) -/
  disco : SMap Disco
  discoverId : Option Nat
  /-- partner keys of the plan, X then Y, by port * 2 (R288); expected partners by port: chip * 32 + port -/
  keys : SMap W256
  partners : SMap Nat
  plan : SMap Byte
  /-- whether INFLIGHT_OLD has been 0 since the last boundary (R278) -/
  oldQuiet : Bool
  /-- ECHOs sent and not answered: port, identifier, departure in quarter ns (R294) -/
  echoes : List (Nat × Nat × Nat)
  deriving DecidableEq, Repr

/-- The fabric after reset. -/
def fab0 : Fab :=
  { lanes := [], moved := [], vcUsed := [], pktQ := [], ctrlQ := [], ctrlWait := [], displ := [], rets := [], circSrc := [], srcLeft := [],
    circQ := [], cred := [], treeRet := [], treeSent := [], sinks := [], circRx := [], inbox := [], reqs := [], nextSeq := [],
    disco := [], discoverId := none, keys := [], partners := [], plan := [], oldQuiet := true, echoes := [] }

/-! ### Update chiplets (07) -/

/-- A pass-1 record (R175). -/
structure UpdRec where
  sumsq : W64
  tmin : Nat
  tmax : Nat
  nrec : Nat
  flags : Nat
  tag : Nat
  deriving DecidableEq, Repr

/-- What a chiplet holds of the UPDATE in hand: its pass (0 none, 1 pass 1, 2 pass 1 done, 3 pass 2, 4 pass 2 done),
record, first faulty group (R182), the groups that pass 2 has still to finish (index and header address) with the next
block of the first, live blocks done and bytes of that group, and the results of pass 2 (R181). -/
structure UpdChip where
  phase : Nat
  record : UpdRec
  fgroup : Nat
  groups : List (Nat × Nat)
  block : Nat
  live : Nat
  nonfin : Nat
  poisoned : Bool
  deriving DecidableEq, Repr

def updRec0 : UpdRec := ⟨0, 2 ^ 64 - 1, 0, 0, 0, 0⟩
def updChip0 : UpdChip := ⟨0, updRec0, 0xFFFF, [], 0, 0, 0, false⟩

/-- The UPDATE in hand: its descriptor, the plan's 224 bytes, the chiplets that take part, its phase (0 waits on its
square, 1 pass 1, 2 chain, 3 pass 2, 4 decided against pass 2), whether a plan check failed, this chip's record,
whether the record of the chip before has come, the final record, the code that every chiplet gets, the clip of
R179, whether pass 2 met an uncorrectable word (R381), and whether records of unequal TAGs were merged (R175). -/
structure UpdCur where
  id : Nat
  plan : Nat
  ks : List Nat
  phase : Nat
  planBad : Bool
  own : UpdRec
  got : Bool
  final : Option UpdRec
  code : Option Nat
  clip : W32
  ue : Bool
  tagBad : Bool
  deriving DecidableEq, Repr

/-- The update sequencer and the chiplets beside their registers: the UPDATE in hand, those that started and wait for
their turn (R173), the chiplets, and the early records (R178). -/
structure Upd where
  cur : Option UpdCur
  queue : List Nat
  chips : SMap UpdChip
  inbox : List UpdRec
  deriving DecidableEq, Repr

def upd0 : Upd := ⟨none, [], [], []⟩

/-! ### Optical projector (12) -/

/-- A submission (R326, R329): its quarter and operation, its parameter block, whether it has entered the queue of 64,
whether it holds a service position and since when, and the flags LASER, TRACK and RAMP of R330 gathered so far (bits 3 to
1). -/
structure Sub where
  q : Nat
  op : Nat
  blk : W512
  queued : Bool
  serving : Bool
  t0 : Nat
  flags : Nat
  deriving DecidableEq, Repr

/-- The projector beside its registers: the tables of its slots by slot * 16384 + byte (R323), the submissions in order
of arrival, the PROJECT whose settle runs, the gain and offset of each output and the settings of its phase screen (R322,
R332; log entry 12), the next reference input, and the summed squared errors of the last 64 references, newest first, in
units of (2^-24 of full scale)^2 (R332), the heaters of its phase shifters with the sensor values that the last
feedforward used (R322, R304). -/
structure Prj where
  table : SMap Byte
  subs : List Sub
  settling : Option Nat
  gain : SMap W32
  offset : SMap W32
  screen : SMap W32
  refIn : Nat
  errs : List Nat
  heater : List Int
  heatRef : SMap (Option Int)
  deriving DecidableEq, Repr

def prj0 : Prj := ⟨[], [], none, [], [], [], 0, [], [], []⟩

/-! ### Photonic links (11) -/

/-- A photonic-die sensor (R303), in thousandths of a degree: its last samples, newest first; its filtered values with
their times, newest first, back to 100 us; consecutive discards; whether it has failed. -/
structure Sensor where
  last : List Int
  hist : List (Nat × Int)
  discards : Nat
  failed : Bool
  deriving DecidableEq, Repr

def sensor0 : Sensor := ⟨[], [], 0, false⟩

/-- The photonic dies beside their registers. -/
structure Opt where
  /-- planes that carry the pair with a position (R315) -/
  carried : SMap (List Nat)
  /-- position + 1 that a lane of an avenue port is bound to, by plane * 8 + lane (R312, R315) -/
  bound : SMap Nat
  /-- sensors by die * 64 + index -/
  sens : SMap Sensor
  /-- RXSTATE of the partner's last management word, and relocks failed in a row, by port * 8 + lane (R302, R307) -/
  peer : SMap Nat
  fails : SMap Nat
  /-- heater settings by port * 32 + ring, and the sensor values that the last correction used (R304) -/
  heater : SMap Int
  heatRef : SMap (Option Int)
  /-- avenue cells offered toward each position in the running beat, the demand announced, and the ages (R314, R315) -/
  offered : SMap Nat
  demand : SMap Nat
  age : SMap Nat
  /-- the announce blocks heard in the running roll call, by position (words 0 to 8) -/
  blocks : SMap (List W64)
  /-- a roll call is open, and has come to set B (R314) -/
  roll : Bool
  setB : Bool
  /-- the announce block last sent on each lane, by plane * 8 + lane (R314) -/
  announced : SMap (List W64)
  /-- rounds of a port since its last lane management words, and the word last sent on each lane, by port * 8 + lane (R302) -/
  rounds : SMap Nat
  words : SMap W64
  deriving DecidableEq, Repr

def opt0 : Opt := ⟨[], [], [], [], [], [], [], [], [], [], [], false, false, [], [], []⟩

/-! ### Host port (13) -/

/-- What the H2 sends the host: a write of its own (R223, R230), a message (R348), the answer to a read (R345). -/
inductive HostMsg where
  | write (addr : Nat) (bytes : Nat) (v : W512) (ep ro : Bool)
  | msix (addr : W64) (data : W32)
  | completion (v : List Byte) (ep : Bool)
  | unsupported
  deriving DecidableEq, Repr

/-- The host port beside its registers. -/
structure HostP where
  bme : Bool
  mse : Bool
  d3 : Bool
  msixEn : Bool
  fmask : Bool
  /-- MSI-X table entries (R347), each 16 B; masked when unlisted -/
  vecs : SMap W128
  pba : SMap Bool
  out : List HostMsg
  /-- AER status bits, uncorrectable and correctable (R349; log entry 11) -/
  aerU : Nat
  aerC : Nat
  /-- the PCIe link, in the layout of HST_LINK (R339, R362) -/
  link : W64
  /-- what configuration writes have left in the writable registers of configuration space that no other field holds, by
  offset (R337, R349; log entry 11); an unlisted one is as after reset -/
  cfg : SMap (Option W32)
  deriving DecidableEq, Repr

/-- An MSI-X entry after reset: masked (the mask bit of Vector Control, PCIe; log entry 11). -/
def vec0 : W128 := BitVec.ofNat 128 (1 <<< 96)

def host0 : HostP := ⟨false, false, false, false, false, [], [], [], 0, 0, 0, []⟩

/-! ### Management (14 to 17) -/

/-- The management core beside its registers, the flash and the pins outside it. -/
structure Mgt where
  /-- the body of the part record in force (R367) -/
  part : SMap Byte
  /-- CORE_SEL in effect (R403) -/
  coreSel : Nat
  /-- bytes of the SPI NOR flash (R364); an unlisted byte is erased, 0xFF (log entry 4) -/
  flash : SMap Byte
  /-- the device has left reset, when, and how often it has (R362, R368) -/
  released : Bool
  t0 : Nat
  boots : Nat
  /-- measurement blocks by index (R372) -/
  meas : SMap W256
  /-- the private scalar of the device identity key, 0 for none, and the Device Serial Number (R338, R370, R371) -/
  idPriv : W256
  dsn : W64
  /-- the certificates of SPDM slot 0, as this boot has read them from the flash (R351, R364, R373) -/
  certs : List Byte
  /-- a health test of the entropy source fails (R371) -/
  entropyBad : Bool
  /-- MCTP (R350): endpoint IDs of the two bindings (0 PCIe VDM, 1 SMBus), messages sent on PCIe, the SMBus response that
  waits, ALERT_N asserted -/
  eid : SMap Nat
  vdm : List (List Byte)
  smb : Option (List Byte)
  alert : Bool
  /-- SPDM messages since GET_VERSION, requests and responses (R351), each with its part of the transcript: 0 version,
  capabilities and algorithms, 1 digests and certificate, 2 measurements -/
  spdm : List (Nat × List Byte)
  /-- time of each domain's last heartbeat, plus one (R361) -/
  hb : SMap Nat
  /-- the instruction of the test access port: 0 BYPASS, 1 IDCODE, else another (R385) -/
  tap : Nat
  /-- what the data register selected by the instruction has captured (R385) -/
  tapDr : W32
  /-- compute-die sensors by die * 64 + index (R416) -/
  tj : SMap Sensor
  /-- power samples of the running beat, their number, and the highest TJ_MAX and TPH_MAX sampled in it (R417) -/
  pSum : Nat
  pN : Nat
  tBeat : Option Int
  phBeat : Option Int
  /-- D is held at 63 outside a job (R418) -/
  hold : Bool
  /-- THERMTRIP_N asserted (R419) -/
  trip : Bool
  /-- codes on the VID outputs (R410) -/
  vidE : Nat
  vidW : Nat
  deriving DecidableEq, Repr

def mgt0 : Mgt :=
  { part := [], coreSel := 4, flash := [], released := false, t0 := 0, boots := 0, meas := [], idPriv := 0, dsn := 0, certs := [],
    entropyBad := false, eid := [], vdm := [], smb := none, alert := false, spdm := [], hb := [], tap := 1, tapDr := 0, tj := [],
    pSum := 0, pN := 0, tBeat := none, phBeat := none, hold := false, trip := false, vidE := 30, vidW := 30 }

/-! ### The machine -/

/-- The state of the H2. -/
structure State where
  /-- the model's time in ns (R359) -/
  now : Nat
  /-- the MODEL's own counter of free values drawn (log entry 1) -/
  free : Nat
  /-- registers by BAR0 offset (R7-R11) -/
  regs : SMap W64
  /-- bytes by local address (R194) -/
  mem : List Host.Cell
  /-- poison marks by local address / 8 (R378) -/
  memPsn : SMap Bool
  squares : SMap Square
  /-- accumulator banks by q * 8 + core * 2 + bank -/
  banks : SMap Bank
  /-- drain configuration slots by q * 16 + unit * 4 + slot (R127) -/
  dcfg : SMap W512
  /-- vector registers and their poison bits by ((q * 4 + cluster) * 64 + register) * 128 + lane (R78) -/
  vregs : SMap W32
  vpsn : SMap Bool
  quarters : SMap Quarter
  disp : Disp
  stk : Stk
  fab : Fab
  upd : Upd
  prj : Prj
  opt : Opt
  host : HostP
  mgt : Mgt
  /-- native counters (R397), and H1 counters at 2048 + j (R404) -/
  pmc : SMap Nat
  pending : List Instr
  deriving DecidableEq, Repr

/-- The machine right after reset (R11, R363; the values that the spec does not give: log entries 2, 3, 4, 9 to 12). -/
def State.reset : State :=
  ⟨0, 0, [], [], [], [], [], [], [], [], [], disp0, stk0, fab0, upd0, prj0, opt0, host0, mgt0, [], []⟩

end Sys2Proof.Machine
end

