-- ==== Sys2Proof/Machine/Ops.lean ====
section
/-! DEFINITION. The named operations over State: registers and their fields, error registers and records (R77),
memory with its poison marks (R378), squares (R237, R421), performance counters, interrupts and messages, free
values. -/

namespace Sys2Proof.Machine

/-! ### Registers -/

/-- The stored value of the register at a BAR0 offset. -/
def reg (s : State) (o : Nat) : W64 := smGet (regReset o) s.regs o

/-- The state with the register at an offset holding v. -/
def setReg (s : State) (o : Nat) (v : W64) : State := { s with regs := smSet (regReset o) s.regs o v }

/-- Field [hi:lo] of a register. -/
def fld (s : State) (o hi lo : Nat) : Nat := bits (reg s o) hi lo

/-- A word with bits [hi:lo] replaced. -/
def putBits (w : W64) (hi lo v : Nat) : W64 :=
  BitVec.ofNat 64 (w.toNat - ((w.toNat >>> lo) % 2 ^ (hi + 1 - lo)) <<< lo + (v % 2 ^ (hi + 1 - lo)) <<< lo)

/-- The state with field [hi:lo] of a register holding v. -/
def setFld (s : State) (o hi lo v : Nat) : State := setReg s o (putBits (reg s o) hi lo v)

/-- A counting field of a register raised by n, up to its maximum. -/
def addFld (s : State) (o hi lo n : Nat) : State :=
  setFld s o hi lo (min (fld s o hi lo + n) (2 ^ (hi + 1 - lo) - 1))

/-- A job runs (CLK_BEAT_CTL.IN_JOB). -/
def inJob (s : State) : Bool := fld s aClkBeatCtl 29 29 == 1

/-- This chip's number (FAB_CTL.CHIP). -/
def thisChip (s : State) : Nat := fld s aFabCtl 31 16

/-- The running beat number (R242). -/
def beatNum (s : State) : Nat := (reg s aClkBeatNum).toNat

/-- The beat length in ns. -/
def beatLen (s : State) : Nat := fld s aClkBeatCtl 13 0 * 1000

/-- QTR_MTIME: 100 MHz from reset. -/
def mtime (s : State) : Nat := s.now / 10

/-- A free 32-bit value is drawn (log entry 1). -/
def draw32 (s : State) : W32 × State := (Config.free32 s.free, { s with free := s.free + 1 })
/-- A free 256-bit value is drawn (log entry 1). -/
def draw256 (s : State) : W256 × State := (Config.free256 s.free, { s with free := s.free + 1 })

/-! ### Error registers and records (R77, R390) -/

/-- The blocks that own an error register. -/
inductive Blk where
  | qtr (q : Nat) | mem (k : Nat) | upd (k : Nat) | fab | opt | prj | hst | mgt | hstQ | clk
  deriving DecidableEq, Repr

/-- The error register of a block. -/
def errReg : Blk → Nat
  | .qtr q => aQtrErr q
  | .mem k => aMemErr k
  | .upd k => aUpdErr k
  | .fab => aFabErr
  | .opt => aOptErr
  | .prj => aPrjErr
  | .hst => aHstPortErr
  | .mgt => aMgtErr
  | .hstQ => aHstQErr
  | .clk => aClkErr

/-- The error record of a block, and the lowest bit of its TYPE field (R390; UPD_ERR_REC keeps TYPE at [59:56]). -/
def errRec : Blk → Option (Nat × Nat)
  | .qtr q => some (aQtrErrRec q, 48)
  | .mem k => some (aMemErrRec k, 48)
  | .upd k => some (aUpdErrRec k, 56)
  | .fab => some (aFabErrRec, 48)
  | .opt => some (aOptErrRec, 48)
  | .prj => some (aPrjErrRec, 48)
  | .hst => some (aHstPortErrRec, 48)
  | .mgt => some (aMgtErrRec, 48)
  | .hstQ => none
  | .clk => none

/-- The event source of a block (R347). -/
def errEvent : Blk → Nat
  | .qtr _ => 0
  | .mem _ => 1
  | .upd _ => 2
  | .fab => 3
  | .opt => 4
  | .prj => 5
  | .clk => 6
  | .hst => 7
  | .hstQ => 7
  | .mgt => 8

/-- The error registers of every unit of a source. -/
def isErrReg (e o : Nat) : Bool :=
  match e with
  | 0 => decide (0x1400000 ≤ o) && decide (o < 0x2000000) && o % 0x20000 == 0xC
  | 1 => decide (0x800000 ≤ o) && decide (o < 0x1000000) && o % 0x100000 == 0x18
  | 2 => decide (0x1000000 ≤ o) && decide (o < 0x1400000) && o % 0x80000 == 0x8
  | 3 => o == aFabErr
  | 4 => o == aOptErr
  | 5 => o == aPrjErr
  | 6 => o == aClkErr
  | 7 => o == aHstQErr || o == aHstPortErr
  | _ => o == aMgtErr

/-- The condition of an error event source (R347): a register of its blocks is non-zero. A register that reads 0 is
unlisted, since every error register resets to 0. -/
def errCond (s : State) (e : Nat) : Bool := s.regs.any fun p => isErrReg e p.1

/-- The low fields of an error record: SRC, CH, GROUP, PORT, ... with ADDR, as the block lays them out. -/
abbrev RecLow := Nat

/-- Bit b of a block's error register is set; its record captures the first (R77), with `low` in its fields below
TYPE. -/
def setErr (s : State) (blk : Blk) (b : Nat) (low : RecLow) : State :=
  let s1 := setReg s (errReg blk) (reg s (errReg blk) ||| BitVec.ofNat 64 (2 ^ b))
  match errRec blk with
  | some (r, t) =>
    if fld s1 r 63 63 = 1 then s1 else setReg s1 r (BitVec.ofNat 64 (2 ^ 63 + b * 2 ^ t + low))
  | none => s1

/-! ### Units in service (R367) -/

/-- A byte of the part record body in force (R367). -/
def partByte (s : State) (i : Nat) : Byte := smGet 0#8 s.mgt.part i

/-- A unit with its bit in MGT_PART_SELFTEST failed self-test at this boot (R367). -/
def selftestFailed (s : State) (i : Nat) : Bool := bit (reg s (aMgtPartSelftest (i / 64))) (i % 64)

/-- A quarter in service: the part record does not list it, and it passed self-test (R367). -/
def qtrPresent (s : State) (q : Nat) : Bool :=
  decide (q < 96) && !bit (partByte s (q / 8)) (q % 8) && !selftestFailed s q

/-- An update chiplet in service (R367). -/
def updPresent (s : State) (k : Nat) : Bool := decide (k < 8) && !bit (partByte s 16) k && !selftestFailed s (97 + k)

/-- The projector in service (R367). -/
def prjPresent (s : State) : Bool := !bit (partByte s 17) 0 && !selftestFailed s 105

/-- A stack in service: it passed power-on training (MEM_STATUS, R367). -/
def stkPresent (s : State) (k : Nat) : Bool := !smGet false s.stk.off k

/-! ### Performance counters and messages to the host (16, 13) -/

/-- Native counter indices (R397): of a quarter, a stack, a chiplet, a port. -/
def cQtr (q i : Nat) : Nat := 10 * q + i
def cMem (k i : Nat) : Nat := 960 + 12 * k + i
def cUpd (k i : Nat) : Nat := 1056 + 10 * k + i
def cPort (p i : Nat) : Nat := 1136 + 8 * p + i

/-- The unit of a native counter is in service (R397). -/
def counterLive (s : State) (n : Nat) : Bool :=
  if n < 960 then qtrPresent s (n / 10)
  else if n < 1056 then stkPresent s ((n - 960) / 12)
  else if n < 1136 then updPresent s ((n - 1056) / 10)
  else if 1398 ≤ n ∧ n < 1403 then prjPresent s
  else true

/-- H1 counter j counts k events: modulo 2^32, with its bit of MGT_PMC_OVF set where it wraps (R404, R405). -/
def countH1 (k : Nat) (s : State) (j : Nat) : State :=
  let v := smGet 0 s.pmc (2048 + j) + k
  let s1 := { s with pmc := smSet 0 s.pmc (2048 + j) (v % 2 ^ 32) }
  if 2 ^ 32 ≤ v then setReg s1 aMgtPmcOvf (reg s1 aMgtPmcOvf ||| BitVec.ofNat 64 (2 ^ j)) else s1

/-- Native counter n counts k events and stops at its maximum (R398); the H1 counters that follow it count them while
COMPAT is 1 (R404). The counters of a unit that is not in service never count (R397). -/
def countOnly (s : State) (n k : Nat) : State :=
  if !counterLive s n then s else
  let s1 := { s with pmc := smSet 0 s.pmc n (min (smGet 0 s.pmc n + k) (2 ^ 48 - 1)) }
  if fld s aMgtPmcCtl 0 0 = 1 then
    ((List.range 64).filter fun j => fld s (aMgtPmcSel j) 10 0 == n).foldl (countH1 k) s1
  else s1

/-- A message for the host is placed in the outgoing queue. -/
def hostPush (s : State) (m : HostMsg) : State := { s with host := { s.host with out := s.host.out ++ [m] } }

/-- A vector's MSI-X message, counted; its pending bit while it is masked or in D3hot (R340, R347); while Bus Master
Enable is 0 it is dropped and counted (R352): the second result. -/
def msixPut (s : State) (vec : Nat) : State × Bool :=
  let e := smGet vec0 s.host.vecs vec
  if !s.host.msixEn || s.host.fmask || bit e 96 || s.host.d3 then
    ({ s with host := { s.host with pba := smSet false s.host.pba vec true } }, false)
  else if s.host.bme then
    (countOnly (hostPush s (.msix (BitVec.ofNat 64 (bits e 63 0)) (BitVec.ofNat 32 (bits e 95 64)))) 1412 1, false)
  else (addFld s aHstBmeDrops 63 32 1, true)

/-- A vector is raised; a dropped message sets HST_PORT_ERR.BME_DROP, which may make the HST event source true, and
that source's own message is then dropped as well (R348, R352). -/
def msixSend (s : State) (vec : Nat) : State :=
  let r := msixPut s vec
  if !r.2 then r.1
  else
    let was := errCond r.1 7
    let s1 := setErr r.1 .hst 5 0
    if !was && fld s1 (aHstIrqSrc 7) 31 31 == 1 then (msixPut s1 (fld s1 (aHstIrqSrc 7) 7 0)).1 else s1

/-- An event source whose condition has become true raises its vector while it is enabled (R348). -/
def sourceSend (s : State) (e : Nat) : State :=
  if fld s (aHstIrqSrc e) 31 31 = 1 then msixSend s (fld s (aHstIrqSrc e) 7 0) else s

/-- The PMC source fires when MGT_PMC_OVF has become non-zero (R347, R405). -/
def pmcSource (old s : State) : State :=
  if reg old aMgtPmcOvf = 0 ∧ reg s aMgtPmcOvf ≠ 0 then sourceSend s 10 else s

/-- Native counter n counts k events (R398, R404, R405). -/
def count (s : State) (n k : Nat) : State := pmcSource s (countOnly s n k)

/-- A vector is raised (R348). -/
def msixRaise (s : State) (vec : Nat) : State := pmcSource s (msixSend s vec)

/-- Event source e fires (R348). -/
def fireEvent (s : State) (e : Nat) : State := pmcSource s (sourceSend s e)

/-- An error sets bit b of a block's error register and is captured (R77). The event source fires when its condition
becomes true (R348), and a quarter's ERR interrupt is raised (QTR_CC_IRQ). -/
def raise (s : State) (blk : Blk) (b : Nat) (low : RecLow) : State :=
  let was := errCond s (errEvent blk)
  let s1 := setErr s blk b low
  let s2 := match blk with
    | .qtr q => setReg s1 (aQtrCcIrq q) (reg s1 (aQtrCcIrq q) ||| 0x20#64)
    | _ => s1
  if was then s2 else fireEvent s2 (errEvent blk)

/-- After a W1C write: a record clears when its error register reads all zero (R77). -/
def recClear (s : State) (blk : Blk) : State :=
  match errRec blk with
  | some (r, _) => if reg s (errReg blk) = 0 then setReg s r 0 else s
  | none => s

/-- An error of quarter q with its source code (R46) and local address. -/
def raiseQ (s : State) (q b src addr : Nat) : State := raise s (.qtr q) b (src * 2 ^ 40 + addr % 2 ^ 40)

/-- A write of the H2's own to host memory, counted in 64 B units: dropped, counted and flagged while Bus Master
Enable is 0 (R352). `ro`: with Relaxed Ordering (R337). -/
def hostWrite (s : State) (addr n : Nat) (v : W512) (ep ro : Bool) : State :=
  if s.host.bme then count (hostPush s (.write addr n v ep ro)) 1411 ((n + 63) / 64)
  else raise (addFld s aHstBmeDrops 31 0 1) .hst 5 0

/-- The bits of QTR_ERR. -/
def eRange : Nat := 0
def eLsCe : Nat := 1
def eLsUe : Nat := 2
def eUnpop : Nat := 3
def eMeta : Nat := 4
def eScale : Nat := 5
def eWaitTo : Nat := 6
def eDispatch : Nat := 7
def ePoison : Nat := 8
def eRwi : Nat := 9

/-! ### Register writes (R7 to R9) -/

/-- One field of a register under a write (R7): the new word, and whether the write would change an RWI field of a
block that is not idle. -/
def writeFld (idle : Bool) (new : W64) (acc : W64 × Bool) (f : Fld) : W64 × Bool :=
  let old := bits acc.1 f.hi f.lo
  let v := bits new f.hi f.lo
  match f.acc with
  | .rw => (putBits acc.1 f.hi f.lo v, acc.2)
  | .w1c => (putBits acc.1 f.hi f.lo (old - (old &&& v)), acc.2)
  | .w1s => (putBits acc.1 f.hi f.lo (old ||| v), acc.2)
  | .rwi => if idle then (putBits acc.1 f.hi f.lo v, acc.2) else (acc.1, acc.2 || old != v)
  | .ro => acc
  | .wo => acc
  | .rc => acc

/-- Every field of a register under a write (R7); reserved bits are in no field (R8). -/
def writeFlds (fs : List Fld) (idle : Bool) (old new : W64) : W64 × Bool := fs.foldl (writeFld idle new) (old, false)

/-- The bit of a block's error register for an out-of-range write, and for an RWI write while not idle (R7, R9). A
block with no RWI bit of its own takes RANGE (log entry 13). -/
def rwiBit : Blk → Nat
  | .qtr _ => 9
  | .mem _ => 7
  | .fab => 1
  | .opt => 1
  | .mgt => 1
  | .hstQ => 2
  | _ => 0

/-- The source code field of a record for a register write (R46 code 0x10 for a quarter). -/
def regLow (blk : Blk) (off : Nat) : Nat :=
  match blk with
  | .qtr _ => 0x10 * 2 ^ 40 + off
  | .upd _ => 0xFFFF * 2 ^ 40 + off
  | .opt => 0
  | _ => off

/-- An out-of-range register write (R9, R77). -/
def rangeErr (s : State) (blk : Blk) (off : Nat) : State := raise s blk 0 (regLow blk off)

/-- A write of an RWI field of a block that is not idle (R7, R77). -/
def rwiErr (s : State) (blk : Blk) (off : Nat) : State := raise s blk (rwiBit blk) (regLow blk off)

/-- A register write under its fields' access codes, when it is in range: the register changes, and an RWI violation
sets the block's flag (R7); out of range, the whole register stays and the flag is set (R9). -/
def regPut (s : State) (blk : Blk) (off : Nat) (fs : List Fld) (idle legal : Bool) (v : W64) : State :=
  if !legal then rangeErr s blk off
  else
    let r := writeFlds fs idle (reg s off) v
    let s1 := setReg s off r.1
    if r.2 then rwiErr s1 blk off else s1

/-- The fields of the register at an offset. -/
def fldsAt (off : Nat) : List Fld :=
  match regFind off regTable with
  | some (d, _, _) => d.flds
  | none => []

/-! ### Memory (R194, R378, R379) -/

/-- Local-store window of quarter q (R47). -/
def lsBase (q : Nat) : Nat := 0xC000000000 + q * 0x400000

/-- The populated size of a local store (R47). -/
def lsSize : Nat := 0x300000

/-- The end of stacked memory (R194). -/
def stackEnd : Nat := 0xC000000000

/-- A byte of memory. -/
def memByte (s : State) (a : Nat) : Byte := smGet 0#8 s.mem a

/-- The region entry that covers an address (R197), as its register word. -/
def regionAt (s : State) (a : Nat) : Option W64 :=
  ((List.range 64).map fun n => reg s (aMemReg n)).find? fun w =>
    bit w 63 && decide (bits w 9 0 ≤ a >>> 30) && decide (a >>> 30 ≤ bits w 19 10)

/-- Stack, channel and slot of a granule outside STACK regions (R196). -/
def locDefault (g : Nat) : Nat × Nat × Nat :=
  let u := g >>> 10
  let c := (g % 1024) ^^^ (u % 1024) ^^^ ((u >>> 10) % 512)
  (c % 8, c >>> 3, u)

/-- Stack, channel and slot of an address in a STACK region (R198). -/
def locStack (a : Nat) : Nat × Nat × Nat :=
  let o := a % 2 ^ 30
  let gp := (o >>> 11) % 65536
  (o >>> 27, (gp % 128) ^^^ ((gp >>> 7) % 128) ^^^ (gp >>> 14), 512 * (a >>> 30) + gp >>> 7)

/-- Stack, channel and slot of a stacked-memory address, with a retired channel's slots placed elsewhere (R195-R199). -/
def locate (s : State) (a : Nat) : Nat × Nat × Nat :=
  let (k, c, u) := match regionAt s a with
    | some w => if bit w 62 then locStack a else locDefault (a >>> 11)
    | none => locDefault (a >>> 11)
  let r := reg s (aMemRetire k)
  if bit r 31 && bits r 6 0 == c then (k, (c + 1 + u % 127) % 128, 393312 + u / 127) else (k, c, u)

/-- The channel of an address is DOWN (R212). -/
def addrDown (s : State) (a : Nat) : Bool :=
  !s.stk.chan.isEmpty && decide (a < stackEnd) &&
    (let (k, c, _) := locate s a; smGet 0 s.stk.chan (k * 128 + c) == 2)

/-- The word at a is poisoned, or reads so: unpopulated local store (R47), a DOWN channel (R212). -/
def wordPsn (s : State) (a : Nat) : Bool :=
  smGet false s.memPsn (a / 8) ||
    (decide (stackEnd ≤ a) && decide ((a - stackEnd) % 0x400000 ≥ lsSize)) || addrDown s a

/-- n bytes from a. A poisoned word reads as 0. -/
def readBytes (s : State) (a n : Nat) : List Byte := (List.range n).map fun i => memByte s (a + i)

/-- The little-endian number of a list of bytes (R3). -/
def leNat : List Byte → Nat
  | [] => 0
  | b :: t => b.toNat + 256 * leNat t

/-- n bytes of a number, little-endian (R3). -/
def leBytes (n v : Nat) : List Byte := (List.range n).map fun i => BitVec.ofNat 8 (v >>> (8 * i))

/-- n bytes from a, as a little-endian number (R3). -/
def readNat (s : State) (a n : Nat) : Nat := leNat (readBytes s a n)

/-- Some word that holds a byte of [a, a + n) is poisoned. -/
def anyPsn (s : State) (a n : Nat) : Bool :=
  n != 0 && (List.range ((a + n - 1) / 8 - a / 8 + 1)).any fun i => wordPsn s ((a / 8 + i) * 8)

/-- Bytes stored from a in ascending order. -/
def putBytes (m : SMap Byte) (a : Nat) : List Byte → SMap Byte
  | [] => m
  | b :: t => putBytes (smSet 0#8 m a b) (a + 1) t

/-- A write of word w ends every reservation on it, whoever writes (R146: LR and SC are RISC-V's, log entry 10). -/
def breakRes (s : State) (w : Nat) : State :=
  let q := (w * 8 - stackEnd) / 0x400000
  let a := (w * 8 - stackEnd) % 0x400000
  if stackEnd ≤ w * 8 ∧ (smGet quarter0 s.quarters q).ccs.any (fun p => p.2.lr == some a) then
    { s with quarters := smMod quarter0 s.quarters q fun x => { x with ccs := [0, 1].foldl (fun m i =>
        smMod ccore0 m i fun c => if c.lr = some a then { c with lr := none } else c) x.ccs } }
  else s

/-- A write of [a, a + n) that meets a DOWN channel is discarded and counted there (R212): once for each granule. -/
def noteDropped (s : State) (a n : Nat) : State :=
  if s.stk.chan.isEmpty || n == 0 then s
  else ((List.range ((a + n - 1) / 2048 - a / 2048 + 1)).filter fun i => addrDown s ((a / 2048 + i) * 2048)).foldl (fun t i =>
    let (k, c, _) := locate t ((a / 2048 + i) * 2048)
    addFld t (aMemChCe k c) 63 32 1) s

/-- Part of one word, from byte `lo` of word w, is written: a whole word clears a poison mark; a partial write of a
poisoned word leaves it poisoned (R49, R379). A write to a DOWN channel is discarded (R212). -/
def writePart (s : State) (w lo : Nat) (bs : List Byte) : State :=
  if addrDown s (w * 8) then s
  else
    let s := breakRes s w
    if bs.length = 8 then
      { s with mem := putBytes s.mem (w * 8) bs, memPsn := smSet false s.memPsn w false }
    else if smGet false s.memPsn w then s
    else { s with mem := putBytes s.mem (w * 8 + lo) bs }

/-- Bytes written from a, word by word; `fuel` bounds the words touched. -/
def writeLoop (s : State) (a : Nat) (bs : List Byte) : Nat → State
  | 0 => s
  | f + 1 =>
    match bs with
    | [] => s
    | _ =>
      let n := 8 - a % 8
      writeLoop (writePart s (a / 8) (a % 8) (bs.take n)) (a + (bs.take n).length) (bs.drop n) f

/-- Bytes written from local address a. -/
def writeBytes (s : State) (a : Nat) (bs : List Byte) : State := writeLoop (noteDropped s a bs.length) a bs bs.length

/-- n bytes of a number written from a (R3). -/
def writeNat (s : State) (a n v : Nat) : State := writeBytes s a (leBytes n v)

/-- One word written poisoned: data bits 0 and the mark (R378); nothing in a DOWN channel (R212). -/
def poisonPart (s : State) (w : Nat) : State :=
  if addrDown s (w * 8) then s
  else
    let s := breakRes s w
    { s with mem := putBytes s.mem (w * 8) (List.replicate 8 0#8), memPsn := smSet false s.memPsn w true }

/-- One word written poisoned, as a write of its own. -/
def poisonWord (s : State) (w : Nat) : State := poisonPart (noteDropped s (w * 8) 8) w

/-- Every word that holds a byte of [a, a + n) written poisoned. -/
def poisonRange (s : State) (a n : Nat) : State :=
  if n = 0 then s
  else (List.range ((a + n - 1) / 8 - a / 8 + 1)).foldl (fun t i => poisonPart t (a / 8 + i)) (noteDropped s a n)

/-- Bytes with a poison mark for each: a word that holds a poisoned byte is written poisoned, the others as they are
(R379). -/
def writeMarked (s : State) (a : Nat) (bs : List (Byte × Bool)) : State :=
  let s1 := writeBytes s a (bs.map (·.1))
  (bs.zipIdx).foldl (fun t p => if p.1.2 then poisonPart t ((a + p.2) / 8) else t) s1

/-- Words of a cell or packet stored from a (8 B each). -/
def putWords (s : State) (a : Nat) : List CWord → State
  | [] => s
  | w :: t => putWords (if w.psn then poisonPart s (a / 8) else writePart s (a / 8) 0 (leBytes 8 w.v.toNat)) (a + 8) t

/-- Words of a cell or packet written from a. -/
def writeWords (s : State) (a : Nat) (ws : List CWord) : State := putWords (noteDropped s a (8 * ws.length)) a ws

/-- n words from a, with their poison marks. -/
def readWords (s : State) (a n : Nat) : List CWord :=
  (List.range n).map fun i =>
    let p := wordPsn s (a + 8 * i)
    ⟨if p then 0 else BitVec.ofNat 64 (readNat s (a + 8 * i) 8), p⟩

/-- Wholly in stacked memory (R194). -/
def inStack (a n : Nat) : Bool := decide (a + n ≤ stackEnd)

/-- Wholly in the populated offsets of one in-service quarter's window (R47). -/
def inLs (s : State) (a n : Nat) : Bool :=
  decide (stackEnd ≤ a) && decide (a < 0xC018000000) &&
    (let q := (a - stackEnd) / 0x400000
     decide ((a - stackEnd) % 0x400000 + n ≤ lsSize) && qtrPresent s q)

/-- Stacked memory or an in-service window (R194, R284). -/
def inMem (s : State) (a n : Nat) : Bool := inStack a n || inLs s a n

/-- A square's address (R194). -/
def isSquareAddr (a : Nat) : Bool := decide (0xC100000000 ≤ a) && decide (a < 0xC100080000)

/-- The enabled atomic region that holds a word (R98, R208). -/
def inAtomic (s : State) (a : Nat) : Bool :=
  decide (a < stackEnd) && (List.range 16).any fun n =>
    let w := reg s (aSccAtom n)
    bit w 63 && decide (bits w 39 11 ≤ a >>> 11) && decide (a >>> 11 ≤ bits w 39 11 + bits w 53 40)

/-! ### Squares (R115, R119, R121, R237, R421) -/

/-- Square n. -/
def square (s : State) (n : Nat) : Square := smGet square0 s.squares n

def setSquare (s : State) (n : Nat) (v : Square) : State := { s with squares := smSet square0 s.squares n v }

/-- A signal of an amount: the count saturates, SIGSEQ counts; a poisoned square keeps its mark (R119, R237, R421). -/
def sqAdd (s : State) (n amt : Nat) : State :=
  let q := square s n
  if q.psn then s
  else setSquare s n ⟨BitVec.ofNat 32 (min (q.count.toNat + amt) 0xFFFFFFFF), q.sigseq + 1, false⟩

/-- A set: COUNT = VALUE; a poisoned square is rewritten with SIGSEQ 1 (R121, R421). -/
def sqPut (s : State) (n : Nat) (v : W32) : State :=
  let q := square s n
  setSquare s n ⟨v, if q.psn then 1 else q.sigseq + 1, false⟩

/-- The conditions of R116; 7 is no condition. -/
def condHolds (c : Nat) (count v : Nat) : Bool :=
  match c with
  | 0 => true
  | 1 => count == v
  | 2 => count != v
  | 3 => decide (v ≤ count)
  | 4 => decide (count < v)
  | 5 => count &&& v != 0
  | 6 => count &&& v == 0
  | _ => false

/-! ### Quarters -/

def quarter (s : State) (q : Nat) : Quarter := smGet quarter0 s.quarters q

def setQuarter (s : State) (q : Nat) (v : Quarter) : State :=
  { s with quarters := smSet quarter0 s.quarters q v }

def modQuarter (s : State) (q : Nat) (f : Quarter → Quarter) : State := setQuarter s q (f (quarter s q))

def strm (s : State) (q i : Nat) : Strm := smGet strm0 (quarter s q).streams i

def setStrm (s : State) (q i : Nat) (v : Strm) : State :=
  modQuarter s q fun x => { x with streams := smSet strm0 x.streams i v }

def bankKey (q c b : Nat) : Nat := q * 8 + c * 2 + b

def bank (s : State) (q c b : Nat) : Bank := smGet bank0 s.banks (bankKey q c b)

def setBank (s : State) (q c b : Nat) (v : Bank) : State :=
  { s with banks := smSet bank0 s.banks (bankKey q c b) v }

def vkey (q vc r l : Nat) : Nat := ((q * 4 + vc) * 64 + r) * 128 + l

def vreg (s : State) (q vc r l : Nat) : W32 := smGet 0#32 s.vregs (vkey q vc r l)
def vpsn (s : State) (q vc r l : Nat) : Bool := smGet false s.vpsn (vkey q vc r l)

/-- A vector register written with its poison bit (R85). -/
def setVreg (s : State) (q vc r l : Nat) (v : W32) (p : Bool) : State :=
  { s with vregs := smSet 0#32 s.vregs (vkey q vc r l) (if p then 0 else v),
           vpsn := smSet false s.vpsn (vkey q vc r l) p }

/-- A source of QTR_CC_IRQ sets its pending bit (R147). -/
def ccIrq (s : State) (q b : Nat) : State :=
  setReg s (aQtrCcIrq q) (reg s (aQtrCcIrq q) ||| BitVec.ofNat 64 (2 ^ b))

/-- Every in-service quarter. -/
def quartersIn (s : State) : List Nat := (List.range 96).filter (qtrPresent s)

/-- The states of banks as R55 codes them. -/
def bankCode : BankSt → Nat
  | .empty => 0
  | .filling => 1
  | .held => 2
  | .full => 3
  | .draining => 4

/-- Operations of a quarter that take a slot (QTR_STATUS.INFLIGHT, R143). -/
def inflight (s : State) (q : Nat) : Nat := ((quarter s q).ops.filter (·.slot)).length

/-- Operations in flight of a stream. -/
def streamOps (s : State) (q i : Nat) : List Op := (quarter s q).ops.filter fun o => o.stream == i

/-- QTR_STATUS.IDLE: no operation in flight and every bank EMPTY or HELD. -/
def qtrIdle (s : State) (q : Nat) : Bool :=
  inflight s q == 0 &&
    (List.range 8).all fun i => let b := (smGet bank0 s.banks (q * 8 + i)).st; b == .empty || b == .held

/-- The R46 source code of a stream's engine. -/
def srcOfStream (i : Nat) : Nat := i

/-! ### Descriptors in hand -/

/-- Slots of a matrix core counted in slot counter i of its quarter while CORE_SEL selects it (R403). -/
def countSlots (s : State) (q c i n : Nat) : State :=
  if n != 0 && (s.mgt.coreSel == 4 || s.mgt.coreSel == c) then count s (cQtr q i) n else s

/-- The admitted descriptor with an id. -/
def admOf (s : State) (id : Nat) : Option Adm := s.disp.adms.find? fun a => a.id == id

/-- The admitted descriptor with an id changed by f. -/
def modAdm (s : State) (id : Nat) (f : Adm → Adm) : State :=
  { s with disp := { s.disp with adms := s.disp.adms.map fun a => if a.id = id then f a else a } }

/-- JOB_STOP runs: ACTIVE, and not yet READABLE (R392). -/
def stopRuns (s : State) : Bool := fld s aMgtStopStatus 1 1 == 1 && fld s aMgtStopStatus 2 2 == 0

/-- TIME of R233: from the start of the descriptor's beat; for one whose beat has not begun the spec gives no value (free, log
entry 1). -/
def admTime (s : State) (a : Adm) : Nat :=
  if beatNum s < a.beat then (Config.free32 s.free).toNat else s.now - a.t0

/-- A descriptor that is cut at the end of its beat starts JOB_STOP there, whatever cause it reports (R251); the first
reason stands. -/
def noteOverrun (s : State) (id code : Nat) : State :=
  if code = 0x0B ∧ inJob s = true ∧ fld s aMgtStopStatus 0 0 = 0 ∧ (admOf s id).any (fun a => a.status.isNone) = true then
    { s with disp := { s.disp with endStop := s.disp.endStop <|> some 2 } }
  else s

/-- A descriptor ends with a status and DETAIL (R233-R235); the cause that occurred first stands (R236), be it the failure
of a quarter program or of a part of a COPY; what JOB_STOP cuts ends STOPPED, not OVERRUN (R393). -/
def admEnd (s : State) (id code detail : Nat) : State :=
  let s1 := noteOverrun s id code
  modAdm { s1 with free := s.free + 1 } id fun a =>
    let c := (a.bad.map (·.2.1)).getD (if code = 0x0B && stopRuns s then 0x0C else code)
    { a with status := a.status <|> some (c, detail, admTime s a) }

/-- DETAIL of a LAUNCH (R235): EXCEEDED, the R144 status or CODE, the quarter of the first fault or failure. -/
def launchDetail (exceeded : Bool) (b q : Nat) : Nat := (if exceeded then 2 ^ 31 else 0) + b * 256 + q

/-- A quarter program aborted: its LAUNCH ends FAULT with the status and the quarter (R229, R235, R236). -/
def launchFault (s : State) (q status : Nat) : State :=
  match (quarter s q).launch with
  | some l =>
    match admOf s l.id with
    | some a => admEnd s l.id 0x0D (match a.bad with
        | some (p, _, c) => launchDetail a.exceeded c p
        | none => launchDetail a.exceeded status q)
    | none => s
  | none => s

/-- An engine fault (R144, R145): the record captures the first while VALID is 0, the FAULT interrupt is raised, the
quarter program is aborted and its LAUNCH ends with it. -/
def engFault (s : State) (q i status off : Nat) : State :=
  let s1 := if fld s (aQtrEngFault q) 63 63 = 1 then s
    else setReg s (aQtrEngFault q) (BitVec.ofNat 64 (2 ^ 63 + status * 2 ^ 48 + srcOfStream i * 2 ^ 40 + off % 2 ^ 22))
  let s2 := launchFault (ccIrq s1 q 2) q status
  modQuarter s2 q fun x => { x with aborted := x.aborted <|> some status }

/-- Engine statuses (R144). -/
def stIllegalOpcode : Nat := 1
def stIllegalField : Nat := 2
def stIllegalFormat : Nat := 3
def stAddrRange : Nat := 4
def stAlign : Nat := 5
def stWrongStream : Nat := 6
def stWaitTo : Nat := 7
def stPoisonedWord : Nat := 8

/-! ### Access from the host (R340, R353, R354) -/

/-- A bit of the AER uncorrectable status (R349; the numbers are PCIe's, log entry 11). -/
def aerSet (s : State) (b : Nat) : State := { s with host := { s.host with aerU := s.host.aerU ||| 2 ^ b } }

/-- The status bit of a PCIe error in AER's registers: whether it is uncorrectable, and its place (PCIe; log entry 11). -/
def pcieBit (e : PcieErr) : Bool × Nat :=
  match e with
  | .receiver => (false, 0)
  | .badTlp => (false, 6)
  | .badDllp => (false, 7)
  | .replayRollover => (false, 8)
  | .replayTimer => (false, 12)
  | .advisory => (false, 13)
  | .dataLink => (true, 4)
  | .unexpected => (true, 16)
  | .overflow => (true, 17)
  | .malformed => (true, 18)
  | .ecrc => (true, 19)
  | .unsupported => (true, 20)

/-- A PCIe error is reported in AER (R349). -/
def pcieReport (s : State) (e : PcieErr) : State :=
  let b := pcieBit e
  if b.1 then aerSet s b.2 else { s with host := { s.host with aerC := s.host.aerC ||| 2 ^ b.2 } }

/-- A poisoned TLP comes: POISON_RX with its local address, 0 where it has none, and Poisoned TLP Received (R349). -/
def poisonRx (s : State) (a : Nat) : State := raise (aerSet s 12) .hst 1 a

/-- A read of the H2's own times out: CPL_TO, and Completion Timeout (R349). -/
def readTimeout (s : State) : State := raise (aerSet s 14) .hst 2 0

/-- The BARs answer: Memory Space Enable, not D3hot. -/
def barOpen (s : State) : Bool := s.host.mse && !s.host.d3

/-- Boot has ended. -/
def devReady (s : State) : Bool := fld s aHstDevStatus 31 31 == 1

/-- An access that ends as Unsupported Request (R353): bit 20 of the uncorrectable status (R349). -/
def unsupported (s : State) : State :=
  { s with host := { s.host with out := s.host.out ++ [.unsupported], aerU := s.host.aerU ||| 2 ^ 20 } }

/-- A posted write that is refused so. -/
def unsupportedWrite (s : State) : State := aerSet s 20

/-- An access to registers from a source: a host access goes under R353 and R354 (R355). -/
def fromSrc (s : State) (src : Src) (act : State → State) : State :=
  match src with
  | .host => if !barOpen s then unsupportedWrite s else if !devReady s then s else act s
  | _ => act s

end Sys2Proof.Machine
end

