-- ==== Sys2Proof/Machine/Cache.lean ====
section
/-! DEFINITION. The shared cache's general arrays (08, R200-R206): which lines each slice holds, their age and dirty
parts, with the counters that tell of them. Contents are those of memory: the slice is the point of coherence (R206). -/

namespace Sys2Proof.Machine

/-- The classes of R204. -/
def clQtr : Nat := 0
def clUpd : Nat := 1
def clFab : Nat := 2
def clHost : Nat := 3

/-- Element width of a compressed region (R200). -/
def cmpWidth (w : W64) : Nat := 4 * 2 ^ bits w 60 59

/-- The region entry of an address when it is compressed. -/
def cmpRegion (s : State) (a : Nat) : Option W64 :=
  match regionAt s a with
  | some w => if bit w 61 then some w else none
  | none => none

/-- Non-zero elements of width w of a segment's contents (R200). -/
def nonzeros (v w : Nat) : Nat := ((List.range (16384 / w)).filter fun i => v / 2 ^ (w * i) % 2 ^ w != 0).length

/-- Sectors of the encoded form of a segment at width w (R200). -/
def sectors (v w : Nat) : Nat := min 8 ((16384 / w / 8 + (nonzeros v w * w + 7) / 8 + 255) / 256)

/-- A slice runs in quota mode (R205). -/
def quotaMode (s : State) (k : Nat) : Bool := fld s (aSccMode k) 2 1 != 0

/-- The ways that a fill of a class may take in a slice (R203, R204). -/
def fillWays (s : State) (k cls : Nat) : List Nat :=
  if quotaMode s k then
    let q := reg s (aSccQuota k)
    let n := fun c => bits q (4 * c + 3) (4 * c)
    let lo := ((List.range cls).map n).foldl (· + ·) 0
    (List.range (n cls)).map (lo + ·)
  else List.range 14

/-- Key of a way: slice, set, way. -/
def wayKey (k set way : Nat) : Nat := (k * 8192 + set) * 16 + way

/-- The set of a line address (R203; which set, the spec does not say). -/
def setOf (la : Nat) : Nat := Config.cacheSet la % 8192

/-- The key of the way that holds a line. -/
def lineAt (s : State) (la : Nat) : Option Nat := (s.stk.lines.find? fun p => p.2.addr == la).map (·.1)

def modStk (s : State) (f : Stk → Stk) : State := { s with stk := f s.stk }

/-- Dirty 64 B parts of a line. -/
def dirtyParts (c : CLine) : Nat := ((List.range 4).filter fun i => c.dirty.testBit i).length

/-- How long ago a way was filled: 0 for an empty way, else one more than the number of its fill. -/
def wayAge (s : State) (k set w : Nat) : Nat :=
  match s.stk.lines.find? fun p => p.1 == wayKey k set w with
  | some p => p.2.fill + 1
  | none => 0

/-- The way of a set that a fill takes: an empty one of the class's ways, else the one with the oldest fill (R204). -/
def victim (s : State) (k set cls : Nat) : Nat :=
  match fillWays s k cls with
  | [] => 0
  | w :: t => t.foldl (fun (b x : Nat) => if decide (wayAge s k set x < wayAge s k set b) then x else b) w

/-- A line that is present becomes dirty in some parts. -/
def dirtyLine (s : State) (key dirty : Nat) : State :=
  modStk s fun t => { t with lines := t.lines.map fun p => if p.1 = key then (p.1, { p.2 with dirty := p.2.dirty ||| dirty }) else p }

/-- A metadata line, apart from every line of local addresses (R201). -/
def metaLine (k c u : Nat) : Nat := 2 ^ 36 + (k * 128 + c) * 1024 + u / 512

/-- The 64 B part of its metadata line that holds the nibble of a slot (R200, R201). -/
def metaPart (u : Nat) : Nat := 2 ^ (u % 512 / 128)

/-- The lines of a segment that are present, by key. -/
def segLines (s : State) (g : Nat) : List Nat := (s.stk.lines.filter fun p => p.2.addr / 8 == g).map (·.1)

/-- A line is written back where it is dirty (R206). In a compressed region its segment is (R201): read first where lines of it
are missing, encoded, and written; every line of it is clean then, and its nibble follows. -/
def writeBack (s : State) (key : Nat) (c : CLine) : State :=
  let k := key / 131072
  let d := dirtyParts c
  if d = 0 then s
  else match cmpRegion s (c.addr * 256) with
    | some w =>
      let g := c.addr / 8
      let n := sectors (readNat s (g * 2048) 2048) (cmpWidth w)
      let old := smGet 7 s.stk.nibble g + 1
      let ks := segLines s g
      let s1 := if ks.length < 8 then count (count s (cMem k 0) (4 * old)) (cMem k 9) old else s
      modStk (count (count s1 (cMem k 8) d) (cMem k 1) (4 * n)) fun t => { t with
        nibble := smSet 7 t.nibble g (n - 1),
        lines := t.lines.map fun p => if ks.contains p.1 then (p.1, { p.2 with dirty := 0 }) else p }
    | none => count (count s (cMem k 8) d) (cMem k 1) d

/-- A line is placed in a way that is free for it. -/
def placeLine (s : State) (key la dirty : Nat) : State :=
  modStk s fun t => { t with lines := smInsert t.lines key ⟨la, t.fills, dirty⟩, fills := t.fills + 1 }

/-- The metadata line of an address, filled where it is not present, becomes dirty in the nibble's part, or is only read (R201).
`drop` empties the way that a fill takes. -/
def touchMeta (drop : State → Nat → State) (s : State) (cls a : Nat) (wr : Bool) : State :=
  let (k, c, u) := locate s a
  let m := metaLine k c u
  let d := if wr then metaPart u else 0
  match lineAt s m with
  | some key => dirtyLine (count s (cMem k 6) 1) key d
  | none =>
    let s1 := count (count s (cMem k 7) 1) (cMem k 0) 4
    let key := wayKey k (setOf m) (victim s1 k (setOf m) cls)
    placeLine (drop s1 key) key m d

/-- A line leaves its way; where that changes a nibble, the metadata line is written, which may take a line's way in turn: each
turn leaves one line of data less, so `fuel` lines are enough. -/
def evictLoop : Nat → State → Nat → State
  | 0, s, key => modStk s fun t => { t with lines := smErase t.lines key }
  | f + 1, s, key =>
    match s.stk.lines.find? fun p => p.1 == key with
    | none => s
    | some p =>
      let s1 := modStk (writeBack s key p.2) fun t => { t with lines := smErase t.lines key }
      if dirtyParts p.2 != 0 && (cmpRegion s (p.2.addr * 256)).isSome then
        touchMeta (evictLoop f) s1 clQtr (p.2.addr * 256) true
      else s1

/-- A line leaves its way. -/
def evict (s : State) (key : Nat) : State := evictLoop (s.stk.lines.length + 1) s key

/-- A line is installed for a class with some parts dirty. -/
def install (s : State) (k cls la dirty : Nat) : State :=
  let key := wayKey k (setOf la) (victim s k (setOf la) cls)
  placeLine (evict s key) key la dirty

/-- Lines of the general arrays that hold bytes of [a, a + n) are written back and leave (R167, R208). -/
def dropLines (s : State) (a n : Nat) : State :=
  ((s.stk.lines.filter fun p => decide (p.2.addr * 256 < a + n) && decide (a < p.2.addr * 256 + 256)).map (·.1)).foldl evict s

/-- Parts of a line that [a, a + n) touches. -/
def partsOf (la a n : Nat) : Nat :=
  ((List.range 4).map fun i =>
    let lo := la * 256 + 64 * i
    if lo < a + n ∧ a < lo + 64 then 2 ^ i else 0).foldl (· + ·) 0

/-- An access of a class to one line (R201, R203, R204, R206): a hit, a fill, or a whole-line write that installs the
line without one; a compressed segment comes in whole. -/
def touchLine (s : State) (cls la parts : Nat) (wr whole : Bool) : State :=
  let a := la * 256
  let (k, _, _) := locate s a
  let d := if wr then parts else 0
  match lineAt s la with
  | some key => dirtyLine (count s (cMem k 6) 1) key d
  | none =>
    if whole then install s k cls la d
    else match cmpRegion s a with
      | some _ =>
        let s1 := touchMeta evict s cls a false
        let n := smGet 7 s1.stk.nibble (la / 8) + 1
        let s2 := count (count (count s1 (cMem k 0) (4 * n)) (cMem k 9) n) (cMem k 7) 8
        (List.range 8).foldl (fun t i =>
          let l := la / 8 * 8 + i
          if (lineAt t l).isSome then t else install t k cls l (if l = la then d else 0)) s2
      | none => install (count (count s (cMem k 7) 1) (cMem k 0) 4) k cls la d

/-- A write of a whole line ends the line's recovery (R383). -/
def endRecov (s : State) (la : Nat) : State :=
  if s.stk.recov.isEmpty then s
  else modStk s fun t => { t with recov := t.recov.filter fun r => r.1 != la * 256 }

/-- An access of a class to stacked memory [a, a + n), line by line; lines of an atomic region are pinned and no part of
the general arrays (R203). -/
def touch (s : State) (cls a n : Nat) (wr : Bool) : State :=
  if n = 0 ∨ stackEnd ≤ a then s
  else (List.range ((a + n - 1) / 256 - a / 256 + 1)).foldl (fun t i =>
    let la := a / 256 + i
    let whole := wr && decide (a ≤ la * 256) && decide (la * 256 + 256 ≤ a + n)
    let t := if whole then endRecov t la else t
    if inAtomic t (la * 256) then t
    else touchLine t cls la (partsOf la a n) wr whole) s

/-! ### Requests that wait at the slice (R210, R211, R214, R382) -/

/-- A request for a line waits at its slice: the stack is in its window, runs its traffic generators alone, or retrains the
channel that the line must be read from. -/
def lineWaits (s : State) (la : Nat) : Bool :=
  let (k, c, _) := locate s (la * 256)
  s.stk.window == some k || fld s (aMemCtl k) 0 0 == 1 || (smGet 0 s.stk.chan (k * 128 + c) == 1 && (lineAt s la).isNone)

/-- No stack stands still. -/
def stacksFree (s : State) : Bool :=
  s.stk.window.isNone && s.stk.chan.isEmpty && (List.range 8).all fun k => fld s (aMemCtl k) 0 0 == 0

/-- A request for [a, a + n) waits at its slice. A write of a whole line does not wait for the line's recovery (R383). -/
def sliceWaits (s : State) (a n : Nat) (wr : Bool) : Bool :=
  n != 0 && decide (a < stackEnd) &&
    ((s.stk.recov.any fun r => decide (r.1 < a + n) && decide (a < r.1 + 256) &&
        !(wr && decide (a ≤ r.1) && decide (r.1 + 256 ≤ a + n))) ||
      (!stacksFree s && (List.range ((a + n - 1) / 256 - a / 256 + 1)).any fun i => lineWaits s (a / 256 + i)))

end Sys2Proof.Machine
end

