-- ==== Sys2Proof/Machine/FabOps.lean ====
section
/-! DEFINITION. The shared operations of the fabric (10): routing and injection of packets, requests and their
outstanding records, circuits with their credit. -/

namespace Sys2Proof.Machine

/-- The state with the fabric changed. -/
def modFab (s : State) (f : Fab → Fab) : State := { s with fab := f s.fab }

/-- FAB_PORTp.STATE codes (R269). -/
def portState (s : State) (p : Nat) : Nat := fld s (aFabPort p) 15 12
def portEn (s : State) (p : Nat) : Bool := fld s (aFabPort p) 31 31 == 1
/-- A port with STATE UP or DEGRADED. -/
def portUp (s : State) (p : Nat) : Bool := portState s p == 1 || portState s p == 2

/-- The native counter of a FAB_ERR bit, if it has one (R397). -/
def fabCounter (b : Nat) : Option Nat :=
  match b with
  | 3 => some 1392
  | 5 => some 1393
  | 4 => some 1394
  | 12 => some 1395
  | 6 => some 1396
  | 11 => some 1397
  | _ => none

/-- An error of the fabric with its port and local address (R298), counted where R397 names a counter. -/
def raiseF (s : State) (b port addr : Nat) : State :=
  let s1 := match fabCounter b with
    | some n => count s n 1
    | none => s
  raise s1 .fab b (port * 2 ^ 40 + addr % 2 ^ 40)

/-- The bits of FAB_ERR. -/
def fRange : Nat := 0
def fRwi : Nat := 1
def fActiveBank : Nat := 2
def fNoRoute : Nat := 3
def fStale : Nat := 4
def fLateRsp : Nat := 5
def fAvMisdir : Nat := 6
def fRemote : Nat := 7
def fLaneFail : Nat := 8
def fPortDown : Nat := 9
def fPlan : Nat := 10
def fCtrlDisplace : Nat := 11
def fSink : Nat := 12

/-- The ports that a bank of the routing table gives for a destination: the set of the first enabled entry that matches
(R276). -/
def routePorts (s : State) (bank dst : Nat) : List Nat :=
  match ((List.range 256).map fun e => reg s (aFabRte bank e)).find? fun w =>
      bit w 63 && decide (bits w 15 0 ≤ dst) && decide (dst ≤ bits w 31 16) with
  | some w => (List.range 24).filter fun p => bit w (32 + p)
  | none => []

/-- The port of a packet: none where no port of the set is usable (R276), else the one that the formula gives, which is
never exchanged for another (R277, R296). -/
def routePort (s : State) (bank : Nat) (k : Pkt) : Option Nat :=
  let ps := routePorts s bank k.dst
  if ps.any (portUp s) then ps[(k.src ^^^ (k.flow * 8) ^^^ k.seq) % ps.length]? else none

/-- Cells of a packet (R260): 7 payload words each, at least one. -/
def pktCells (k : Pkt) : Nat := max 1 ((k.words.length + 6) / 7)

/-- Cells offered toward a position of the district are counted (R314). -/
def offer (s : State) (p n : Nat) : State :=
  if p < 100 then s
  else
    let y := if 300 ≤ p then p - 300 else (p - 100) % 16
    { s with opt := { s.opt with offered := smMod 0 s.opt.offered y (· + n) } }

/-- A packet waits at a port for positions (R266). A packet that leaves through a DATELINE port continues on channel
1 (R272). -/
def pushQ (s : State) (p : Nat) (x : QPkt) : State :=
  let vc := if fld s (aFabPort p) 27 27 = 1 then 1 else x.k.vc
  modFab (offer s p (pktCells x.k)) fun f => { f with pktQ := smMod [] f.pktQ p (· ++ [{ x with k := { x.k with vc := vc } }]) }

/-- A packet of this chip waits at a port. -/
def pushPkt (s : State) (p : Nat) (k : Pkt) : State := pushQ s p ⟨k, 32, 0⟩

/-- A packet of this chip is delivered here. -/
def deliver (s : State) (k : Pkt) : State := modFab s fun f => { f with inbox := f.inbox ++ [⟨k, 32, 0⟩] }

/-- A CTRL packet waits at a port. -/
def pushCtrl (s : State) (p : Nat) (k : Pkt) : State :=
  modFab s fun f => { f with ctrlQ := smMod [] f.ctrlQ p (· ++ [k]),
                             ctrlWait := if smGet [] f.ctrlQ p = [] then smSet 0 f.ctrlWait p s.now else f.ctrlWait }

/-- A CTRL packet of this chip: it travels one hop and names no destination chip (R258, R275). -/
def ctrlPkt (s : State) (typ : Nat) (ws : List W64) : Pkt :=
  ⟨0, thisChip s, 2, 0, fld s aFabRtCtl 0 0, typ, 0, 0, ws.map fun w => ⟨w, false⟩⟩

/-- An RSP packet to a requester (R285, R286). -/
def rspPkt (s : State) (k : Pkt) (typ : Nat) (ws : List CWord) : Pkt :=
  ⟨k.src, thisChip s, 1, 0, fld s aFabRtCtl 0 0, typ, k.seq, k.flow, ws⟩

/-- A packet is injected (R276-R278); one for this chip is delivered. A REQ that finds no route is answered locally
with ERROR cause NO_ROUTE (R285). -/
def inject (s : State) (k : Pkt) : State :=
  let act := fld s aFabRtCtl 0 0
  let k := { k with epoch := act }
  if k.dst = thisChip s then deliver s k
  else match routePort s act k with
    | some p => pushPkt s p k
    | none =>
      let s1 := raiseF s fNoRoute 0 0
      if k.cls = 0 then
        deliver s1 ⟨k.src, k.dst, 1, 0, act, 3, k.seq, k.flow, [⟨3, false⟩]⟩
      else s1

/-- The address word of R260. -/
def addrWord (afmt addr bytes : Nat) : CWord :=
  ⟨BitVec.ofNat 64 (afmt * 2 ^ 60 + (bytes / 8 - 1) * 2 ^ 40 + addr % 2 ^ 40), false⟩

/-- A REQ leaves with a fresh SEQ of its FLOW and is recorded as outstanding for operation `op` of quarter `q`
(R273, R286). `port` is an avenue port, or none for the street ports. -/
def sendReq (s : State) (dst flow typ : Nat) (ws : List CWord) (addr len q op : Nat) (port : Option Nat) : State :=
  let seq := smGet 0 s.fab.nextSeq flow % 4096
  let k : Pkt := ⟨dst, thisChip s, 0, 0, fld s aFabRtCtl 0 0, typ, seq, flow, ws⟩
  let s1 := modFab s fun f => { f with nextSeq := smSet 0 f.nextSeq flow (seq + 1),
                                       reqs := f.reqs ++ [⟨dst, flow, seq, typ, addr, len, q, op, s.now, none⟩] }
  match port with
  | some p => pushPkt s1 p k
  | none => inject s1 k

/-- A transfer of n bytes to address a, cut into packets of at most 4 KiB that cross no 4 KiB boundary (R260): offset,
address and length of each. -/
def splitXfer (a n : Nat) : Nat → Nat → List (Nat × Nat × Nat)
  | _, 0 => []
  | o, f + 1 =>
    if n ≤ o then []
    else
      let m := min (4096 - (a + o) % 4096) (n - o)
      (o, a + o, m) :: splitXfer a n (o + m) f

/-- WRITE or ATOMIC_ADD packets that carry words to an address of another chip. -/
def sendWrite (s : State) (dst flow typ afmt a : Nat) (ws : List CWord) (q op : Nat) (port : Option Nat) : State :=
  let n := ws.length * 8
  (splitXfer a n 0 (n / 4096 + 2)).foldl (fun t (o, b, m) =>
    sendReq t dst flow typ (addrWord afmt b m :: (ws.drop (o / 8)).take (m / 8)) b m q op port) s

/-- READ packets of n bytes at address a of another chip, to be written at local address d. -/
def sendRead (s : State) (dst flow a n d q op : Nat) : State :=
  (splitXfer a n 0 (n / 4096 + 2)).foldl (fun t (o, b, m) =>
    sendReq t dst flow 2 [addrWord 0 b m] (d + o) m q op none) s

/-- A remote signal by REQ SIGNAL (R119, R259). -/
def sendSignal (s : State) (dst flow sq amt q op : Nat) (port : Option Nat) : State :=
  sendReq s dst flow 3 [⟨BitVec.ofNat 64 (sq + amt * 65536), false⟩] 0 0 q op port

/-! ### Circuits -/

/-- The circuit entry. -/
def circ (s : State) (n : Nat) : W64 := reg s (aFabCirc n)

/-- This chip holds the source entry of circuit n, and a circuit that is no tree ends at `chip` (R283). -/
def circSource (s : State) (n : Nat) (chip : Nat) : Bool :=
  let w := circ s n
  decide (n < 1024) && bit w 63 && bits w 61 57 == 31 && (bit w 62 || bits w 31 16 == chip)

/-- The street ports of a circuit's OUT. -/
def circOut (s : State) (n : Nat) : List Nat := (List.range 24).filter fun p => bit (circ s n) (32 + p)

/-- A cell of a circuit waits at every port of OUT for its reserved slots (R266, R282). -/
def circPut (s : State) (n : Nat) (c : List CWord) : State :=
  (circOut s n).foldl (fun t p =>
    modFab t fun f => { f with circQ := smMod [] f.circQ (p * 1024 + n) (· ++ [c]) }) s

/-- Data of word i of a cell. -/
def cellWord (c : List CWord) (i : Nat) : W64 :=
  match ((c)[i]?) with
  | some w => w.v
  | none => 0

/-- Data cells to come once a cell has gone: one fewer, or NCELLS after a WRITE_HEAD (R261). -/
def leftAfter (c : List CWord) (left : Nat) : Nat :=
  if 0 < left then left - 1
  else if bits (cellWord c 0) 3 0 = 1 then bits (cellWord c 1) 31 0
  else 0

/-- Waiting cells of a source go to the ports while the circuit holds credit (R281); each uses one. -/
def circPumpLoop (s : State) (n : Nat) : List (Nat × List CWord) → State
  | [] => modFab s fun f => { f with circSrc := smSet [] f.circSrc n [] }
  | c :: t =>
    if smGet 0 s.fab.cred n = 0 then modFab s fun f => { f with circSrc := smSet [] f.circSrc n (c :: t) }
    else
      let s1 := modFab s fun f =>
        { f with cred := smMod 0 f.cred n (· - 1), srcLeft := smMod 0 f.srcLeft n (leftAfter c.2) }
      circPumpLoop (circPut s1 n c.2) n t

def circPump (s : State) (n : Nat) : State := circPumpLoop s n (smGet [] s.fab.circSrc n)

/-- The sender of a circuit cell: operation `op` of quarter q. -/
def ownKey (q op : Nat) : Nat := op * 128 + q

/-- The sender of a header signal, which no operation waits for. -/
def ownNone : Nat := 127

/-- Cells of one transfer join a circuit at its source (R262). -/
def circSend (s : State) (n own : Nat) (cells : List (List CWord)) : State :=
  circPump (modFab s fun f => { f with circSrc := smMod [] f.circSrc n (· ++ cells.map fun c => (own, c)) }) n

/-- Cells of a sender still wait for credit on the circuit (R71). -/
def circWaits (s : State) (n own : Nat) : Bool := (smGet [] s.fab.circSrc n).any fun x => x.1 == own

/-- The cells of a sender that still wait on the circuit are not sent (R71); those of other senders are. -/
def circDrop (s : State) (n own : Nat) : State :=
  modFab s fun f =>
    let l := smGet [] f.circSrc n
    { f with circSrc := smSet [] f.circSrc n (l.filter fun x => x.1 != own),
             srcLeft := if (l.head?.map (·.1)) = some own then smSet 0 f.srcLeft n 0 else f.srcLeft }

/-- Words cut into cells of 8, the last filled with zero words (R70, R134, R137). -/
def cellsOf : List CWord → Nat → List (List CWord)
  | _, 0 => []
  | ws, f + 1 =>
    match ws with
    | [] => []
    | _ =>
      let c := ws.take 8
      (c ++ List.replicate (8 - c.length) ⟨0, false⟩) :: cellsOf (ws.drop 8) f

/-- A control cell (R261): its first two words, the rest zero. -/
def ctrlCell (w0 w1 : Nat) : List CWord :=
  ⟨BitVec.ofNat 64 w0, false⟩ :: ⟨BitVec.ofNat 64 w1, false⟩ :: List.replicate 6 ⟨0, false⟩

/-- A transfer: WRITE_HEAD and its data cells (R261). -/
def circWrite (s : State) (n own a : Nat) (ws : List CWord) : State :=
  let cs := cellsOf ws (ws.length + 1)
  circSend s n own (ctrlCell (1 + a * 256) cs.length :: cs)

/-- A SIGNAL control cell (R261). -/
def circSignalSend (s : State) (n sq amt : Nat) : State := circSend s n ownNone [ctrlCell (2 + sq * 2 ^ 48) amt]

/-! ### Credit (R264, R281, R282) -/

/-- A list of pending returns (key * 2^32 + units) with u units more for a key: returns of one key are coalesced. -/
def retAdd (key u : Nat) (l : List Nat) : List Nat :=
  if l.any (fun x => x / 2 ^ 32 == key) then l.map fun x => if x / 2 ^ 32 = key then x + u else x
  else l ++ [key * 2 ^ 32 + u]

/-- A return of u units for a key waits at a port (R264). A key is the return field's upper 12 bits: RKIND and the
circuit, or RKIND and the channel. -/
def addRet (s : State) (p key u : Nat) : State :=
  if u = 0 then s else modFab s fun f => { f with rets := smMod [] f.rets p (retAdd key u) }

/-- The key of a circuit's return, and of a channel's. -/
def retCirc (n : Nat) : Nat := 1024 + n
def retVc (ch : Nat) : Nat := 2048 + ch * 128

/-- Credit of u units of 8 cells goes up a circuit: to the source's own count, or out through IN_PORT (R281). -/
def circUp (s : State) (n u : Nat) : State :=
  let inp := bits (circ s n) 61 57
  if inp = 31 then circPump (modFab s fun f => { f with cred := smMod 0 f.cred n (· + 8 * u) }) n
  else addRet s inp (retCirc n) u

/-- The branches of an entry: its street ports, and 32 for LOCAL. -/
def circBranches (s : State) (n : Nat) : List Nat := circOut s n ++ (if bit (circ s n) 56 then [32] else [])

/-- Credit of u units returns on one branch: a replicating chip passes on only the least cumulative return of its
branches (R282). -/
def circReturn (s : State) (n branch u : Nat) : State :=
  let bs := circBranches s n
  if bs.length ≤ 1 then circUp s n u
  else
    let s1 := modFab s fun f => { f with treeRet := smMod 0 f.treeRet (branch * 1024 + n) (· + u) }
    let low := match bs.map fun b => smGet 0 s1.fab.treeRet (b * 1024 + n) with
      | [] => 0
      | x :: t => t.foldl min x
    let sent := smGet 0 s1.fab.treeSent n
    circUp (modFab s1 fun f => { f with treeSent := smSet 0 f.treeSent n low }) n (low - sent)

/-- The sink of circuit n has written k cells: whole units of 8 cells return (R264, R281). -/
def sinkFree (s : State) (n k : Nat) : State :=
  let c := smGet sink0 s.fab.sinks n
  let t := c.freed + k
  circReturn (modFab s fun f => { f with sinks := smSet sink0 f.sinks n { c with freed := t % 8 } }) n 32 (t / 8)

/-- A delivered circuit cell leaves the cells not yet acted on. -/
def takeCirc (s : State) (n : Nat) (cell : List CWord) : State :=
  modFab s fun f => { f with circRx := smMod [] f.circRx n fun l => match l with
    | c :: t => if c = cell then t else c :: t
    | [] => [] }

def modSink (s : State) (n : Nat) (f : Sink → Sink) : State :=
  modFab s fun x => { x with sinks := smMod sink0 x.sinks n f }

/-- CKIND of a control cell. -/
def ctrlKind (c : List CWord) : Nat := bits (cellWord c 0) 3 0

/-- Some of words i to j of a cell is not zero. -/
def wordsSet (c : List CWord) (i j : Nat) : Bool := (List.range (j + 1 - i)).any fun m => cellWord c (i + m) != 0

/-- A control cell is malformed (R261), or a word of it that would be used as control is poisoned (R379). -/
def ctrlBad (c : List CWord) : Bool :=
  let w0 := cellWord c 0
  let w1 := cellWord c 1
  (c.take 4).any (·.psn) || (match ctrlKind c with
    | 1 => bits w0 63 48 != 0 || bits w0 7 4 != 0 || bits w1 63 32 != 0 || wordsSet c 2 7 || c.any (·.psn)
    | 2 => bits w0 47 4 != 0 || bits w1 63 16 != 0 || bits w1 15 0 == 0 || wordsSet c 2 7 || c.any (·.psn)
    | 3 => bits w0 63 4 != 0 || wordsSet c 1 3
    | _ => true)

/-- A cell is the sink's turn: the oldest one delivered, or one that no frame has brought (R262; log entry 43). -/
def circTurn (s : State) (n : Nat) (c : List CWord) : Bool :=
  match smGet [] s.fab.circRx n with
  | [] => true
  | x :: _ => x == c

/-- FAB_ERR.SINK with the port on which the circuit comes (R298). -/
def raiseSink (s : State) (n addr : Nat) : State := raiseF s fSink (bits (circ s n) 61 57) addr

/-- A control cell of a kind comes to the sink of circuit n: whether it is acted on, and the state before it is (R261,
R279, R285). Cells are taken in the order of the circuit (R262). The sink tells control cells from data by counting: while
data cells are due, it is none. A sink that has met a malformed cell discards every cell until the job ends; the cells it
discards return their credit. -/
def sinkCtl (s : State) (n : Nat) (c : List CWord) (kind : Nat) : State × Bool :=
  let s1 := takeCirc s n c
  let k := smGet sink0 s.fab.sinks n
  if !circTurn s n c then (s, false)
  else if !(bit (circ s n) 63 && bit (circ s n) 56) then (raiseSink s1 n 0, false)
  else if k.dead then (sinkFree s1 n 1, false)
  else if 0 < k.left then (s, false)
  else if ctrlBad c then (sinkFree (modSink (raiseSink s1 n 0) n fun x => { x with dead := true }) n 1, false)
  else if ctrlKind c ≠ kind then (s, false)
  else (s1, true)

/-! ### Avenue steering (R311, R317) -/

/-- The position of a chip in the district (OPT_DMEM), if it has one. -/
def districtPos (s : State) (chip : Nat) : Option Nat :=
  if !bit (reg s aOptAvCtl) 63 then none
  else (List.range 16).find? fun m => bit (reg s (aOptDmem m)) 31 && bits (reg s (aOptDmem m)) 15 0 == chip

/-- This chip's position: the d of R74. -/
def myPos (s : State) : Nat := fld s aOptAvCtl 51 48

/-- Queue of a plane and position. -/
def avQueue (plane y : Nat) : Nat := 100 + plane * 16 + y

/-- Cells waiting in a queue. -/
def queuedCells (s : State) (k : Nat) : Nat := ((smGet [] s.fab.pktQ k).map fun x => pktCells x.k).foldl (· + ·) 0

/-- The queue of a packet for position y (R317): the carried plane with the fewest cells waiting, ties to the lowest;
where no plane carries y, it waits. -/
def avSteer (s : State) (y : Nat) : Nat :=
  match smGet [] s.opt.carried y with
  | [] => 300 + y
  | p :: t =>
    avQueue (t.foldl (fun b x =>
      let m := queuedCells s (avQueue x y)
      let n := queuedCells s (avQueue b y)
      if m < n ∨ (m = n ∧ x < b) then x else b) p) y

/-- Requests of an operation that are outstanding (R142). -/
def opReqs (s : State) (q op : Nat) : List Req := s.fab.reqs.filter fun r => r.q == q && r.op == op

end Sys2Proof.Machine
end

