-- ==== Sys2Proof/Machine/Stream.lean ====
section
/-! DEFINITION. Engine streams (05): the instruction word and its checks, fetching, the order of side effects, the
square instructions, faults, and the writes of stream registers. -/

namespace Sys2Proof.Machine

/-! ### The instruction word (R111) -/

def wOpcode (w : W128) : Nat := bits w 127 122
def wPcond (w : W128) : Nat := bits w 121 119
def wPsq (w : W128) : Nat := bits w 118 103
def wPval (w : W128) : Nat := bits w 102 87
def wSigsq (w : W128) : Nat := bits w 86 71
def wSigen (w : W128) : Bool := bit w 70
def wSigdst (w : W128) : Bool := bit w 69
def wCx (w : W128) : Nat := bits w 68 64
/-- PB of a parameter-block body (R114). -/
def wPb (w : W128) : Nat := bits w 63 48

/-- The opcodes of R113. -/
def opNop : Nat := 0x01
def opMma : Nat := 0x04
def opDcfg : Nat := 0x08
def opDrain : Nat := 0x09
def opValu : Nat := 0x10
def opVld : Nat := 0x11
def opVst : Nat := 0x12
def opVred : Nat := 0x13
def opVrelay : Nat := 0x14
def opTopk : Nat := 0x15
def opVrand : Nat := 0x16
def opMove : Nat := 0x20
def opGather : Nat := 0x24
def opScatter : Nat := 0x25
def opPrjsub : Nat := 0x28
def opSqsig : Nat := 0x30
def opSqwait : Nat := 0x31
def opSqset : Nat := 0x32

def opcodes : List Nat :=
  [opNop, opMma, opDcfg, opDrain, opValu, opVld, opVst, opVred, opVrelay, opTopk, opVrand, opMove, opGather, opScatter,
   opPrjsub, opSqsig, opSqwait, opSqset]

/-- The opcodes that stream i accepts (R106). -/
def accepts (i opc : Nat) : Bool :=
  opc == opNop || opc == opSqsig || opc == opSqwait || opc == opSqset ||
    (if i < 4 then opc == opMma
     else if i < 8 then opc == opDcfg || opc == opDrain
     else if i < 12 then
       opc == opValu || opc == opVld || opc == opVst || opc == opVred || opc == opVrelay || opc == opTopk ||
         opc == opVrand
     else if i = 12 then opc == opGather || opc == opScatter
     else opc == opMove || opc == opPrjsub)

/-- Reserved CX and body bits are zero (R112), by opcode. -/
def reservedZero (w : W128) : Bool :=
  let o := wOpcode w
  if o = opNop then wCx w == 0 && bits w 63 0 == 0
  else if o = opMma then bits w 65 64 == 0 && bits w 1 0 == 0
  else if o = opDcfg then wCx w == 0 && bits w 45 0 == 0
  else if o = opDrain then bits w 67 64 == 0 && bits w 2 0 == 0
  else if o = opValu then
    wCx w == 0 && bits w 19 17 == 0 && (bits w 63 58 == 0x0E || bits w 31 28 == 0) && (bit w 20 || bits w 16 0 == 0)
  else if o = opVld || o = opVst then wCx w == 0
  else if o = opSqsig then wCx w == 0 && bits w 14 0 == 0 && (bit w 15 || bits w 47 32 == 0)
  else if o = opSqwait then wCx w == 0 && bits w 44 32 == 0
  else if o = opSqset then wCx w == 0 && bits w 47 32 == 0
  else wCx w == 0 && bits w 47 0 == 0

/-- The word checks of R112, in their order: the status of the first that fails. -/
def wordStatus (i : Nat) (psn : Bool) (w : W128) : Option Nat :=
  if psn then some stPoisonedWord
  else if !opcodes.contains (wOpcode w) then some stIllegalOpcode
  else if !accepts i (wOpcode w) then some stWrongStream
  else if wPcond w = 7 || (wPcond w = 0 && (wPsq w != 0 || wPval w != 0)) || !reservedZero w ||
      (wOpcode w = opGather && wSigdst w) then some stIllegalField
  else none

/-! ### Fetching (R107) -/

/-- Slots of a ring. -/
def ringSlots (cfg : W64) : Nat := 16 * 2 ^ bits cfg 29 26

/-- Instructions waiting: (HEAD - FETCH) mod 2^16. -/
def ringCount (ptr : W64) : Nat := (bits ptr 15 0 + 65536 - bits ptr 31 16) % 65536

/-- Local-store offset of the slot at FETCH. -/
def slotOff (cfg ptr : W64) : Nat := bits cfg 21 0 + 16 * (bits ptr 31 16 % ringSlots cfg)

/-- The engine may read the next word (R107, R110). -/
def mayFetch (s : State) (q i : Nat) : Bool :=
  let cfg := reg s (aQtrStrmCfg q i)
  let ptr := reg s (aQtrStrmPtr q i)
  bit cfg 31 && ringCount ptr != 0 && decide ((strm s q i).queue.length < 4) &&
    (!bit ptr 48 || bits ptr 31 16 != bits ptr 47 32)

/-- FETCH advances by one; STREAM_LOW is raised when the count falls to LOW or below (QTR_STRMs_CFG.LOW). -/
def advanceFetch (s : State) (q i : Nat) : State :=
  let s1 := setFld s (aQtrStrmPtr q i) 31 16 (fld s (aQtrStrmPtr q i) 31 16 + 1)
  if ringCount (reg s1 (aQtrStrmPtr q i)) ≤ fld s1 (aQtrStrmCfg q i) 25 22 then ccIrq s1 q 1 else s1

/-- The word of the next slot, its offset and poison. -/
def nextWord (s : State) (q i : Nat) : Fetched × Bool :=
  let off := slotOff (reg s (aQtrStrmCfg q i)) (reg s (aQtrStrmPtr q i))
  let a := lsBase q + off
  (⟨off, BitVec.ofNat 128 (readNat s a 16)⟩, anyPsn s a 16)

/-- STREAM_FETCH (R107, R112, R141 step 1): the word at FETCH passes the word checks and joins the engine's queue, or
faults. -/
def doFetch (s : State) (q i : Nat) : State :=
  if !mayFetch s q i then s
  else
    let (f, psn) := nextWord s q i
    let s1 := advanceFetch s q i
    match wordStatus i psn f.word with
    | some st => engFault s1 q i st f.off
    | none => setStrm s1 q i { strm s1 q i with queue := (strm s1 q i).queue ++ [f] }

/-! ### Starting an instruction (R141 steps 2 to 5) -/

/-- The quarter starts instructions: its program is not aborted and the cut has not begun (R144, R250). -/
def mayStart (s : State) (q : Nat) : Bool := (quarter s q).aborted.isNone && !s.disp.cut

/-- The word at the head of the engine's queue leaves it. -/
def popHead (s : State) (q i : Nat) : State := setStrm s q i ⟨(strm s q i).queue.drop 1, none, false, none⟩

/-- A head instruction that fails a check faults (R144). -/
def failHead (s : State) (q i st : Nat) (f : Fetched) : State := engFault (popHead s q i) q i st f.off

/-- The predicate of a word (R116, R117): none when its square reads poisoned (R421). -/
def predicate (s : State) (w : W128) : Option Bool :=
  if wPcond w = 0 then some true
  else
    let x := square s (wPsq w)
    if x.psn then none else some (condHolds (wPcond w) x.count.toNat (wPval w))

/-- What stands at the head of a stream's queue for a command that starts it. -/
inductive Head where
  /-- nothing that the command could start -/
  | no
  /-- the predicate's square reads poisoned -/
  | bad (f : Fetched)
  | ok (f : Fetched) (p : Bool)
  deriving DecidableEq, Repr

/-- A quarter-scope VRED holds the streams of VC1 to VC3 (R133). -/
def exclBlocks (s : State) (q i : Nat) : Bool :=
  decide (9 ≤ i) && decide (i ≤ 11) && (quarter s q).ops.any (·.excl)

/-- The head word, if the command is for its opcode, and its predicate, which is read once (R117). -/
def headOf (s : State) (q i : Nat) (isOp : W128 → Bool) : Head :=
  match (strm s q i).queue with
  | [] => .no
  | f :: _ =>
    if !mayStart s q || exclBlocks s q i || !isOp f.word then .no
    else match (strm s q i).pred with
      | some b => .ok f b
      | none =>
        match predicate s f.word with
        | some b => .ok f b
        | none => .bad f

/-- The predicate value stands for the whole instruction while it waits (R117). -/
def keepPred (s : State) (q i : Nat) (b : Bool) : State := setStrm s q i { strm s q i with pred := some b }

/-- Operations that an engine holds at most (R106). -/
def engineLimit (i : Nat) : Nat :=
  if i < 4 then 2 else if i < 8 then 1 else if i < 12 then 8 else if i = 12 then 2 else 16

/-- The engine's own limit leaves room (R106). A matrix core holds a second operation only once the first has advanced
its last position. -/
def engineRoom (s : State) (q i : Nat) : Bool :=
  let os := (streamOps s q i).filter (·.slot)
  decide (os.length < engineLimit i) && (decide (4 ≤ i) || os.all (·.fin))

/-- Time a comes before time b, with ties to the lower source code (R143). -/
def readyBefore (a b : Nat × Nat) : Bool := decide (a.1 < b.1) || (a.1 == b.1 && decide (a.2 < b.2))

/-- Engines of the quarter that have been ready for a slot for longer than engine i (R143). -/
def slotsAhead (s : State) (q i : Nat) : Nat :=
  let me := ((strm s q i).ready.getD s.now, i)
  ((List.range 14).filter fun j => j != i && (match (strm s q j).ready with
    | some t => readyBefore (t, j) me
    | none => false)).length

/-- The engine's limit and the quarter's 32 slots leave room (R106, R143): free slots go first to the engine that became
ready earliest. -/
def slotFree (s : State) (q i : Nat) : Bool := engineRoom s q i && decide (inflight s q + slotsAhead s q i < 32)

/-- An instruction waits at step 4 (R141): its predicate value stands, and an engine that lacks only a slot of the quarter
keeps its turn (R143). -/
def slotWait (s : State) (q i : Nat) : State :=
  let x := strm s q i
  setStrm s q i { x with pred := some true, ready := if engineRoom s q i then some (x.ready.getD s.now) else x.ready }

/-- An operation enters flight. -/
def startOp (s : State) (q i : Nat) (f : Fetched) (slot fin : Bool) (stat : Option Stat) (recs : List (Nat × Byte))
    (tgt : SigTo) (after : List After) : State :=
  modQuarter s q fun x =>
    { x with ops := x.ops ++ [⟨x.nextId, i, f.off, f.word, slot, fin, false, false, stat, recs, tgt, after, (0, 0, 0), [], []⟩],
             nextId := x.nextId + 1 }

/-- The operation that entered flight last, changed by g. -/
def amendOp (s : State) (q : Nat) (g : Op → Op) : State :=
  modQuarter s q fun x => { x with ops := x.ops.map fun o => if o.id + 1 = x.nextId then g o else o }

/-- Two ranges (address, bytes) share a byte. -/
def overlaps (a b : Nat × Nat) : Bool := decide (a.1 < b.1 + b.2) && decide (b.1 < a.1 + a.2)

/-- Ranges of memory that operations in flight of a stream have still to read or write: the destinations of their READs,
their writes of step 7, and what they keep busy (R51). -/
def pendingRanges (s : State) (q i : Nat) : List (Nat × Nat) :=
  (streamOps s q i).flatMap fun o =>
    ((s.fab.reqs.filter fun r => r.q == q && r.op == o.id && r.typ == 2).map fun r => (r.addr, r.len)) ++
      o.recs.map (fun r => (r.1, 1)) ++ o.busy

/-- The ranges of memory that an instruction reads, and those that it writes. -/
structure Touches where
  reads : List (Nat × Nat)
  writes : List (Nat × Nat)

/-- An instruction that touches a range of an earlier one of its stream comes after it (R51); one of whose requests waits at
its slice waits with it (R210, R211, R214, R382; log entry 89). -/
def streamHolds (s : State) (q i : Nat) (x : Touches) : Bool :=
  ((pendingRanges s q i).any fun p => x.reads.any (overlaps p) || x.writes.any (overlaps p)) ||
    (x.reads.any fun r => sliceWaits s r.1 r.2 false) || x.writes.any fun r => sliceWaits s r.1 r.2 true

/-- The id that the next operation of a quarter takes. -/
def nextOpId (s : State) (q : Nat) : Nat := (quarter s q).nextId

/-- FLOW of an engine's remote signals: the gather/scatter unit's, else the move engine's (R260). -/
def flowOf (q i : Nat) : Nat := if i = 12 then 96 + q else q

/-- The header signal (R111, R122): 1 to SIGSQ on this chip, or where the instruction wrote. -/
def headerSignal (s : State) (q i : Nat) (w : W128) (tgt : SigTo) : State :=
  if !wSigen w then s
  else match (if wSigdst w then tgt else .here) with
    | .here => sqAdd s (wSigsq w) 1
    | .chip c => sendSignal s c (flowOf q i) (wSigsq w) 1 96 0 none
    | .circuit n => circSignalSend s n (wSigsq w) 1

/-- An instruction that takes no slot ends at once with its header signal (R118, R141 steps 8 and 9). -/
def endNow (s : State) (q i : Nat) (f : Fetched) (tgt : SigTo) : State :=
  headerSignal (popHead s q i) q i f.word tgt

/-- An instruction whose predicate is false ends at once (R118), and is counted (R397). -/
def skipNow (s : State) (q i : Nat) (f : Fetched) (tgt : SigTo) : State := count (endNow s q i f tgt) (cQtr q 9) 1

/-- Offset of a parameter block in the quarter's window, and the block, or the status of its first failing check:
location, poison, reserved bytes (R114). -/
def readBlock (s : State) (q pb : Nat) (reserved : W512 → Bool) : Except Nat W512 :=
  if pb * 64 + 64 > lsSize then .error stAddrRange
  else if anyPsn s (lsBase q + pb * 64) 64 then .error stPoisonedWord
  else
    let b := BitVec.ofNat 512 (readNat s (lsBase q + pb * 64) 64)
    if reserved b then .error stIllegalField else .ok b

/-- Field of a parameter block by bytes: n bytes from byte o. -/
def blk (b : W512) (o n : Nat) : Nat := bits b (8 * (o + n) - 1) (8 * o)

/-- The first failing check of a list gives the status (R114). -/
def firstFail : List (Bool × Nat) → Option Nat
  | [] => none
  | (bad, st) :: t => if bad then some st else firstFail t

/-- A range of the local store is populated (R114, R47). -/
def lsOk (off n : Nat) : Bool := decide (off + n ≤ lsSize)

/-- An offset field of a block: bits [31:22] are zero (R114). -/
def offBad (v : Nat) : Bool := decide (2 ^ 22 ≤ v)

/-! ### Square instructions and NOP -/

/-- NOP (R113): its header signal only. -/
def doNop (s : State) (q i : Nat) : State :=
  match headOf s q i (fun w => wOpcode w == opNop) with
  | .no => s
  | .bad f => failHead s q i stPoisonedWord f
  | .ok f p => if p then endNow s q i f .here else skipNow s q i f .here

/-- The signal of a SQSIG (R119): local, or by a REQ packet that operation `op` of the quarter waits for. -/
def sqsigSend (s : State) (q op : Nat) (w : W128) : State :=
  if bit w 15 && bits w 47 32 != thisChip s then sendSignal s (bits w 47 32) q (wPb w) (bits w 31 16) q op none
  else sqAdd s (wPb w) (bits w 31 16)

/-- SQSIG (R119): sent once every earlier instruction of the stream has retired; until then it waits among the
operations without a slot, and later instructions may start. -/
def doSqsig (s : State) (q i : Nat) : State :=
  match headOf s q i (fun w => wOpcode w == opSqsig) with
  | .no => s
  | .bad f => failHead s q i stPoisonedWord f
  | .ok f false => skipNow s q i f .here
  | .ok f true =>
    if bits f.word 31 16 = 0 then failHead s q i stIllegalField f
    else
      let s1 := popHead s q i
      let id := nextOpId s1 q
      if (streamOps s q i).isEmpty then
        let s2 := sqsigSend s1 q id f.word
        if (opReqs s2 q id).isEmpty then headerSignal s2 q i f.word .here
        else startOp s2 q i f false true none [] .here []
      else startOp s1 q i f false false none [] .here []

/-- The condition of a SQWAIT on its square (R120): none when the square reads poisoned (R421). -/
def sqwaitMet (s : State) (w : W128) : Option Bool :=
  let x := square s (wPb w)
  if x.psn then none else some (condHolds (bits w 47 45) x.count.toNat (bits w 31 0))

/-- SQWAIT (R120): retires when its condition holds, else holds its stream. -/
def doSqwait (s : State) (q i : Nat) : State :=
  match headOf s q i (fun w => wOpcode w == opSqwait) with
  | .no => s
  | .bad f => failHead s q i stPoisonedWord f
  | .ok f false => skipNow s q i f .here
  | .ok f true =>
    if bits f.word 47 45 = 0 || bits f.word 47 45 = 7 then failHead s q i stIllegalField f
    else match sqwaitMet s f.word with
      | none => failHead s q i stPoisonedWord f
      | some true => endNow s q i f .here
      | some false => setStrm s q i { strm s q i with pred := some true, waiting := true }

/-- SQWAIT_RESUME (R238): a waiting SQWAIT whose condition now holds retires, and its stream goes on. -/
def doSqwaitResume (s : State) (q i : Nat) : State :=
  if !(strm s q i).waiting then s
  else match (strm s q i).queue with
    | [] => s
    | f :: _ =>
      if !mayStart s q then s
      else match sqwaitMet s f.word with
        | none => failHead s q i stPoisonedWord f
        | some true => endNow s q i f .here
        | some false => s

/-- SQSET (R121). -/
def doSqset (s : State) (q i : Nat) : State :=
  match headOf s q i (fun w => wOpcode w == opSqset) with
  | .no => s
  | .bad f => failHead s q i stPoisonedWord f
  | .ok f false => skipNow s q i f .here
  | .ok f true => endNow (sqPut s (wPb f.word) (BitVec.ofNat 32 (bits f.word 31 0))) q i f .here

/-! ### Retirement (R141 steps 7 to 9) -/

/-- The operation may retire: its writes are done, sent and acknowledged (R142), and no earlier operation of its stream
has still to write a word of its step 7 (R51). -/
def mayRetire (s : State) (q : Nat) (o : Op) : Bool :=
  o.fin && (opReqs s q o.id).isEmpty && o.after.isEmpty && (match o.sigTo with
    | .circuit n => !circWaits s n (ownKey q o.id)
    | _ => true) && !(o.recs.any fun r => (streamOps s q o.stream).any fun p =>
      decide (p.id < o.id) && p.recs.any fun x => x.1 / 8 == r.1 / 8)

/-- Bytes of step 7 written. -/
def writeRecs (s : State) : List (Nat × Byte) → State
  | [] => s
  | (a, b) :: t => writeRecs (writeBytes s a [b]) t

/-- An operation leaves flight. -/
def dropOp (s : State) (q id : Nat) : State := modQuarter s q fun x => { x with ops := x.ops.filter fun o => o.id != id }

/-- What the counters take at retirement: the slots of an MMA (R401, R402; aborted ones are all wasted), a vector
instruction (R397). -/
def retireCounts (s : State) (q : Nat) (o : Op) : State :=
  if o.stream < 4 then
    let (r, w, k) := o.slots
    if o.dead then countSlots s q o.stream 1 (r + w)
    else countSlots (countSlots (countSlots s q o.stream 0 r) q o.stream 1 w) q o.stream 4 k
  else if 8 ≤ o.stream ∧ o.stream < 12 ∧ o.slot then count s (cQtr q 7) 1
  else s

/-- A finished operation retires: DROPS, header signal, slot (R141). -/
def retireOp (s : State) (q : Nat) (o : Op) : State :=
  let s1 := writeRecs (retireCounts s q o) o.recs
  let s2 := if o.dead then s1 else headerSignal s1 q o.stream o.word o.sigTo
  dropOp s2 q o.id

/-- ENGINE_OP_RETIRE: the first operation of the stream that may retire does; a SQSIG that has become the first of its
stream sends its signal (R119). -/
def doRetire (s : State) (q i : Nat) : State :=
  match (streamOps s q i).find? (mayRetire s q) with
  | some o => retireOp s q o
  | none =>
    match streamOps s q i with
    | o :: _ =>
      if wOpcode o.word = opSqsig && !o.fin then
        let s1 := sqsigSend s q o.id o.word
        if (opReqs s1 q o.id).isEmpty then retireOp s1 q o
        else modQuarter s1 q fun x => { x with ops := x.ops.map fun p => if p.id = o.id then { p with fin := true } else p }
      else s
    | [] => s

/-! ### Waits that expire (R144, R388) -/

/-- The bank of an MMA or DRAIN word at the head keeps it waiting (R56). -/
def bankWaits (s : State) (q i : Nat) (w : W128) : Bool :=
  if i < 4 && wOpcode w == opMma then
    let b := (bank s q i (if bit w 68 then 1 else 0)).st
    b == .full || b == .draining
  else if 4 ≤ i && i < 8 && wOpcode w == opDrain then
    (bank s q (i - 4) (if bit w 68 then 1 else 0)).st != .full
  else false

/-- An engine wait that expired: QTR_ERR.WAIT_TO and the fault (R144). -/
def waitFault (s : State) (q i off : Nat) : State := engFault (raiseQ s q eWaitTo (srcOfStream i) 0) q i stWaitTo off

/-- A PRJSUB waits for SETTLED or for a place in the projector's queue (R326, R329). -/
def subWaits (s : State) (q op : Nat) : Bool := s.prj.subs.any fun u => u.q == q && u.op == op && !u.queued

/-- An operation waits for circuit credit, for acknowledgements or for the projector (R71, R75, R326, R329, R388). -/
def opWaits (s : State) (q : Nat) (o : Op) : Bool :=
  o.slot && ((match o.sigTo with
    | .circuit n => circWaits s n (ownKey q o.id)
    | _ => false) || (decide (12 ≤ o.stream) && !(opReqs s q o.id).isEmpty) || subWaits s q o.id)

/-- A drain whose credit wait expired returns its bank to EMPTY (R71); the bank of one that has ended is its own no
more. -/
def freeDrainBank (s : State) (q : Nat) (o : Op) : State :=
  if wOpcode o.word = opDrain && !o.fin then
    let c := o.stream - 4
    let b := if bit o.word 68 then 1 else 0
    setBank s q c b { bank s q c b with st := .empty }
  else s

/-- Requests of an operation go on with no operation that waits for them. -/
def orphanReqs (s : State) (q op : Nat) : State :=
  modFab s fun f => { f with reqs := f.reqs.map fun r => if r.q == q && r.op == op then { r with q := 96, op := 0 } else r }

/-- An operation whose wait expired stops sending, sends no signal and leaves flight (R71, R388); its submission to the
projector is withdrawn. -/
def abandonOp (s : State) (q : Nat) (o : Op) : State :=
  let s1 := match o.sigTo with
    | .circuit n => circDrop s n (ownKey q o.id)
    | _ => orphanReqs s q o.id
  let s2 := { s1 with prj := { s1.prj with subs := s1.prj.subs.filter fun u => !(u.q == q && u.op == o.id) } }
  dropOp (freeDrainBank s2 q o) q o.id

/-- WAIT_TO: a square, bank, credit or acknowledgement wait of the stream expires (R56, R71, R75, R120, R144). -/
def doWaitTo (s : State) (q i : Nat) : State :=
  match (streamOps s q i).find? (opWaits s q) with
  | some o => waitFault (abandonOp s q o) q i o.off
  | none =>
    match (strm s q i).queue with
    | [] => s
    | f :: _ =>
      if mayStart s q && ((strm s q i).waiting || bankWaits s q i f.word) then waitFault (popHead s q i) q i f.off
      else s

/-! ### Writes of stream registers (R7, R107, R108, R110) -/

/-- The writer owns the stream: the host and firmware write as OWNER does (R108). -/
def isOwner (s : State) (q i : Nat) (src : Src) : Bool :=
  match src with
  | .cc p c => p.val == q && c.val == fld s (aQtrStrmCfg q i) 30 30
  | _ => true

/-- A new HEAD is legal (R108). -/
def headLegal (cfg ptr : W64) (h : Nat) : Bool :=
  decide ((h + 65536 - bits ptr 31 16) % 65536 ≤ ringSlots cfg) &&
    decide ((h + 65536 - bits ptr 15 0) % 65536 ≤ ringSlots cfg)

/-- The source code of a write of quarter q's registers (R46: 0x0E, 0x0F for its own control cores, 0x10; R77). Another
quarter's control core counts as a register access, 0x10 (log entry 80). -/
def qSrcCode (q : Nat) (src : Src) : Nat :=
  match src with
  | .cc p c => if p.val = q then 0x0E + c.val else 0x10
  | _ => 0x10

/-- An error of a quarter's register write (R77). -/
def raiseQReg (s : State) (q b : Nat) (src : Src) (off : Nat) : State := raise s (.qtr q) b (qSrcCode q src * 2 ^ 40 + off)

/-- A write of QTR_STRMs_PTR, whole (R108, R110). -/
def ptrWrite (s : State) (q i : Nat) (v : W64) (src : Src) : State :=
  let off := aQtrStrmPtr q i
  if !isOwner s q i src then
    raiseQReg (setReg s off (putBits (putBits (reg s off) 48 48 (bits v 48 48)) 47 32 (bits v 47 32))) q eRange src off
  else if !headLegal (reg s (aQtrStrmCfg q i)) (reg s off) (bits v 15 0) then raiseQReg s q eRange src off
  else setReg s off (writeFlds [⟨48, 48, .rw⟩, ⟨47, 32, .rw⟩, ⟨15, 0, .rw⟩] true (reg s off) v).1

/-- A write of the half of QTR_STRMs_PTR that holds GATE and GATE_EN (R110, R343). -/
def gateWrite (s : State) (q i : Nat) (v : W64) : State :=
  let off := aQtrStrmPtr q i
  setReg s off (writeFlds [⟨48, 48, .rw⟩, ⟨47, 32, .rw⟩] true (reg s off) v).1

/-- Legal values of QTR_STRMs_CFG (R9): SIZE 0-10, BASE a multiple of 64, the ring inside the populated store. -/
def cfgLegal (v : W64) : Bool :=
  decide (bits v 29 26 ≤ 10) && bits v 21 0 % 64 == 0 && decide (bits v 21 0 + 16 * ringSlots v ≤ lsSize)

/-- The stream's engine has no operation in flight (QTR_STRMs_CFG). -/
def strmIdle (s : State) (q i : Nat) : Bool := ((streamOps s q i).filter (·.slot)).isEmpty

/-- Waiting instructions are discarded: FETCH = HEAD, and the engine's queue empties (R107; log entry 14). -/
def flushStrm (s : State) (q i : Nat) : State :=
  setStrm (setFld s (aQtrStrmPtr q i) 31 16 (fld s (aQtrStrmPtr q i) 15 0)) q i strm0

/-- A write of QTR_STRMs_CFG; EN = 0 discards the waiting instructions (R107). -/
def cfgWrite (s : State) (q i : Nat) (v : W64) (src : Src) : State :=
  let off := aQtrStrmCfg q i
  if !cfgLegal v then raiseQReg s q eRange src off
  else
    let r := writeFlds [⟨31, 31, .rwi⟩, ⟨30, 30, .rwi⟩, ⟨29, 26, .rwi⟩, ⟨25, 22, .rw⟩, ⟨21, 0, .rwi⟩] (strmIdle s q i)
      (reg s off) v
    let s1 := setReg s off r.1
    let s2 := if r.2 then raiseQReg s1 q eRwi src off else s1
    if !bit r.1 31 then flushStrm s2 q i else s2

/-! ### The commands -/

abbrev Out := Host.Outcome State Fault Refusal

/-- NOP (R113). -/
def execNop (q : Fin 96) (i : Fin 14) (s : State) : Out := .next (doNop s q i)
/-- SQSIG (R119). -/
def execSqsig (q : Fin 96) (i : Fin 14) (s : State) : Out := .next (doSqsig s q i)
/-- SQWAIT (R120). -/
def execSqwait (q : Fin 96) (i : Fin 14) (s : State) : Out := .next (doSqwait s q i)
/-- SQWAIT_RESUME (R238). -/
def execSqwaitResume (q : Fin 96) (i : Fin 14) (s : State) : Out := .next (doSqwaitResume s q i)
/-- SQSET (R121). -/
def execSqset (q : Fin 96) (i : Fin 14) (s : State) : Out := .next (doSqset s q i)
/-- STREAM_FETCH (R107). -/
def execStreamFetch (q : Fin 96) (i : Fin 14) (s : State) : Out := .next (doFetch s q i)
/-- ENGINE_OP_RETIRE (R141). -/
def execEngineOpRetire (q : Fin 96) (i : Fin 14) (s : State) : Out := .next (doRetire s q i)
/-- WAIT_TO (R144). -/
def execWaitTo (q : Fin 96) (i : Fin 14) (s : State) : Out := .next (doWaitTo s q i)
/-- STREAM_HEAD_WRITE (R108); a disabled quarter ignores writes (R46). -/
def execStreamHeadWrite (q : Fin 96) (i : Fin 14) (v : W64) (src : Src) (s : State) : Out :=
  .next (fromSrc s src fun t => if qtrPresent t q then ptrWrite t q i v src else t)
/-- STREAM_GATE_WRITE (R110). -/
def execStreamGateWrite (q : Fin 96) (i : Fin 14) (v : W64) (src : Src) (s : State) : Out :=
  .next (fromSrc s src fun t => if qtrPresent t q then gateWrite t q i v else t)
/-- STREAM_DISABLE (R107): the write holds EN = 0. -/
def execStreamDisable (q : Fin 96) (i : Fin 14) (v : W64) (src : Src) (s : State) : Out :=
  .next (fromSrc s src fun t => if qtrPresent t q then cfgWrite t q i (putBits v 31 31 0) src else t)

end Sys2Proof.Machine
end

