-- ==== Sys2Proof/Machine/Transc.lean ====
section
/-! DEFINITION. The correctly rounded functions of R82, R83 and the fused derivatives of R152, R153. Each is
enclosed in an interval of fixed-point numbers of P fraction bits; when both ends round to one binary32 value, that is
the correctly rounded result, since rounding is monotonic. A wider P is tried where they do not. -/

namespace Sys2Proof

/-- An interval [lo, hi] of fixed-point numbers in units of 2^-P. -/
structure Ivl where
  lo : Int
  hi : Int
  deriving DecidableEq, Repr

/-- Division by 2^P rounded down and up. -/
def ishr (x : Int) (p : Nat) : Int := x / (2 ^ p : Nat)
def ishrUp (x : Int) (p : Nat) : Int := -((-x) / (2 ^ p : Nat))

def ivAdd (a b : Ivl) : Ivl := ⟨a.lo + b.lo, a.hi + b.hi⟩
def ivNeg (a : Ivl) : Ivl := ⟨-a.hi, -a.lo⟩
def ivSub (a b : Ivl) : Ivl := ivAdd a (ivNeg b)
def ivMul (p : Nat) (a b : Ivl) : Ivl :=
  let w := a.lo * b.lo; let x := a.lo * b.hi; let y := a.hi * b.lo; let z := a.hi * b.hi
  ⟨ishr (min (min w x) (min y z)) p, ishrUp (max (max w x) (max y z)) p⟩
/-- Division of an interval by a positive natural number. -/
def ivDivNat (a : Ivl) (n : Nat) : Ivl := ⟨a.lo / (n : Int), -((-a.hi) / (n : Int))⟩
/-- a / b for b > 0. -/
def ivDiv (p : Nat) (a b : Ivl) : Ivl :=
  let s : Int := (2 ^ p : Nat)
  let l (x : Int) : Int := if x < 0 then x * s / b.lo else x * s / b.hi
  let u (x : Int) : Int := if x < 0 then -((-x) * s / b.hi) else -((-x) * s / b.lo)
  ⟨l a.lo, u a.hi⟩
def ivNat (p n : Nat) : Ivl := ⟨(n <<< p : Nat), (n <<< p : Nat)⟩

/-- (-1)^neg * m * 2^e enclosed in units of 2^-P. -/
def ivOf (p : Nat) (neg : Bool) (m : Nat) (e : Int) : Ivl :=
  let (a, b) := scale2 m (e + p)
  let f : Int := (a / b : Nat)
  let c : Int := if a % b = 0 then f else f + 1
  if neg then ⟨-c, -f⟩ else ⟨f, c⟩

/-- Sum of x^k / k! for k < n, from the highest power down (x of any sign, |x| small), the remainder added by the caller. -/
def expSeries (p : Nat) (x : Ivl) : Nat → Ivl → Ivl
  | 0, acc => acc
  | k + 1, acc => expSeries p x k (ivAdd (ivNat p 1) (ivDivNat (ivMul p x acc) (k + 1)))

def ivSquares (p : Nat) : Nat → Ivl → Ivl
  | 0, x => x
  | k + 1, x => ivSquares p k (ivMul p x x)

/-- exp of an interval of magnitude below 2^9: the argument is halved 20 times, the series run, the result squared. -/
def ivExp (p : Nat) (x : Ivl) : Ivl :=
  let j := 20
  let y : Ivl := ⟨ishr x.lo j, ishrUp x.hi j⟩
  let n := p / 11 + 4
  let s := expSeries p y n (ivNat p 1)
  -- |y| < 2^-11, so the tail after n terms is below 2^-P
  ivSquares p j ⟨s.lo - 1, s.hi + 1⟩

/-- Sum of z^(2k+1) / (2k+1), k = i, i+1, ..., by n terms; t = z^(2i+1), q = z^2. -/
def atanhSeries (p : Nat) (q : Ivl) : Nat → Nat → Ivl → Ivl → Ivl
  | 0, _, _, acc => acc
  | n + 1, i, t, acc => atanhSeries p q n (i + 1) (ivMul p t q) (ivAdd acc (ivDivNat t (2 * i + 1)))

/-- 2 atanh z for |z| <= 1/3. -/
def ivLn1 (p : Nat) (z : Ivl) : Ivl :=
  let s := atanhSeries p (ivMul p z z) (p / 3 + 4) 0 z ⟨0, 0⟩
  ⟨2 * s.lo - 2, 2 * s.hi + 2⟩

def ivLn2 (p : Nat) : Ivl := ivLn1 p (ivDivNat (ivNat p 1) 3)

/-- ln of m * 2^e, m > 0: ln of the significand in [1, 2) and the exponent times ln 2. -/
def ivLn (p : Nat) (m : Nat) (e : Int) : Ivl :=
  let l := Nat.log2 m
  let x := ivOf p false m (-(l : Int))
  let z := ivDiv p (ivSub x (ivNat p 1)) (ivAdd x (ivNat p 1))
  let k : Int := e + l
  let ln2 := ivLn2 p
  let t : Ivl := if k < 0 then ⟨k * ln2.hi, k * ln2.lo⟩ else ⟨k * ln2.lo, k * ln2.hi⟩
  ivAdd (ivLn1 p z) t

/-- Alternating series of atan (1 / n). -/
def atanSeries (p n2 : Nat) : Nat → Nat → Ivl → Ivl → Ivl
  | 0, _, _, acc => acc
  | k + 1, i, t, acc =>
    let d := ivDivNat t (2 * i + 1)
    atanSeries p n2 k (i + 1) (ivDivNat t n2) (if i % 2 = 0 then ivAdd acc d else ivSub acc d)
def ivAtanInv (p n : Nat) : Ivl :=
  let s := atanSeries p (n * n) (p / 4 + 4) 0 (ivDivNat (ivNat p 1) n) ⟨0, 0⟩
  ⟨s.lo - 1, s.hi + 1⟩
/-- pi = 16 atan (1/5) - 4 atan (1/239). -/
def ivPi (p : Nat) : Ivl :=
  let a := ivAtanInv p 5; let b := ivAtanInv p 239
  ⟨16 * a.lo - 4 * b.hi, 16 * a.hi - 4 * b.lo⟩

/-- Square root of a positive interval. -/
def ivSqrt (p : Nat) (x : Ivl) : Ivl :=
  ⟨(isqrt ((x.lo.toNat) <<< p) : Nat), (isqrt ((x.hi.toNat) <<< p) + 1 : Nat)⟩

/-- The density phi x = exp (-x^2 / 2) / sqrt (2 pi). -/
def ivPhi (p : Nat) (x : Ivl) : Ivl :=
  let h := ivDivNat (ivMul p x x) 2
  let d := ivSqrt p (ivAdd (ivPi p) (ivPi p))
  ivDiv p (ivExp p (ivNeg h)) d

/-- Sum of x^(2k+1) / (2k+1)!!; t is the present term, q = x^2. -/
def cdfSeries (p : Nat) (q : Ivl) : Nat → Nat → Ivl → Ivl → Ivl
  | 0, _, _, acc => acc
  | n + 1, i, t, acc => cdfSeries p q n (i + 1) (ivDivNat (ivMul p t q) (2 * i + 3)) (ivAdd acc t)

/-- The distribution Phi x = 1/2 + phi x * sum, for |x| <= 16; after p + 600 terms the tail is below 2^-P. -/
def ivCdf (p : Nat) (x : Ivl) : Ivl :=
  let s := cdfSeries p (ivMul p x x) (p + 600) 0 x ⟨0, 0⟩
  let half : Ivl := ⟨(1 <<< (p - 1) : Nat), (1 <<< (p - 1) : Nat)⟩
  ivAdd half (ivMul p (ivPhi p x) ⟨s.lo - 1, s.hi + 1⟩)

/-- The sigmoid 1 / (1 + exp (-x)), |x| < 2^9. -/
def ivSigmoid (p : Nat) (x : Ivl) : Ivl :=
  ivDiv p (ivNat p 1) (ivAdd (ivNat p 1) (ivExp p (ivNeg x)))

/-- binary32 of an end of an interval. -/
def ivRound (p : Nat) (x : Int) : W32 :=
  BitVec.ofNat 32 (ieeeRound fmtB32 (decide (x < 0)) x.natAbs 1 (-(p : Int)))

/-- The binary32 value that both ends of the enclosure round to, at the first of the given precisions that decides. -/
def decideRound (f : Nat → Ivl) : List Nat → W32
  | [] => f32NaN
  | [p] => ivRound p (f p).lo
  | p :: q :: t =>
    let i := f p
    let a := ivRound p i.lo
    if a = ivRound p i.hi ∧ (0 < i.lo ∨ i.hi < 0) then a else decideRound f (q :: t)

/-- The precisions tried; none of the functions below needs more than the first for a binary32 argument of ordinary
size, and the last is far beyond what a binary32 result can need. -/
def precisions : List Nat := [320, 640, 1400]

/-- The vector instructions' functions of one argument (R82). -/
inductive Fn where
  | rcp | rsqrt | exp | exp2 | log | log2 | tanh | sigmoid | gelu | silu
  deriving DecidableEq, Repr

def f32Inf : W32 := 0x7F800000#32
def f32NegInf : W32 := 0xFF800000#32
def f32NegZero : W32 := 0x80000000#32
def f32Half : W32 := 0x3F000000#32
def f32NegOne : W32 := 0xBF800000#32

/-- |(-1)^neg * m * 2^e| >= n. -/
def magGe (m : Nat) (e : Int) (n : Nat) : Bool := !fvLt (.fin false m e) (.fin false n 0)

/-- EXP and EXP2 of a finite non-zero value. -/
def fnExp (base2 neg : Bool) (m : Nat) (e : Int) : W32 :=
  if magGe m e 160 then (if neg then f32Zero else f32Inf)
  else
    -- an integer power of two is exact
    let isInt := base2 && (decide (0 ≤ e) || decide (m % (1 <<< (-e).toNat) = 0))
    if isInt then
      let k : Int := nearestInt neg m e
      BitVec.ofNat 32 (ieeeRound fmtB32 false 1 1 k)
    else decideRound (fun p =>
      let x := ivOf p neg m e
      ivExp p (if base2 then ivMul p x (ivLn2 p) else x)) precisions

/-- LOG and LOG2 of a positive finite value. -/
def fnLog (base2 : Bool) (m : Nat) (e : Int) : W32 :=
  let l := Nat.log2 m
  if m = 1 <<< l then
    let k : Int := e + l
    if base2 then f32OfInt k
    else if k = 0 then f32Zero
    else decideRound (fun p => ivLn p m e) precisions
  else decideRound (fun p => if base2 then ivDiv p (ivLn p m e) (ivLn2 p) else ivLn p m e) precisions

/-- TANH of a finite non-zero value: (E - 1) / (E + 1) with E = exp 2x; beyond 64 the result is ±1, and below
2^-60 it rounds to x itself. -/
def fnTanh (x : W32) (neg : Bool) (m : Nat) (e : Int) : W32 :=
  if magGe m e 64 then (if neg then f32NegOne else f32One)
  else if fvLt (.fin false m e) (.fin false 1 (-60)) then x
  else decideRound (fun p =>
    let y := ivExp p (ivOf p neg m (e + 1))
    ivDiv p (ivSub y (ivNat p 1)) (ivAdd y (ivNat p 1))) precisions

/-- SIGMOID of a finite non-zero value; above 128 it rounds to 1, below -160 to +0. -/
def fnSigmoid (neg : Bool) (m : Nat) (e : Int) : W32 :=
  if magGe m e 160 then (if neg then f32Zero else f32One)
  else decideRound (fun p => ivSigmoid p (ivOf p neg m e)) precisions

/-- GELU: x Phi x; above 16 it rounds to x, below -16 to -0. A magnitude below 2^-60 gives x / 2, which is exact or
a tie of subnormals broken by the term x^2 phi 0 > 0: the enclosure takes x as a factor, so it decides that too. -/
def fnGelu (x : W32) (neg : Bool) (m : Nat) (e : Int) : W32 :=
  if magGe m e 16 then (if neg then f32NegZero else x)
  else decideRound (fun p =>
    let y := ivOf p neg m e
    ivMul p y (ivCdf p y)) precisions

/-- SILU: x sigma x with the exact sigmoid; above 160 it rounds to x, below -160 to -0. -/
def fnSilu (x : W32) (neg : Bool) (m : Nat) (e : Int) : W32 :=
  if magGe m e 160 then (if neg then f32NegZero else x)
  else decideRound (fun p =>
    let y := ivOf p neg m e
    ivMul p y (ivSigmoid p y)) precisions

/-- The functions of R82 with the special inputs of R83. -/
def fnApply (f : Fn) (x : W32) : W32 :=
  match f with
  | .rcp => f32Rcp x
  | .rsqrt => f32Rsqrt x
  | .exp | .exp2 =>
    match f32v x with
    | .nan => f32NaN
    | .inf n => if n then f32Zero else f32Inf
    | .fin n m e => if m = 0 then f32One else fnExp (f = .exp2) n m e
  | .log | .log2 =>
    match f32v x with
    | .nan => f32NaN
    | .inf n => if n then f32NaN else f32Inf
    | .fin n m e => if m = 0 then f32NegInf else if n then f32NaN else fnLog (f = .log2) m e
  | .tanh =>
    match f32v x with
    | .nan => f32NaN
    | .inf n => if n then f32NegOne else f32One
    | .fin n m e => if m = 0 then x else fnTanh x n m e
  | .sigmoid =>
    match f32v x with
    | .nan => f32NaN
    | .inf n => if n then f32Zero else f32One
    | .fin n m e => if m = 0 then f32Half else fnSigmoid n m e
  | .gelu =>
    match f32v x with
    | .nan => f32NaN
    | .inf n => if n then f32NegZero else f32Inf
    | .fin n m e => if m = 0 then x else fnGelu x n m e
  | .silu =>
    match f32v x with
    | .nan => f32NaN
    | .inf n => if n then f32NegZero else f32Inf
    | .fin n m e => if m = 0 then x else fnSilu x n m e

/-- RELU (R82). -/
def f32Relu (x : W32) : W32 :=
  if f32IsNaN x then f32NaN else if fvLt (.fin false 0 0) (f32v x) then x else f32Zero

/-- The fused derivatives of R152. -/
inductive DFn where
  | drelu | dgelu | dsilu | dtanh | dsigmoid
  deriving DecidableEq, Repr

/-- dact z of a finite z (R152, the first row of R153 included). -/
def dfnFin (f : DFn) (neg : Bool) (m : Nat) (e : Int) : W32 :=
  match f with
  | .drelu => if m = 0 || neg then f32Zero else f32One
  | .dgelu =>
    if m = 0 then f32Half
    else if magGe m e 16 then (if neg then f32NegZero else f32One)
    else decideRound (fun p =>
      let z := ivOf p neg m e
      ivAdd (ivCdf p z) (ivMul p z (ivPhi p z))) precisions
  | .dsilu =>
    if m = 0 then f32Half
    else if magGe m e 160 then (if neg then f32NegZero else f32One)
    else decideRound (fun p =>
      let z := ivOf p neg m e
      let s := ivSigmoid p z
      ivMul p s (ivAdd (ivNat p 1) (ivMul p z (ivSub (ivNat p 1) s)))) precisions
  | .dtanh =>
    if m = 0 then f32One
    else if magGe m e 80 then f32Zero
    else decideRound (fun p =>
      -- 4 E / (1 + E)^2 with E = exp (-2 |z|)
      let y := ivExp p (ivOf p true m (e + 1))
      let d := ivAdd (ivNat p 1) y
      ivDiv p ⟨4 * y.lo, 4 * y.hi⟩ (ivMul p d d)) precisions
  | .dsigmoid =>
    if m = 0 then 0x3E800000#32
    else if magGe m e 160 then f32Zero
    else decideRound (fun p =>
      let y := ivExp p (ivOf p true m e)
      let d := ivAdd (ivNat p 1) y
      ivDiv p y (ivMul p d d)) precisions

/-- d of R152 with the special values of R153. -/
def dfnApply (f : DFn) (z : W32) : W32 :=
  match f32v z with
  | .nan => f32NaN
  | .inf n =>
    match f with
    | .drelu | .dgelu | .dsilu => if n then f32Zero else f32One
    | .dtanh | .dsigmoid => f32Zero
  | .fin n m e => dfnFin f n m e

end Sys2Proof
end

