-- ==== Sys2Proof/Machine/Operands.lean ====
section
/-! DEFINITION. Operand forms: elements of every storage format packed in memory (R23), words written under a bit mask
(R49), statistics records (R68). -/

namespace Sys2Proof.Machine

/-- Bytes of a packed row of n elements (R23): Hf6 rows fill whole 3-byte groups. -/
def rowBytes (f : Fmt) (n : Nat) : Nat :=
  match f with
  | .hf6 => (n + 3) / 4 * 3
  | f => (n * fmtBits f + 7) / 8

/-- First byte and byte count that hold element i of a row at a. -/
def elemSpan (f : Fmt) (a i : Nat) : Nat × Nat :=
  let b := fmtBits f * i
  (a + b / 8, (b % 8 + fmtBits f + 7) / 8)

/-- Code of element i of a packed row at local address a (R23). -/
def elemAt (s : State) (f : Fmt) (a i : Nat) : Nat :=
  let (b, n) := elemSpan f a i
  (readNat s b n >>> (fmtBits f * i % 8)) % 2 ^ fmtBits f

/-- Some word that holds element i is poisoned. -/
def elemPsn (s : State) (f : Fmt) (a i : Nat) : Bool :=
  let (b, n) := elemSpan f a i
  anyPsn s b n

/-- binary32 value of element i (R33). -/
def elem32 (s : State) (f : Fmt) (a i : Nat) : W32 := widen f (elemAt s f a i)

/-- Words from byte address w * 8 on are written where `mask` has ones, from `val`; a word wholly covered loses its
poison mark, a partly covered poisoned word keeps it (R49, R379); a word with a bit of `pm` is written poisoned. -/
def writeMask (s : State) (w val mask pm : Nat) : Nat → State
  | 0 => s
  | n + 1 =>
    let m := mask % 2 ^ 64
    let s1 :=
      if m = 0 then s
      else if pm % 2 ^ 64 != 0 then poisonWord s w
      else if m = 2 ^ 64 - 1 then writeNat s (w * 8) 8 (val % 2 ^ 64)
      else if wordPsn s (w * 8) then s
      else
        let old := readNat s (w * 8) 8
        writeNat s (w * 8) 8 ((old - (old &&& m)) + (val % 2 ^ 64 &&& m))
    writeMask s1 (w + 1) (val >>> 64) (mask >>> 64) (pm >>> 64) n

/-- An element to be written: its index, code and poison mark. -/
structure Cell1 where
  idx : Nat
  code : Nat
  psn : Bool
  deriving DecidableEq, Repr

/-- Value, mask and poison mask of elements at width wd, shifted by sh bits. -/
def packElems (wd sh : Nat) : List Cell1 → Nat × Nat × Nat
  | [] => (0, 0, 0)
  | c :: t =>
    let (v, m, p) := packElems wd sh t
    let k := wd * c.idx + sh
    (v + c.code <<< k, m ||| (2 ^ wd - 1) <<< k, if c.psn then p ||| (2 ^ wd - 1) <<< k else p)

/-- Elements of a row at local address a written (R23, R49); `pad` elements of zero fill an Hf6 row's last group. -/
def writeElems (s : State) (f : Fmt) (a : Nat) (cs : List Cell1) (n : Nat) : State :=
  let wd := fmtBits f
  let sh := 8 * (a % 8)
  let pad := match f with
    | .hf6 => (List.range ((n + 3) / 4 * 4 - n)).map fun i => (⟨n + i, 0, false⟩ : Cell1)
    | _ => []
  let (v, m, p) := packElems wd sh (cs ++ pad)
  writeMask s (a / 8) v m p ((sh + wd * (n + 4) + 63) / 64)

/-- Words of a packed byte stream of elements in the order given (R70): values and marks, filled to whole words. -/
def streamWords (wd : Nat) (cs : List Cell1) : List CWord :=
  let (v, _, p) := packElems wd 0 cs
  (List.range ((wd * cs.length + 63) / 64)).map fun i =>
    let ps := (p >>> (64 * i)) % 2 ^ 64 != 0
    ⟨if ps then 0 else BitVec.ofNat 64 (v >>> (64 * i)), ps⟩

/-! ### Statistics records (R68, R84) -/

def stat0 : Stat := ⟨0, 0, 0, 0, 0, 0, 0⟩

/-- A count of a record saturates. -/
def satCnt (n : Nat) : Nat := min n 0xFFFFFFFF

/-- Adds one element to a record: a binary32 result for AMAX and NONFINITE, and the counts of its conversion. -/
def statElem (t : Stat) (y : W32) (c : Cnt) : Stat :=
  { t with
    amax := if f32IsFinite y then f32Max t.amax (f32Abs y) else t.amax
    nonfin := t.nonfin + (if !f32IsFinite y || c.nonfin != 0 then 1 else 0)
    sat := t.sat + c.sat
    flush := t.flush + c.flush
    elems := t.elems + 1 }

/-- The 32 bytes of a record (R68). -/
def statBytes (t : Stat) (beat : Nat) : List Byte :=
  leBytes 4 t.amax.toNat ++ leBytes 4 (satCnt t.nonfin) ++ leBytes 4 (satCnt t.sat) ++ leBytes 4 (satCnt t.flush) ++
    leBytes 4 (satCnt t.metaF) ++ leBytes 4 t.flags ++ leBytes 4 (satCnt t.elems) ++ leBytes 4 beat

/-- The record at a local address. -/
def readStat (s : State) (a : Nat) : Stat :=
  ⟨BitVec.ofNat 32 (readNat s a 4), readNat s (a + 4) 4, readNat s (a + 8) 4, readNat s (a + 12) 4,
   readNat s (a + 16) 4, readNat s (a + 20) 4, readNat s (a + 24) 4⟩

/-- The merge of R68. -/
def statMerge (a b : Stat) : Stat :=
  ⟨f32Max a.amax b.amax, satCnt (a.nonfin + b.nonfin), satCnt (a.sat + b.sat), satCnt (a.flush + b.flush),
   satCnt (a.metaF + b.metaF), a.flags ||| b.flags, satCnt (a.elems + b.elems)⟩

/-- A record written at a local-store offset of quarter q. -/
def writeStat (s : State) (q off : Nat) (t : Stat) : State :=
  writeBytes s (lsBase q + off) (statBytes t (beatNum s % 2 ^ 32))

/-- A record merged into the one in place; a poisoned word there poisons the merged record (R68). -/
def mergeStat (s : State) (q off src : Nat) (t : Stat) : State :=
  if anyPsn s (lsBase q + off) 32 then raiseQ (poisonRange s (lsBase q + off) 32) q ePoison src (lsBase q + off)
  else writeStat s q off (statMerge (readStat s (lsBase q + off)) t)

end Sys2Proof.Machine
end

