-- ==== Sys2Proof/Machine/Vector.lean ====
section
/-! DEFINITION. Vector clusters (04, 05 R130-R136): VALU, VLD, VST, VRED, MOMFIN, VRELAY, TOPK, DROPOUT, MASKAPPLY. -/

namespace Sys2Proof.Machine

/-- What an instruction does once its checks pass: the state, where its signal goes, whether it holds VC1 to VC3, and the
ranges of local memory that it writes, in their order (R250). -/
structure Done where
  s : State
  tgt : SigTo
  excl : Bool
  dst : List (Nat × Nat)

/-- An instruction that takes a slot and does its work in one step (R141): predicate, slot, checks, work, flight. It comes
after the earlier ones of its stream that have still to access a range it touches (R51). -/
def runInstr (s : State) (q i : Nat) (isOp : W128 → Bool) (touches : State → Fetched → Touches)
    (body : State → Fetched → Except Nat Done) : State :=
  match headOf s q i isOp with
  | .no => s
  | .bad f => failHead s q i stPoisonedWord f
  | .ok f false => skipNow s q i f .here
  | .ok f true =>
    if !slotFree s q i then slotWait s q i
    else if streamHolds s q i (touches s f) then keepPred s q i true
    else match body s f with
      | .error st => failHead s q i st f
      | .ok d =>
        amendOp (startOp (popHead d.s q i) q i f true true none [] d.tgt []) q fun o =>
          { o with excl := d.excl, dst := d.dst }

/-- A vector cluster's instructions leave nothing to be done after their start. -/
def touchesNone (_ : State) (_ : Fetched) : Touches := ⟨[], []⟩

/-- OP of the parameter block that a word names, for the rows that share an opcode (R133, R136 to R140). -/
def blockOp (s : State) (q : Nat) (w : W128) : Nat := (memByte s (lsBase q + wPb w * 64)).toNat

/-! ### VALU (R80, R81, R84, R130, R131) -/

def vVop (w : W128) : Nat := bits w 63 58
def vVd (w : W128) : Nat := bits w 57 52
def vVa (w : W128) : Nat := bits w 51 46
def vVb (w : W128) : Nat := bits w 45 40
def vVc (w : W128) : Nat := bits w 39 34
def vPk (w : W128) : Bool := bit w 33
def vNovf (w : W128) : Bool := bit w 32
def vFmt (w : W128) : Fmt := fmtOfCode (bits w 31 28)
def vLanes (w : W128) : Nat := bits w 27 21 + 1
def vStat (w : W128) : Bool := bit w 20

/-- Operations with a packed form (R131). -/
def hasPacked (v : Nat) : Bool := decide (v ≤ 5) || (decide (8 ≤ v) && decide (v ≤ 0xB))

/-- The checks of R131, and the record's place (R84). -/
def valuStatus (w : W128) : Option Nat :=
  let v := vVop w
  firstFail [
    (decide (0x1B < v), stIllegalField),
    (v == 0x0E && !(if vPk w then vFmt w == .hf16 || vFmt w == .b32 else fmtIsMilpex (vFmt w) || fmtIsInt (vFmt w)),
      stIllegalFormat),
    (vPk w && v != 0x0E && !hasPacked v, stIllegalField),
    (vPk w && v == 0x0E && vFmt w == .b32 && vVd w == 63, stIllegalField),
    (vStat w && !lsOk (bits w 16 0 * 32) 32, stAddrRange)]

/-- Sources that an operation reads: VA, VB, VC. A packed CVT to binary32 reads VA alone (R131). -/
def vArity (v : Nat) (pk : Bool) (f : Fmt) : Nat :=
  if v = 3 || v = 0x0C then 3
  else if v ≤ 5 || (8 ≤ v && v ≤ 0xB) || v = 0x1A || (v = 0x0E && pk && f != .b32) then 2
  else 1

/-- A comparison of values (R36): CMPEQ, CMPNE, CMPLT, CMPLE. -/
def vCmp (v : Nat) (a b : FVal) : Bool :=
  match v with
  | 0x08 => fvEq a b
  | 0x09 => !fvEq a b
  | 0x0A => fvLt a b
  | _ => fvLt a b || fvEq a b

/-- A binary32 result and its conversion counts (R80, R82, R131). MOV and SEL copy the bit pattern, a NaN's payload with
it (log entry 79). -/
def valuOp (v : Nat) (f : Fmt) (novf : Bool) (a b c : W32) : W32 × Cnt :=
  match v with
  | 0x00 => (f32Add a b, {})
  | 0x01 => (f32Sub a b, {})
  | 0x02 => (f32Mul a b, {})
  | 0x03 => (f32Fma a b c, {})
  | 0x04 => (f32Min a b, {})
  | 0x05 => (f32Max a b, {})
  | 0x06 => (f32Abs a, {})
  | 0x07 => (f32Neg a, {})
  | 0x08 | 0x09 | 0x0A | 0x0B => (if vCmp v (f32v a) (f32v b) then BitVec.allOnes 32 else 0, {})
  | 0x0C => (if c != 0 then a else b, {})
  | 0x0D => (f32Relu a, {})
  | 0x0E => let r := convV f novf (f32v a); (widen f r.1, r.2)
  | 0x0F => (a, {})
  | 0x10 => (fnApply .rcp a, {})
  | 0x11 => (fnApply .rsqrt a, {})
  | 0x12 => (fnApply .exp a, {})
  | 0x13 => (fnApply .exp2 a, {})
  | 0x14 => (fnApply .log a, {})
  | 0x15 => (fnApply .log2 a, {})
  | 0x16 => (fnApply .tanh a, {})
  | 0x17 => (fnApply .sigmoid a, {})
  | 0x18 => (fnApply .gelu a, {})
  | 0x19 => (fnApply .silu a, {})
  | 0x1A => (f32Div a b, {})
  | _ => (f32Sqrt a, {})

/-- Maximum or minimum of two Hf16 codes (R35). -/
def hf16MinMax (mx : Bool) (a b : Nat) : Nat :=
  let x := fmtVal .hf16 a
  let y := fmtVal .hf16 b
  if fvIsNaN x then b else if fvIsNaN y then a
  else if fvLt x y then (if mx then b else a) else (if mx then a else b)

/-- One half of a packed operation (R81): the code and its counts. -/
def packedOp (v : Nat) (novf : Bool) (a b c : Nat) : Nat × Cnt :=
  let x := fmtVal .hf16 a
  let y := fmtVal .hf16 b
  match v with
  | 0x00 => convV .hf16 novf (fvAdd x y)
  | 0x01 => convV .hf16 novf (fvAdd x (fvNeg y))
  | 0x02 => convV .hf16 novf (fvMul x y)
  | 0x03 => convV .hf16 novf (fvAdd (fvMul x y) (fmtVal .hf16 c))
  | 0x04 => (hf16MinMax false a b, {})
  | 0x05 => (hf16MinMax true a b, {})
  | _ => (if vCmp v x y then 0xFFFF else 0, {})

/-- Halves of a packed register. -/
def half (x : W32) (h : Nat) : Nat := bits x (16 * h + 15) (16 * h)
def pack2 (lo hi : Nat) : W32 := BitVec.ofNat 32 (lo + hi * 65536)

/-- The result of a lane: registers to write from VD on, and for each active element the value and counts that a
record sees. -/
def valuLane (w : W128) (a b c : W32) : List W32 × List (W32 × Cnt) :=
  let v := vVop w
  if v = 0x0E && vPk w then
    if vFmt w == .b32 then
      let r := [widen .hf16 (half a 0), widen .hf16 (half a 1)]
      (r, r.map fun y => (y, {}))
    else
      let x := convV .hf16 (vNovf w) (f32v a)
      let y := convV .hf16 (vNovf w) (f32v b)
      ([pack2 x.1 y.1], [(widen .hf16 x.1, x.2), (widen .hf16 y.1, y.2)])
  else if vPk w then
    let x := packedOp v (vNovf w) (half a 0) (half b 0) (half c 0)
    let y := packedOp v (vNovf w) (half a 1) (half b 1) (half c 1)
    ([pack2 x.1 y.1], [(widen .hf16 x.1, x.2), (widen .hf16 y.1, y.2)])
  else
    let x := valuOp v (vFmt w) (vNovf w) a b c
    ([x.1], [x])

/-- Masks are counted in ELEMENTS only (R84). -/
def isMaskOp (v : Nat) : Bool := decide (8 ≤ v) && decide (v ≤ 0xB)

/-- Elements of a lane enter the record (R84). -/
def statLane (t : Stat) (psn mask : Bool) (es : List (W32 × Cnt)) : Stat :=
  if psn then { t with elems := t.elems + es.length, flags := t.flags ||| 2 }
  else if mask then { t with elems := t.elems + es.length }
  else es.foldl (fun u e => statElem u e.1 e.2) t

/-- One lane of a VALU: registers written (R85: poisoned when a source is), record updated. -/
def valuStep (q c : Nat) (w : W128) (x : State × Stat) (l : Nat) : State × Stat :=
  let s := x.1
  let n := vArity (vVop w) (vPk w) (vFmt w)
  let psn := vpsn s q c (vVa w) l || (decide (2 ≤ n) && vpsn s q c (vVb w) l) || (n == 3 && vpsn s q c (vVc w) l)
  let r := valuLane w (vreg s q c (vVa w) l) (vreg s q c (vVb w) l) (vreg s q c (vVc w) l)
  (r.1.zipIdx.foldl (fun t p => setVreg t q c (vVd w + p.2) l p.1 psn) s,
   statLane x.2 psn (isMaskOp (vVop w)) r.2)

/-- The range of a statistics record that is written. -/
def statDst (q : Nat) (on : Bool) (off : Nat) : List (Nat × Nat) := if on then [(lsBase q + off, 32)] else []

/-- VALU (R130). -/
def valuBody (q c : Nat) (s : State) (f : Fetched) : Except Nat Done :=
  match valuStatus f.word with
  | some st => .error st
  | none =>
    let (s1, t) := (List.range (vLanes f.word)).foldl (valuStep q c f.word) (s, stat0)
    .ok ⟨if vStat f.word then writeStat s1 q (bits f.word 16 0 * 32) t else s1, .here, false,
      statDst q (vStat f.word) (bits f.word 16 0 * 32)⟩

/-! ### VLD and VST (R132) -/

def lVr (w : W128) : Nat := bits w 63 58
def lFmt (w : W128) : Fmt := fmtOfCode (bits w 57 54)
def lAddr (w : W128) : Nat := bits w 53 32
def lN (w : W128) : Nat := bits w 31 20 + 1
def lBcast (w : W128) : Bool := bit w 19
def lPk (w : W128) : Bool := bit w 18
def lNovf (w : W128) : Bool := bit w 17
def lStat (w : W128) : Bool := bit w 16
def lRec (w : W128) : Nat := bits w 15 0 * 64

/-- Alignment of element 0 by format (R132). -/
def lAlign : Fmt → Nat
  | .hf16 => 2
  | .b32 => 4
  | .int32 => 4
  | _ => 1

/-- The checks of R132. -/
def lStatus (load : Bool) (w : W128) : Option Nat :=
  let per := if lPk w then 256 else 128
  firstFail [
    (lFmt w == .b64 || lFmt w == .res, stIllegalFormat),
    (lBcast w && (!load || lN w != 1), stIllegalField),
    (load && lNovf w, stIllegalField),
    (decide (63 < lVr w + (lN w - 1) / per), stIllegalField),
    (lAddr w % lAlign (lFmt w) != 0, stAlign),
    (!lsOk (lAddr w) (rowBytes (lFmt w) (lN w)), stAddrRange),
    (lStat w && !lsOk (lRec w) 32, stAddrRange)]

/-- Register and lane of element i; its half with PK (R132). -/
def lPlace (w : W128) (i : Nat) : Nat × Nat × Nat :=
  if lPk w then (lVr w + i / 256, i / 2 % 128, i % 2) else (lVr w + i / 128, i % 128, 0)

/-- Register contents of a loaded element: binary32, or an Hf16 code with PK (R29, R33). -/
def loadVal (f : Fmt) (pk : Bool) (code : Nat) : Nat × Cnt :=
  if pk then (if f == .hf16 then (code, {}) else convV .hf16 false (f32v (widen f code))) else ((widen f code).toNat, {})

/-- One element of a VLD. -/
def vldStep (q c : Nat) (w : W128) (x : State × Stat) (i : Nat) : State × Stat :=
  let s := x.1
  let a := lsBase q + lAddr w
  let psn := elemPsn s (lFmt w) a i
  let r := loadVal (lFmt w) (lPk w) (elemAt s (lFmt w) a i)
  let (g, l, h) := lPlace w i
  let old := vreg s q c g l
  let v := if lPk w then (if h = 0 then pack2 r.1 (half old 1) else pack2 (half old 0) r.1) else BitVec.ofNat 32 r.1
  let p := psn || (lPk w && h == 1 && vpsn s q c g l && i != 0)
  (setVreg s q c g l v p, statLane x.2 psn false [(if lPk w then widen .hf16 r.1 else v, r.2)])

/-- A BCAST load: element 0 into every lane of VR, both halves with PK. Its record counts the one element loaded (log entry
78). -/
def vldBcast (q c : Nat) (w : W128) (s : State) : State × Stat :=
  let a := lsBase q + lAddr w
  let psn := elemPsn s (lFmt w) a 0
  let r := loadVal (lFmt w) (lPk w) (elemAt s (lFmt w) a 0)
  let v := if lPk w then pack2 r.1 r.1 else BitVec.ofNat 32 r.1
  ((List.range 128).foldl (fun t l => setVreg t q c (lVr w) l v psn) s,
   statLane stat0 psn false [(if lPk w then widen .hf16 r.1 else v, r.2)])

/-- VLD (R132). -/
def vldBody (q c : Nat) (s : State) (f : Fetched) : Except Nat Done :=
  match lStatus true f.word with
  | some st => .error st
  | none =>
    let (s1, t) := if lBcast f.word then vldBcast q c f.word s
      else (List.range (lN f.word)).foldl (vldStep q c f.word) (s, stat0)
    .ok ⟨if lStat f.word then writeStat s1 q (lRec f.word) t else s1, .here, false, statDst q (lStat f.word) (lRec f.word)⟩

/-- Stored code of a register's element, with its counts (R29, R32); binary32 stores the pattern. -/
def storeVal (f : Fmt) (pk novf : Bool) (v : W32) (h : Nat) : Nat × Cnt :=
  if pk then (if f == .hf16 then (half v h, {}) else convV f novf (f32v (widen .hf16 (half v h))))
  else if f == .b32 then (v.toNat, {}) else convV f novf (f32v v)

/-- Element i of a VST: its cell, value and counts. -/
def vstElem (s : State) (q c : Nat) (w : W128) (i : Nat) : Cell1 × W32 × Cnt :=
  let (g, l, h) := lPlace w i
  let r := storeVal (lFmt w) (lPk w) (lNovf w) (vreg s q c g l) h
  (⟨i, r.1, vpsn s q c g l⟩, widen (lFmt w) r.1, r.2)

/-- VST (R132, R85). -/
def vstBody (q c : Nat) (s : State) (f : Fetched) : Except Nat Done :=
  match lStatus false f.word with
  | some st => .error st
  | none =>
    let w := f.word
    let es := (List.range (lN w)).map (vstElem s q c w)
    let s1 := writeElems s (lFmt w) (lsBase q + lAddr w) (es.map (·.1)) (lN w)
    let s2 := if es.any (fun e => e.1.psn) then raiseQ s1 q ePoison (8 + c) 0 else s1
    let t := es.foldl (fun t e => statLane t e.1.psn false [e.2]) stat0
    .ok ⟨if lStat w then writeStat s2 q (lRec w) t else s2, .here, false,
      (lsBase q + lAddr w, rowBytes (lFmt w) (lN w)) :: statDst q (lStat w) (lRec w)⟩

/-! ### Reductions (R90 to R92, R133) -/

/-- A MOMENTS record (R91): n, mean, second moment, elements skipped. -/
structure Mom where
  n : Nat
  mu : W32
  m2 : W32
  skip : Nat
  deriving DecidableEq, Repr

/-- The merge of R91. -/
def momMerge (a b : Mom) : Mom :=
  let sk := satCnt (a.skip + b.skip)
  if a.n = 0 then { b with skip := sk }
  else if b.n = 0 then { a with skip := sk }
  else
    let n := a.n + b.n
    let wb := f32Ratio b.n n
    let d := f32Sub b.mu a.mu
    let t := f32Mul (f32OfNat a.n) wb
    ⟨satCnt n, f32Fma d wb a.mu, f32Fma (f32Mul d d) t (f32Add a.m2 b.m2), sk⟩

/-- The kinds of reduction: OP of R133. -/
inductive Red where
  | sum | sumsq | moments | amax | max | min
  deriving DecidableEq, Repr

def redOf : Nat → Red
  | 0 => .sum
  | 1 => .sumsq
  | 2 => .moments
  | 3 => .amax
  | 4 => .max
  | _ => .min

/-- A partial of a reduction: a scalar in `mu`, or a record. The first element stands as it is (R90), a NaN with its
payload (log entry 75). -/
def redStart (r : Red) (x : W32) : Mom :=
  match r with
  | .sumsq => ⟨1, f32Mul x x, 0, 0⟩
  | .amax => ⟨1, f32Abs x, 0, 0⟩
  | _ => ⟨1, x, 0, 0⟩

/-- combine of R90: the lower lane is the left operand. -/
def redComb (r : Red) (a b : Mom) : Mom :=
  match r with
  | .moments => momMerge a b
  | .sum => { a with mu := f32Add a.mu b.mu }
  | .sumsq => { a with mu := f32Add a.mu b.mu }
  | .amax => { a with mu := f32Max a.mu b.mu }
  | .max => { a with mu := f32Max a.mu b.mu }
  | .min => { a with mu := f32Min a.mu b.mu }

/-- The lane step of R90. -/
def redLane (r : Red) (acc : Option Mom) (x : W32) : Option Mom :=
  match acc with
  | none => some (redStart r x)
  | some a =>
    some (match r with
      | .sumsq => { a with mu := f32Fma x x a.mu }
      | _ => redComb r a (redStart r x))

/-- Partials combined where both exist (R90, R92). -/
def optComb (r : Red) (a b : Option Mom) : Option Mom :=
  match a, b with
  | none, b => b
  | a, none => a
  | some x, some y => some (redComb r x y)

/-- One level of the tree: neighbours combined. -/
def pairUp (r : Red) : List (Option Mom) → List (Option Mom)
  | a :: b :: t => optComb r a b :: pairUp r t
  | l => l

/-- The tree of 7 levels over 128 lanes. -/
def redTree (r : Red) : Nat → List (Option Mom) → Option Mom
  | 0, l => l.head?.join
  | n + 1, l => redTree r n (pairUp r l)

/-- A cluster reduction of the elements given (R90). -/
def redCluster (r : Red) (xs : List (Nat × W32)) : Option Mom :=
  redTree r 7 ((List.range 128).map fun l =>
    (xs.filter fun p => p.1 % 128 == l).foldl (fun a p => redLane r a p.2) none)

/-- The result of a reduction with nothing left to combine (R90). -/
def redEmpty (r : Red) : Mom :=
  match r with
  | .max => ⟨0, f32NaN, 0, 0⟩
  | .min => ⟨0, f32NaN, 0, 0⟩
  | _ => ⟨0, 0, 0, 0⟩

/-- The elements of one part, indexed from its own start, without the ones that SKIP_NONFINITE leaves out. -/
def redElems (s : State) (f : Fmt) (a lo n : Nat) (skip : Bool) : List (Nat × W32) :=
  ((List.range n).map fun i => (i, elem32 s f a (lo + i))).filter fun p => !skip || f32IsFinite p.2

/-- A reduction over n elements at a: the cluster's, or the quarter's four parts (R90, R92). -/
def reduceAt (s : State) (r : Red) (f : Fmt) (a n : Nat) (skip quarterScope : Bool) : Mom :=
  let parts := if quarterScope then
      let p := (n + 3) / 4
      (List.range 4).map fun c => (c * p, min p (n - c * p))
    else [(0, n)]
  let ps := parts.map fun p => redCluster r (redElems s f a p.1 p.2 skip)
  let res := (ps.foldl (optComb r) none).getD (redEmpty r)
  let kept := (redElems s f a 0 n skip).length
  { res with skip := n - kept }

/-- The result bytes of a reduction: 4 B, or the 16 B record (R91, R133). -/
def redBytes (r : Red) (m : Mom) : List Byte :=
  match r with
  | .moments => leBytes 4 m.n ++ leBytes 4 m.mu.toNat ++ leBytes 4 m.m2.toNat ++ leBytes 4 (satCnt m.skip)
  | _ => leBytes 4 m.mu.toNat

/-- A result written to memory, poisoned when an input was (R85). -/
def writeResult (s : State) (q c a : Nat) (bs : List Byte) (psn : Bool) : State :=
  if psn then raiseQ (poisonRange s a bs.length) q ePoison (8 + c) 0 else writeBytes s a bs

/-- Reserved bits of a VRED block (R133). -/
def vredReserved (b : W512) : Bool :=
  bits b 23 19 != 0 || blk b 3 1 != 0 || bits b 511 160 != 0 || offBad (blk b 4 4) || offBad (blk b 12 4)

/-- A storage format that a vector instruction reads: not binary64, not reserved (R24). -/
def fmtByte (b : W512) (o : Nat) : Fmt := if blk b o 1 < 16 then fmtOfCode (blk b o 1) else .res

/-- The checks of R133. -/
def vredStatus (c : Nat) (b : W512) : Option Nat :=
  let op := blk b 0 1
  let n := blk b 8 4
  let f := fmtByte b 1
  firstFail [
    (decide (6 < op), stIllegalField),
    (op != 6 && (f == .b64 || f == .res), stIllegalFormat),
    (n == 0 || decide (16777216 < n) || (op == 6 && n != 1), stIllegalField),
    (bit b 16 && c != 0, stIllegalField),
    (!lsOk (blk b 4 4) (if op = 6 then 16 else rowBytes f n), stAddrRange),
    (!lsOk (blk b 12 4) (if op = 6 then 8 else if op = 2 then 16 else 4), stAddrRange)]

/-- VRED (R90, R92). -/
def vredBody (q c : Nat) (s : State) (f : Fetched) : Except Nat Done := do
  let b ← readBlock s q (wPb f.word) vredReserved
  match vredStatus c b with
  | some st => .error st
  | none =>
    let a := lsBase q + blk b 4 4
    let n := blk b 8 4
    let r := redOf (blk b 0 1)
    let psn := anyPsn s a (rowBytes (fmtByte b 1) n)
    let m := reduceAt s r (fmtByte b 1) a n (bit b 17) (bit b 16)
    .ok ⟨writeResult s q c (lsBase q + blk b 12 4) (redBytes r m) psn, .here, bit b 16,
      [(lsBase q + blk b 12 4, (redBytes r m).length)]⟩

/-- The two results of MOMFIN (R91). -/
def momfin (n : Nat) (m2 eps : W32) (c : Nat) : W32 × W32 :=
  let var := if n ≤ c then 0 else f32DivV (f32v m2) (.fin false (n - c) 0)
  (var, fnApply .rsqrt (f32Add var eps))

/-- MOMFIN (R91, R133). -/
def momfinBody (q c : Nat) (s : State) (f : Fetched) : Except Nat Done := do
  let b ← readBlock s q (wPb f.word) vredReserved
  match vredStatus c b with
  | some st => .error st
  | none =>
    let a := lsBase q + blk b 4 4
    let r := momfin (readNat s a 4) (BitVec.ofNat 32 (readNat s (a + 8) 4)) (BitVec.ofNat 32 (blk b 16 4))
      (if bit b 18 then 1 else 0)
    .ok ⟨writeResult s q c (lsBase q + blk b 12 4) (leBytes 4 r.1.toNat ++ leBytes 4 r.2.toNat) (anyPsn s a 16), .here,
      false, [(lsBase q + blk b 12 4, 8)]⟩

/-! ### The amax pass (R43) -/

/-- The largest and the smallest scale of R42. -/
def scaleMax : W32 := 0x7F7FFFFF#32
def scaleMin : W32 := 0x00800000#32

/-- amax of R43: the largest magnitude of the finite elements, and the elements skipped. -/
def amaxOf (ys : List W32) : W32 × Nat :=
  ((ys.filter f32IsFinite).foldl (fun m y => f32Max m (f32Abs y)) 0, (ys.filter fun y => !f32IsFinite y).length)

/-- s_c of R43 for an amax, a target format and log2 of the headroom, and whether the bounds of R42 replaced it. -/
def amaxScale (f : Fmt) (lh : Nat) (amax : W32) : W32 × Nat :=
  if amax = 0 then (f32One, 0)
  else
    let v := f32DivV (fvMul (f32v amax) (.fin false (2 ^ lh) 0)) (fmtVal f (mxMax (mxOf f)))
    if !f32IsFinite v then (scaleMax, 1)
    else if v.toNat < scaleMin.toNat then (scaleMin, 1)
    else (v, 0)

/-- The amax pass of R43 over a tensor: its scale, its non-finite count, its saturation count. It alters no element. A
program runs it with VRED (AMAX) and vector instructions. -/
def amaxPass (f : Fmt) (lh : Nat) (ys : List W32) : W32 × Nat × Nat :=
  let a := amaxOf ys
  let r := amaxScale f lh a.1
  (r.1, a.2, r.2)

/-! ### Relay (R95 to R97, R134) -/

def vrReserved (b : W512) : Bool :=
  bits b 23 20 != 0 || blk b 3 1 != 0 || blk b 22 2 != 0 || bits b 511 232 != 0 || offBad (blk b 8 4) ||
    (!bit b 17 && offBad (blk b 4 4))

/-- Elements of 32 or 16 bits in one item of a kind, and their width (R134). -/
def vrItem (kind : Nat) : Nat := if kind = 5 then 4 else if kind = 6 then 8 else 1
def vrSum (b : W512) : Fmt := if blk b 0 1 = 7 && bit b 16 then .hf16 else .b32

/-- Bytes of the link's output, and of its own contribution. -/
def vrOutBytes (b : W512) : Nat := rowBytes (vrSum b) (blk b 12 4 * vrItem (blk b 0 1))
def vrOwnFmt (b : W512) : Fmt := if blk b 0 1 = 7 then fmtByte b 1 else .b32
def vrOwnBytes (b : W512) : Nat := rowBytes (vrOwnFmt b) (blk b 12 4 * vrItem (blk b 0 1))

/-- The checks of R134 and R283. -/
def vrStatus (s : State) (b : W512) : Option Nat :=
  let kind := blk b 0 1
  let n := blk b 12 4
  let port := bit b 19
  firstFail [
    (decide (7 < kind), stIllegalField),
    ((decide (kind ≤ 4) && fmtByte b 1 != .b32) || (kind == 7 && !(fmtIsMilpex (fmtByte b 1) || fmtByte b 1 == .b32)) ||
      ((kind == 5 || kind == 6) && (fmtByte b 1 == .b64 || fmtByte b 1 == .res)), stIllegalFormat),
    (n == 0 || decide (16777216 < n), stIllegalField),
    (!port && blk b 20 2 != 0, stIllegalField),
    (port && !circSource s (blk b 20 2) (bits (circ s (blk b 20 2)) 31 16), stIllegalField),
    (port && blk b 24 8 % 64 != 0, stAlign),
    (!bit b 17 && !lsOk (blk b 4 4) (vrOutBytes b), stAddrRange),
    (!lsOk (blk b 8 4) (vrOwnBytes b), stAddrRange),
    (!port && !inMem s (blk b 24 8) (vrOutBytes b), stAddrRange)]

/-- The elementwise sum of a link (R97), or the first link's own partial (R95): exact value and rounding. -/
def tensorSum (sumf : Fmt) (first novf : Bool) (inp own s : W32) : Nat :=
  if first then
    if sumf == .b32 then (f32Mul own s).toNat else (convV .hf16 novf (fvMul (f32v own) (f32v s))).1
  else
    let x := if s = f32One then own else f32Mul own s
    let y := fvAdd (f32v inp) (f32v x)
    if sumf == .b32 then (f32r y).toNat else (convV .hf16 novf y).1

/-- A MOMENTS record in memory. -/
def readMom (s : State) (a : Nat) : Mom :=
  ⟨readNat s a 4, BitVec.ofNat 32 (readNat s (a + 4) 4), BitVec.ofNat 32 (readNat s (a + 8) 4), readNat s (a + 12) 4⟩

/-- The elements that a link sends for item i, with their poison mark (R85, R95). -/
def vrItemOut (s : State) (b : W512) (ina owna i : Nat) : List Cell1 :=
  let kind := blk b 0 1
  let first := bit b 17
  let w := vrItem kind
  let f := vrSum b
  let mark := (if first then false else (List.range w).any fun j => elemPsn s f ina (i * w + j)) ||
    (List.range w).any fun j => elemPsn s (vrOwnFmt b) owna (i * w + j)
  let own := elem32 s (vrOwnFmt b) owna i
  let inp := elem32 s f ina i
  let raw := (List.range w).map fun j => elemAt s .b32 owna (i * w + j)
  let out : List Nat :=
    if kind = 7 then [tensorSum f first (bit b 18) inp own (BitVec.ofNat 32 (blk b 16 4))]
    else if first then raw
    else match kind with
      | 0 => [(f32Add inp own).toNat]
      | 1 => [(f32Add inp own).toNat]
      | 2 => [(f32Max inp own).toNat]
      | 3 => [(f32Max inp own).toNat]
      | 4 => [(f32Min inp own).toNat]
      | 5 =>
        let m := momMerge (readMom s (ina + 16 * i)) (readMom s (owna + 16 * i))
        [m.n, m.mu.toNat, m.m2.toNat, m.skip]
      | _ =>
        let t := statMerge (readStat s (ina + 32 * i)) (readStat s (owna + 32 * i))
        [t.amax.toNat, t.nonfin, t.sat, t.flush, t.metaF, t.flags, t.elems,
         max (readNat s (ina + 32 * i + 28) 4) (readNat s (owna + 32 * i + 28) 4)]
  out.zipIdx.map fun p => ⟨i * w + p.2, p.1, mark⟩

/-- A VRELAY that writes to memory may have to wait at the slice of OUT. -/
def vrTouches (q : Nat) (s : State) (f : Fetched) : Touches :=
  match readBlock s q (wPb f.word) vrReserved with
  | .error _ => ⟨[], []⟩
  | .ok b => ⟨[], if bit b 19 then [] else [(blk b 24 8, vrOutBytes b)]⟩

/-- VRELAY (R95, R134). -/
def vrelayBody (q c : Nat) (s : State) (f : Fetched) : Except Nat Done := do
  let b ← readBlock s q (wPb f.word) vrReserved
  match vrStatus s b with
  | some st => .error st
  | none =>
    let n := blk b 12 4
    let cs := (List.range n).flatMap (vrItemOut s b (lsBase q + blk b 4 4) (lsBase q + blk b 8 4))
    let out := blk b 24 8
    let s1 := if bit b 19 then circWrite s (blk b 20 2) (ownKey q (nextOpId s q)) out (streamWords (fmtBits (vrSum b)) cs)
      else touch (writeElems s (vrSum b) out cs (n * vrItem (blk b 0 1))) clQtr out (vrOutBytes b) true
    let s2 := if cs.any (·.psn) then raiseQ s1 q ePoison (8 + c) 0 else s1
    .ok ⟨s2, if bit b 19 then .circuit (blk b 20 2) else .here, false, if bit b 19 then [] else [(out, vrOutBytes b)]⟩

/-! ### TOPK (R86 to R88, R135) -/

def tkE (b : W512) : Nat := blk b 0 1 + 1
def tkK (b : W512) : Nat := bits b 10 8 + 1
def tkMode (b : W512) : Nat := bits b 12 11
def tkNorm (b : W512) : Bool := bit b 13
def tkBias (b : W512) : Bool := bit b 14
def tkStat (b : W512) : Bool := bit b 15
def tkN (b : W512) : Nat := blk b 2 2 + 1

def tkReserved (b : W512) : Bool :=
  bits b 511 192 != 0 || offBad (blk b 4 4) || (tkBias b && offBad (blk b 12 4)) || offBad (blk b 16 4) ||
    (tkStat b && offBad (blk b 20 4))

/-- The checks of R135, in the order of its table (R114). -/
def tkStatus (b : W512) : Option Nat :=
  firstFail [
    (blk b 8 4 % 4 != 0, stAlign),
    (decide (blk b 8 4 < 4 * tkE b), stIllegalField),
    (blk b 16 4 % 8 != 0 || (tkStat b && blk b 20 4 % 32 != 0), stAlign),
    (!lsOk (blk b 4 4 + (tkN b - 1) * blk b 8 4) (4 * tkE b), stAddrRange),
    (tkBias b && !lsOk (blk b 12 4) (4 * tkE b), stAddrRange),
    (!lsOk (blk b 16 4) (8 * tkN b * tkK b), stAddrRange),
    (tkStat b && !lsOk (blk b 20 4) 32, stAddrRange)]

/-- Step 1 of R87: an infinite logit gives way to the largest number of its sign. -/
def tkLogit (l : W32) : W32 :=
  if l = f32Inf then 0x7F7FFFFF#32 else if l = f32NegInf then 0xFF7FFFFF#32 else l

/-- Expert a ranks before expert b (R87 step 3): (number, key). -/
def tkBefore (a b : Nat × W32) : Bool :=
  if f32IsNaN a.2 then f32IsNaN b.2 && decide (a.1 < b.1)
  else f32IsNaN b.2 || f32Lt b.2 a.2 || (f32Eq a.2 b.2 && decide (a.1 < b.1))

/-- An expert inserted in rank order. -/
def tkInsert (x : Nat × W32) : List (Nat × W32) → List (Nat × W32)
  | [] => [x]
  | y :: t => if tkBefore x y then x :: y :: t else y :: tkInsert x t

def tkRank (keys : List W32) : List (Nat × W32) :=
  keys.zipIdx.foldl (fun l p => tkInsert (p.2, p.1) l) []

/-- Weights of the selected experts (R88): number, logit, weight, and non-finite counts. `sel` in rank order. -/
def tkWeights (mode : Nat) (norm : Bool) (logits : List W32) (sel : List Nat) : List W32 × Nat :=
  let lg := fun e => logits.getD e 0
  let c := if mode = 2 then (List.range logits.length).filter fun e => !f32IsNaN (lg e) else sel
  let w := match mode with
    | 0 => sel.map lg
    | 1 => sel.map fun e => fnApply .sigmoid (lg e)
    | _ =>
      let m := match c.map lg with
        | [] => 0
        | x :: t => t.foldl f32Max x
      let ex := fun e => fnApply .exp (f32Sub (lg e) m)
      let sum := c.foldl (fun a e => f32Add a (ex e)) 0
      sel.map fun e => f32Div (ex e) sum
  if norm then
    let t := w.foldl f32Add 0
    if t = 0 then (w, 1) else (w.map fun x => f32Div x t, 0)
  else (w, 0)

/-- The entry of rank i beyond E: SLOT is 0 (R86); of EXPERT and WEIGHT the spec states nothing, so they are free, yet the
same on every run for the same logits, bias and fields (R89; log entry 15). -/
def tkBeyond (raw bias : List W32) (ctl i : Nat) : Nat × W32 :=
  let v := Config.topkFree raw bias ctl i
  (v.toNat % 65536, BitVec.ofNat 32 (v.toNat >>> 32))

/-- The entries of a token (R72, R87, R88) with their non-finite count. -/
def tkToken (ctl : Nat) (k mode : Nat) (norm : Bool) (raw bias : List W32) (hasBias : Bool) : List (Nat × W32) × Nat :=
  let logits := raw.map tkLogit
  let n1 := (raw.filter fun l => l == f32Inf || l == f32NegInf).length
  let keys := if hasBias then (logits.zip bias).map fun p => f32Add p.1 p.2 else logits
  let top := (tkRank keys).take k
  let sel := (top.filter fun p => !f32IsNaN p.2).map (·.1)
  let (ws, n2) := tkWeights mode norm logits sel
  let good := (sel.zip ws)
  let bad := (top.filter fun p => f32IsNaN p.2).map fun _ => (0xFFFF, (0 : W32))
  let rest := (List.range (k - top.length)).map (tkBeyond raw bias ctl)
  (good ++ bad ++ rest, n1 + n2 + bad.length)

/-- One token's entries written, and the record: its elements are the weights of the k entries, and NONFINITE takes the
counts of R87 and R88 too (log entry 77). -/
def tkStep (q c : Nat) (b : W512) (x : State × Stat) (t : Nat) : State × Stat :=
  let s := x.1
  let a := lsBase q + blk b 4 4 + t * blk b 8 4
  let e := tkE b
  let k := tkK b
  let raw := (List.range e).map fun i => elem32 s .b32 a i
  let bias := if tkBias b then (List.range e).map fun i => elem32 s .b32 (lsBase q + blk b 12 4) i else []
  let psn := anyPsn s a (4 * e) || (tkBias b && anyPsn s (lsBase q + blk b 12 4) (4 * e))
  let y := tkToken (bits b 31 0) k (tkMode b) (tkNorm b) raw bias (tkBias b)
  let out := lsBase q + blk b 16 4 + 8 * k * t
  let st := x.2
  if psn then
    (raiseQ (poisonRange s out (8 * k)) q ePoison (8 + c) 0, { st with elems := st.elems + k, flags := st.flags ||| 2 })
  else
    (y.1.zipIdx.foldl (fun u p => writeNat u (out + 8 * p.2) 8 (p.1.1 + p.1.2.toNat * 2 ^ 32)) s,
     let r := y.1.foldl (fun u p => statElem u p.2 {}) st
     { r with nonfin := r.nonfin + y.2 })

/-- TOPK (R86, R135). -/
def topkBody (q c : Nat) (s : State) (f : Fetched) : Except Nat Done := do
  let b ← readBlock s q (wPb f.word) tkReserved
  match tkStatus b with
  | some st => .error st
  | none =>
    let r := (List.range (tkN b)).foldl (tkStep q c b) (s, stat0)
    .ok ⟨if tkStat b then writeStat r.1 q (blk b 20 4) r.2 else r.1, .here, false,
      (lsBase q + blk b 16 4, 8 * tkN b * tkK b) :: statDst q (tkStat b) (blk b 20 4)⟩

/-! ### Random generators, DROPOUT and MASKAPPLY (R100 to R104, R136) -/

/-- inc of R100. -/
def rngInc (chip lane : Nat) : W64 := BitVec.ofNat 64 ((chip * 2 ^ 17 + lane) * 2 + 1)

/-- The generator's state after n cycles from the seed (R100, R101). -/
def rngState (seed inc : W64) : Nat → W64
  | 0 => seed
  | n + 1 => rngState seed inc n * 0x5851f42d4c957f2d#64 + inc

/-- The 24-bit output of a state. -/
def rngOut (x : W64) : Nat := bits (x ^^^ (x >>> 29)) 63 40

/-- The output that a lane consumes in the cycle that timing gives it (R102 to R104): the generator run to a free
number of cycles (log entry 5); free while no seed is loaded. `d` counts consecutive cycles. -/
def rngU (s : State) (lane fr d : Nat) : Nat :=
  match s.disp.seed with
  | some seed => rngOut (rngState seed (rngInc (thisChip s) lane) (Config.rngCycle fr + d))
  | none => (Config.free32 (fr + d)).toNat % 2 ^ 24

/-- lane_id of a vector lane (R100). -/
def vecLane (q c l : Nat) : Nat := q * 512 + c * 128 + l

def vrandReserved (b : W512) : Bool :=
  blk b 2 2 != 0 || blk b 7 1 != 0 || bits b 511 224 != 0 || offBad (blk b 8 4) || offBad (blk b 12 4) ||
    offBad (blk b 16 4)

/-- The checks of R136. -/
def vrandStatus (b : W512) : Option Nat :=
  let f := fmtByte b 1
  let n := blk b 20 4
  firstFail [
    (decide (1 < blk b 0 1), stIllegalField),
    (f != .b32 && f != .hf16, stIllegalFormat),
    (n == 0 || decide (16777216 < n), stIllegalField),
    (!lsOk (blk b 8 4) (rowBytes f n), stAddrRange),
    (!lsOk (blk b 12 4) (rowBytes f n), stAddrRange),
    (!lsOk (blk b 16 4) ((n + 7) / 8), stAddrRange)]

/-- A kept or dropped element (R102). -/
def dropVal (f : Fmt) (keep : Bool) (x scale : W32) : Nat :=
  if !keep then 0
  else if f == .hf16 then (convV .hf16 false (fvMul (f32v x) (f32v scale))).1 else (f32Mul x scale).toNat

/-- Whether DROPOUT keeps element i (R102): u >= T. Packed halves use consecutive cycles. -/
def dropKeep (s : State) (q c : Nat) (f : Fmt) (t i : Nat) : Bool :=
  if f == .hf16 then decide (t ≤ rngU s (vecLane q c (i / 2 % 128)) (s.free + i / 2) (i % 2))
  else decide (t ≤ rngU s (vecLane q c (i % 128)) (s.free + i) 0)

/-- The elements that DROPOUT or MASKAPPLY writes, given which are kept. -/
def dropCells (s : State) (b : W512) (src : Nat) (keep : Nat → Bool) (mpsn : Nat → Bool) : List Cell1 :=
  let f := fmtByte b 1
  (List.range (blk b 20 4)).map fun i =>
    ⟨i, dropVal f (keep i) (elem32 s f src i) (BitVec.ofNat 32 (blk b 24 4)), elemPsn s f src i || mpsn i⟩

/-- DROPOUT (R102). -/
def dropoutBody (q c : Nat) (s : State) (f : Fetched) : Except Nat Done := do
  let b ← readBlock s q (wPb f.word) vrandReserved
  match vrandStatus b with
  | some st => .error st
  | none =>
    let n := blk b 20 4
    let fm := fmtByte b 1
    let keep := dropKeep s q c fm (bits b 55 32)
    let cs := dropCells s b (lsBase q + blk b 8 4) keep (fun _ => false)
    let s1 := writeElems s fm (lsBase q + blk b 12 4) cs n
    let mk := lsBase q + blk b 16 4
    let (v, m, _) := packElems 1 (8 * (mk % 8)) ((List.range n).map fun i => ⟨i, if keep i then 1 else 0, false⟩)
    let s2 := writeMask s1 (mk / 8) v m 0 (n / 64 + 2)
    let s3 := { s2 with free := s2.free + n }
    .ok ⟨if cs.any (·.psn) then raiseQ s3 q ePoison (8 + c) 0 else s3, .here, false,
      [(lsBase q + blk b 12 4, rowBytes fm n), (mk, (n + 7) / 8)]⟩

/-- MASKAPPLY (R102). -/
def maskapplyBody (q c : Nat) (s : State) (f : Fetched) : Except Nat Done := do
  let b ← readBlock s q (wPb f.word) vrandReserved
  match vrandStatus b with
  | some st => .error st
  | none =>
    let mk := lsBase q + blk b 16 4
    let keep := fun i => (memByte s (mk + i / 8)).toNat.testBit (i % 8)
    let cs := dropCells s b (lsBase q + blk b 8 4) keep (fun i => anyPsn s (mk + i / 8) 1)
    let s1 := writeElems s (fmtByte b 1) (lsBase q + blk b 12 4) cs (blk b 20 4)
    .ok ⟨if cs.any (·.psn) then raiseQ s1 q ePoison (8 + c) 0 else s1, .here, false,
      [(lsBase q + blk b 12 4, rowBytes (fmtByte b 1) (blk b 20 4))]⟩

/-! ### The commands -/

/-- VALU (R130). -/
def execValu (q : Fin 96) (c : Fin 4) (s : State) : Out :=
  .next (runInstr s q (8 + c) (fun w => wOpcode w == opValu) touchesNone (valuBody q c))
/-- VLD (R132). -/
def execVld (q : Fin 96) (c : Fin 4) (s : State) : Out :=
  .next (runInstr s q (8 + c) (fun w => wOpcode w == opVld) touchesNone (vldBody q c))
/-- VST (R132). -/
def execVst (q : Fin 96) (c : Fin 4) (s : State) : Out :=
  .next (runInstr s q (8 + c) (fun w => wOpcode w == opVst) touchesNone (vstBody q c))
/-- VRED (R90): every OP but MOMFIN. -/
def execVred (q : Fin 96) (c : Fin 4) (s : State) : Out :=
  .next (runInstr s q (8 + c) (fun w => wOpcode w == opVred && blockOp s q w != 6) touchesNone (vredBody q c))
/-- MOMFIN (R91). -/
def execMomfin (q : Fin 96) (c : Fin 4) (s : State) : Out :=
  .next (runInstr s q (8 + c) (fun w => wOpcode w == opVred && blockOp s q w == 6) touchesNone (momfinBody q c))
/-- VRELAY (R95). -/
def execVrelay (q : Fin 96) (c : Fin 4) (s : State) : Out :=
  .next (runInstr s q (8 + c) (fun w => wOpcode w == opVrelay) (vrTouches q) (vrelayBody q c))
/-- TOPK (R87). -/
def execTopk (q : Fin 96) (c : Fin 4) (s : State) : Out :=
  .next (runInstr s q (8 + c) (fun w => wOpcode w == opTopk) touchesNone (topkBody q c))
/-- DROPOUT (R102): every OP but MASKAPPLY. -/
def execDropout (q : Fin 96) (c : Fin 4) (s : State) : Out :=
  .next (runInstr s q (8 + c) (fun w => wOpcode w == opVrand && blockOp s q w != 1) touchesNone (dropoutBody q c))
/-- MASKAPPLY (R102). -/
def execMaskapply (q : Fin 96) (c : Fin 4) (s : State) : Out :=
  .next (runInstr s q (8 + c) (fun w => wOpcode w == opVrand && blockOp s q w == 1) touchesNone (maskapplyBody q c))

end Sys2Proof.Machine
end

