-- ==== Sys2Proof/Machine/Krefresh.lean ====
section
/-! DEFINITION. The Kronecker refresh of the resident quarter runtime (07, R186, R187): factor records, matrices, and the
effect of each stage, which LAUNCH runs (Beats.lean). What the spec leaves open of it: log entry 81. -/

namespace Sys2Proof.Machine

/-- A factor record (R186), at its address. -/
structure KRec where
  at_ : Nat
  n : Nat
  newtonIt : Nat
  betaF : W32
  epsK : W32
  lambda0 : W32
  stale : Nat
  state : Nat
  stage : Nat
  a : Nat
  s : Nat
  root : Nat
  work : Nat
  deriving DecidableEq, Repr

def word32 (s : State) (a : Nat) : W32 := BitVec.ofNat 32 (readNat s a 4)

/-- The factor record at p (R186). -/
def kRec (s : State) (p : Nat) : KRec :=
  ⟨p, readNat s p 4, readNat s (p + 4) 4, word32 s (p + 8), word32 s (p + 12), word32 s (p + 16), readNat s (p + 20) 1,
   readNat s (p + 21) 1, readNat s (p + 22) 1, readNat s (p + 24) 8, readNat s (p + 32) 8, readNat s (p + 40) 8,
   readNat s (p + 48) 8⟩

/-- Bytes from one row of a matrix to the next: 4n rounded up to a multiple of 64 (R186). -/
def kStride (n : Nat) : Nat := (4 * n + 63) / 64 * 64

/-- The n by n matrix at a, row-major (R186). -/
def kMat (s : State) (a n : Nat) : List (List W32) :=
  (List.range n).map fun i => (List.range n).map fun j => word32 s (a + i * kStride n + 4 * j)

/-- An element of the matrix at a is poisoned. -/
def kMatPsn (s : State) (a n : Nat) : Bool := (List.range n).any fun i => anyPsn s (a + i * kStride n) (4 * n)

/-- Rows written from a; all of them poisoned where the values rest on a poisoned word (R379). -/
def kPut (psn : Bool) (a n : Nat) (s : State) (rows : List (List W32)) : State :=
  rows.zipIdx.foldl (fun t r =>
    if psn then poisonRange t (a + r.2 * kStride n) (4 * n)
    else writeBytes t (a + r.2 * kStride n) (r.1.flatMap fun x => leBytes 4 x.toNat)) s

/-- The ranges of R186, and addresses in stacked memory. -/
def kOk (s : State) (r : KRec) : Bool :=
  let sz := r.n * kStride r.n
  decide (1 ≤ r.n) && decide (r.n ≤ 8192) && decide (1 ≤ r.newtonIt) && decide (r.newtonIt ≤ 32) && f32IsNonneg r.betaF &&
    f32Lt r.betaF f32One && f32IsScale r.epsK && f32IsScale r.lambda0 && inStack r.a sz && inStack r.s sz &&
    inStack r.root sz && inStack r.work (3 * sz) && inStack r.at_ 64 && !anyPsn s r.at_ 64

/-! ### Arithmetic (R187) -/

def kIdent (n : Nat) : List (List W32) :=
  (List.range n).map fun i => (List.range n).map fun j => if i = j then f32One else f32Zero

/-- Two matrices combined element by element. -/
def kZip (f : W32 → W32 → W32) (x y : List (List W32)) : List (List W32) := List.zipWith (List.zipWith f) x y

def kDiag (x : List (List W32)) : List W32 := x.zipIdx.map fun p => (p.1[p.2]?).getD 0

/-- trace: the diagonal summed in ascending order, binary32 at each step. -/
def kTrace (x : List (List W32)) : W32 := (kDiag x).foldl f32Add f32Zero

/-- b = a with lam added to the diagonal. -/
def kDamp (lam : W32) (x : List (List W32)) : List (List W32) :=
  x.zipIdx.map fun p => p.1.zipIdx.map fun e => if e.2 = p.2 then f32Add e.1 lam else e.1

/-- An element of a product: the parts of the split, each a binary32 MMA (R38), added in link order (R69). -/
def kDot (n : Nat) (u v : List W32) : W32 :=
  let part (p : Nat × Nat) : W32 :=
    (List.zip ((u.drop p.1).take p.2) ((v.drop p.1).take p.2)).foldl (fun acc x => f32Fma x.1 x.2 acc) f32Zero
  match (Config.kSplit n).map part with
  | [] => f32Zero
  | h :: t => t.foldl f32Add h

def kCol (x : List (List W32)) (j : Nat) : List W32 := x.map fun r => (r[j]?).getD 0

/-- The product of two matrices. -/
def kMul (n : Nat) (x y : List (List W32)) : List (List W32) :=
  let cols := (List.range n).map (kCol y)
  x.map fun r => cols.map (kDot n r)

/-- One row of the factor L below the rows before it: its elements before the diagonal, then the pivot. -/
def kCholRow (rows : List (List W32)) (brow : List W32) (i : Nat) : List W32 × W32 :=
  let left := rows.zipIdx.foldl (fun acc p =>
    acc ++ [Config.kQuot (Config.kLess ((brow[p.2]?).getD 0) (acc.zip p.1)) ((p.1[p.2]?).getD 0)]) []
  (left, Config.kLess ((brow[i]?).getD 0) (left.zip left))

/-- cholesky keeps every pivot at or above the threshold. -/
def kCholGo (thr : W32) : List (List W32) → List (List W32) → Bool
  | _, [] => true
  | rows, b :: t =>
    let (left, p) := kCholRow rows b rows.length
    f32Le thr p && kCholGo thr (rows ++ [left ++ [f32Sqrt p]]) t

def kChol (r : KRec) (tr : W32) (b : List (List W32)) : Bool := kCholGo (f32Mul r.epsK tr) [] b

/-- lam of an attempt: 0, then lambda0 * tr / n, then ten times the one before. -/
def kLam (r : KRec) (tr : W32) : Nat → W32
  | 0 => f32Zero
  | 1 => f32Mul r.lambda0 (f32Div tr (f32OfNat r.n))
  | k + 1 => f32Mul (kLam r tr k) (f32OfNat 10)

/-- The first attempt whose factorization succeeds. -/
def kAttempt (r : KRec) (tr : W32) (a : List (List W32)) : Nat :=
  ((List.range 4).find? fun k => kChol r tr (kDamp (kLam r tr k) a)).getD 3

/-- rsqrt of the square root: the inverse fourth root of a number. -/
def kRoot4 (x : W32) : W32 := f32Rsqrt (f32Sqrt x)

/-- x and m before the first iteration. -/
def kStart (n : Nat) (b : List (List W32)) : List (List W32) × List (List W32) :=
  let c := kTrace b
  ((kIdent n).map fun r => r.map fun e => f32Mul (kRoot4 c) e, b.map fun r => r.map fun e => f32Div e c)

/-- One iteration of the coupled Newton method. -/
def kNewton (n : Nat) (p : List (List W32) × List (List W32)) : List (List W32) × List (List W32) :=
  let t := kZip (fun i m => f32Mul (f32Sub (f32Mul (f32OfNat 5) i) m) 0x3E800000#32) (kIdent n) p.2
  let t2 := kMul n t t
  let t4 := kMul n t2 t2
  (kMul n p.1 t, kMul n t4 p.2)

def kIterate (n : Nat) : Nat → List (List W32) × List (List W32) → List (List W32) × List (List W32)
  | 0, p => p
  | k + 1, p => kIterate n k (kNewton n p)

/-- The residual test passes: no element of m is further than 2^-10 from the identity's. -/
def kConverged (n : Nat) (m : List (List W32)) : Bool :=
  let far := (kZip (fun i x => f32Abs (f32Sub x i)) (kIdent n) m).flatten.foldl f32Max f32Zero
  !f32Lt 0x3A800000#32 far

/-- The diagonal root of a fallback. -/
def kDiagonal (lam : W32) (a : List (List W32)) : List (List W32) :=
  let d := (kDiag (kDamp lam a)).map fun x => if f32Lt f32Zero x && f32IsFinite x then kRoot4 x else f32One
  a.zipIdx.map fun p => p.1.zipIdx.map fun e => if e.2 = p.2 then (d[p.2]?).getD 0 else f32Zero

/-! ### Stages (R187) -/

/-- STALE, STATE and STAGE written. -/
def kNote (s : State) (r : KRec) (stale state stage : Nat) : State :=
  writeBytes s (r.at_ + 20) [BitVec.ofNat 8 stale, BitVec.ofNat 8 state, BitVec.ofNat 8 stage]

/-- WORK after a stage that used it: 3n rows of free values. -/
def kWork (s : State) (r : KRec) : State :=
  let row (i : Nat) : List W32 := (List.range r.n).map fun j => Config.free32 (s.free + i * r.n + j)
  kPut false r.work r.n { s with free := s.free + 3 * r.n * r.n } ((List.range (3 * r.n)).map row)

/-- done, on a stale refresh. -/
def kStale (s : State) (r : KRec) (state : Nat) (lam : W32) : State :=
  let stale := min (r.stale + 1) 255
  if stale < 3 then kNote s r stale state 0
  else
    kNote (kPut (kMatPsn s r.a r.n) r.root r.n s (kDiagonal lam (kMat s r.a r.n))) r stale (state ||| 3) 0

/-- The first stage: decay and trace. -/
def kDecay (s : State) (r : KRec) : State :=
  let psn := kMatPsn s r.a r.n || kMatPsn s r.s r.n
  let a := kZip (fun x y => f32Fma r.betaF x y) (kMat s r.a r.n) (kMat s r.s r.n)
  let s1 := kPut psn r.a r.n s a
  let tr := kTrace a
  if f32IsFinite tr && f32Lt f32Zero tr then kNote s1 r r.stale r.state 1 else kStale s1 r r.state f32Zero

/-- A Cholesky attempt, 0 to 3: STAGE is one more. -/
def kTry (s : State) (r : KRec) (k : Nat) : State :=
  let a := kMat s r.a r.n
  let tr := kTrace a
  let s1 := kWork s r
  if kChol r tr (kDamp (kLam r tr k) a) then kNote s1 r r.stale r.state 5
  else if k < 3 then kNote s1 r r.stale r.state (k + 2)
  else kStale s1 r r.state (kLam r tr 3)

/-- A group g of Newton iterations: STAGE is g + 5. The last one tests the residual and writes ROOT. -/
def kGroup (s : State) (r : KRec) (g : Nat) : State :=
  let s1 := kWork s r
  if (g + 1) * max 1 Config.kNewtonGroup < r.newtonIt then kNote s1 r r.stale r.state (g + 6)
  else
    let a := kMat s r.a r.n
    let tr := kTrace a
    let lam := kLam r tr (kAttempt r tr a)
    let (x, m) := kIterate r.n r.newtonIt (kStart r.n (kDamp lam a))
    if kConverged r.n m then kNote (kPut (kMatPsn s r.a r.n) r.root r.n s1 x) r 0 (r.state &&& 0xFA) 0
    else kStale s1 r (r.state ||| 4) lam

/-- The stage that a factor record has come to runs. A record outside the ranges of R186 is left as it is. -/
def kStage (s : State) (r : KRec) : State :=
  if !kOk s r then s
  else if r.stage = 0 then kDecay s r
  else if r.stage < 5 then kTry s r (r.stage - 1)
  else kGroup s r (r.stage - 5)

/-- What a LAUNCH does as KREFRESH, where its descriptor names that routine. -/
def kLaunch (s : State) (b : W512) : State :=
  match Config.kRefresh b with
  | none => s
  | some p => kStage s (kRec s p)

end Sys2Proof.Machine
end

