-- ==== Sys2Proof/Machine/Crypto.lean ====
section
/-! DEFINITION. The cryptography that the spec names by its standards (10 R289, 14 R365 and R370 to R372): SHA-256 (FIPS
180-4), ECDSA over P-256 (FIPS 186-5, SEC 1). -/

namespace Sys2Proof.Machine

/-! ### SHA-256 -/

/-- The round constants. -/
def shaK : List Nat :=
  [0x428a2f98, 0x71374491, 0xb5c0fbcf, 0xe9b5dba5, 0x3956c25b, 0x59f111f1, 0x923f82a4, 0xab1c5ed5] ++
  [0xd807aa98, 0x12835b01, 0x243185be, 0x550c7dc3, 0x72be5d74, 0x80deb1fe, 0x9bdc06a7, 0xc19bf174] ++
  [0xe49b69c1, 0xefbe4786, 0x0fc19dc6, 0x240ca1cc, 0x2de92c6f, 0x4a7484aa, 0x5cb0a9dc, 0x76f988da] ++
  [0x983e5152, 0xa831c66d, 0xb00327c8, 0xbf597fc7, 0xc6e00bf3, 0xd5a79147, 0x06ca6351, 0x14292967] ++
  [0x27b70a85, 0x2e1b2138, 0x4d2c6dfc, 0x53380d13, 0x650a7354, 0x766a0abb, 0x81c2c92e, 0x92722c85] ++
  [0xa2bfe8a1, 0xa81a664b, 0xc24b8b70, 0xc76c51a3, 0xd192e819, 0xd6990624, 0xf40e3585, 0x106aa070] ++
  [0x19a4c116, 0x1e376c08, 0x2748774c, 0x34b0bcb5, 0x391c0cb3, 0x4ed8aa4a, 0x5b9cca4f, 0x682e6ff3] ++
  [0x748f82ee, 0x78a5636f, 0x84c87814, 0x8cc70208, 0x90befffa, 0xa4506ceb, 0xbef9a3f7, 0xc67178f2]

/-- The initial hash value. -/
def shaH0 : List W32 :=
  [0x6a09e667, 0xbb67ae85, 0x3c6ef372, 0xa54ff53a, 0x510e527f, 0x9b05688c, 0x1f83d9ab, 0x5be0cd19]

def shaAt (l : List W32) (i : Nat) : W32 := (l[i]?).getD 0

def shaCh (x y z : W32) : W32 := (x &&& y) ^^^ (~~~x &&& z)
def shaMaj (x y z : W32) : W32 := (x &&& y) ^^^ (x &&& z) ^^^ (y &&& z)
def shaS0 (x : W32) : W32 := x.rotateRight 2 ^^^ x.rotateRight 13 ^^^ x.rotateRight 22
def shaS1 (x : W32) : W32 := x.rotateRight 6 ^^^ x.rotateRight 11 ^^^ x.rotateRight 25
def shaT0 (x : W32) : W32 := x.rotateRight 7 ^^^ x.rotateRight 18 ^^^ (x >>> 3)
def shaT1 (x : W32) : W32 := x.rotateRight 17 ^^^ x.rotateRight 19 ^^^ (x >>> 10)

/-- The message schedule, extended by n words. -/
def shaSched : Nat → List W32 → List W32
  | 0, w => w
  | n + 1, w =>
    let i := w.length
    shaSched n (w ++ [shaT1 (shaAt w (i - 2)) + shaAt w (i - 7) + shaT0 (shaAt w (i - 15)) + shaAt w (i - 16)])

/-- One round. -/
def shaRound (v : List W32) (p : Nat × W32) : List W32 :=
  let a := shaAt v 0
  let e := shaAt v 4
  let t1 := shaAt v 7 + shaS1 e + shaCh e (shaAt v 5) (shaAt v 6) + BitVec.ofNat 32 p.1 + p.2
  let t2 := shaS0 a + shaMaj a (shaAt v 1) (shaAt v 2)
  [t1 + t2, a, shaAt v 1, shaAt v 2, shaAt v 3 + t1, e, shaAt v 5, shaAt v 6]

/-- One block of 16 words. -/
def shaBlock (h blockWords : List W32) : List W32 :=
  let v := (shaK.zip (shaSched 48 blockWords)).foldl shaRound h
  (h.zip v).map fun p => p.1 + p.2

/-- Bytes, most significant first, as a number. -/
def beNat (l : List Byte) : Nat := l.foldl (fun n b => n * 256 + b.toNat) 0

/-- n bytes of a number, most significant first. -/
def beBytes (n v : Nat) : List Byte := (List.range n).map fun i => BitVec.ofNat 8 (v >>> (8 * (n - 1 - i)))

/-- A message padded to whole blocks. -/
def shaPad (m : List Byte) : List Byte :=
  m ++ [0x80#8] ++ List.replicate ((119 - m.length % 64) % 64) 0#8 ++ beBytes 8 (8 * m.length)

/-- The blocks of a padded message, one after the other. -/
def shaLoop : Nat → List Byte → List W32 → List W32
  | 0, _, h => h
  | n + 1, m, h =>
    shaLoop n (m.drop 64) (shaBlock h ((List.range 16).map fun i => BitVec.ofNat 32 (beNat ((m.drop (4 * i)).take 4))))

/-- SHA-256 of bytes, as the number whose most significant byte is the first of the digest. -/
def sha256 (m : List Byte) : Nat :=
  let p := shaPad m
  (shaLoop (p.length / 64) p shaH0).foldl (fun n w => n * 2 ^ 32 + w.toNat) 0

/-! ### P-256 -/

def ecP : Nat := 0xffffffff00000001000000000000000000000000ffffffffffffffffffffffff
def ecN : Nat := 0xffffffff00000000ffffffffffffffffbce6faada7179e84f3b9cac2fc632551
def ecB : Nat := 0x5ac635d8aa3a93e7b3ebbd55769886bc651d06b0cc53b0f63bce3c3e27d2604b
def ecG : Option (Nat × Nat) :=
  some (0x6b17d1f2e12c4247f8bce6e563a440f277037d812deb33a0f4a13945d898c296,
    0x4fe342e2fe1a7f9b8ee7eb4a7c0f9e162bce33576b315ececbb6406837bf51f5)

/-- b ^ e mod m, by the bits of e. -/
def powMod (m b e : Nat) : Nat → Nat
  | 0 => 1
  | n + 1 =>
    let r := powMod m (b * b % m) (e / 2) n
    if e % 2 = 1 then b * r % m else r

/-- The inverse modulo a prime. -/
def invMod (m a : Nat) : Nat := powMod m (a % m) (m - 2) 256

/-- a - b mod m. -/
def subMod (m a b : Nat) : Nat := (a % m + m - b % m) % m

/-- The sum of two points of the curve, none being the point at infinity. -/
def ecAdd (p q : Option (Nat × Nat)) : Option (Nat × Nat) :=
  match p, q with
  | none, q => q
  | p, none => p
  | some (x1, y1), some (x2, y2) =>
    if x1 = x2 ∧ (y1 + y2) % ecP = 0 then none
    else
      let l := if x1 = x2 then (3 * x1 * x1 + ecP - 3) * invMod ecP (2 * y1) % ecP
        else subMod ecP y2 y1 * invMod ecP (subMod ecP x2 x1) % ecP
      let x := subMod ecP (l * l) (x1 + x2)
      some (x, subMod ecP (l * subMod ecP x1 x) y1)

/-- k times a point. -/
def ecMul (k : Nat) (p : Option (Nat × Nat)) : Nat → Option (Nat × Nat)
  | 0 => none
  | n + 1 =>
    let r := ecMul (k / 2) (ecAdd p p) n
    if k % 2 = 1 then ecAdd p r else r

/-- The public key of a private key. -/
def ecPublic (d : Nat) : Nat × Nat := (ecMul d ecG 256).getD (0, 0)

/-- A point of the curve. -/
def ecValid (x y : Nat) : Bool :=
  decide (x < ecP) && decide (y < ecP) && y * y % ecP == (x * x * x + (ecP - 3) * x + ecB) % ecP

/-- The signature (r, s) of a digest under private key d with per-message secret k. -/
def ecSign (d z k : Nat) : Nat × Nat :=
  let r := ((ecMul k ecG 256).getD (0, 0)).1 % ecN
  (r, invMod ecN k * (z + r * d) % ecN)

/-- A signature of a digest verifies under a public key. -/
def ecVerify (x y z r s : Nat) : Bool :=
  let w := invMod ecN s
  ecValid x y && decide (0 < r) && decide (r < ecN) && decide (0 < s) && decide (s < ecN) &&
    (match ecAdd (ecMul (z * w % ecN) ecG 256) (ecMul (r * w % ecN) (some (x, y)) 256) with
     | some (px, _) => px % ecN == r
     | none => false)

end Sys2Proof.Machine
end

