-- ==== Sys2Proof/Machine/Ecc.lean ====
section
/-! DEFINITION. The codes of the link: the (72,64) code of R375 to R378 and the CRC-32 of R265. -/

namespace Sys2Proof.Machine

/-- The columns of the data bits (R376). -/
def hsiao : List Nat :=
  [0x07, 0x0B, 0x13, 0x23, 0x43, 0x83, 0x0D, 0x15, 0x25, 0x45, 0x85, 0x19, 0x29, 0x49, 0x89, 0x31] ++
  [0x51, 0x91, 0x61, 0xA1, 0xC1, 0x0E, 0x16, 0x26, 0x46, 0x86, 0x1A, 0x2A, 0x4A, 0x8A, 0x32, 0x52] ++
  [0x92, 0x62, 0xA2, 0xC2, 0x1C, 0x2C, 0x4C, 0x8C, 0x34, 0x54, 0x94, 0x64, 0xA4, 0xC4, 0x38, 0x58] ++
  [0x98, 0x68, 0xA8, 0xC8, 0x70, 0xB0, 0xD0, 0xE0, 0xF8, 0xF1, 0xE3, 0xC7, 0x8F, 0x1F, 0x3E, 0x7C]

/-- XOR of the columns of the set bits of v, from bit i on. -/
def xorCols (v : Nat) : List Nat → Nat → Nat
  | [], _ => 0
  | c :: t, i => (if v.testBit i then c else 0) ^^^ xorCols v t (i + 1)

/-- The check bits of a data word (R375). -/
def checkBits (v : W64) : Nat := xorCols v.toNat hsiao 0

/-- The check bits under which a word is stored or sent: 0xFF marks poison (R378). -/
def wireCheck (w : CWord) : Nat := if w.psn then 0xFF else checkBits w.v

/-- What a reader makes of a word (R377). -/
inductive WordRx where
  | clean (w : CWord)
  | corrected (w : CWord)
  | lost
  deriving DecidableEq, Repr

/-- The position of a column among the data bits. -/
def colIndex (syn : Nat) : Option Nat := hsiao.findIdx? (· == syn)

/-- A word and its check bits as they arrive (R377, R378). -/
def readWord (v : W64) (c : Byte) : WordRx :=
  let syn := c.toNat ^^^ checkBits v
  if syn = 0 then .clean ⟨v, false⟩
  else if syn = 0xFF then .clean ⟨0, true⟩
  else match colIndex syn with
    | some d => .corrected ⟨v ^^^ BitVec.ofNat 64 (2 ^ d), false⟩
    | none => if [1, 2, 4, 8, 16, 32, 64, 128].contains syn then .corrected ⟨v, false⟩ else .lost

/-- One bit of a CRC-32 of IEEE 802.3, in the register that shifts to the right. -/
def crcBit (crc : Nat) (b : Bool) : Nat :=
  if (crc % 2 == 1) != b then (crc / 2) ^^^ 0xEDB88320 else crc / 2

/-- n bits of v, sent from bit 0. -/
def crcBits : Nat → Nat → Nat → Nat
  | crc, _, 0 => crc
  | crc, v, n + 1 => crcBits (crcBit crc (v % 2 == 1)) (v / 2) n

/-- The CRC of fields, each a value and its number of bits (R265). -/
def crc32 (fs : List (Nat × Nat)) : Nat := (fs.foldl (fun c f => crcBits c f.1 f.2) 0xFFFFFFFF) ^^^ 0xFFFFFFFF

/-- The CRC of a frame: cells with their check bits, tag bits [31:0], return field (R265). -/
def frameCrc (cells : List (List CWord)) (tag ret : Nat) : Nat :=
  crc32 ((cells.flatten.flatMap fun w => [(w.v.toNat, 64), (wireCheck w, 8)]) ++ [(tag % 2 ^ 32, 32), (ret, 24)])

end Sys2Proof.Machine
end

