-- ==== Sys2Proof/Machine/Matrix.lean ====
section
/-! DEFINITION. Matrix cores and drain units (03, 05 R123-R129, 06 R148-R159): MMA, MMA_END, DCFG, DRAIN, DRAIN_END. -/

namespace Sys2Proof.Machine

/-! ### MMA: descriptors and checks (R123 to R126, R37, R150) -/

def mBank (w : W128) : Nat := if bit w 68 then 1 else 0
def mAcc (w : W128) : Bool := bit w 67
def mHold (w : W128) : Bool := bit w 66
def mK (w : W128) : Nat := bits w 31 16 + 1
def mRows (w : W128) : Nat := bits w 15 9 + 1
def mCols (w : W128) : Nat := bits w 8 2 + 1

/-- A tile descriptor (R125). -/
structure Tile where
  addr : Nat
  stride : Nat
  metaA : Nat
  metaS : Nat
  bmap : Nat
  fmt : Fmt
  sp24 : Bool
  bmapEn : Bool
  trans : Bool
  deriving DecidableEq, Repr

def tileOf (b : W512) : Tile :=
  ⟨blk b 0 4, blk b 4 4, blk b 8 4, blk b 12 4, blk b 16 4, fmtOfCode (bits b 163 160), bit b 168, bit b 169, bit b 170⟩

/-- Reserved bits of a tile descriptor (R114, R125): those of used offset fields too. -/
def tileReserved (b : W512) : Bool :=
  let t := tileOf b
  bits b 167 164 != 0 || bits b 175 171 != 0 || bits b 511 176 != 0 || offBad t.addr || (t.sp24 && offBad t.metaA) ||
    (t.bmapEn && offBad t.bmap)

/-- A format accepted as a matrix operand (R24). -/
def fmtMatrix : Fmt → Bool
  | .hf4 | .hf6 | .hf8m | .hf8r | .hf16 | .b32 | .int4 | .int8 => true
  | _ => false

def fmtNarrow : Fmt → Bool
  | .hf4 | .hf6 | .hf8m | .hf8r => true
  | _ => false

def fmtIntOp : Fmt → Bool
  | .int4 | .int8 => true
  | _ => false

/-- The pairings of R37, in either order. -/
def pairOk (a b : Fmt) : Bool :=
  (fmtNarrow a && fmtNarrow b) || (fmtIntOp a && fmtIntOp b) || (a == .b32 && b == .b32) ||
    (a == .hf16 && (b == .hf16 || b == .hf8m || b == .hf8r)) || (b == .hf16 && (a == .hf8m || a == .hf8r))

/-- The group size G of R38. -/
def groupSize (a b : Fmt) : Nat :=
  if a == .b32 then 1 else if a == .hf16 || b == .hf16 then 8 else 32

/-- The last byte offset + 1 that the MMA would read of an operand's stored rows (R126, R148). -/
def tileEnd (t : Tile) (k rows : Nat) : Nat :=
  if t.trans then t.addr + (k - 1) * t.stride + (rows * fmtBits t.fmt + 511) / 512 * 64
  else t.addr + (rows - 1) * t.stride + rowBytes t.fmt (if t.sp24 then k / 2 else k)

/-- Bytes of metadata of a row (R59). -/
def metaBytes (k : Nat) : Nat := (k + 7) / 8

/-- Every byte that the MMA would read of an operand lies in the populated store (R126). -/
def tileInRange (t : Tile) (k rows : Nat) : Bool :=
  decide (tileEnd t k rows ≤ lsSize) &&
    (!t.sp24 || decide (t.metaA + (rows - 1) * t.metaS + metaBytes k ≤ lsSize)) &&
    (!t.bmapEn || decide (t.bmap + (k + 15) / 16 ≤ lsSize))

/-- The checks of R126 over both descriptors and the body, in order, with R150's after the SP24 rows. -/
def mmaStatus (a b : Tile) (k m n : Nat) : Option Nat :=
  firstFail [
    (!fmtMatrix a.fmt || !fmtMatrix b.fmt, stIllegalFormat),
    (!pairOk a.fmt b.fmt, stIllegalFormat),
    (a.sp24 && b.sp24, stIllegalField),
    ((a.sp24 || b.sp24) && k % 4 != 0, stIllegalField),
    ((a.sp24 && a.trans) || (b.sp24 && b.trans), stIllegalField),
    (a.addr % 64 != 0 || a.stride % 64 != 0 || b.addr % 64 != 0 || b.stride % 64 != 0, stAlign),
    (!tileInRange a k m || !tileInRange b k n, stAddrRange)]

/-! ### MMA: operand reads (R59 to R62, R148) -/

/-- The byte of a block bitmap for a chunk: all ones without a bitmap or when its word is poisoned (R58, R61). -/
def bmapByte (s : State) (base : Nat) (t : Tile) (chunk : Nat) : Nat :=
  if !t.bmapEn || anyPsn s (base + t.bmap + chunk) 1 then 255 else (memByte s (base + t.bmap + chunk)).toNat

/-- A chunk is skipped (R62). -/
def chunkSkipped (s : State) (base : Nat) (a b : Tile) (chunk : Nat) : Bool :=
  bmapByte s base a chunk == 0 || bmapByte s base b chunk == 0

/-- The nibble of a group of 4 positions of a row (R59): none when its word is poisoned. -/
def nibbleAt (s : State) (base : Nat) (t : Tile) (row g : Nat) : Option Nat :=
  let a := base + t.metaA + row * t.metaS + g / 2
  if anyPsn s a 1 then none else some (((memByte s a).toNat >>> (4 * (g % 2))) % 16)

/-- The codes that an operand holds at position k of a row (of A) or column (of B): none in a zero block, one in
dense form, none to two in 2:4 form (R59, R60, R61). -/
def operandCodes (s : State) (base : Nat) (t : Tile) (row k : Nat) : List Nat :=
  if !(bmapByte s base t (k / 16)).testBit (row / 16) then []
  else if t.trans then [elemAt s t.fmt (base + t.addr + k * t.stride) row]
  else
    let a := base + t.addr + row * t.stride
    if t.sp24 then
      match nibbleAt s base t row (k / 4) with
      | none => []
      | some nb =>
        (if nb % 4 = k % 4 then [elemAt s t.fmt a (k / 4 * 2)] else []) ++
          (if nb / 4 = k % 4 then [elemAt s t.fmt a (k / 4 * 2 + 1)] else [])
    else [elemAt s t.fmt a k]

/-- Some word that the MMA reads of an operand is poisoned (R58): its bitmap, its metadata and the elements of every
block that is read. -/
def operandPsn (s : State) (base : Nat) (t o : Tile) (k rows : Nat) : Bool :=
  (t.bmapEn && anyPsn s (base + t.bmap) ((k + 15) / 16)) ||
    (List.range ((k + 15) / 16)).any fun c =>
      !chunkSkipped s base t o c &&
        (let len := min 16 (k - 16 * c)
         if t.trans then
           (List.range len).any fun i =>
             let a := base + t.addr + (16 * c + i) * t.stride
             (List.range ((rows + 15) / 16)).any fun g =>
               (bmapByte s base t c).testBit g &&
                 (let lo := 16 * g * fmtBits t.fmt / 8
                  let hi := if 16 * (g + 1) < rows then 16 * (g + 1) * fmtBits t.fmt / 8
                    else (rows * fmtBits t.fmt + 511) / 512 * 64
                  anyPsn s (a + lo) (hi - lo))
         else
           (List.range rows).any fun r =>
             (bmapByte s base t c).testBit (r / 16) &&
               (let a := base + t.addr + r * t.stride
                if t.sp24 then
                  anyPsn s (base + t.metaA + r * t.metaS + 2 * c) ((len + 7) / 8) ||
                    anyPsn s (a + 8 * c * fmtBits t.fmt / 8) (rowBytes t.fmt (len / 2))
                else anyPsn s (a + 16 * c * fmtBits t.fmt / 8) (rowBytes t.fmt len)))

/-- Metadata faults of an operand (R60): groups that are read and name one position twice. -/
def metaFaults (s : State) (base : Nat) (t o : Tile) (k rows : Nat) : Nat :=
  if !t.sp24 then 0
  else
    (((List.range rows).map fun r =>
      ((List.range (k / 4)).filter fun g =>
        !chunkSkipped s base t o (g / 4) && (bmapByte s base t (g / 4)).testBit (r / 16) &&
          (match nibbleAt s base t r g with
           | some nb => nb % 4 == nb / 4
           | none => false)).length).foldl (· + ·) 0)

/-! ### MMA: accumulation (R38 to R40, R26) -/

/-- The products at one position: every code of A with every code of B; one operand at most is in 2:4 form. -/
def products (fa fb : Fmt) (as bs : List Nat) : List FVal :=
  as.flatMap fun x => bs.map fun y => fvMul (fmtVal fa x) (fmtVal fb y)

/-- Integer product of codes. -/
def intProducts (fa fb : Fmt) (as bs : List Nat) : Int :=
  ((as.flatMap fun x => bs.map fun y => intOfCode fa x * intOfCode fb y)).foldl (· + ·) 0

/-- The operands of an MMA at one position of its K extent, for one row and column. -/
def posCodes (s : State) (base : Nat) (a b : Tile) (i j k : Nat) : List Nat × List Nat :=
  if chunkSkipped s base a b (k / 16) then ([], [])
  else (operandCodes s base a i k, operandCodes s base b j k)

/-- One group of R38 added to a floating-point accumulator. -/
def addGroup (s : State) (base : Nat) (a b : Tile) (i j : Nat) (acc : W32) (k0 len : Nat) : W32 :=
  if a.fmt == .b32 then
    let (x, y) := posCodes s base a b i j k0
    match products .b32 .b32 x y with
    | [] => f32r (fvAdd (.fin false 0 0) (f32v acc))
    | ps => ps.foldl (fun c p => f32r (fvAdd p (f32v c))) acc
  else
    let gs := (List.range len).foldl (fun g d =>
      let (x, y) := posCodes s base a b i j (k0 + d)
      (products a.fmt b.fmt x y).foldl fvAdd g) (.fin false 0 0)
    f32r (fvAdd (f32v acc) gs)

/-- One group of R26 added to an INT32 accumulator, with whether it saturated. -/
def addGroupInt (s : State) (base : Nat) (a b : Tile) (i j : Nat) (acc : W32 × Bool) (k0 len : Nat) : W32 × Bool :=
  let gs := (List.range len).foldl (fun g d =>
    let (x, y) := posCodes s base a b i j (k0 + d)
    g + intProducts a.fmt b.fmt x y) 0
  let (v, sat) := intSat .int32 (intOfCode .int32 acc.1.toNat + gs)
  (BitVec.ofNat 32 (intCode .int32 v), acc.2 || sat != 0)

/-- An accumulator element after the whole K extent: groups in ascending order (R38). -/
def mmaElem (s : State) (base : Nat) (a b : Tile) (k i j : Nat) (acc : W32) : W32 × Bool :=
  let g := groupSize a.fmt b.fmt
  (List.range ((k + g - 1) / g)).foldl (fun c x =>
    let len := min g (k - x * g)
    if fmtIsInt a.fmt then addGroupInt s base a b i j c (x * g) len
    else (addGroup s base a b i j c.1 (x * g) len, c.2)) (acc, false)

/-- An element of the active region is live (R155). -/
def bankLive (b : Bank) (i j : Nat) : Bool :=
  (!bit b.gctl 1 || (if i < 64 then bit b.rowm0 i else bit b.rowm1 (i - 64))) &&
    (!bit b.gctl 2 || bit b.blkm (8 * (i / 16) + j / 16))

/-- The live elements of an active region, row by row. -/
def liveElems (b : Bank) (m n : Nat) : List (Nat × Nat) :=
  (List.range m).flatMap fun i => ((List.range n).filter fun j => bankLive b i j).map fun j => (i, j)

/-- Bank address of an element. -/
def elemKey (i j : Nat) : Nat := i * 128 + j

/-- A poisoned bank, with every live element of its region marked poisoned (R58, R250). -/
def poisonBank (b : Bank) : Bank :=
  (liveElems b b.rows b.cols).foldl (fun x (i, j) =>
    { x with elems := smSet 0 x.elems (elemKey i j) 0, psn := smSet false x.psn (elemKey i j) true }) { b with bad := true }

/-- One live element computed into the bank. -/
def mmaStep (s : State) (base : Nat) (a b : Tile) (k : Nat) (acc : Bool) (x : Bank) (p : Nat × Nat) : Bank :=
  let key := elemKey p.1 p.2
  let carried := acc && smGet false x.psn key
  let (v, sat) := mmaElem s base a b k p.1 p.2 (if acc then smGet 0 x.elems key else 0)
  { x with elems := smSet 0 x.elems key (if carried then 0 else v), psn := smSet false x.psn key carried,
           bad := x.bad || carried, sat := x.sat + (if sat then 1 else 0) }

/-- The bank after an MMA with a true predicate starts (R52, R55, R58, R155, R422): with ACC = 0 it overwrites the active
region, and the bank is poisoned only if this MMA reads a poisoned word. -/
def mmaBank (s : State) (q c : Nat) (w : W128) (a b : Tile) (x : Bank) : Bank :=
  let base := lsBase q
  let k := mK w
  let x1 : Bank := { x with
    st := .filling, int := fmtIsInt a.fmt, rows := mRows w, cols := mCols w,
    sat := if mAcc w then x.sat else 0, metaF := if mAcc w then x.metaF else 0, bad := mAcc w && x.bad,
    gctl := reg s (aQtrMcGctl q c), rowm0 := reg s (aQtrMcRowm0 q c), rowm1 := reg s (aQtrMcRowm1 q c),
    blkm := reg s (aQtrMcBlkm q c) }
  let faults := metaFaults s base a b k (mRows w) + metaFaults s base b a k (mCols w)
  let x2 := { x1 with metaF := x1.metaF + faults }
  if operandPsn s base a b k (mRows w) || operandPsn s base b a k (mCols w) then poisonBank x2
  else (liveElems x2 (mRows w) (mCols w)).foldl (mmaStep s base a b k (mAcc w)) x2

/-! ### Time and slots of an MMA (R53, R54, R149, R401, R402) -/

/-- 32 times the advance rate P of R53, before 2:4 doubles it. -/
def rate32 (a b : Fmt) : Nat :=
  if a == .b32 then 1
  else if a == .hf16 || b == .hf16 then 4
  else if (a == .hf4 && b == .hf4) || (a == .int4 && b == .int4) then 64
  else 32

/-- 32 times the limit that a transposed operand sets (R149). -/
def transRate32 (t : Tile) : Nat :=
  if !t.trans then 128
  else match t.fmt with
    | .hf4 => 32
    | .int4 => 32
    | .hf6 => 16
    | _ => 128

/-- Cycles of a chunk of l positions (R54). -/
def chunkCycles (a b : Tile) (sp : Bool) (l : Nat) : Nat :=
  let p := min (rate32 a.fmt b.fmt) (min (transRate32 a) (transRate32 b)) * (if sp then 2 else 1)
  (32 * l + p - 1) / p

/-- Length of chunk j of an extent of k positions. -/
def chunkLen (k j : Nat) : Nat := min 16 (k - 16 * j)

/-- A 16 x 16 sub-array group has a live output (R156). -/
def groupLive (x : Bank) (m n gi gj : Nat) : Bool :=
  (List.range 16).any fun i => (List.range 16).any fun j =>
    decide (16 * gi + i < m) && decide (16 * gj + j < n) && bankLive x (16 * gi + i) (16 * gj + j)

/-- The groups with a live output. -/
def liveGroups (x : Bank) (m n : Nat) : List (Nat × Nat) :=
  ((List.range 64).map fun g => (g / 8, g % 8)).filter fun g => groupLive x m n g.1 g.2

/-- Slots that an MMA adds when it retires: RETIRED, WASTED, SKIPPED (R401, R402). -/
def mmaSlots (s : State) (base : Nat) (a b : Tile) (k m n : Nat) (x : Bank) (psn : Bool) : Nat × Nat × Nat :=
  let live := liveGroups x m n
  if live.isEmpty then (0, 0, 0)
  else
    let chunks := List.range ((k + 15) / 16)
    let dense := (chunks.map fun j => chunkCycles a b false (chunkLen k j)).foldl (· + ·) 0
    let r := chunks.foldl (fun (acc : Nat × Nat) j =>
      if chunkSkipped s base a b j then acc
      else
        let c := chunkCycles a b (a.sp24 || b.sp24) (chunkLen k j)
        let ba := bmapByte s base a j
        let bb := bmapByte s base b j
        let on := (live.filter fun g => ba.testBit g.1 && bb.testBit g.2).length
        (acc.1 + on * c, acc.2 + c)) (0, 0)
    let skipped := 64 * (dense - r.2)
    if psn then (0, 64 * r.2, skipped) else (r.1, 64 * r.2 - r.1, skipped)

/-- The bank state after an MMA ends (R55). -/
def mmaEndSt (w : W128) : BankSt := if mHold w then .held else .full

/-- An MMA with a true predicate whose waits are over (R126, R141 steps 5 and 6). -/
def mmaStart (s : State) (q c : Nat) (f : Fetched) : State :=
  match readBlock s q (bits f.word 63 48) tileReserved with
  | .error st => failHead s q c st f
  | .ok ab =>
    match readBlock s q (bits f.word 47 32) tileReserved with
    | .error st => failHead s q c st f
    | .ok bb =>
      let a := tileOf ab
      let b := tileOf bb
      match mmaStatus a b (mK f.word) (mRows f.word) (mCols f.word) with
      | some st => failHead s q c st f
      | none =>
        let old := bank s q c (mBank f.word)
        let x := mmaBank s q c f.word a b old
        let psn := operandPsn s (lsBase q) a b (mK f.word) (mRows f.word) ||
          operandPsn s (lsBase q) b a (mK f.word) (mCols f.word)
        let s0 := startOp (setBank (popHead s q c) q c (mBank f.word) x) q c f true false none [] .here []
        let n := mmaSlots s (lsBase q) a b (mK f.word) (mRows f.word) (mCols f.word) x psn
        let s1 := amendOp s0 q fun o => { o with slots := n }
        if metaFaults s (lsBase q) a b (mK f.word) (mRows f.word) +
            metaFaults s (lsBase q) b a (mK f.word) (mCols f.word) = 0 then s1 else raiseQ s1 q eMeta c 0

/-- MMA (R52, R56, R57). -/
def doMma (s : State) (q c : Nat) : State :=
  match headOf s q c (fun w => wOpcode w == opMma) with
  | .no => s
  | .bad f => failHead s q c stPoisonedWord f
  | .ok f p =>
    if bankWaits s q c f.word || (bank s q c (mBank f.word)).st == .filling then keepPred s q c p
    else if !p then
      countSlots (skipNow (setBank s q c (mBank f.word) { bank s q c (mBank f.word) with st := mmaEndSt f.word }) q c f .here)
        q c 1 128
    else if !slotFree s q c then slotWait s q c
    else mmaStart s q c f

/-- The operation with an id marked finished: no data write is left. -/
def finishOp (s : State) (q id : Nat) : State :=
  modQuarter s q fun x => { x with ops := x.ops.map fun o => if o.id = id then { o with fin := true, dst := [] } else o }

/-- MMA_END (R55): the oldest running MMA of the core advances its last position; its bank goes to HELD or FULL. -/
def doMmaEnd (s : State) (q c : Nat) : State :=
  match (streamOps s q c).find? fun o => !o.fin && o.slot with
  | none => s
  | some o =>
    finishOp (setBank s q c (mBank o.word) { bank s q c (mBank o.word) with st := mmaEndSt o.word }) q o.id

/-! ### Drain configuration (R127, R128) -/

def dcKey (q d slot : Nat) : Nat := q * 16 + d * 4 + slot
def dcGet (s : State) (q d slot : Nat) : W512 := smGet 0 s.dcfg (dcKey q d slot)

def dcRaw (b : W512) : Bool := bit b 8
def dcRelay (b : W512) : Bool := bit b 9
def dcBias (b : W512) : Bool := bit b 10
def dcBiasAxis (b : W512) : Bool := bit b 11
def dcNovf (b : W512) : Bool := bit b 12
def dcAct (b : W512) : Nat := blk b 2 1
def dcDest (b : W512) : Nat := blk b 3 1
def dcDeriv (b : W512) : Bool := decide (8 ≤ dcAct b) && decide (dcAct b ≤ 12)
/-- An auxiliary tile is used (R128). -/
def dcAux (b : W512) : Bool := dcRelay b || dcDeriv b
def dcOfmt (b : W512) : Fmt := if blk b 0 1 < 16 then fmtOfCode (blk b 0 1) else .res

/-- Reserved bits of a configuration block, those of used offsets too (R114, R128). -/
def dcReserved (b : W512) : Bool :=
  bits b 15 13 != 0 || bits b 511 272 != 0 || (dcBias b && offBad (blk b 16 4)) || (dcAux b && offBad (blk b 20 4))

/-- The checks of R128 in its order. -/
def dcStatus (b : W512) : Option Nat :=
  firstFail [
    (dcOfmt b == .res || dcOfmt b == .b64, stIllegalFormat),
    (dcAct b == 6 || dcAct b == 7 || decide (13 ≤ dcAct b), stIllegalField),
    (decide (4 ≤ dcDest b), stIllegalField),
    (dcDest b == 3 && decide (1024 ≤ blk b 32 2), stIllegalField),
    (dcRelay b && dcDeriv b, stIllegalField),
    (dcAux b && (blk b 20 4 % 8 != 0 || blk b 24 4 % 8 != 0), stAlign),
    ((dcDest b == 1 || dcDest b == 2) && blk b 28 4 % 8 != 0, stAlign)]

/-- DCFG (R127): waits for earlier DRAINs, checks the block and copies it into its slot. -/
def doDcfg (s : State) (q d : Nat) : State :=
  let i := 4 + d
  match headOf s q i (fun w => wOpcode w == opDcfg) with
  | .no => s
  | .bad f => failHead s q i stPoisonedWord f
  | .ok f false => skipNow s q i f .here
  | .ok f true =>
    if !(strmIdle s q i) then keepPred s q i true
    else match readBlock s q (wPb f.word) dcReserved with
      | .error st => failHead s q i st f
      | .ok b =>
        match dcStatus b with
        | some st => failHead s q i st f
        | none =>
          endNow { s with dcfg := smSet 0 s.dcfg (dcKey q d (bits f.word 47 46)) b } q i f .here

/-! ### Drains (R63 to R71, R151 to R156) -/

def dSlot (w : W128) : Nat := bits w 63 62
def dAddr (w : W128) : Nat := bits w 61 22
def dStat (w : W128) : Nat := bits w 21 5 * 32
def dKeep (w : W128) : Bool := bit w 4
def dMerge (w : W128) : Bool := bit w 3

/-- The storage format a drain writes (R63): the accumulator's with RAW. -/
def drainFmt (b : W512) (x : Bank) : Fmt := if dcRaw b then (if x.int then .int32 else .b32) else dcOfmt b

/-- Where a drain's header signal with SIGDST = 1 is taken (R122). -/
def drainTo (b : W512) : SigTo := if dcDest b = 3 then .circuit (blk b 32 2) else .here

/-- The destination, auxiliary tile, bias vector and record of a drain are in range (R67, R151). -/
def drainRange (s : State) (q : Nat) (b : W512) (x : Bank) (w : W128) : Bool :=
  let row := rowBytes (drainFmt b x) x.cols
  let rows := List.range x.rows
  let dest := match dcDest b with
    | 1 => rows.all fun r => inLs s (dAddr w + r * blk b 28 4) row && decide (lsBase q ≤ dAddr w) &&
        decide (dAddr w + r * blk b 28 4 + row ≤ lsBase q + lsSize)
    | 2 => rows.all fun r => inLs s (dAddr w + r * blk b 28 4) row
    | 3 => circSource s (blk b 32 2) (bits (circ s (blk b 32 2)) 31 16)
    | _ => true
  dest && (!dcAux b || lsOk (blk b 20 4 + (x.rows - 1) * blk b 24 4) (4 * x.cols)) &&
    (!(dcBias b && !dcRaw b) || lsOk (blk b 16 4) 512) && lsOk (dStat w) 32

/-- Scale faults (R42): a scale that is not a positive normal binary32. -/
def scaleBad (b : W512) : Bool :=
  !dcRaw b && !(f32IsScale (BitVec.ofNat 32 (blk b 4 4)) && f32IsScale (BitVec.ofNat 32 (blk b 8 4)) &&
    f32IsScale (BitVec.ofNat 32 (blk b 12 4)))

/-- The activation of step 4 (R63, R64, R128, R152). -/
def actApply (act : Nat) (y1 z : W32) : W32 :=
  match act with
  | 1 => f32Relu y1
  | 2 => fnApply .gelu y1
  | 3 => fnApply .silu y1
  | 4 => fnApply .tanh y1
  | 5 => fnApply .sigmoid y1
  | 8 => f32Mul y1 (dfnApply .drelu z)
  | 9 => f32Mul y1 (dfnApply .dgelu z)
  | 10 => f32Mul y1 (dfnApply .dsilu z)
  | 11 => f32Mul y1 (dfnApply .dtanh z)
  | 12 => f32Mul y1 (dfnApply .dsigmoid z)
  | _ => y1

/-- Step 1 of R63: the accumulator with the relay input, and the saturations counted. -/
def drainStep1 (s : State) (q : Nat) (b : W512) (x : Bank) (i j : Nat) : W32 × Nat :=
  let acc := smGet 0 x.elems (elemKey i j)
  if !dcRelay b then (acc, 0)
  else
    let inp := BitVec.ofNat 32 (readNat s (lsBase q + blk b 20 4 + i * blk b 24 4 + 4 * j) 4)
    if x.int then
      let (v, n) := intSat .int32 (intOfCode .int32 inp.toNat + intOfCode .int32 acc.toNat)
      (BitVec.ofNat 32 (intCode .int32 v), n)
    else (f32Add inp acc, 0)

/-- One element of a drain (R63, R68): its output code, the value that AMAX and NONFINITE see, and its counts. -/
def drainElem (s : State) (q : Nat) (b : W512) (x : Bank) (i j : Nat) : Nat × W32 × Cnt :=
  let (a, n1) := drainStep1 s q b x i j
  let a32 := if x.int then f32OfInt (intOfCode .int32 a.toNat) else a
  if dcRaw b then (a.toNat, a32, ⟨n1, 0, 0⟩)
  else
    let sab := f32Mul (BitVec.ofNat 32 (blk b 4 4)) (BitVec.ofNat 32 (blk b 8 4))
    let p := f32Mul a32 sab
    let y1 := if dcBias b then
        f32Add p (BitVec.ofNat 32 (readNat s (lsBase q + blk b 16 4 + 4 * (if dcBiasAxis b then i else j)) 4))
      else p
    let z := BitVec.ofNat 32 (readNat s (lsBase q + blk b 20 4 + i * blk b 24 4 + 4 * j) 4)
    let y := actApply (dcAct b) y1 z
    let c := convV (dcOfmt b) (dcNovf b) (f32v (f32Div y (BitVec.ofNat 32 (blk b 12 4))))
    (c.1, y, ⟨c.2.sat + n1, c.2.flush, c.2.nonfin⟩)

/-- An output element is poisoned: its bank is (R58), or a relay, pre-activation or bias word that the element is
computed from (R151, R379): none under a scale fault (R42), no pre-activation and no bias with RAW = 1 (R63). -/
def drainPsn (s : State) (q : Nat) (b : W512) (x : Bank) (i j : Nat) : Bool :=
  x.bad ||
    (!scaleBad b && (dcRelay b || (dcDeriv b && !dcRaw b)) &&
      anyPsn s (lsBase q + blk b 20 4 + i * blk b 24 4 + 4 * j) 4) ||
    (!scaleBad b && dcBias b && !dcRaw b && anyPsn s (lsBase q + blk b 16 4 + 4 * (if dcBiasAxis b then i else j)) 4)

/-- A computed output element: its index, its cell, what the record counts. -/
def drainCell (s : State) (q : Nat) (b : W512) (x : Bank) (i j : Nat) : Cell1 × W32 × Cnt :=
  if scaleBad b then (⟨j, fmtNaN (drainFmt b x), drainPsn s q b x i j⟩, 0, ⟨0, 0, 1⟩)
  else
    let (c, y, n) := drainElem s q b x i j
    (⟨j, c, drainPsn s q b x i j⟩, y, n)

/-- The rows of a drain: the cells of the live elements of each. -/
def drainRows (s : State) (q : Nat) (b : W512) (x : Bank) : List (List (Cell1 × W32 × Cnt)) :=
  (List.range x.rows).map fun i =>
    ((List.range x.cols).filter fun j => bankLive x i j).map fun j => drainCell s q b x i j

/-- The record of a drain (R68). -/
def drainStat (b : W512) (x : Bank) (cs : List (Cell1 × W32 × Cnt)) : Stat :=
  let t := cs.foldl (fun t c => statElem t c.2.1 c.2.2) stat0
  { t with sat := t.sat + x.sat, metaF := x.metaF,
           flags := (if scaleBad b then 1 else 0) + (if x.bad || cs.any (fun c => c.1.psn) then 2 else 0) }

/-- The elements of a row in a PORT stream (R70, R156): masked ones as the zero code, in words that a poisoned bank
poisons too (R58). -/
def portRow (x : Bank) (i : Nat) (row : List (Cell1 × W32 × Cnt)) : List Cell1 :=
  (List.range x.cols).map fun j =>
    match row.find? fun c => c.1.idx == j with
    | some c => { c.1 with idx := i * x.cols + j }
    | none => ⟨i * x.cols + j, 0, x.bad⟩

/-- The ranges of local memory that a drain writes: its live elements (R67, R156, R250). -/
def drainDst (b : W512) (x : Bank) (w : W128) (rows : List (List (Cell1 × W32 × Cnt))) : List (Nat × Nat) :=
  if dcDest b = 1 || dcDest b = 2 then
    rows.zipIdx.flatMap fun r => r.1.map fun c => elemSpan (drainFmt b x) (dAddr w + r.2 * blk b 28 4) c.1.idx
  else []

/-- The writes of a drain (R67, R70). -/
def drainWrite (s : State) (own : Nat) (b : W512) (x : Bank) (w : W128) (rows : List (List (Cell1 × W32 × Cnt))) : State :=
  let f := drainFmt b x
  match dcDest b with
  | 0 => s
  | 3 => circWrite s (blk b 32 2) own (dAddr w) (streamWords (fmtBits f) (rows.zipIdx.flatMap fun r => portRow x r.2 r.1))
  | _ => rows.zipIdx.foldl (fun t r =>
      if r.1.isEmpty then t else writeElems t f (dAddr w + r.2 * blk b 28 4) (r.1.map (·.1)) x.cols) s

/-- A drain with a true predicate whose waits are over (R67, R129). -/
def drainStart (s : State) (q d : Nat) (f : Fetched) : State :=
  let i := 4 + d
  let b := dcGet s q d (dSlot f.word)
  let x := bank s q d (mBank f.word)
  if dcDest b = 0 && dAddr f.word != 0 then failHead s q i stIllegalField f
  else if !drainRange s q b x f.word then failHead (raiseQ s q eRange (srcOfStream i) (dAddr f.word)) q i stAddrRange f
  else if dcDest b = 3 && dAddr f.word % 64 != 0 then failHead s q i stAlign f
  else
    let rows := drainRows s q b x
    let t := drainStat b x rows.flatten
    let s1 := setBank (popHead s q i) q d (mBank f.word) { x with st := .draining }
    let s2 := amendOp (startOp (drainWrite s1 (ownKey q (nextOpId s1 q)) b x f.word rows) q i f true false (some t) []
      (drainTo b) []) q fun o => { o with dst := drainDst b x f.word rows }
    let s3 := if scaleBad b then raiseQ s2 q eScale (srcOfStream i) 0 else s2
    if bit (BitVec.ofNat 2 t.flags) 1 then raiseQ s3 q ePoison (srcOfStream i) 0 else s3

/-- The bank state after a drain ends (R55). -/
def drainEndSt (w : W128) : BankSt := if dKeep w then .full else .empty

/-- DRAIN (R56, R57, R63). -/
def doDrain (s : State) (q d : Nat) : State :=
  let i := 4 + d
  match headOf s q i (fun w => wOpcode w == opDrain) with
  | .no => s
  | .bad f => failHead s q i stPoisonedWord f
  | .ok f p =>
    if (bank s q d (mBank f.word)).st != .full then keepPred s q i p
    else if !p then
      skipNow (setBank s q d (mBank f.word) { bank s q d (mBank f.word) with st := drainEndSt f.word }) q i f
        (drainTo (dcGet s q d (dSlot f.word)))
    else if !slotFree s q i then slotWait s q i
    else drainStart s q d f

/-! ### The gradient report (R159) -/

def gftBusy (s : State) : Bool := fld s aMgtGftCtl 2 2 == 1

/-- The flag GRAD_NF is set (R159, R165). -/
def setGradNf (s : State) : State := setReg s aMgtLwStatus (reg s aMgtLwStatus ||| 1)

/-- A drain's report to entry n (R159). -/
def gradReport (s : State) (n : Nat) (t : Stat) : State :=
  let s1 := addFld (addFld s (aMgtGftCnta n) 31 0 t.elems) (aMgtGftCnta n) 63 32 t.sat
  let s2 := addFld (addFld s1 (aMgtGftCntb n) 31 0 t.flush) (aMgtGftCntb n) 63 32 t.nonfin
  if t.nonfin = 0 then s2 else setGradNf s2

/-- The drain reports (R159): GRAD attached to its bank, a destination, no RAW. -/
def reports (b : W512) (x : Bank) : Bool := bit x.gctl 0 && dcDest b != 0 && !dcRaw b

/-- DRAIN_END (R55, R68, R159): the record, the report, the bank state; a drain to PORT has sent its last cell (R71),
and a report waits while a close runs (R161). -/
def doDrainEnd (s : State) (q d : Nat) : State :=
  let i := 4 + d
  match (streamOps s q i).find? fun o => !o.fin && o.slot with
  | none => s
  | some o =>
    let b := dcGet s q d (dSlot o.word)
    let x := bank s q d (mBank o.word)
    let t := o.stat.getD stat0
    let credit := match o.sigTo with
      | .circuit n => circWaits s n (ownKey q o.id)
      | _ => false
    if credit || (reports b x && gftBusy s) then s
    else
      let s1 := if dMerge o.word then mergeStat s q (dStat o.word) (srcOfStream i) t else writeStat s q (dStat o.word) t
      let s2 := if reports b x then gradReport s1 (bits x.gctl 31 20) t else s1
      finishOp (setBank s2 q d (mBank o.word) { x with st := drainEndSt o.word, sat := 0, metaF := 0 }) q o.id

/-! ### The commands -/

/-- MMA (R52). -/
def execMma (q : Fin 96) (c : Fin 4) (s : State) : Out := .next (doMma s q c)
/-- MMA_END (R55). -/
def execMmaEnd (q : Fin 96) (c : Fin 4) (s : State) : Out := .next (doMmaEnd s q c)
/-- DCFG (R127). -/
def execDcfg (q : Fin 96) (d : Fin 4) (s : State) : Out := .next (doDcfg s q d)
/-- DRAIN (R63). -/
def execDrain (q : Fin 96) (d : Fin 4) (s : State) : Out := .next (doDrain s q d)
/-- DRAIN_END (R55). -/
def execDrainEnd (q : Fin 96) (d : Fin 4) (s : State) : Out := .next (doDrainEnd s q d)

end Sys2Proof.Machine
end

