-- ==== Sys2Proof/Machine/Mesh.lean ====
section
/-! DEFINITION. The matrix of the optical projector (12 R322, R323, R327): a table of 16,384 bytes read as angles and
attenuations, and the product M * d it realises, in fixed point with 30 fraction bits. The light computes it with noise
(R335), so what fixed point loses is part of that noise (log entry 1). -/

namespace Sys2Proof.Machine

/-- 1.0 in the fixed point of this file. -/
def fixOne : Int := 1073741824

/-- A complex number in fixed point. -/
structure Cx where
  re : Int
  im : Int
  deriving DecidableEq, Repr

def cx0 : Cx := ⟨0, 0⟩

/-- A product of fixed-point numbers. -/
def fixMul (a b : Int) : Int := a * b / fixOne

def cxAdd (a b : Cx) : Cx := ⟨a.re + b.re, a.im + b.im⟩
def cxScale (k : Int) (a : Cx) : Cx := ⟨fixMul k a.re, fixMul k a.im⟩
def cxMul (a b : Cx) : Cx := ⟨fixMul a.re b.re - fixMul a.im b.im, fixMul a.re b.im + fixMul a.im b.re⟩

/-- Taylor terms of sine or cosine from a term of degree n on; `x2` is the squared angle, all at 2^-40. -/
def trigTerms (x2 : Int) : Nat → Int → Nat → Int
  | 0, _, _ => 0
  | f + 1, t, n => t + trigTerms x2 f (-(t * x2 / 2 ^ 40) / ((n + 1) * (n + 2) : Nat)) (n + 2)

/-- 2 pi at 2^-56, rounded. -/
def twoPi : Nat := 452751216129820178

/-- cos and sin of an angle below a quarter turn, given as a 16-bit code of a whole turn. -/
def trigQuarter (r : Nat) : Int × Int :=
  let x : Int := (r * twoPi / 2 ^ 32 : Nat)
  let x2 := x * x / 2 ^ 40
  (trigTerms x2 12 (2 ^ 40) 0 / 1024, trigTerms x2 12 x 1 / 1024)

/-- e^(i a) for a = 2 pi * code / 65536 (R323). -/
def cxTurn (code : Nat) : Cx :=
  let (c, s) := trigQuarter (code % 16384)
  match code / 16384 % 4 with
  | 0 => ⟨c, s⟩
  | 1 => ⟨-s, c⟩
  | 2 => ⟨-c, -s⟩
  | _ => ⟨s, -c⟩

/-- A 16-bit field of a table. -/
def tab16 (tab : Nat → Nat) (o : Nat) : Nat := tab o + 256 * tab (o + 1)

/-- An interferometer with angles theta and phi on two modes (R323). -/
def mzi (th ph : Nat) (a b : Cx) : Cx × Cx :=
  let t := cxTurn th
  let p := cxMul (cxTurn ph) a
  (cxAdd (cxScale t.re p) (cxScale (-t.im) b), cxAdd (cxScale t.im p) (cxScale t.re b))

/-- Interferometers from entry e on act on neighbouring pairs of modes. -/
def mziPairs (tab : Nat → Nat) (base : Nat) : Nat → List Cx → List Cx
  | e, a :: b :: t =>
    let r := mzi (tab16 tab (base + 4 * e)) (tab16 tab (base + 4 * e + 2)) a b
    r.1 :: r.2 :: mziPairs tab base (e + 1) t
  | _, l => l

/-- Column c of a mesh at a byte of the table: 32 interferometers in an even column, 31 from mode 1 on in an odd one, its
entries after those of the columns before (R323). -/
def meshColumn (tab : Nat → Nat) (base : Nat) (v : List Cx) (c : Nat) : List Cx :=
  let e := 63 * (c / 2) + 32 * (c % 2)
  if c % 2 = 0 then mziPairs tab base e v
  else match v with
    | a :: t => a :: mziPairs tab base e t
    | [] => []

/-- A mesh: columns 0 to 63, light passing column 0 first (R323). -/
def meshApply (tab : Nat → Nat) (base : Nat) (v : List Cx) : List Cx := (List.range 64).foldl (meshColumn tab base) v

/-- M * v = Psi * U * Sigma * V * v (R323). -/
def matApply (tab : Nat → Nat) (v : List Cx) : List Cx :=
  let a := meshApply tab 0 v
  let b := a.zipIdx.map fun x => cxScale ((tab16 tab (8064 + 2 * x.2) : Nat) * fixOne / 65535) x.1
  let c := meshApply tab 8192 b
  c.zipIdx.map fun x => cxMul (cxTurn (tab16 tab (16256 + 2 * x.2))) x.1

/-- d of R327: 31 * x / a rounded to the nearest integer, ties to even. -/
def prjCode (x a : FVal) : Int :=
  match x, a with
  | .fin n m e, .fin _ k g =>
    if k = 0 then 0
    else
      let num := 31 * m * 2 ^ (e - g).toNat
      let den := k * 2 ^ (g - e).toNat
      let q := num / den
      let r := num % den
      let i : Int := (if den < 2 * r || (2 * r = den && q % 2 = 1) then q + 1 else q : Nat)
      if n then -i else i
  | _, _ => 0

/-- The ideal outputs for codes d: Re (M * d / 31) (R327). -/
def matReal (tab : Nat → Nat) (ds : List Int) : List Int :=
  (matApply tab (ds.map fun d => ⟨d * fixOne / 31, 0⟩)).map (·.re)

/-- The 8-bit converter over -G to +G (R327): its code and whether it clipped. G = 2^lg; a step is G / 128 (log entry 82). -/
def adc (lg : Nat) (y : Int) : Int × Bool :=
  let g : Int := fixOne * 2 ^ lg
  if g < y then (127, true)
  else if y < -g then (-128, true)
  else (min 127 (y * 128 / g), false)

/-- A binary32 value in units of 2^-24, for measures of error; a value that is not finite counts as 2^24. -/
def f32Fix (x : W32) : Int :=
  match f32v x with
  | .fin n m e =>
    let v : Int := (if 0 ≤ e + 24 then m * 2 ^ (e + 24).toNat else m / 2 ^ (-(e + 24)).toNat : Nat)
    if n then -v else v
  | _ => 2 ^ 48

end Sys2Proof.Machine
end

