-- ==== Sys2Proof/Machine/Move.lean ====
section
/-! DEFINITION. The move engine and the gather/scatter unit (03 R72-R76, 04 R98, 05 R137-R139): MOVE_COPY,
MOVE_ATOMIC_ADD, DISPATCH, GATHER_ROWS, COMBINE, SCATTER_ADD, SCATTER_ROWS. -/

namespace Sys2Proof.Machine

/-- n bytes from a, each with the mark of its word. -/
def readMarked (s : State) (a n : Nat) : List (Byte × Bool) :=
  (List.range n).map fun i => (memByte s (a + i), wordPsn s (a + i))

/-- Marked bytes as words of 8. -/
def wordsOf (bs : List (Byte × Bool)) : Nat → List CWord
  | 0 => []
  | f + 1 =>
    match bs with
    | [] => []
    | _ =>
      let w := bs.take 8
      let p := w.any (·.2)
      ⟨if p then 0 else BitVec.ofNat 64 (leNat (w.map (·.1))), p⟩ :: wordsOf (bs.drop 8) f

/-- The words of n bytes from a. -/
def sourceWords (s : State) (a n : Nat) : List CWord := wordsOf (readMarked s a n) (n / 8 + 1)

/-! ### Atomic adds (R98) -/

/-- The new value of an element of an atomic region. -/
def atomicVal (f : Fmt) (old x : Nat) : Nat :=
  match f with
  | .hf16 => (convV .hf16 false (fvAdd (fmtVal .hf16 old) (fmtVal .hf16 x))).1
  | .int32 => intCode .int32 (intSat .int32 (intOfCode .int32 old + intOfCode .int32 x)).1
  | _ => (f32Add (BitVec.ofNat 32 old) (BitVec.ofNat 32 x)).toNat

/-- Elements of a word after an add of a word. -/
def atomicWord (f : Fmt) (old x : W64) : Nat :=
  let w := fmtBits f
  ((List.range (64 / w)).map fun i =>
    atomicVal f (bits old (w * i + w - 1) (w * i)) (bits x (w * i + w - 1) (w * i)) <<< (w * i)).foldl (· + ·) 0

/-- Element results of an add that saturate, or overflow to infinity from finite operands. -/
def atomicSats (f : Fmt) (old x : W64) : Nat :=
  let w := fmtBits f
  ((List.range (64 / w)).filter fun i =>
    let o := bits old (w * i + w - 1) (w * i)
    let y := bits x (w * i + w - 1) (w * i)
    match f with
    | .hf16 => (convV .hf16 false (fvAdd (fmtVal .hf16 o) (fmtVal .hf16 y))).2.sat != 0
    | .int32 => (intSat .int32 (intOfCode .int32 o + intOfCode .int32 y)).2 != 0
    | _ => fvIsFinite (f32v (BitVec.ofNat 32 o)) && fvIsFinite (f32v (BitVec.ofNat 32 y)) &&
        !f32IsFinite (f32Add (BitVec.ofNat 32 o) (BitVec.ofNat 32 y))).length

/-- The counters of an add to the word at a (R397: ATOM_ADDS, ATOM_SAT). -/
def atomicCount (s : State) (f : Fmt) (a : Nat) (x : CWord) : State :=
  let k := (locate s a).1
  let s1 := count s (cMem k 10) 1
  let n := if x.psn || wordPsn s a then 0 else atomicSats f (BitVec.ofNat 64 (readNat s a 8)) x.v
  if n = 0 then s1 else count s1 (cMem k 11) n

/-- One add to the word at a: a poisoned operand or word leaves it poisoned. -/
def atomicAdd (s0 : State) (f : Fmt) (a : Nat) (x : CWord) : State :=
  let s := atomicCount s0 f a x
  if x.psn || wordPsn s a then poisonWord s (a / 8)
  else writeNat s a 8 (atomicWord f (BitVec.ofNat 64 (readNat s a 8)) x.v)

/-- Adds of consecutive words from a. -/
def atomicAdds (s : State) (f : Fmt) (a : Nat) : List CWord → State
  | [] => s
  | w :: t => atomicAdds (atomicAdd s f a w) f (a + 8) t

/-- Every word of [a, a + n) lies in an enabled atomic region (R98). -/
def atomicRange (s : State) (a n : Nat) : Bool :=
  (List.range ((n + 7) / 8)).all fun i => inAtomic s (a + 8 * i)

/-! ### MOVE (R137) -/

def mvAtomic (b : W512) : Bool := blk b 0 1 == 1
def mvFmt (b : W512) : Fmt := fmtByte b 1
def mvPath (b : W512) : Nat := blk b 2 1
def mvCirc (b : W512) : Nat := blk b 4 2
def mvRows (b : W512) : Nat := blk b 6 2 + 1
def mvSrc (b : W512) : Nat := blk b 8 8
def mvDst (b : W512) : Nat := blk b 16 8
def mvBytes (b : W512) : Nat := blk b 24 4
def mvSrcS (b : W512) : Nat := blk b 28 4
def mvDstS (b : W512) : Nat := blk b 32 4

/-- Chip and local address of a global address (R6). -/
def gChip (g : Nat) : Nat := g / 2 ^ 40 % 65536
def gLocal (g : Nat) : Nat := g % 2 ^ 40

def mvReserved (b : W512) : Bool := blk b 3 1 != 0 || bits b 511 288 != 0

/-- The chip fields agree with PATH (R137, R283). A circuit carries no atomic add (R261). -/
def mvPathOk (s : State) (b : W512) : Bool :=
  let c := thisChip s
  let sc := gChip (mvSrc b)
  let dc := gChip (mvDst b)
  match mvPath b with
  | 0 => sc == c && dc == c
  | 1 => (sc == c) != (dc == c)
  | 2 => sc == c && circSource s (mvCirc b) dc && !mvAtomic b
  | _ => false

/-- A row of n bytes at a local address of a chip: here, memory in service; elsewhere, no reserved address (R194). -/
def rowOk (s : State) (chip a n : Nat) : Bool :=
  if chip = thisChip s then inMem s a n
  else inStack a n || (decide (stackEnd ≤ a) && decide (a < 0xC018000000) &&
    decide ((a - stackEnd) % 0x400000 + n ≤ lsSize))

/-- Every row of a strided array is in range. -/
def rowsOk (s : State) (g stride rows n : Nat) : Bool :=
  (List.range rows).all fun r => rowOk s (gChip g) (gLocal g + r * stride) n

/-- The checks of R137, in the order of its text (R114): the fields, PATH with the chips, the ranges, the alignment of a
circuit's destination. -/
def mvStatus (s : State) (b : W512) : Option Nat :=
  firstFail [
    (decide (1 < blk b 0 1), stIllegalField),
    (mvAtomic b && !(mvFmt b == .b32 || mvFmt b == .hf16 || mvFmt b == .int32), stIllegalFormat),
    (!mvAtomic b && blk b 1 1 != 0, stIllegalFormat),
    (decide (2 < mvPath b), stIllegalField),
    (decide (2 ^ 56 ≤ mvSrc b) || decide (2 ^ 56 ≤ mvDst b), stAddrRange),
    (decide (mvBytes b < 8) || decide (16777216 < mvBytes b) || mvBytes b % 8 != 0, stIllegalField),
    (mvSrcS b % 8 != 0 || mvDstS b % 8 != 0, stAlign),
    (!mvPathOk s b, stIllegalField),
    (!rowsOk s (mvSrc b) (mvSrcS b) (mvRows b) (mvBytes b) ||
      (!mvAtomic b && !rowsOk s (mvDst b) (mvDstS b) (mvRows b) (mvBytes b)), stAddrRange),
    (mvPath b == 2 && (mvDst b % 64 != 0 || (mvRows b != 1 && mvDstS b % 64 != 0)), stAlign),
    (mvPath b == 1 && (gChip (mvSrc b) != thisChip s && mvSrc b % 8 != 0 || gChip (mvDst b) != thisChip s && mvDst b % 8 != 0),
      stAlign)]

/-- The rows of a strided array, as ranges. -/
def rowRanges (a stride rows n : Nat) : List (Nat × Nat) := (List.range rows).map fun r => (a + r * stride, n)

/-- The local rows that a MOVE writes, in their order. -/
def mvDstRows (s : State) (b : W512) : List (Nat × Nat) :=
  if gChip (mvDst b) = thisChip s ∧ mvPath b ≠ 2 then rowRanges (gLocal (mvDst b)) (mvDstS b) (mvRows b) (mvBytes b) else []

/-- The range of an instruction's parameter block. -/
def blockRange (q : Nat) (f : Fetched) : Nat × Nat := (lsBase q + wPb f.word * 64, 64)

/-- The local ranges that a MOVE touches (R51). -/
def mvTouches (q : Nat) (s : State) (f : Fetched) : Touches :=
  match readBlock s q (wPb f.word) mvReserved with
  | .error _ => ⟨[blockRange q f], []⟩
  | .ok b =>
    ⟨blockRange q f ::
      (if gChip (mvSrc b) = thisChip s then rowRanges (gLocal (mvSrc b)) (mvSrcS b) (mvRows b) (mvBytes b) else []),
     mvDstRows s b⟩

/-- One row of a COPY (R137). -/
def copyRow (q op : Nat) (b : W512) (s : State) (r : Nat) : State :=
  let sa := gLocal (mvSrc b) + r * mvSrcS b
  let da := gLocal (mvDst b) + r * mvDstS b
  let n := mvBytes b
  match mvPath b with
  | 0 => touch (writeMarked (touch s clQtr sa n false) da (readMarked s sa n)) clQtr da n true
  | 1 =>
    if gChip (mvSrc b) = thisChip s then
      sendWrite (touch s clQtr sa n false) (gChip (mvDst b)) q 1 0 da (sourceWords s sa n) q op none
    else sendRead s (gChip (mvSrc b)) q sa n da q op
  | _ => circWrite (touch s clQtr sa n false) (mvCirc b) (ownKey q op) da (sourceWords s sa n)

/-- Where a MOVE's header signal with SIGDST = 1 is taken (R122). -/
def mvTo (s : State) (b : W512) : SigTo :=
  match mvPath b with
  | 1 => if gChip (mvDst b) = thisChip s then .here else .chip (gChip (mvDst b))
  | 2 => .circuit (mvCirc b)
  | _ => .here

/-- MOVE with OP COPY. -/
def moveCopyBody (q : Nat) (s : State) (f : Fetched) : Except Nat Done := do
  let b ← readBlock s q (wPb f.word) mvReserved
  match mvStatus s b with
  | some st => .error st
  | none => .ok ⟨(List.range (mvRows b)).foldl (copyRow q (nextOpId s q) b) s, mvTo s b, false,
      if mvPath b = 0 then mvDstRows s b else []⟩

/-- READs of an atomic add whose source is another chip: the data is added when it comes (R98, R137). -/
def readAdd (s : State) (chip a n da q op fmt : Nat) : State :=
  modFab (sendRead s chip q a n da q op) fun f =>
    { f with reqs := f.reqs.map fun r => if r.q == q && r.op == op then { r with add := some fmt } else r }

/-- Rows of an atomic add as they issue: false where a row outside every region stops them (R98). -/
def atomicRows (q op : Nat) (b : W512) : List Nat → State → State × Bool
  | [], s => (s, true)
  | r :: t, s =>
    let sa := gLocal (mvSrc b) + r * mvSrcS b
    let da := gLocal (mvDst b) + r * mvDstS b
    let n := mvBytes b
    if gChip (mvDst b) ≠ thisChip s then
      atomicRows q op b t (sendWrite s (gChip (mvDst b)) q 4 (blk b 1 1) da (sourceWords s sa n) q op none)
    else if da % 8 = 0 && atomicRange s da n then
      atomicRows q op b t (if gChip (mvSrc b) = thisChip s then atomicAdds s (mvFmt b) da (sourceWords s sa n)
        else readAdd s (gChip (mvSrc b)) sa n da q op (blk b 1 1))
    else (raiseQ s q eRange 13 da, false)

/-- The work of an instruction that may stop partway: what it did stays, and it faults with the status given (R98). -/
def runPartial (s : State) (q i : Nat) (isOp : W128 → Bool) (touches : State → Fetched → Touches)
    (body : State → Fetched → Except Nat (Done × Option Nat)) : State :=
  match headOf s q i isOp with
  | .no => s
  | .bad f => failHead s q i stPoisonedWord f
  | .ok f false => skipNow s q i f .here
  | .ok f true =>
    if !slotFree s q i then slotWait s q i
    else if streamHolds s q i (touches s f) then keepPred s q i true
    else match body s f with
      | .error st => failHead s q i st f
      | .ok (d, none) =>
        amendOp (startOp (popHead d.s q i) q i f true true none [] d.tgt []) q fun o =>
          { o with excl := d.excl, dst := d.dst }
      | .ok (d, some st) => failHead (orphanReqs d.s q (nextOpId s q)) q i st f

/-- MOVE with OP ATOMIC_ADD (R98). -/
def moveAtomicBody (q : Nat) (s : State) (f : Fetched) : Except Nat (Done × Option Nat) := do
  let b ← readBlock s q (wPb f.word) mvReserved
  match mvStatus s b with
  | some st => .error st
  | none =>
    let (t, ok) := atomicRows q (nextOpId s q) b (List.range (mvRows b)) s
    .ok (⟨t, mvTo s b, false, if mvPath b = 0 then mvDstRows s b else []⟩, if ok then none else some stAddrRange)

/-! ### GATHER (R72 to R75, R138) -/

def gaOp (b : W512) : Nat := blk b 0 1
def gaK (b : W512) : Nat := blk b 1 1 + 1
def gaN (b : W512) : Nat := blk b 2 2 + 1
def gaList (b : W512) : Nat := blk b 8 4
def gaPlace (b : W512) : Nat := blk b 12 4
def gaSrc (b : W512) : Nat := blk b 16 8
def gaBytes (b : W512) : Nat := blk b 24 4
def gaSrcS (b : W512) : Nat := blk b 28 4
def gaRowS (b : W512) : Nat := blk b 32 4
def gaDst (b : W512) : Nat := blk b 36 4

def gaReserved (b : W512) : Bool :=
  blk b 6 2 != 0 || bits b 511 352 != 0 || offBad (gaList b) ||
    (if gaOp b = 0 then offBad (gaPlace b) || decide (2 ^ 22 ≤ gaSrc b)
     else offBad (gaDst b) || decide (2 ^ 40 ≤ gaSrc b))

/-- The checks of R138, in the order of its table (R114). -/
def gaStatus (b : W512) : Option Nat :=
  firstFail [
    (decide (1 < gaOp b), stIllegalField),
    (if gaOp b = 0 then decide (8 < gaK b) else gaK b != 1, stIllegalField),
    (gaOp b == 0 && decide (65535 < blk b 4 2 + 255), stIllegalField),
    (gaOp b == 0 && gaPlace b % 16 != 0, stAlign),
    (gaBytes b % 8 != 0, stIllegalField),
    (!lsOk (gaList b) (if gaOp b = 0 then 8 * gaN b * gaK b else 4 * gaN b), stAddrRange),
    (gaOp b == 0 && !lsOk (gaPlace b) 4096, stAddrRange),
    (gaOp b == 0 && !lsOk (gaSrc b + (gaN b - 1) * gaSrcS b) (gaBytes b), stAddrRange),
    (gaOp b == 1 && !lsOk (gaDst b + (gaN b - 1) * gaRowS b) (gaBytes b), stAddrRange)]

/-- A row of the placement table (R73). -/
structure Place where
  chip : Nat
  base : Nat
  cap : Nat
  ret : Nat
  deriving DecidableEq, Repr

def placeAt (s : State) (q place e : Nat) : Place :=
  let v := readNat s (lsBase q + place + 16 * e) 16
  ⟨v % 65536, v / 2 ^ 16 % 2 ^ 40, v / 2 ^ 64 % 65536, v / 2 ^ 80 % 2 ^ 40⟩

/-- An entry of the placement table passes R73: zero bits, CAP, CHIP. -/
def placeOk (s : State) (q place e : Nat) : Bool :=
  let a := lsBase q + place + 16 * e
  let v := readNat s a 16
  let p := placeAt s q place e
  !anyPsn s a 16 && v / 2 ^ 56 % 256 == 0 && v / 2 ^ 120 == 0 && decide (1 ≤ p.cap) && decide (p.cap ≤ 4096) &&
    (p.chip == thisChip s || (districtPos s p.chip).isSome)

/-- EXPERT of routing entry i. -/
def expertAt (s : State) (q list i : Nat) : Nat := readNat s (lsBase q + list + 8 * i) 2

/-- What the dispatch keeps while it runs: counts by expert, rows dropped, the local ranges written (R250). -/
structure DispAcc where
  s : State
  cnt : SMap Nat
  drops : Nat
  dst : List (Nat × Nat)

/-- Address of the row in a slot of an expert's receive buffer (R74). -/
def dispAddr (s : State) (b : W512) (p : Place) (slot : Nat) : Nat := p.base + (myPos s * p.cap + slot) * gaRowS b

/-- A row to the receive buffer of an expert (R74). -/
def dispRow (q op : Nat) (b : W512) (s : State) (p : Place) (slot t : Nat) : State :=
  let dst := dispAddr s b p slot
  let src := lsBase q + gaSrc b + t * gaSrcS b
  if p.chip = thisChip s then touch (writeMarked s dst (readMarked s src (gaBytes b))) clQtr dst (gaBytes b) true
  else match districtPos s p.chip with
    | some y => sendWrite s p.chip (96 + q) 1 0 dst (sourceWords s src (gaBytes b)) q op (some (avSteer s y))
    | none => s

/-- One routing entry (R74). -/
def dispEntry (q op : Nat) (b : W512) (x : DispAcc) (i : Nat) : DispAcc :=
  let e := expertAt x.s q (gaList b) i
  let a := lsBase q + gaList b + 8 * i
  if e = 0xFFFF then x
  else
    let p := placeAt x.s q (gaPlace b) e
    let slot := smGet 0 x.cnt e
    let cnt := smSet 0 x.cnt e (slot + 1)
    if p.cap ≤ slot then ⟨writeNat x.s a 2 0xFFFF, cnt, x.drops + 1, x.dst ++ [(a, 2)]⟩
    else
      ⟨dispRow q op b (writeNat x.s (a + 2) 2 slot) p slot (i / gaK b), cnt, x.drops,
        x.dst ++ (a + 2, 2) :: (if p.chip = thisChip x.s then [(dispAddr x.s b p slot, gaBytes b)] else [])⟩

/-- Address of the count word of this chip's segment (R75). -/
def countAddr (s : State) (b : W512) (p : Place) : Nat := p.base + 16 * p.cap * gaRowS b + 8 * myPos s

/-- The end of a dispatch for an expert of this chip: the count word and the signal (R75). -/
def dispLocalEnd (q : Nat) (b : W512) (s : State) (e c : Nat) : State :=
  let p := placeAt s q (gaPlace b) e
  sqAdd (touch (writeNat s (countAddr s b p) 8 (min c p.cap)) clQtr (countAddr s b p) 8 true) (blk b 4 2 + e) 1

/-- What a dispatch owes the experts of other chips once their rows are acknowledged (R75). -/
def dispAfter (s : State) (q : Nat) (b : W512) (cnt : SMap Nat) : List After :=
  (cnt.map fun (e, c) =>
    let p := placeAt s q (gaPlace b) e
    (⟨p.chip, countAddr s b p, min c p.cap, blk b 4 2 + e, false⟩ : After)).filter fun a => a.chip != thisChip s

/-- One debt of a dispatch moves on when nothing to its chip is outstanding: the count word, then the signal (R75). -/
def afterOne (q : Nat) (o : Op) (s : State) (a : After) : State × Option After :=
  if (opReqs s q o.id).any fun r => r.dst == a.chip then (s, some a)
  else
    let port := (districtPos s a.chip).map (avSteer s)
    if a.sent then (sendSignal s a.chip (96 + q) a.sq 1 96 0 port, none)
    else (sendWrite s a.chip (96 + q) 1 0 a.addr [⟨BitVec.ofNat 64 a.cnt, false⟩] q o.id port, some { a with sent := true })

/-- Every debt of an operation looked at once. -/
def afterAll (q : Nat) (o : Op) : List After → State → State × List After
  | [], s => (s, [])
  | a :: t, s =>
    let (s1, r) := afterOne q o s a
    let (s2, rs) := afterAll q o t s1
    (s2, (match r with | some x => [x] | none => []) ++ rs)

/-- The debts of the operations of a quarter's gather unit move on. -/
def afterStep (s : State) (q : Nat) : State :=
  ((quarter s q).ops.filter fun o => !o.after.isEmpty).foldl (fun t o =>
    let (t1, rs) := afterAll q o o.after t
    modQuarter t1 q fun x => { x with ops := x.ops.map fun p => if p.id = o.id then { p with after := rs } else p }) s

/-- Routing entries pass R72 and R73: no EXPERT from 256 to 0xFFFE, every named table entry right; and, as the model
settles it (log entry 76), no poisoned list or table word, and local buffers in memory. -/
def dispOk (s : State) (q : Nat) (b : W512) : Bool :=
  !anyPsn s (lsBase q + gaList b) (8 * gaN b * gaK b) &&
    (List.range (gaN b * gaK b)).all fun i =>
      let e := expertAt s q (gaList b) i
      e == 0xFFFF || (decide (e < 256) && placeOk s q (gaPlace b) e &&
        (let p := placeAt s q (gaPlace b) e
         p.chip != thisChip s ||
           (inMem s (p.base + (myPos s * p.cap) * gaRowS b) ((p.cap - 1) * gaRowS b + gaBytes b) &&
            inMem s (countAddr s b p) 8)))

/-- Every routing entry of a dispatch in turn (R74). -/
def dispEntries (s : State) (q : Nat) (b : W512) : DispAcc :=
  (List.range (gaN b * gaK b)).foldl (dispEntry q (nextOpId s q) b) ⟨s, [], 0, []⟩

/-- The local ranges that a GATHER touches (R51): list, table and source rows, and what it writes. -/
def gaTouches (q : Nat) (s : State) (f : Fetched) : Touches :=
  match readBlock s q (wPb f.word) gaReserved with
  | .error _ => ⟨[blockRange q f], []⟩
  | .ok b =>
    let base := lsBase q
    if gaOp b = 0 then
      ⟨blockRange q f :: (base + gaList b, 8 * gaN b * gaK b) :: (base + gaPlace b, 4096) ::
          rowRanges (base + gaSrc b) (gaSrcS b) (gaN b) (gaBytes b),
       if (gaStatus b).isNone then (dispEntries s q b).dst else []⟩
    else
      ⟨blockRange q f :: (base + gaList b, 4 * gaN b) ::
          (List.range (gaN b)).map fun i => (gaSrc b + readNat s (base + gaList b + 4 * i) 4 * gaSrcS b, gaBytes b),
       rowRanges (base + gaDst b) (gaRowS b) (gaN b) (gaBytes b)⟩

/-- DISPATCH (R72 to R75). -/
def dispatchGo (s : State) (q : Nat) (f : Fetched) (b : W512) : State :=
  let x := dispEntries s q b
  let own := x.cnt.filter fun p => (placeAt s q (gaPlace b) p.1).chip == thisChip s
  let s1 := own.foldl (fun t p => dispLocalEnd q b t p.1 p.2) x.s
  let drops := (leBytes 4 x.drops).zipIdx.map fun p => (lsBase q + wPb f.word * 64 + 40 + p.2, p.1)
  let s2 := if x.drops = 0 then s1 else count s1 (cQtr q 8) x.drops
  let words := own.map fun p => (countAddr s b (placeAt s q (gaPlace b) p.1), 8)
  afterStep (amendOp (startOp (popHead s2 q 12) q 12 f true true none drops .here (dispAfter s q b x.cnt)) q fun o =>
    { o with dst := x.dst ++ words }) q

/-- DISPATCH under the order of R141. One that a routing entry aborts sets QTR_ERR.DISPATCH and faults with ILLEGAL_FIELD
(R72; log entry 76). -/
def doDispatch (s : State) (q : Nat) : State :=
  match headOf s q 12 (fun w => wOpcode w == opGather && blockOp s q w != 1) with
  | .no => s
  | .bad f => failHead s q 12 stPoisonedWord f
  | .ok f false => skipNow s q 12 f .here
  | .ok f true =>
    if !slotFree s q 12 then slotWait s q 12
    else if streamHolds s q 12 (gaTouches q s f) then keepPred s q 12 true
    else match readBlock s q (wPb f.word) gaReserved with
      | .error st => failHead s q 12 st f
      | .ok b =>
        match gaStatus b with
        | some st => failHead s q 12 st f
        | none =>
          if dispOk s q b then dispatchGo s q f b
          else failHead (raiseQ s q eDispatch 12 0) q 12 stIllegalField f

/-- The index that LIST holds for row i (R138, R139). -/
def rowIndex (s : State) (q list i : Nat) : Nat := readNat s (lsBase q + list + 4 * i) 4

/-- GATHER with OP ROWS (R138). -/
def gatherRowsBody (q : Nat) (s : State) (f : Fetched) : Except Nat Done := do
  let b ← readBlock s q (wPb f.word) gaReserved
  match gaStatus b with
  | some st => .error st
  | none =>
    let src := fun i => gaSrc b + rowIndex s q (gaList b) i * gaSrcS b
    if anyPsn s (lsBase q + gaList b) (4 * gaN b) then .error stPoisonedWord
    else if !(List.range (gaN b)).all (fun i => inMem s (src i) (gaBytes b)) then .error stAddrRange
    else .ok ⟨(List.range (gaN b)).foldl (fun t i =>
      touch (writeMarked t (lsBase q + gaDst b + i * gaRowS b) (readMarked t (src i) (gaBytes b))) clQtr (src i) (gaBytes b) false) s,
      .here, false, rowRanges (lsBase q + gaDst b) (gaRowS b) (gaN b) (gaBytes b)⟩

/-! ### SCATTER (R76, R98, R139) -/

def scOp (b : W512) : Nat := blk b 0 1
def scK (b : W512) : Nat := blk b 1 1 + 1
def scFmt (b : W512) : Fmt := fmtByte b 2
def scAcc (b : W512) : Bool := bit b 24
def scN (b : W512) : Nat := blk b 4 4 + 1
def scList (b : W512) : Nat := blk b 8 4
def scPlace (b : W512) : Nat := blk b 12 4
def scSrc (b : W512) : Nat := blk b 16 4
def scLen (b : W512) : Nat := blk b 20 4
def scSrcS (b : W512) : Nat := blk b 24 4
def scDstS (b : W512) : Nat := blk b 28 4
def scDst (b : W512) : Nat := blk b 32 8

def scReserved (b : W512) : Bool :=
  bits b 31 25 != 0 || bits b 511 320 != 0 || offBad (scList b) ||
    (if scOp b = 0 then offBad (scPlace b) || decide (2 ^ 22 ≤ scDst b)
     else offBad (scSrc b) || decide (2 ^ 40 ≤ scDst b))

/-- The checks of R139. -/
def scStatus (b : W512) : Option Nat :=
  let f := scFmt b
  firstFail [
    (decide (2 < scOp b), stIllegalField),
    (scOp b == 0 && decide (8 < scK b), stIllegalField),
    (f == .b64 || f == .res || (scOp b == 1 && !(f == .b32 || f == .hf16 || f == .int32)), stIllegalFormat),
    (decide (65536 < scN b), stIllegalField),
    (!lsOk (scList b) (if scOp b = 0 then 8 * scN b * scK b else 4 * scN b), stAddrRange),
    (scOp b == 0 && !lsOk (scPlace b) 4096, stAddrRange),
    (scOp b == 0 && !lsOk (scDst b + (scN b - 1) * scDstS b) (4 * scLen b), stAddrRange),
    (scOp b != 0 && !lsOk (scSrc b + (scN b - 1) * scSrcS b) (rowBytes f (scLen b)), stAddrRange)]

/-- Address of the row returned for routing entry i (R76). -/
def retAddr (s : State) (q : Nat) (b : W512) (i : Nat) : Nat :=
  (placeAt s q (scPlace b) (expertAt s q (scList b) i)).ret +
    readNat s (lsBase q + scList b + 8 * i + 2) 2 * scSrcS b

/-- The routing entries of token t that were not dropped, in rank order. -/
def liveEntries (s : State) (q : Nat) (b : W512) (t : Nat) : List Nat :=
  ((List.range (scK b)).map fun j => t * scK b + j).filter fun i => expertAt s q (scList b) i != 0xFFFF

/-- Element j of token t (R76): the combined value and its mark, from its rows, its list and the words of the table that
hold RET (R85). -/
def combineElem (s : State) (q : Nat) (b : W512) (t j : Nat) : Cell1 :=
  let out := lsBase q + scDst b + t * scDstS b
  let a0 : W32 × Bool := if scAcc b then (elem32 s .b32 out j, elemPsn s .b32 out j) else (0, false)
  let r := (liveEntries s q b t).foldl (fun (a : W32 × Bool) i =>
    let row := retAddr s q b i
    let w := BitVec.ofNat 32 (readNat s (lsBase q + scList b + 8 * i + 4) 4)
    (f32Fma w (elem32 s (scFmt b) row j) a.1,
     a.2 || elemPsn s (scFmt b) row j || anyPsn s (lsBase q + scList b + 8 * i) 8 ||
       anyPsn s (lsBase q + scPlace b + 16 * expertAt s q (scList b) i + 8) 8)) a0
  ⟨j, r.1.toNat, r.2⟩

/-- The local rows that a SCATTER writes, in their order. -/
def scDstRows (s : State) (q : Nat) (b : W512) : List (Nat × Nat) :=
  if scOp b = 0 then rowRanges (lsBase q + scDst b) (scDstS b) (scN b) (4 * scLen b)
  else (List.range (scN b)).map fun i =>
    (scDst b + readNat s (lsBase q + scList b + 4 * i) 4 * scDstS b, rowBytes (scFmt b) (scLen b))

/-- The local ranges that a SCATTER touches (R51). -/
def scTouches (q : Nat) (s : State) (f : Fetched) : Touches :=
  match readBlock s q (wPb f.word) scReserved with
  | .error _ => ⟨[blockRange q f], []⟩
  | .ok b =>
    let n := rowBytes (scFmt b) (scLen b)
    ⟨blockRange q f ::
      (if scOp b = 0 then
        (lsBase q + scList b, 8 * scN b * scK b) :: (lsBase q + scPlace b, 4096) ::
          (List.range (scN b)).flatMap fun t => (liveEntries s q b t).map fun i => (retAddr s q b i, n)
      else (lsBase q + scList b, 4 * scN b) :: rowRanges (lsBase q + scSrc b) (scSrcS b) (scN b) n),
     scDstRows s q b⟩

/-- COMBINE (R76). An EXPERT from 256 to 0xFFFE faults with ILLEGAL_FIELD, as R72 has it for the gather (log entry 76). -/
def combineBody (q : Nat) (s : State) (f : Fetched) : Except Nat Done := do
  let b ← readBlock s q (wPb f.word) scReserved
  match scStatus b with
  | some st => .error st
  | none =>
    let es := (List.range (scN b)).flatMap (liveEntries s q b)
    if es.any fun i => decide (256 ≤ expertAt s q (scList b) i) then .error stIllegalField
    else if es.any fun i => !inMem s (retAddr s q b i) (rowBytes (scFmt b) (scLen b)) then .error stAddrRange
    else
      let rows := (List.range (scN b)).map fun t => (t, (List.range (scLen b)).map (combineElem s q b t))
      let s1 := rows.foldl (fun u r => writeElems u .b32 (lsBase q + scDst b + r.1 * scDstS b) r.2 (scLen b))
        (es.foldl (fun u i => touch u clQtr (retAddr s q b i) (rowBytes (scFmt b) (scLen b)) false) s)
      .ok ⟨if rows.any fun r => r.2.any (·.psn) then raiseQ s1 q ePoison 12 0 else s1, .here, false, scDstRows s q b⟩

/-- Destination of row i (R139). -/
def scatterDst (s : State) (q : Nat) (b : W512) (i : Nat) : Nat := scDst b + rowIndex s q (scList b) i * scDstS b

/-- Rows of SCATTER_ADD as they issue (R98). -/
def scatterAdds (q : Nat) (b : W512) : List Nat → State → State × Bool
  | [], s => (s, true)
  | i :: t, s =>
    let da := scatterDst s q b i
    let n := rowBytes (scFmt b) (scLen b)
    if da % 8 = 0 && atomicRange s da n then
      scatterAdds q b t (atomicAdds s (scFmt b) da (sourceWords s (lsBase q + scSrc b + i * scSrcS b) n))
    else (raiseQ s q eRange 12 da, false)

/-- SCATTER with OP ADD (R98, R139). -/
def scatterAddBody (q : Nat) (s : State) (f : Fetched) : Except Nat (Done × Option Nat) := do
  let b ← readBlock s q (wPb f.word) scReserved
  match scStatus b with
  | some st => .error st
  | none =>
    if anyPsn s (lsBase q + scList b) (4 * scN b) then .error stPoisonedWord
    else
      let (t, ok) := scatterAdds q b (List.range (scN b)) s
      .ok (⟨t, .here, false, scDstRows s q b⟩, if ok then none else some stAddrRange)

/-- SCATTER with OP ROWS (R139). -/
def scatterRowsBody (q : Nat) (s : State) (f : Fetched) : Except Nat Done := do
  let b ← readBlock s q (wPb f.word) scReserved
  match scStatus b with
  | some st => .error st
  | none =>
    let n := rowBytes (scFmt b) (scLen b)
    if anyPsn s (lsBase q + scList b) (4 * scN b) then .error stPoisonedWord
    else if !(List.range (scN b)).all (fun i => inMem s (scatterDst s q b i) n) then .error stAddrRange
    else .ok ⟨(List.range (scN b)).foldl (fun t i =>
      touch (writeMarked t (scatterDst s q b i) (readMarked t (lsBase q + scSrc b + i * scSrcS b) n)) clQtr (scatterDst s q b i) n
        true) s, .here, false, scDstRows s q b⟩

/-! ### The commands -/

/-- MOVE_COPY (R137): every OP but ATOMIC_ADD. -/
def execMoveCopy (q : Fin 96) (s : State) : Out :=
  .next (runInstr s q 13 (fun w => wOpcode w == opMove && blockOp s q w != 1) (mvTouches q) (moveCopyBody q))
/-- MOVE_ATOMIC_ADD (R98). -/
def execMoveAtomicAdd (q : Fin 96) (s : State) : Out :=
  .next (runPartial s q 13 (fun w => wOpcode w == opMove && blockOp s q w == 1) (mvTouches q) (moveAtomicBody q))
/-- DISPATCH (R74). -/
def execDispatch (q : Fin 96) (s : State) : Out := .next (doDispatch s q)
/-- GATHER_ROWS (R138). -/
def execGatherRows (q : Fin 96) (s : State) : Out :=
  .next (runInstr s q 12 (fun w => wOpcode w == opGather && blockOp s q w == 1) (gaTouches q) (gatherRowsBody q))
/-- COMBINE (R76): every OP but ADD and ROWS. -/
def execCombine (q : Fin 96) (s : State) : Out :=
  .next (runInstr s q 12 (fun w => wOpcode w == opScatter && blockOp s q w != 1 && blockOp s q w != 2) (scTouches q) (combineBody q))
/-- SCATTER_ADD (R98, R139). -/
def execScatterAdd (q : Fin 96) (s : State) : Out :=
  .next (runPartial s q 12 (fun w => wOpcode w == opScatter && blockOp s q w == 1) (scTouches q) (scatterAddBody q))
/-- SCATTER_ROWS (R139). -/
def execScatterRows (q : Fin 96) (s : State) : Out :=
  .next (runInstr s q 12 (fun w => wOpcode w == opScatter && blockOp s q w == 2) (scTouches q) (scatterRowsBody q))

end Sys2Proof.Machine
end

