-- ==== Sys2Proof/Machine/OptOps.lean ====
section
/-! DEFINITION. The shared operations of the photonic dies (11): placement of ports, lasers and sensors (R13, R300, R303),
ramp rates, and what the lasers feed. -/

namespace Sys2Proof.Machine

def modOpt (s : State) (f : Opt → Opt) : State := { s with opt := f s.opt }

/-- An error of the photonic links with its port, lane and laser (OPT_ERR_REC). -/
def raiseO (s : State) (b port lane laser : Nat) : State := raise s .opt b (port * 2 ^ 40 + lane * 2 ^ 32 + laser)

/-! ### Placement (R13) -/

/-- The laser bank of a port. -/
def portBank (p : Nat) : Nat := if p < 24 then p / 6 else (p - 24) / 2

/-- The photonic die of a port: 0 east, 1 west. -/
def portDie (p : Nat) : Nat := portBank p / 2

/-- A port's place among the 16 of its die, street ports first (the order is the model's, log entry 6). -/
def portIdx (p : Nat) : Nat := if p < 24 then p % 12 else 12 + (p - 24) % 4

/-- The port of sensor i of a die: 4 sensors a port. -/
def sensorPort (die i : Nat) : Nat :=
  let j := i / 4
  if j < 12 then die * 12 + j else 24 + die * 4 + (j - 12)

/-- Keys of the sensors of a port. -/
def portSensors (p : Nat) : List Nat := (List.range 4).map fun i => portDie p * 64 + 4 * portIdx p + i

/-! ### Sensors (R303) -/

def sensor (s : State) (k : Nat) : Sensor := smGet sensor0 s.opt.sens k

/-- A value put in its place in an ascending list. -/
def insertInt (x : Int) : List Int → List Int
  | [] => [x]
  | y :: t => if x ≤ y then x :: y :: t else y :: insertInt x t

/-- The median of a list of samples: the middle one in order, the lower of two. -/
def median (l : List Int) : Int :=
  match (l.foldr insertInt [])[(l.length - 1) / 2]? with
  | some v => v
  | none => 0

/-- The filtered value, if the sensor has one. -/
def filtered (x : Sensor) : Option Int := (x.hist.head?).map (·.2)

/-- The ramp rate in thousandths of a degree per 0.1 ms (R303): the filtered value less the one 100 us earlier; 0 while
none is that old. -/
def rampOf (x : Sensor) : Int :=
  match x.hist with
  | [] => 0
  | (t, v) :: l =>
    match l.find? fun p => decide (p.1 + 100000 ≤ t) with
    | some p => v - p.2
    | none => 0

/-- A sensor's ramp exceeds a limit in degrees per ms. -/
def rampAbove (s : State) (k lim : Nat) : Bool := decide ((100 * lim : Nat) < rampOf (sensor s k))

/-- A sensor of a die ramps above a limit. -/
def dieRamps (s : State) (die lim : Nat) : Bool := (List.range 64).any fun i => rampAbove s (die * 64 + i) lim

/-- A sensor of a port ramps above LANE_RATE (R308). -/
def portRamps (s : State) (p : Nat) : Bool := (portSensors p).any fun k => rampAbove s k (fld s aOptCtl 7 0)

/-! ### Lasers (R300, R309) -/

/-- OPT_LASERn.STATE codes. -/
def laserState (s : State) (n : Nat) : Nat := fld s (aOptLaser n) 31 29
def laserActive (s : State) (n : Nat) : Bool := fld s (aOptLaser n) 28 28 == 1

/-- The wavelength of a bank is lit: one of its pair is ACTIVE and has not failed. -/
def laserLit (s : State) (b wl : Nat) : Bool :=
  let n := 32 * b + 2 * wl
  (laserActive s n && laserState s n != 4) || (laserActive s (n + 1) && laserState s (n + 1) != 4)

end Sys2Proof.Machine
end

