-- ==== Sys2Proof/WellFormed.lean ====
section
/-! DEFINITION. The operands that make a command: what comes from outside has the length that the spec gives it. A
meaning consults these checks, and answers an ill-formed command with the fault illFormed. -/

namespace Sys2Proof.WF

/-- A frame: 64 words of cells and the tag word, each with its check byte (R263). -/
def frame (ws : List (W64 × Byte)) : Bool := ws.length == 65

/-- A circuit cell: 8 words (R257). -/
def cell (c : List CWord) : Bool := c.length == 8

/-- A packet: fields within the widths of the header word, and payload of at most 74 cells (R258, R260). -/
def pkt (k : Pkt) : Bool :=
  decide (k.dst < 65536) && decide (k.src < 65536) && decide (k.cls < 4) && decide (k.vc < 2) && decide (k.epoch < 2) &&
    decide (k.typ < 16) && decide (k.seq < 4096) && decide (k.flow < 512) && decide (k.words.length ≤ 518)

/-- An announce block: 9 words, each with its check byte (R314). -/
def announce (ws : List (W64 × Byte)) : Bool := ws.length == 9

/-- A plan: 4,160 bytes (R288). -/
def plan (a : Answer (List Byte)) : Bool :=
  match a with
  | .data d => d.length == 4160
  | _ => true

/-- Data of a host access to BAR4: 1 to 1,024 bytes (R337, R344). -/
def hostLen (n : Nat) : Bool := decide (1 ≤ n) && decide (n ≤ 1024)

/-- The operands of a command are such a command's: where they come from outside with a length that the spec gives, they
have it. -/
def command (c : Instr) : Bool :=
  match c with
  | .frameRx _ _ ws _ => frame ws
  | .tick _ k _ => pkt k
  | .write _ k => pkt k
  | .read _ k => pkt k
  | .reqSignal _ k => pkt k
  | .atomicAdd _ k => pkt k
  | .ack _ k => pkt k
  | .readData _ k => pkt k
  | .error _ k => pkt k
  | .stopCell _ k => pkt k
  | .hello _ k => pkt k
  | .helloSig _ k => pkt k
  | .echo _ k _ => pkt k
  | .echoReply _ k _ _ => pkt k
  | .seqrec _ c => cell c
  | .writeHead _ c => cell c
  | .circuitSignal _ c => cell c
  | .circuitDataCell _ c => cell c
  | .announceBlock _ _ ws => announce ws
  | .loadPlan a => plan a
  | .bar4Read _ n => hostLen n
  | .bar4Write _ bs _ => hostLen bs.length
  | _ => true

end Sys2Proof.WF
end

