-- ==== Sys2Proof/Machine/Update.lean ====
section
/-! DEFINITION. Update chiplets (07): the plan and the group headers with their checks, pass 1, records and the chain,
the decision, pass 2 under MOMENT2 and KRON, results, and the cut: UPDATE, PASS1_START, PASS1_END, SEQREC,
PASS2_START. -/

namespace Sys2Proof.Machine

def modUpd (s : State) (f : Upd → Upd) : State := { s with upd := f s.upd }
def modCur (s : State) (f : UpdCur → UpdCur) : State := modUpd s fun u => { u with cur := u.cur.map f }
def updChip (s : State) (k : Nat) : UpdChip := smGet updChip0 s.upd.chips k
def setChip (s : State) (k : Nat) (c : UpdChip) : State := modUpd s fun u => { u with chips := smSet updChip0 u.chips k c }

/-- An error of U_k with its group-table index and local address (R189). -/
def raiseU (s : State) (k b group addr : Nat) : State := raise s (.upd k) b (group % 65536 * 2 ^ 40 + addr % 2 ^ 40)

/-! ### The plan (R170, R172) -/

/-- Field of n bytes at offset o of the plan's or a header's bytes. -/
def byteFld (v o n : Nat) : Nat := v / 2 ^ (8 * o) % 2 ^ (8 * n)

def plMaxNorm (p : Nat) : W32 := BitVec.ofNat 32 (byteFld p 0 4)
def plClipEn (p : Nat) : Bool := p.testBit 32
def plNormOnly (p : Nat) : Bool := p.testBit 33
def plUmask (p : Nat) : Nat := byteFld p 5 1
def plTag (p : Nat) : Nat := byteFld p 6 2
def plPos (p : Nat) : Nat := byteFld p 8 2
def plNcm1 (p : Nat) : Nat := byteFld p 10 2
def plOut (p : Nat) : Nat := byteFld p 12 2
def plBcast (p : Nat) : Nat := byteFld p 14 2
def plExpect (p : Nat) : Nat := byteFld p 16 4
def plDoneSq (p : Nat) : Nat := byteFld p 20 2
def plGtab (p k : Nat) : Nat := byteFld p (32 + 24 * k) 8
def plNgrp (p k : Nat) : Nat := byteFld p (40 + 24 * k) 4

/-- The chiplets that take part: those of UMASK in service. -/
def plKs (s : State) (p : Nat) : List Nat := (List.range 8).filter fun k => (plUmask p).testBit k && updPresent s k

/-- This chip holds the source entry of a circuit. -/
def circHere (s : State) (n : Nat) : Bool := decide (n < 1024) && bit (circ s n) 63 && bits (circ s n) 61 57 == 31

/-- A chain field fails (R172, first row): POS > NCM1, a circuit that the position uses is not set up, or a reserved byte
beside the chain fields is not zero. -/
def plChainBad (s : State) (p : Nat) : Bool :=
  byteFld p 22 10 != 0 || decide (plNcm1 p < plPos p) || (decide (plPos p < plNcm1 p) && !circHere s (plOut p)) ||
    (decide (plPos p = plNcm1 p) && decide (0 < plNcm1 p) && !circHere s (plBcast p))

/-- Any other plan field or reserved byte fails (R172, second row). -/
def plBad (s : State) (p : Nat) : Bool :=
  byteFld p 4 1 / 4 != 0 || (plClipEn p && !f32IsScale (plMaxNorm p)) ||
    ((List.range 8).any fun k =>
      byteFld p (44 + 24 * k) 4 != 0 ||
        ((plUmask p).testBit k &&
          (!updPresent s k || decide (2 ^ 40 ≤ plGtab p k) || decide (65535 < plNgrp p k))))

/-! ### Group headers (R166, R168, R169) -/

/-- [a, a + n) lies wholly in uncompressed STACK(k) regions (R166, R198). -/
def onStack (s : State) (a n k : Nat) : Bool :=
  n == 0 || (inStack a n && (a >>> 27) == (a + n - 1) >>> 27 &&
    (match regionAt s a with
     | some w => bit w 62 && !bit w 61 && (locStack a).1 == k
     | none => false))

/-- A group header (R169). -/
structure Hdr where
  t : Nat
  rule : Nat
  gfmt : Fmt
  wfmt : Fmt
  flags : Nat
  nb : Nat
  sg : W32
  lr : W32
  wd : W32
  b1 : W32
  b2 : W32
  eps : W32
  g : Nat
  w : Nat
  m : Nat
  ms : Nat
  v : Nat
  vs : Nat
  frozen : Nat
  tail : Nat
  deriving DecidableEq, Repr

/-- A format code as a byte gives it. -/
def fmtOfByte (c : Nat) : Fmt := if c < 16 then fmtOfCode c else .res

def hdrOf (x : Nat) : Hdr :=
  let f := fun o => BitVec.ofNat 32 (byteFld x o 4)
  ⟨byteFld x 0 8, byteFld x 8 1, fmtOfByte (byteFld x 9 1), fmtOfByte (byteFld x 10 1), byteFld x 11 1, byteFld x 12 4,
    f 16, f 20, f 24, f 28, f 32, f 36, byteFld x 40 8, byteFld x 48 8, byteFld x 56 8, byteFld x 64 8, byteFld x 72 8,
    byteFld x 80 8, byteFld x 88 8, byteFld x 96 32⟩

def hNoclip (h : Hdr) : Bool := h.flags.testBit 0
def hFrozenEn (h : Hdr) : Bool := h.flags.testBit 1
def hSrMom (h : Hdr) : Bool := h.flags.testBit 2
def hKron (h : Hdr) : Bool := h.rule == 1

/-- 0 <= beta < 1. -/
def betaOk (b : W32) : Bool := !f32IsNaN b && !f32Lt b 0 && f32Lt b f32One

/-- Bytes of n elements of G or W. -/
def arrBytes (f : Fmt) (n : Nat) : Nat := n * fmtBits f / 8

/-- The scalar fields of a header pass R169. -/
def hdrFieldsOk (h : Hdr) : Bool :=
  decide (h.t ≤ 2 ^ 64 - 2) && decide (h.rule ≤ 1) &&
    (h.gfmt == .hf8m || h.gfmt == .hf8r || h.gfmt == .hf16 || h.gfmt == .b32) && (h.wfmt == .hf16 || h.wfmt == .b32) &&
    decide (h.flags < 8) && decide (1 ≤ h.nb) && decide (h.nb ≤ 16777216) && f32IsScale h.sg && f32IsNonneg h.lr &&
    f32IsNonneg h.wd && betaOk h.b1 && betaOk h.b2 &&
    (if hKron h then h.b2 == 0 && h.eps == 0 else f32IsScale h.eps) && h.tail == 0

/-- An address field: bits [63:40] zero, a multiple of 64, its array on S_k (R166, R169). -/
def hdrArrOk (s : State) (a n k : Nat) : Bool := decide (a < 2 ^ 40) && a % 64 == 0 && onStack s a n k

/-- A header passes R166 and R169. -/
def hdrOk (s : State) (k : Nat) (h : Hdr) : Bool :=
  hdrFieldsOk h && hdrArrOk s h.g (arrBytes h.gfmt (64 * h.nb)) k && hdrArrOk s h.w (arrBytes h.wfmt (64 * h.nb)) k &&
    hdrArrOk s h.m (64 * h.nb) k && hdrArrOk s h.ms (4 * h.nb) k &&
    (if hKron h then h.v == 0 && h.vs == 0
     else hdrArrOk s h.v (64 * h.nb) k && hdrArrOk s h.vs (4 * h.nb) k) &&
    (if hFrozenEn h then hdrArrOk s h.frozen ((h.nb + 7) / 8) k else h.frozen == 0)

/-- A block's bit of the frozen mask (R168). -/
def frozenBit (s : State) (h : Hdr) (b : Nat) : Bool := hFrozenEn h && bit (memByte s (h.frozen + b / 8)) (b % 8)
/-- The mask word of a block is poisoned. -/
def frozenPsn (s : State) (h : Hdr) (b : Nat) : Bool := hFrozenEn h && wordPsn s (h.frozen + b / 8)

/-- Bytes of the mask (R183: F). -/
def maskBytes (h : Hdr) : Nat := if hFrozenEn h then (h.nb + 7) / 8 else 0

/-! ### Pass 1 (R174) -/

/-- What pass 1 of a chiplet has gathered. -/
structure P1 where
  s : State
  acc : SMap W64
  tmin : Nat
  tmax : Nat
  flags : Nat
  fgroup : Nat
  groups : List (Nat × Nat)

/-- A fault of a group in pass 1: its flag of R175, UPD_ERR, and the first faulty group. -/
def p1Bad (k bit flag j addr : Nat) (x : P1) : P1 :=
  { x with s := raiseU x.s k bit j addr, flags := x.flags ||| flag,
           fgroup := if x.fgroup = 0xFFFF then j else x.fgroup }

/-- Element i of G (R174). -/
def p1Elem (h : Hdr) (x : P1) (i : Nat) : P1 :=
  let c := elemAt x.s h.gfmt h.g i
  if !fvIsFinite (fmtVal h.gfmt c) then { x with flags := x.flags ||| 8 }
  else if hNoclip h then x
  else
    let g := f32v (f32Mul (widen h.gfmt c) h.sg)
    let l := i % 1024
    { x with acc := smMod 0 x.acc l fun a => f64r (fvAdd (f64v a) (fvMul g g)) }

/-- 64 B units that pass 1 reads: P1_BYTES, and RD_BURSTS of the stack through the private port (R397). -/
def p1Count (s : State) (k n : Nat) : State := count (count s (cUpd k 0) n) (cMem k 0) n

/-- Block b of G, when it is not frozen. A mask word that is poisoned tells nothing, and its blocks are not read. -/
def p1Block (k j : Nat) (h : Hdr) (x : P1) (b : Nat) : P1 :=
  let n := arrBytes h.gfmt 64
  let a := h.g + b * n
  if frozenPsn x.s h b then p1Bad k 2 32 j (h.frozen + b / 8) x
  else if frozenBit x.s h b then { x with s := count x.s (cUpd k 2) 1 }
  else
    let x1 := { x with s := p1Count (dropLines x.s a n) k (n / 64) }
    if anyPsn x1.s a n then p1Bad k 2 32 j a x1
    else ((List.range 64).map fun e => 64 * b + e).foldl (p1Elem h) x1

/-- A group of the table (R172, R174). -/
def p1Group (k gtab : Nat) (x : P1) (j : Nat) : P1 :=
  let e := gtab + 8 * j
  if gtab % 8 != 0 || !onStack x.s e 8 k then p1Bad k 3 16 j e x
  else if wordPsn x.s e then p1Bad k 2 32 j e x
  else
    let x := { x with s := dropLines x.s e 8 }
    let a := readNat x.s e 8
    if decide (2 ^ 40 ≤ a) || a % 64 != 0 || !onStack x.s a 128 k then p1Bad k 3 16 j a x
    else
      let x1 := { x with s := p1Count (dropLines x.s a 128) k 2 }
      if anyPsn x1.s a 128 then p1Bad k 2 32 j a x1
      else
        let h := hdrOf (readNat x1.s a 128)
        if !hdrOk x1.s k h then p1Bad k 3 16 j a x1
        else
          let x2 := { x1 with s := p1Count (dropLines x1.s h.frozen (maskBytes h)) k ((maskBytes h + 63) / 64), tmin := min x1.tmin h.t,
                              tmax := max x1.tmax h.t, groups := x1.groups ++ [(j, a)] }
          (List.range h.nb).foldl (p1Block k j h) x2

/-- One level of the tree over binary64: neighbours combined (R90, R174). -/
def pair64 : List W64 → List W64
  | a :: b :: t => f64Add a b :: pair64 t
  | l => l

/-- The tree of 10 levels over 1,024 lanes. -/
def tree64 : Nat → List W64 → W64
  | 0, l => l.headD 0
  | n + 1, l => tree64 n (pair64 l)

/-- Pass 1 of U_k over the plan p: its record and groups (R172, R174, R175). -/
def pass1 (p : Nat) (s : State) (k : Nat) : State :=
  let gtab := plGtab p k
  let n := plNgrp p k
  let x0 : P1 := ⟨s, [], 2 ^ 64 - 1, 0, 0, 0xFFFF, []⟩
  let x :=
    if decide (2 ^ 40 ≤ gtab) || decide (65535 < n) then x0
    else (List.range n).foldl (p1Group k gtab) x0
  let sum := tree64 10 ((List.range 1024).map fun l => smGet 0 x.acc l)
  setChip x.s k ⟨1, ⟨sum, x.tmin, x.tmax, 1, x.flags + (if plNormOnly p then 64 else 0), plTag p⟩, x.fgroup, x.groups,
    0, 0, 0, false⟩

/-! ### Results (R182) -/

/-- The completion status of R234 for a CODE of R182. -/
def codeStatus (c : Nat) : Nat :=
  match c with
  | 0 => 0x00 | 1 => 0x00 | 2 => 0x11 | 3 => 0x12 | 4 => 0x13 | 5 => 0x10 | 6 => 0x14 | 7 => 0x15 | 8 => 0x16
  | 9 => 0x0B | _ => 0x17

/-- The CODE of a chiplet; a poisoned word that pass 2 met came before the cut (R236). -/
def chipCode (s : State) (c : UpdCur) (k : Nat) : Nat :=
  match c.code with
  | some 0 => if (updChip s k).poisoned then 10 else 0
  | some 9 => if (updChip s k).poisoned then 10 else 9
  | some n => n
  | none => 0

/-- RESULT_k of R182. -/
def resultWord (s : State) (c : UpdCur) (k : Nat) : Nat :=
  let u := updChip s k
  min u.nonfin 0xFFFFFFFF * 2 ^ 32 + u.fgroup * 65536 + ((c.final.map (·.flags)).getD 0) % 256 * 256 + chipCode s c k

/-- Address of the plan that the descriptor names. -/
def planAddr (a : Adm) : Nat := blk a.raw 48 8 % 2 ^ 40

/-- The next UPDATE comes to hand (R173). -/
def updNext (s : State) : State :=
  match s.upd.cur, s.upd.queue with
  | none, id :: t => modUpd s fun u => { u with cur := some ⟨id, 0, [], 0, false, updRec0, false, none, none, f32One, false, false⟩, queue := t }
  | _, _ => s

/-- The first CODE that is neither APPLIED nor NORM_ONLY, with its chiplet (R182, R235); what pass 2 met before a cut
stands before the cut (R236). -/
def firstCode (s : State) (c : UpdCur) : Option (Nat × Nat) :=
  let l := c.ks.map fun k => (k, chipCode s c k)
  (l.find? fun p => p.2 == 10 && c.code == some 9) <|> l.find? fun p => decide (1 < p.2)

/-- The end of the UPDATE in hand (R182): results, DONE_SQ, completion, counters; then the next one's turn. `read` says
that the plan was read. -/
def updEnd (s : State) (read : Bool) : State :=
  match s.upd.cur with
  | none => s
  | some c =>
    let pa := match admOf s c.id with
      | some a => planAddr a
      | none => 0
    let s1 := if read then c.ks.foldl (fun t k =>
      touch (writeNat t (pa + 48 + 24 * k) 8 (resultWord s c k)) clUpd (pa + 48 + 24 * k) 8 true) s else s
    let s2 := if read && !wordPsn s (pa + 16) then sqAdd s1 (plDoneSq c.plan) 1 else s1
    let s3 := match firstCode s c with
      | some (k, n) => admEnd s2 c.id (codeStatus n) (k * 256 + n)
      | none =>
        let n := c.code.getD 0
        admEnd s2 c.id (codeStatus n) (if n ≤ 1 then 0 else n)
    let s4 := c.ks.foldl (fun t k => count t (cUpd k (if chipCode s c k = 0 then 6 else 7)) 1) s3
    updNext (modUpd s4 fun u => { u with cur := none, chips := [] })

/-! ### The chain (R175 to R178) -/

/-- The merge of R175, a on the left. -/
def recMerge (a b : UpdRec) : UpdRec :=
  ⟨f64Add a.sumsq b.sumsq, min a.tmin b.tmin, max a.tmax b.tmax, (a.nrec + b.nrec) % 2 ^ 32, a.flags ||| b.flags, a.tag⟩

/-- A record as the last four words of a SEQREC cell (R175, R261). -/
def recWords (r : UpdRec) : List Nat :=
  [r.sumsq.toNat, r.tmin, r.tmax, r.nrec + r.flags % 128 * 2 ^ 32 + r.tag * 2 ^ 48]

def recOfWords (ws : List CWord) : UpdRec :=
  let w := fun i => ((ws[4 + i]?).getD ⟨0, false⟩).v.toNat
  ⟨BitVec.ofNat 64 (w 0), w 1, w 2, w 3 % 2 ^ 32, w 3 / 2 ^ 32 % 128, w 3 / 2 ^ 48⟩

/-- A SEQREC control cell (R261). -/
def recCell (r : UpdRec) : List CWord :=
  (⟨3#64, false⟩ : CWord) :: List.replicate 3 ⟨0, false⟩ ++ (recWords r).map fun w => ⟨BitVec.ofNat 64 w, false⟩

/-- The decision of R177 from the final record. -/
def decideCode (p : Nat) (r : UpdRec) : Nat :=
  if r.tag ≠ plTag p ∨ r.nrec ≠ plExpect p then 6
  else if r.flags.testBit 4 then 4
  else if r.flags.testBit 5 then 5
  else if r.tmin < r.tmax then 3
  else if r.flags % 16 ≠ 0 then 2
  else if r.flags.testBit 6 then 1
  else 0

/-- The clip of R179. -/
def clipOf (p : Nat) (r : UpdRec) : W32 :=
  if !plClipEn p then f32One
  else
    let norm := f64Sqrt r.sumsq
    let mx := f32v (plMaxNorm p)
    if !fvLt mx (f64v norm) then f32One else f32DivV mx (f64v norm)

/-- Every chip decides from the final record (R176 step 4, R177). -/
def updDecide (s : State) (r : UpdRec) : State :=
  match s.upd.cur with
  | none => s
  | some c =>
    let code := if c.tagBad then 6 else decideCode c.plan r
    let clip := clipOf c.plan r
    let s1 := c.ks.foldl (fun t k => setReg t (aUpdP1Sumsq k) r.sumsq) s
    let s2 := if code = 0 then c.ks.foldl (fun t k => setReg t (aUpdP1Clip k) (BitVec.ofNat 64 clip.toNat)) s1 else s1
    modCur s2 fun x => { x with final := some r, code := some code, clip := clip, phase := if code = 0 then 3 else 4 }

/-- The sum of the chain from the chip before meets this chip's record, or the final record comes back (R176). -/
def updArrive (s : State) (c : UpdCur) (r : UpdRec) : State :=
  if 0 < plPos c.plan ∧ !c.got then
    let m := recMerge r c.own
    let s1 := modCur s fun x => { x with got := true, tagBad := x.tagBad || r.tag != c.own.tag }
    if plPos c.plan < plNcm1 c.plan then circSend s1 (plOut c.plan) ownNone [recCell m]
    else updDecide (circSend s1 (plBcast c.plan) ownNone [recCell m]) m
  else updDecide s r

/-- A TAG that the sequencer has not yet reached: that of another UPDATE of the running beat that has not ended (R178). A
record with any other TAG is the one that the chain brings, and its merge sets CHAIN_FAULT (R175; log entry 84). -/
def tagAhead (s : State) (id tag : Nat) : Bool :=
  s.disp.adms.any fun a =>
    blk a.raw 0 1 == 4 && a.beat == beatNum s && a.status.isNone && a.id != id && readNat s (planAddr a + 6) 2 == tag

/-- This chip's record is ready (R176 steps 1 to 3): merged in ascending k, with the health flags sampled. -/
def updReady (s : State) : State :=
  match s.upd.cur with
  | none => s
  | some c =>
    let tag := plTag c.plan
    let base : UpdRec := { updRec0 with flags := (if plNormOnly c.plan then 64 else 0), tag := tag }
    let m := match c.ks.map fun k => (updChip s k).record with
      | [] => base
      | x :: t => t.foldl recMerge x
    let own := { m with flags := m.flags ||| fld s aMgtLwStatus 2 0 ||| (if c.planBad then 16 else 0) }
    let s1 := modCur s fun x => { x with phase := 2, own := own }
    let c1 := { c with own := own }
    if plNcm1 c.plan = 0 then updDecide s1 own
    else if plPos c.plan = 0 then circSend s1 (plOut c.plan) ownNone [recCell own]
    else match (s.upd.inbox.find? fun r => r.tag == tag) <|> s.upd.inbox.find? fun r => !tagAhead s c.id r.tag with
      | none => s1
      | some r =>
        let s2 := modUpd s1 fun u => { u with inbox := u.inbox.filter fun x => x != r }
        updArrive (setFld s2 aUpdSeqStatus 17 16 s2.upd.inbox.length) c1 r

/-- A record arrives from a circuit (R176, R178): for the UPDATE in hand, or early. -/
def recIn (s : State) (r : UpdRec) : State :=
  let early :=
    if s.upd.inbox.length < 2 then
      let s1 := modUpd s fun u => { u with inbox := u.inbox ++ [r] }
      setFld s1 aUpdSeqStatus 17 16 s1.upd.inbox.length
    else addFld s aUpdSeqStatus 63 32 1
  match s.upd.cur with
  | none => early
  | some c =>
    if c.phase = 2 ∧ (r.tag = plTag c.plan ∨ !tagAhead s c.id r.tag) ∧
        ((0 < plPos c.plan ∧ !c.got) ∨ plPos c.plan < plNcm1 c.plan) then updArrive s c r
    else early

/-! ### Start (R171, R172) -/

/-- The wait of an UPDATE is over (R171): no wait, or the count meets WCOND; a poisoned square never does (R421). -/
def updWaitOver (s : State) (a : Adm) : Bool :=
  let wc := blk a.raw 58 1
  wc == 0 || (!(square s (blk a.raw 56 2)).psn &&
    condHolds wc (square s (blk a.raw 56 2)).count.toNat (blk a.raw 60 4))

/-- Words that do not decode, on first and second read: they read as poison from then on (R381). -/
def loseWords (s : State) (ue : List (BitVec 40)) : State := ue.foldl (fun t a => poisonWord t (a.toNat / 8)) s

/-- The chiplets that take part report a plan that fails its check (R172; UPD_ERR.HDR). -/
def planErr (s : State) (ks : List Nat) (pa : Nat) : State := ks.foldl (fun t k => raiseU t k 3 0xFFFF pa) s

/-- PASS1_START (R171, R172, R174); the read of the plan may wait at its slice (log entry 89). -/
def doPass1Start (s0 : State) (ue : List (BitVec 40)) : State :=
  match s0.upd.cur with
  | none => s0
  | some c =>
    match admOf s0 c.id with
    | none => s0
    | some a =>
      if c.phase ≠ 0 ∨ !updWaitOver s0 a ∨ sliceWaits s0 (planAddr a) 224 false then s0
      else
        let pa := planAddr a
        let s := touch (loseWords s0 ue) clUpd pa 224 false
        let p := readNat s pa 224
        let ks := if wordPsn s pa then [] else plKs s p
        let s1 := setFld (modCur s fun x => { x with plan := p, ks := ks }) aUpdSeqStatus 15 0 (plTag p)
        if anyPsn s pa 224 || plChainBad s p then
          planErr (modCur s1 fun x => { x with phase := 4, code := some 8 }) (if anyPsn s pa 224 then [] else ks) pa
        else
          let s2 := ks.foldl (pass1 p) (planErr (modCur s1 fun x => { x with phase := 1, planBad := plBad s p })
            (if plBad s p then ks else []) pa)
          if ks.isEmpty then updReady s2 else s2

/-- PASS1_END (R176). -/
def doPass1End (s : State) (k : Nat) : State :=
  match s.upd.cur with
  | none => s
  | some c =>
    if c.phase ≠ 1 ∨ !c.ks.contains k ∨ (updChip s k).phase ≠ 1 then s
    else
      let s1 := setChip s k { updChip s k with phase := 2 }
      if c.ks.all fun j => (updChip s1 j).phase == 2 then updReady s1 else s1

/-! ### Pass 2 (R179 to R181, R185) -/

/-- pow64 of R179. -/
def pow64 (b : W64) (n : Nat) : W64 :=
  ((List.range (Nat.log2 n + 1)).reverse).foldl (fun r i =>
    let r2 := f64Mul r r
    if n.testBit i then f64Mul r2 b else r2) 0x3FF0000000000000#64

/-- rbc of R179: f32 (1 / f64 (1 - beta^t1)). -/
def rbcOf (b : W32) (t1 : Nat) : W32 := f32DivV (.fin false 1 0) (f64v (f64OneMinus (pow64 (f64Of32 b) t1)))

/-- The values of R179 that a group uses. -/
structure Coef where
  clip : W32
  rbc1 : W32
  rbc2 : W32
  ob1 : W32
  ob2 : W32

def coefOf (clip : W32) (h : Hdr) : Coef :=
  ⟨if hNoclip h then f32One else clip, rbcOf h.b1 (h.t + 1), rbcOf h.b2 (h.t + 1), f32Sub f32One h.b1, f32Sub f32One h.b2⟩

/-- The scale exponent of blockscale (R180): the smallest t with a <= fmax * 2^t, kept within -126 to 127. -/
def scaleExp (m : Nat) (e : Int) (fmax : Nat) : Int :=
  let t0 : Int := (Nat.log2 m : Int) + e - (Nat.log2 fmax : Int)
  let ok := fun t : Int => !fvLt (.fin false fmax t) (.fin false m e)
  let t := if ok (t0 - 1) then t0 - 1 else if ok t0 then t0 else t0 + 1
  max (-126) (min t 127)

/-- blockscale of R180, as an exponent of two. -/
def blockScale (xs : List W32) (fmax : Nat) : Int :=
  match f32v ((xs.filter f32IsFinite).foldl (fun a x => f32Max a (f32Abs x)) 0) with
  | .fin _ m e => if m = 0 then 0 else scaleExp m e fmax
  | _ => 0

/-- binary32 2^t. -/
def f32Pow2 (t : Int) : W32 := BitVec.ofNat 32 ((t + 127).toNat <<< 23)

/-- An exact quotient by a power of two. -/
def fvDivPow2 (v : FVal) (t : Int) : FVal :=
  match v with
  | .fin n m e => .fin n m (e - t)
  | v => v

/-- An element before and after the arithmetic of R180 or R185: the new moments, and the value that W takes. -/
structure Elem2 where
  mn : W32
  vn : W32
  w : FVal

/-- The element arithmetic of R180, with R185's lines for KRON. -/
def elem2 (h : Hdr) (c : Coef) (g w m0 v0 : W32) : Elem2 :=
  let gp := f32Mul (f32Mul g h.sg) c.clip
  let m := f32Fma h.b1 m0 (f32Mul c.ob1 gp)
  let mh := f32Mul m c.rbc1
  let v := f32Fma h.b2 v0 (f32Mul c.ob2 (f32Mul gp gp))
  let den := f32Add (f32Sqrt (f32Mul v c.rbc2)) h.eps
  let upd := f32Add (if hKron h then mh else f32Div mh den) (f32Mul h.wd w)
  ⟨m, v, fvAdd (f32v w) (fvNeg (f32v (f32Mul h.lr upd)))⟩

/-- A code by sr or rne, with its counts; u of R103 from lane `64 * (b mod 16) + e`. -/
def roundMom (s : State) (k b e d : Nat) (sr novf : Bool) (f : Fmt) (x : FVal) : Nat × Cnt :=
  if sr then
    mxSr (mxOf f) novf (rngU s (65536 + 1024 * k + 64 * (b % 16) + e) (s.free + 3 * e + d) 0) x
  else convV f novf x

/-- The stored arrays of a block that pass 2 reads: address and bytes. -/
def blockSpans (h : Hdr) (b : Nat) : List (Nat × Nat) :=
  [(h.g + b * arrBytes h.gfmt 64, arrBytes h.gfmt 64), (h.w + b * arrBytes h.wfmt 64, arrBytes h.wfmt 64), (h.m + 64 * b, 64),
   (h.ms + 4 * b, 4)] ++ (if hKron h then [] else [(h.v + 64 * b, 64), (h.vs + 4 * b, 4)])

/-- Codes packed at their width from address a. -/
def putCodes (s : State) (f : Fmt) (a : Nat) (cs : List Nat) : State :=
  writeBytes s a (cs.flatMap fun c => leBytes (fmtBits f / 8) c)

/-- The code and counts of a new weight (R180): binary32 by one rounding, Hf16 by sr. -/
def newW (s : State) (k b e : Nat) (novf : Bool) (h : Hdr) (x : FVal) : Nat × Cnt :=
  if h.wfmt == .b32 then (ieeeOf fmtB32 x, {}) else roundMom s k b e 0 true novf .hf16 x

/-- A weight code is non-finite. -/
def wNonfin (f : Fmt) (c : Nat) : Bool := !fvIsFinite (fmtVal f c)

/-- Pass 2 of block b of a group (R180, R181). -/
def p2Write (s : State) (k j b : Nat) (novf : Bool) (h : Hdr) (c : Coef) : State :=
  let g := fun e => elem32 s h.gfmt h.g (64 * b + e)
  let w := fun e => elem32 s h.wfmt h.w (64 * b + e)
  let ms := BitVec.ofNat 32 (readNat s (h.ms + 4 * b) 4)
  let vs := BitVec.ofNat 32 (readNat s (h.vs + 4 * b) 4)
  let m0 := fun e => f32Mul (elem32 s .hf8r h.m (64 * b + e)) ms
  let v0 := fun e => f32Mul (elem32 s .hu8 h.v (64 * b + e)) vs
  let es := (List.range 64).map fun e => elem2 h c (g e) (w e) (m0 e) (v0 e)
  let tm := blockScale (es.map (·.mn)) 57344
  let tv := blockScale (es.map (·.vn)) 3584
  let ws := es.zipIdx.map fun p => newW s k b p.2 novf h p.1.w
  let mc := es.zipIdx.map fun p => roundMom s k b p.2 1 (hSrMom h) novf .hf8r (fvDivPow2 (f32v p.1.mn) tm)
  let vc := es.zipIdx.map fun p => roundMom s k b p.2 2 (hSrMom h) novf .hu8 (fvDivPow2 (f32v p.1.vn) tv)
  let s1 := writeNat (putCodes s .hf8r (h.m + 64 * b) (mc.map (·.1))) (h.ms + 4 * b) 4 (f32Pow2 tm).toNat
  let s2 := if hKron h then s1
    else writeNat (putCodes s1 .hu8 (h.v + 64 * b) (vc.map (·.1))) (h.vs + 4 * b) 4 (f32Pow2 tv).toNat
  let s3 := putCodes s2 h.wfmt (h.w + b * arrBytes h.wfmt 64) (ws.map (·.1))
  let cs := ((ws ++ mc ++ (if hKron h then [] else vc)).map (·.2)).foldl cntAdd {}
  let nf := (ws.filter fun p => wNonfin h.wfmt p.1).length
  let s4 := count (count { s3 with free := s3.free + 192 } (cUpd k 3) cs.sat) (cUpd k 4) cs.flush
  let s5 := if nf = 0 then s4 else count (raiseU s4 k 5 j h.w) (cUpd k 5) nf
  setChip s5 k { updChip s5 k with nonfin := (updChip s5 k).nonfin + nf, live := (updChip s5 k).live + 1 }

/-- A poisoned word met in pass 2 (R181): UPD_ERR.UE, POISONED_P2. -/
def p2Poison (s : State) (k j addr : Nat) : State :=
  let s1 := raiseU s k 2 j addr
  setChip s1 k { updChip s1 k with poisoned := true,
                                   fgroup := if (updChip s1 k).fgroup = 0xFFFF then j else (updChip s1 k).fgroup }

/-- Block b of a group: frozen blocks are neither read nor written; a poisoned word leaves the block unwritten. -/
def p2Block (s : State) (k j b : Nat) (novf : Bool) (clip : W32) (h : Hdr) : State :=
  if frozenPsn s h b then p2Poison s k j (h.frozen + b / 8)
  else if frozenBit s h b then count s (cUpd k 2) 1
  else
    let s1 := (blockSpans h b).foldl (fun t p => dropLines t p.1 p.2) s
    match (blockSpans h b).find? fun p => anyPsn s1 p.1 p.2 with
    | some p => p2Poison s1 k j p.1
    | none => p2Write s1 k j b novf h (coefOf clip h)

/-- Bytes of a group in pass 2 (R183: B2). -/
def groupBytes (h : Hdr) (live : Nat) : Nat :=
  256 + maskBytes h + 64 * live * (fmtBits h.gfmt / 8 + 2 * (fmtBits h.wfmt / 8)) + (if hKron h then 136 else 272) * live

/-- Of these, the bytes that it writes: the header, the weights and the moments with their scales. -/
def groupWrites (h : Hdr) (live : Nat) : Nat :=
  128 + 64 * live * (fmtBits h.wfmt / 8) + (if hKron h then 68 else 136) * live

/-- The last block of a group is done: T is written as t + 1 (R180), and the next group's turn comes. -/
def p2GroupEnd (s : State) (k a : Nat) (h : Hdr) : State :=
  let u := updChip s k
  let s0 := count (dropLines (writeNat s a 8 (h.t + 1)) a 8) (cUpd k 1) ((groupBytes h u.live + 63) / 64)
  let w := groupWrites h u.live
  let s1 := count (count s0 (cMem k 0) ((groupBytes h u.live - w + 63) / 64)) (cMem k 1) ((w + 63) / 64)
  setChip s1 k { u with groups := u.groups.drop 1, block := 0, live := 0 }

/-- Pass 2 over as many blocks as `fuel` says; with no group left it is done. -/
def p2Run (k : Nat) (novf : Bool) (clip : W32) : Nat → State → State
  | 0, s => if (updChip s k).groups.isEmpty then setChip s k { updChip s k with phase := 4 } else s
  | f + 1, s =>
    match (updChip s k).groups with
    | [] => setChip s k { updChip s k with phase := 4 }
    | (j, a) :: t =>
      if anyPsn s a 128 then
        let s1 := p2Poison s k j a
        p2Run k novf clip f (setChip s1 k { updChip s1 k with groups := t, block := 0, live := 0 })
      else
        let h := hdrOf (readNat s a 128)
        let b := (updChip s k).block
        let s0 := if b = 0 then dropLines (dropLines s a 128) h.frozen (maskBytes h) else s
        let s1 := p2Block s0 k j b novf clip h
        let s2 := setChip s1 k { updChip s1 k with block := b + 1 }
        p2Run k novf clip f (if b + 1 < h.nb then s2 else p2GroupEnd s2 k a h)

/-- NAN_ON_OVF of the UPDATE in hand (R171). -/
def updNovf (s : State) (c : UpdCur) : Bool :=
  match admOf s c.id with
  | some a => (blk a.raw 59 1).testBit 0
  | none => false

/-- PASS2_START (R180): U_k runs pass 2, or goes on with it, over at most `blocks` blocks. -/
def doPass2Start (s : State) (k blocks : Nat) (ue : List (BitVec 40)) : State :=
  match s.upd.cur with
  | none => s
  | some c =>
    if c.phase ≠ 3 ∨ !c.ks.contains k ∨ (updChip s k).phase = 4 then s
    else
      let s1 := modCur (loseWords s ue) fun x => { x with ue := x.ue || !ue.isEmpty }
      p2Run k (updNovf s c) c.clip blocks (setChip s1 k { updChip s1 k with phase := 3 })

/-- Every chiplet has finished, or pass 2 does not run. -/
def updDone (s : State) (c : UpdCur) : Bool :=
  c.phase == 4 || (c.phase == 3 && c.ks.all fun k => (updChip s k).phase == 4)

/-! ### The cut (R184) -/

/-- The header word T of every group that has started or waits is written poisoned. -/
def spoilGroups (s : State) (k : Nat) : State :=
  ((updChip s k).groups).foldl (fun t g => dropLines (poisonWord t (g.2 / 8)) g.2 8) s

/-- The cut of the UPDATE in hand (R184): one that has decided against pass 2, or has finished it, ends as it is; one in
pass 1 or in the chain writes nothing. -/
def cutCur (s : State) : State :=
  match s.upd.cur with
  | none => s
  | some c =>
    if updDone s c then updEnd s true
    else
      let s1 := if c.phase = 3 then c.ks.foldl spoilGroups s else s
      updEnd (modCur s1 fun x => { x with code := some 9 }) (c.phase == 3)

/-- The cut of the update sequencer: UPDATEs that have not had their turn end OVERRUN (R249). -/
def cutUpdate (s : State) : State :=
  let s1 := s.upd.queue.foldl (fun t id => admEnd t id 0x0B 9) s
  cutCur (modUpd s1 fun u => { u with queue := [] })

/-! ### The commands -/

/-- The first admitted descriptor of a type in the running beat that has not started. -/
def firstAdm (s : State) (typ : Nat) (p : Adm → Bool) : Option Adm :=
  s.disp.adms.find? fun a => blk a.raw 0 1 == typ && a.beat == beatNum s && !a.started && a.status.isNone && p a

/-- An UPDATE starts in its beat: its wait begins (R171, R173). -/
def updStart (s : State) (a : Adm) : State :=
  updNext (modUpd (modAdm s a.id fun x => { x with started := true }) fun u => { u with queue := u.queue ++ [a.id] })

/-- UPDATE (R171). -/
def execUpdate (s : State) : Out :=
  .next (match firstAdm s 4 (fun _ => !s.disp.cut) with
    | some a => updStart s a
    | none => s)
/-- PASS1_START (R174). -/
def execPass1Start (ue : List (BitVec 40)) (s : State) : Out := .next (doPass1Start s ue)
/-- PASS1_END (R176). -/
def execPass1End (k : Fin 8) (s : State) : Out := .next (doPass1End s k)
/-- A SEQREC control cell (R176, R261): a record with a poisoned word tells nothing, and is discarded (R379). -/
def doSeqrec (s : State) (n : Nat) (cell : List CWord) : State :=
  let r := sinkCtl s n cell 3
  if !r.2 then r.1
  else
    let s1 := sinkFree (modSink r.1 n fun k => { k with skip := false }) n 1
    if cell.any (·.psn) then s1 else recIn s1 (recOfWords cell)

/-- SEQREC (R176). -/
def execSeqrec (n : Fin 1024) (cell : List CWord) (s : State) : Out :=
  if WF.cell cell then .next (doSeqrec s n cell) else .fault .illFormed
/-- PASS2_START (R180). -/
def execPass2Start (k : Fin 8) (blocks : Nat) (ue : List (BitVec 40)) (s : State) : Out :=
  .next (doPass2Start s k blocks ue)

end Sys2Proof.Machine
end

