-- ==== Sys2Proof/Machine/Rings.lean ====
section
/-! DEFINITION. Submission and completion rings, descriptors and admission (09, R216-R236, R243-R247): SQ_DOORBELL,
CQ_DOORBELL, SQ_BASE_WRITE, SQ_CFG_WRITE, CQ_ENABLE, CQ_DISABLE, DESCRIPTOR_FETCH. -/

namespace Sys2Proof.Machine

/-! ### Rings (R216, R218, R222, R223) -/

def sqEn (s : State) (n : Nat) : Bool := fld s (aHstSqCfg n) 31 31 == 1
def sqSize (s : State) (n : Nat) : Nat := 2 ^ fld s (aHstSqCfg n) 4 0
def sqCq (s : State) (n : Nat) : Nat := fld s (aHstSqCfg n) 21 16
def cqEn (s : State) (n : Nat) : Bool := fld s (aHstCqCfg n) 31 31 == 1
def cqSize (s : State) (n : Nat) : Nat := 2 ^ fld s (aHstCqCfg n) 4 0

/-- Slots of a completion ring that fetched descriptors have reserved. -/
def cqReserved (s : State) (n : Nat) : Nat := (s.disp.adms.filter fun a => a.cq == n).length

/-- A completion ring has a free slot that nothing has reserved (R218). -/
def cqHasRoom (s : State) (n : Nat) : Bool :=
  let p := reg s (aHstCqPtr n)
  decide ((bits p 31 16 + cqSize s n - bits p 15 0) % cqSize s n + cqReserved s n < cqSize s n - 1)

/-- A submission ring is idle (HST_SQn registers): EN is 0 and none of its descriptors awaits a completion. -/
def sqIdle (s : State) (n : Nat) : Bool := !sqEn s n && !(s.disp.adms.any fun a => a.ring == n)

/-- A completion entry (R233). -/
def cqEntry (time beat detail status phase sq idx : Nat) : Nat :=
  time % 2 ^ 32 * 2 ^ 96 + beat % 2 ^ 32 * 2 ^ 64 + detail % 2 ^ 32 * 2 ^ 32 + status * 2 ^ 24 + phase * 2 ^ 23 + sq * 2 ^ 16 + idx

/-- A completion written at TAIL, which advances; PHASE inverts where it wraps (R223). -/
def cqPut (s : State) (cq time beat detail status sq idx : Nat) : State :=
  let p := reg s (aHstCqPtr cq)
  let tail := bits p 31 16
  let phase := bits p 32 32
  let a := fld s (aHstCqBase cq) 63 12 * 4096 + 16 * tail
  let s1 := hostWrite s a 16 (BitVec.ofNat 512 (cqEntry time beat detail status phase sq idx)) false false
  let next := (tail + 1) % cqSize s cq
  let s2 := setFld s1 (aHstCqPtr cq) 31 16 next
  count (if next = 0 then setFld s2 (aHstCqPtr cq) 32 32 (1 - phase) else s2) 1408 1

/-- The vectors of the rings of a batch are raised, each once, after its last write (R224). -/
def raiseBatch (s : State) (cqs : List Nat) : State :=
  ((List.range 256).filter fun v => cqs.any fun c => fld s (aHstCqCfg c) 23 16 == v).foldl msixRaise s

/-! ### Doorbells (R217) -/

/-- A write to BAR2: a legal doorbell, or one that is ignored and flagged. -/
def bar2Write (s : State) (off bytes : Nat) (v : W64) : State :=
  let n := off / 4096
  let p := off % 4096
  if 64 ≤ n then raise s .hst 0 off
  else if bytes ≠ 4 ∨ bits v 31 16 ≠ 0 then raise s .hstQ 3 0
  else if p = 0 ∧ bits v 15 0 < sqSize s n then setFld s (aHstSqPtr n) 15 0 (bits v 15 0)
  else if p = 8 ∧ bits v 15 0 < cqSize s n then setFld s (aHstCqPtr n) 15 0 (bits v 15 0)
  else raise s .hstQ 3 0

/-- A host write to BAR2, of 16 MiB (R341), under R340, R353 and R354. -/
def hostBar2 (s : State) (off bytes : Nat) (v : W64) : State :=
  if !barOpen s || decide (2 ^ 24 < off + bytes) then unsupportedWrite s else if !devReady s then s else bar2Write s off bytes v

/-! ### Ring registers (R220 to R222) -/

/-- A write of HST_SQn_BASE: accepted while the ring is idle, and then FETCH and TAIL become 0 (R221). -/
def sqBaseWrite (s : State) (n : Nat) (v : W64) : State :=
  let s1 := regPut s .hstQ (aHstSqBase n) [⟨63, 12, .rwi⟩] (sqIdle s n) true v
  if sqIdle s n then setReg s1 (aHstSqPtr n) 0 else s1

/-- A write of HST_SQn_CFG (R220, R221); an enabled ring that names a disabled completion ring sets CQ_OFF. -/
def sqCfgWrite (s : State) (n : Nat) (v : W64) : State :=
  let old := reg s (aHstSqCfg n)
  let s1 := regPut s .hstQ (aHstSqCfg n) [⟨31, 31, .rw⟩, ⟨21, 16, .rwi⟩, ⟨4, 0, .rwi⟩] (sqIdle s n)
    (decide (4 ≤ bits v 4 0) && decide (bits v 4 0 ≤ 16)) v
  let new := reg s1 (aHstSqCfg n)
  let s2 := if bits old 21 16 ≠ bits new 21 16 ∨ bits old 4 0 ≠ bits new 4 0 then setReg s1 (aHstSqPtr n) 0 else s1
  if bit new 31 && !cqEn s2 (bits new 21 16) then raise s2 .hstQ 1 0 else s2

/-- Something depends on a completion ring (R222). -/
def cqNeeded (s : State) (n : Nat) : Bool :=
  cqReserved s n != 0 || (List.range 64).any fun m => sqEn s m && sqCq s m == n

/-- A write of HST_CQn_CFG (R222). -/
def cqCfgWrite (s : State) (n : Nat) (v : W64) : State :=
  if cqEn s n && !bit v 31 && cqNeeded s n then rwiErr s .hstQ (aHstCqCfg n)
  else
    let s1 := regPut s .hstQ (aHstCqCfg n) [⟨31, 31, .rw⟩, ⟨23, 16, .rwi⟩, ⟨4, 0, .rwi⟩] (!cqEn s n)
      (decide (4 ≤ bits v 4 0) && decide (bits v 4 0 ≤ 16)) v
    if !cqEn s n && cqEn s1 n then setReg s1 (aHstCqPtr n) (BitVec.ofNat 64 (2 ^ 32)) else s1

/-! ### Descriptors: fields (R225 to R231, R171, R297, R324) -/

def dType (b : W512) : Nat := blk b 0 1
def dIrq (b : W512) : Bool := bit b 8
def dBeatReq (b : W512) : Nat := blk b 4 4
def dQmask (b : W512) : Nat := blk b 8 12
def dQtNs (b : W512) : Nat := blk b 20 4
def dSbytes (b : W512) (k : Nat) : Nat := blk b (24 + 2 * k) 2
def dStMib (b : W512) : Nat := blk b 40 2
def dAvMib (b : W512) : Nat := blk b 42 2
def dHostMib (b : W512) : Nat := blk b 44 2
/-- The quarters of QMASK. -/
def dQuarters (b : W512) : List Nat := (List.range 96).filter fun q => (dQmask b).testBit q
def cpHaddr (b : W512) : Nat := blk b 48 8
def cpDaddr (b : W512) : Nat := blk b 56 8 % 2 ^ 40
def cpUnits (b : W512) : Nat := blk b 56 8 / 2 ^ 40 % 2 ^ 22 + 1
def cpToHost (b : W512) : Bool := bit b 510
def sgSq (b : W512) : Nat := blk b 48 2
def sgAmount (b : W512) : Nat := blk b 50 2
def sgChip (b : W512) : Nat := blk b 52 2
def sgRemote (b : W512) : Bool := bit b 432
def sgSet (b : W512) : Bool := bit b 433
def sgValue (b : W512) : W32 := BitVec.ofNat 32 (blk b 56 4)
def fcOp (b : W512) : Nat := blk b 48 1
def fcFirst (b : W512) : Nat := blk b 52 2
def fcCount (b : W512) : Nat := blk b 54 2
def fcHaddr (b : W512) : Nat := blk b 56 8
def pjOp (b : W512) : Nat := blk b 48 1
def pjSlot (b : W512) : Nat := blk b 49 1
def pjCtl (b : W512) : Nat := blk b 50 1
def pjRm1 (b : W512) : Nat := blk b 51 1
def pjScale (b : W512) : W32 := BitVec.ofNat 32 (blk b 52 4)
def pjTable (b : W512) : Nat := blk b 56 8

/-- Status codes of R234 that admission gives. -/
def sIllegalType : Nat := 1
def sIllegalField : Nat := 2
def sAddrRange : Nat := 4
def sAlign : Nat := 5
def sOverBudget : Nat := 6
def sNoRoom : Nat := 7
def sBeatMissed : Nat := 8
def sNoJob : Nat := 9
def sFetchErr : Nat := 0x0A
def sOverrun : Nat := 0x0B
def sStopped : Nat := 0x0C
def sHostErr : Nat := 0x0F

/-- The table of a FABRIC_CFG write operation: its number of entries (R297). -/
def fcSize (op : Nat) : Nat :=
  match op with
  | 0 => 256
  | 1 => 1024
  | _ => 384

/-- The checks on the job state and OLD_OPEN of a FABRIC_CFG, made at admission and at its start (R297). -/
def fcStateStatus (s : State) (op : Nat) : Option Nat :=
  firstFail [
    (op == 3 && !inJob s, sNoJob),
    ((op == 1 || op == 2 || op == 4 || op == 5) && inJob s, sIllegalField),
    (op == 3 && fld s aFabRtCtl 2 2 == 1, sIllegalField)]

/-- The body checks of FABRIC_CFG (R297). -/
def fcStatus (s : State) (b : W512) : Option Nat :=
  let op := fcOp b
  firstFail [
    (decide (5 < op) || blk b 49 3 != 0, sIllegalField),
    (decide (3 ≤ op) && (fcFirst b != 0 || fcCount b != 0 || (op != 5 && fcHaddr b != 0)), sIllegalField),
    (decide (op < 3) && (decide (fcSize op ≤ fcFirst b) || fcCount b == 0 || decide (fcSize op < fcFirst b + fcCount b)),
      sIllegalField),
    (fcHaddr b % 64 != 0, sAlign)] <|> fcStateStatus s op

/-- The body checks of each type (R227 to R232, R171, R324). Bits [63:56] of UPDATE.PLAN and PROJECT.TABLE give ILLEGAL_FIELD
(log entry 71). -/
def bodyStatus (s : State) (b : W512) : Option Nat :=
  match dType b with
  | 1 => firstFail [
      (dQmask b == 0 || (List.range 96).any (fun q => (dQmask b).testBit q && !qtrPresent s q), sIllegalField),
      (decide (dQtNs b = 0) || decide (beatLen s < dQtNs b), sIllegalField)]
  | 2 => firstFail [
      (bit b 511, sIllegalField),
      (cpHaddr b % 64 != 0 || cpDaddr b % 64 != 0, sAlign),
      (!inMem s (cpDaddr b) (64 * cpUnits b), sAddrRange)]
  | 3 => firstFail [
      (blk b 54 1 / 4 != 0 || blk b 55 1 != 0 || blk b 60 4 != 0 || (sgRemote b && sgSet b), sIllegalField),
      (if sgSet b then sgAmount b != 0 else sgAmount b == 0 || sgValue b != 0, sIllegalField),
      (!sgRemote b && sgChip b != 0, sIllegalField)]
  | 4 => firstFail [
      (decide (2 ^ 40 ≤ blk b 48 8) || decide (6 < blk b 58 1) || blk b 59 1 / 2 != 0, sIllegalField),
      (blk b 48 8 % 64 != 0, sAlign),
      (!inStack (blk b 48 8) 224, sAddrRange)]
  | 5 => firstFail [
      (!prjPresent s || decide (2 < pjOp b) || decide (3 < pjSlot b), sIllegalField),
      (pjOp b == 1 && (pjCtl b != 0 || pjRm1 b != 0 || pjScale b != 0 || pjTable b != 0), sIllegalField),
      (pjOp b != 1 && (decide (3 < pjCtl b) || decide (63 < pjRm1 b) || !f32IsScale (pjScale b) || decide (2 ^ 40 ≤ pjTable b)),
        sIllegalField),
      (pjTable b % 64 != 0, sAlign),
      (pjOp b != 1 && !inStack (pjTable b) 16384, sAddrRange)]
  | 6 => fcStatus s b
  | _ => firstFail [(bits b 511 384 != 0 || bits b 351 192 != 0, sIllegalField)]

/-- The checks of R226 and R227, in the order type, job, shared fields, body. -/
def descStatus (s : State) (b : W512) : Option Nat :=
  let t := dType b
  firstFail [
    (t == 0 || decide (7 < t), sIllegalType),
    (!inJob s && t != 2 && t != 6, sNoJob),
    (blk b 1 1 / 2 != 0 || blk b 2 2 != 0 || blk b 46 2 != 0, sIllegalField),
    (t != 1 && (bits b 159 64 != 0 || dQtNs b != 0), sIllegalField),
    (t != 2 && dHostMib b != 0, sIllegalField)] <|> bodyStatus s b

/-! ### Budgets and charges (R243, R244, R246, R339) -/

/-- The charge of a descriptor by resource: quarter q at q, stack k at 100 + k, chiplet k at 110 + k, street 120, avenue
121, host port 122 in and 123 out, descriptors 124 (R246). -/
def charge (b : W512) : List (Nat × Nat) :=
  let t := dType b
  (if t = 1 then (dQuarters b).map fun q => (q, dQtNs b + 200) else []) ++
    ((List.range 8).map fun k => (100 + k, dSbytes b k)) ++
    (if t = 4 then (List.range 8).map fun k => (110 + k, dSbytes b k) else []) ++
    [(120, dStMib b), (121, dAvMib b)] ++
    (if t = 2 then [(if cpToHost b then 123 else 122, dHostMib b)] else []) ++ [(124, 1)]

/-- A beat holds a maintenance window (R243). -/
def hasWindow (s : State) (b : Nat) : Bool :=
  let m := fld s aMemMaint 31 16
  m != 0 && b != 0 && b % m == 0

/-- The usable time of a beat in tenths of a ns (R243). -/
def useTenths (s : State) (win : Bool) : Nat :=
  10 * beatLen s - 30000 - 4 * (beatLen s / 1000) - (if win then 300000 else 0)

/-- The transfer rate of HST_LINK.RATE, in units of 0.5 GT/s (R339). -/
def linkRate (code : Nat) : Nat :=
  match code with
  | 1 => 5 | 2 => 10 | 3 => 16 | 4 => 32 | 5 => 64 | 6 => 128 | _ => 0

/-- Ports enabled for the job. -/
def enabledPorts (s : State) (lo n : Nat) : Nat := ((List.range n).filter fun i => portEn s (lo + i)).length

/-- The budget of a resource in an empty beat (R243): f * t_use * rate, in whole ns or MiB. -/
def budget (s : State) (win : Bool) (r : Nat) : Nat :=
  let ft := (64 - fld s aClkDerate 5 0) * useTenths s win
  let mib := 640 * 2 ^ 20
  if r < 96 then (if qtrPresent s r then ft / 640 else 0)
  else if r < 110 then
    let n := if fld s (aMemRetire (r - 100)) 31 31 = 1 then 127 else 128
    if stkPresent s (r - 100) then ft * n * 2816 / (100 * mib) else 0
  else if r < 120 then (if updPresent s (r - 110) then ft * 860 / mib else 0)
  else if r = 120 then ft * enabledPorts s 0 24 * 152 / mib
  else if r = 121 then ft * enabledPorts s 24 8 * 150 / mib
  else if r = 124 then 256
  else ft * 106 * (fld s aHstLink 20 16 * linkRate (fld s aHstLink 15 12)) / (2048 * mib)

/-- What the descriptors admitted to a beat have charged to a resource. -/
def used (s : State) (beat r : Nat) : Nat :=
  ((s.disp.adms.filter fun a => a.beat == beat).flatMap fun a => (charge a.raw).filter fun p => p.1 == r).foldl
    (fun n p => n + p.2) 0

/-- The resources. -/
def resources : List Nat := List.range 96 ++ (List.range 8).map (100 + ·) ++ (List.range 8).map (110 + ·) ++ [120, 121, 122, 123, 124]

/-- A beat's budget no longer covers what it holds, so that it admits nothing (R244). -/
def overdrawn (s : State) (beat : Nat) : Bool :=
  s.disp.adms.any (fun a => a.beat == beat) &&
    resources.any fun r => decide (budget s (hasWindow s beat) r < used s beat r)

/-- A charge fits the remaining budget of a beat. -/
def fits (s : State) (b : W512) (beat : Nat) : Bool :=
  !overdrawn s beat && (charge b).all fun p => p.2 == 0 || decide (used s beat p.1 + p.2 ≤ budget s (hasWindow s beat) p.1)

/-- A charge exceeds an empty beat without a window (R245). -/
def overBudget (s : State) (b : W512) : Bool := (charge b).any fun p => decide (budget s false p.1 < p.2)

/-! ### Admission (R245) -/

/-- The first beat of the admission window. -/
def windowLo (s : State) : Nat :=
  if s.disp.beatStart + beatLen s < s.now + 5000 then beatNum s + 2 else beatNum s + 1

/-- The first beat that a ring's next descriptor may go to. -/
def ringLo (s : State) (ring : Nat) : Nat := max (windowLo s) (smGet 0 s.disp.lastBeat ring)

/-- A beat lies past a STOP's (R232). -/
def pastStop (s : State) (beat : Nat) : Bool :=
  match s.disp.stopBeat with
  | some b => decide (b < beat)
  | none => false

/-- The beat that the 32 bits of a BEAT_REQ name: the nearest to the running one. -/
def reqBeat (s : State) (req : Nat) : Nat :=
  let d := (req + 2 ^ 32 - beatNum s % 2 ^ 32) % 2 ^ 32
  if d < 2 ^ 31 then beatNum s + d else beatNum s + d - 2 ^ 32

/-- The beat of a descriptor, or the status that rejects it (R232, R245). -/
def place (s : State) (ring : Nat) (b : W512) : Except Nat Nat :=
  let win := (List.range 8).map fun i => beatNum s + 1 + i
  let lo := ringLo s ring
  if dBeatReq b = 0 then
    if overBudget s b then .error sOverBudget
    else
      let open_ := win.filter fun x => decide (lo ≤ x)
      match (open_.filter fun x => !pastStop s x).find? (fits s b) with
      | some x => .ok x
      | none => if !open_.isEmpty && open_.all (pastStop s) then .error sNoJob else .error sNoRoom
  else
    match win.find? fun x => x % 2 ^ 32 == dBeatReq b with
    | none => if pastStop s (reqBeat s (dBeatReq b)) then .error sNoJob else .error sBeatMissed
    | some x =>
      if pastStop s x then .error sNoJob
      else if x < lo then .error sBeatMissed
      else if fits s b x then .ok x
      else .error sNoRoom

/-- A second SELECT or LOAD_SELECT in a beat (R324). -/
def secondSelect (s : State) (b : W512) (beat : Nat) : Bool :=
  dType b == 5 && pjOp b != 0 && s.disp.adms.any fun a => a.beat == beat && dType a.raw == 5 && pjOp a.raw != 0

/-- DETAIL before anything has happened (R235, R325). -/
def detail0 (b : W512) : Nat :=
  match dType b with
  | 1 => 0xFF
  | 5 => pjSlot b % 4
  | _ => 0

/-- A rejection's completion (R233, R245), a batch of its own (R224). -/
def reject (s : State) (ring slot cq status detail : Nat) (irq : Bool) : State :=
  let s1 := cqPut s cq (s.now - s.disp.beatStart) (beatNum s) detail status ring slot
  count (if irq then raiseBatch s1 [cq] else s1) 1407 1

/-- A descriptor joins its beat. -/
def admitDesc (s : State) (ring slot cq : Nat) (b : W512) (beat : Nat) : State :=
  let a : Adm := ⟨s.disp.nextId, ring, slot, cq, b, beat, false, (if dType b = 1 then dQuarters b else []), false, none, 0, none, 0⟩
  let s1 := { s with disp := { s.disp with
    nextId := s.disp.nextId + 1, adms := s.disp.adms ++ [a], lastBeat := smSet 0 s.disp.lastBeat ring beat,
    stopBeat := if dType b = 7 then some beat else s.disp.stopBeat } }
  count (if dType b = 6 ∧ fcOp b = 3 then setFld s1 aFabRtCtl 1 1 1 else s1) 1406 1

/-- A descriptor read from a ring is checked and admitted or rejected (R227, R245). -/
def take (s : State) (ring slot cq : Nat) (b : W512) : State :=
  match descStatus s b with
  | some st => reject s ring slot cq st (if st = sIllegalType then 0 else detail0 b) (dIrq b)
  | none =>
    match place s ring b with
    | .error st => reject s ring slot cq st (detail0 b) (dIrq b)
    | .ok beat =>
      if secondSelect s b beat then reject s ring slot cq sIllegalField (detail0 b) (dIrq b)
      else admitDesc s ring slot cq b beat

/-! ### Fetching (R218) -/

/-- The dispatcher fetches (R340, R352, R392). -/
def fetchOpen (s : State) : Bool :=
  s.host.bme && !s.host.d3 && reg s aHstBmeDrops == 0 &&
    !stopRuns s

/-- A ring is eligible. -/
def eligible (s : State) (n : Nat) : Bool :=
  let p := reg s (aHstSqPtr n)
  sqEn s n && cqEn s (sqCq s n) && bits p 31 16 != bits p 15 0 && cqHasRoom s (sqCq s n)

/-- The ring served next: round-robin, lower numbers first within a round. -/
def nextRing (s : State) : Option Nat :=
  let l := (List.range 64).filter (eligible s)
  (l.find? fun n => decide (s.disp.rr ≤ n)) <|> l.head?

/-- FETCH advances. -/
def advanceSq (s : State) (n : Nat) : State :=
  let p := fld s (aHstSqPtr n) 31 16
  setFld { s with disp := { s.disp with rr := n + 1 } } (aHstSqPtr n) 31 16 ((p + 1) % sqSize s n)

/-- One descriptor fetched: its 64 B, or the error that ends the read, with what it reports (R227, R349). -/
def fetchOne (s : State) (a : Except (State → State) W512) : State :=
  match nextRing s with
  | none => s
  | some n =>
    if !fetchOpen s then s
    else
      let slot := fld s (aHstSqPtr n) 31 16
      let s1 := count (count (advanceSq s n) 1405 1) 1410 1
      match a with
      | .ok b => take s1 n slot (sqCq s n) b
      | .error report => reject (raise (report s1) .hstQ 4 0) n slot (sqCq s n) sFetchErr 0 false

/-! ### The commands -/

/-- SQ_DOORBELL (R217). -/
def execSqDoorbell (n : Fin 64) (v : W32) (s : State) : Out := .next (hostBar2 s (4096 * n) 4 (v.setWidth 64))
/-- CQ_DOORBELL (R217). -/
def execCqDoorbell (n : Fin 64) (v : W32) (s : State) : Out := .next (hostBar2 s (4096 * n + 8) 4 (v.setWidth 64))
/-- SQ_BASE_WRITE (R221). -/
def execSqBaseWrite (n : Fin 64) (v : W64) (s : State) : Out := .next (sqBaseWrite s n v)
/-- SQ_CFG_WRITE (R220). -/
def execSqCfgWrite (n : Fin 64) (v : W32) (s : State) : Out := .next (sqCfgWrite s n (v.setWidth 64))
/-- CQ_ENABLE (R222): the write holds EN = 1. -/
def execCqEnable (n : Fin 64) (v : W32) (s : State) : Out := .next (cqCfgWrite s n (putBits (v.setWidth 64) 31 31 1))
/-- CQ_DISABLE (R222): the write holds EN = 0. -/
def execCqDisable (n : Fin 64) (v : W32) (s : State) : Out := .next (cqCfgWrite s n (putBits (v.setWidth 64) 31 31 0))
/-- DESCRIPTOR_FETCH (R218). -/
def execDescriptorFetch (a : Answer W512) (s : State) : Out :=
  .next (fetchOne s (match a with
    | .data b => .ok b
    | .poison => .error fun t => poisonRx t 0
    | .error e => .error fun t => pcieReport t e))

end Sys2Proof.Machine
end

