-- ==== Sys2Proof/Machine/Projector.lean ====
section
/-! DEFINITION. The optical projector (12): ROTATE, SKETCH, PRJ_SUBMISSION_END, LOAD, SELECT, LOAD_SELECT, SETTLE_END,
TRACKING. What the light computes is the product of R327 with free noise (R334, R335; log entry 1). -/

namespace Sys2Proof.Machine

def modPrj (s : State) (f : Prj → Prj) : State := { s with prj := f s.prj }

/-- An error of the projector with its slot and address (R336). -/
def raiseP (s : State) (b slot addr : Nat) : State := raise s .prj b (slot % 4 * 2 ^ 40 + addr % 2 ^ 40)

/-- A slot is selected, and which. -/
def prjSel (s : State) : Bool := fld s aPrjStatus 29 29 == 1
def prjSelSlot (s : State) : Nat := fld s aPrjStatus 28 27
def prjSettled (s : State) : Bool := fld s aPrjStatus 30 30 == 1

/-- Submissions that hold a service position, and that wait for one in the queue of 64. -/
def serving (s : State) : List Sub := s.prj.subs.filter (·.serving)
def waitingSubs (s : State) : List Sub := s.prj.subs.filter fun x => x.queued && !x.serving

/-- PRJ_STATUS.SERVING and WAITING follow the submissions. -/
def prjCounts (s : State) : State :=
  setFld (setFld s aPrjStatus 18 16 (serving s).length) aPrjStatus 6 0 (waitingSubs s).length

/-! ### Degraded batches (R333) -/

/-- The conditions of R333 that hold now, as bits 3 to 1 of the result word. -/
def prjFlags (s : State) : Nat :=
  (if dieRamps s 1 (fld s aPrjCtl 7 0) then 2 else 0) + (if fld s aPrjCtl 15 8 * 64 < fld s aPrjTrack 15 0 then 4 else 0) +
    (if laserLit s 2 8 then 0 else 8)

/-- Batches in service are flagged, and each condition sets its PRJ_ERR bit (R333). -/
def prjNote (s : State) : State :=
  if (serving s).isEmpty then s
  else
    let f := prjFlags s
    let slot := prjSelSlot s
    let s1 := modPrj s fun p => { p with subs := p.subs.map fun x => if x.serving then { x with flags := x.flags ||| f } else x }
    let s2 := if f.testBit 1 then raiseP s1 1 slot 0 else s1
    let s3 := if f.testBit 3 then raiseP s2 2 slot 0 else s2
    if f.testBit 2 then raiseP s3 3 slot 0 else s3

/-- Submissions take free service positions in their order of arrival (R329). -/
def prjServeList (now : Nat) : Nat → List Sub → List Sub
  | _, [] => []
  | n, x :: t =>
    if x.serving || !x.queued then x :: prjServeList now n t
    else if 0 < n then { x with serving := true, t0 := now } :: prjServeList now (n - 1) t
    else x :: t

/-- Submissions that wait for the queue of 64 enter its free places in their order (R329). -/
def prjQueueList : Nat → List Sub → List Sub
  | _, [] => []
  | n, x :: t =>
    if x.queued then x :: prjQueueList n t
    else if 0 < n then { x with queued := true } :: prjQueueList (n - 1) t
    else x :: t

/-- The queue takes what waits for it, once the settle has ended (R326, R329). -/
def prjEnqueue (s : State) : State :=
  if prjSettled s then modPrj s fun p => { p with subs := prjQueueList (64 - (waitingSubs s).length) p.subs } else s

/-- The queue and the four service positions fill. -/
def prjServe (s : State) : State :=
  let s1 := prjEnqueue s
  let s2 := modPrj s1 fun p => { p with subs := prjServeList s1.now (4 - (serving s1).length) p.subs }
  prjNote (prjCounts (prjEnqueue s2))

/-! ### What a submission computes (R327 to R330) -/

/-- Byte i of the table of a slot. -/
def tabByte (s : State) (slot i : Nat) : Nat := (smGet 0 s.prj.table (slot * 16384 + i)).toNat

/-- log2 G of a slot (PRJ_SLOTs.GAIN). -/
def prjGain (s : State) (slot : Nat) : Nat := fld s (aPrjSlot slot) 57 56

/-- The converter's code for an ideal output with noise (R327), corrected by the tracked gain and offset of output j, and
whether it was clipped. -/
def prjMeasure (s : State) (j : Nat) (y : Int) (noise : Nat) : W32 × Bool :=
  let c := adc (prjGain s (prjSelSlot s)) (y + Config.prjNoise noise * 64)
  (f32Add (f32Mul (smGet 0 s.prj.gain j) (f32OfInt c.1)) (smGet 0 s.prj.offset j), c.2)

/-! ### PRJSUB (R140, R326) -/

def pbOp (b : W512) : Nat := blk b 0 1
def pbSlot (b : W512) : Nat := blk b 1 1
def pbFmt (b : W512) : Fmt := fmtByte b 2
def pbSrc (b : W512) : Nat := blk b 4 4
def pbN (b : W512) : Nat := blk b 8 4
def pbDst (b : W512) : Nat := blk b 12 4
def pbFlag (b : W512) : Nat := blk b 16 4

/-- Reserved bytes and offset bits of the block (R114, R140). -/
def pbReserved (b : W512) : Bool :=
  blk b 3 1 != 0 || bits b 511 160 != 0 || offBad (pbSrc b) || offBad (pbDst b) || offBad (pbFlag b)

/-- Rows that a submission writes for each vector (R328). -/
def pbRows (s : State) (slot : Nat) (b : W512) : Nat := if pbOp b = 0 then 64 else fld s (aPrjSlot slot) 53 48 + 1

/-- Bytes of an input vector (R326). -/
def pbInBytes (b : W512) : Nat := 64 * (fmtBits (pbFmt b) / 8)

/-- The SELECT or LOAD_SELECT of the running beat that has not set the meshes yet (R325). -/
def pendingSelect (s : State) : Option Adm :=
  s.disp.adms.find? fun a => dType a.raw == 5 && pjOp a.raw != 0 && a.beat == beatNum s && !a.started && a.status.isNone

/-- The slot selected for the running beat: the one that a SELECT of the beat names stands from the beat's start (R325). -/
def beatSlot (s : State) : Option Nat :=
  match pendingSelect s with
  | some a => some (pjSlot a.raw)
  | none => if prjSel s then some (prjSelSlot s) else none

/-- The checks of R326, in the order of its table; with no projector in service, every PRJSUB is rejected (R325). -/
def pbStatus (s : State) (b : W512) : Option Nat :=
  let rows := pbRows s ((beatSlot s).getD 0) b
  firstFail [
    (!prjPresent s || decide (1 < pbOp b) || decide (pbN b = 0) || decide (65536 < pbN b), stIllegalField),
    (pbFmt b != .hf16 && pbFmt b != .b32, stIllegalFormat),
    (pbSrc b % 64 != 0 || pbDst b % 64 != 0 || pbFlag b % 8 != 0, stAlign),
    (!lsOk (pbSrc b) (pbN b * pbInBytes b) || !lsOk (pbDst b) (pbN b * 2 * rows) || !lsOk (pbFlag b) 8, stAddrRange),
    (beatSlot s != some (pbSlot b), stIllegalField)]

/-- The ranges of the local store that a submission reads or writes. -/
def pbRanges (s : State) (q : Nat) (b : W512) : List (Nat × Nat) :=
  [(lsBase q + pbSrc b, pbN b * pbInBytes b), (lsBase q + pbDst b, pbN b * 2 * pbRows s ((beatSlot s).getD 0) b),
   (lsBase q + pbFlag b, 8)]

/-- The ranges that a PRJSUB touches (R51). -/
def pbTouches (q : Nat) (s : State) (f : Fetched) : Touches :=
  match readBlock s q (wPb f.word) pbReserved with
  | .error _ => ⟨[blockRange q f], []⟩
  | .ok b => ⟨blockRange q f :: (pbRanges s q b).take 1, (pbRanges s q b).drop 1⟩

/-- A PRJSUB (R326, R329): its block is read once, it takes its slot, and it waits in flight for SETTLED and for a place in
the queue of 64 (R143). -/
def doPrjsub (s : State) (q : Nat) (isOp : W128 → Bool) : State :=
  match headOf s q 13 isOp with
  | .no => s
  | .bad f => failHead s q 13 stPoisonedWord f
  | .ok f false => skipNow s q 13 f .here
  | .ok f true =>
    if !slotFree s q 13 then slotWait s q 13
    else if streamHolds s q 13 (pbTouches q s f) then keepPred s q 13 true
    else match readBlock s q (wPb f.word) pbReserved with
      | .error st => failHead s q 13 st f
      | .ok b =>
        match pbStatus s b with
        | some st => failHead s q 13 st f
        | none =>
          let s1 := amendOp (startOp (popHead s q 13) q 13 f true false none [] .here []) q fun o =>
            { o with busy := pbRanges s q b }
          prjServe (modPrj s1 fun p => { p with subs := p.subs ++ [⟨q, nextOpId s q, b, false, false, 0, 0⟩] })

/-- The running results of a submission. -/
structure PrjAcc where
  s : State
  clipped : Nat
  nonfin : Nat
  sat : Nat
  psn : Bool

/-- One output of a vector with a finite, non-zero input: y is its ideal value (R327). -/
def prjElem (sc a : W32) (base : Nat) (x : PrjAcc) (p : Nat × Int) : PrjAcc :=
  let m := prjMeasure x.s p.1 p.2 x.s.free
  let r := convV .hf16 false (f32v (f32Mul (f32Mul sc a) m.1))
  let s1 := writeNat { x.s with free := x.s.free + 1 } (base + 2 * p.1) 2 r.1
  { x with s := s1, sat := x.sat + r.2.sat, clipped := x.clipped + (if m.2 then 1 else 0) }

/-- The same code written to every output of a vector. -/
def prjFill (s : State) (base rows c : Nat) : State :=
  (List.range rows).foldl (fun t j => writeNat t (base + 2 * j) 2 c) s

/-- One vector (R327). -/
def prjVec (q rows : Nat) (b : W512) (sc : W32) (x : PrjAcc) (v : Nat) : PrjAcc :=
  let src := lsBase q + pbSrc b + v * pbInBytes b
  let dst := lsBase q + pbDst b + v * 2 * rows
  if anyPsn x.s src (pbInBytes b) then { x with s := poisonRange x.s dst (2 * rows), psn := true }
  else
    let xs := (List.range 64).map fun i => elem32 x.s (pbFmt b) src i
    if xs.any fun y => !f32IsFinite y then { x with s := prjFill x.s dst rows 0x8000, nonfin := x.nonfin + 1 }
    else
      let a := xs.foldl (fun m y => f32Max m (f32Abs y)) 0
      if a = 0 then { x with s := prjFill x.s dst rows 0 }
      else
        let ys := matReal (tabByte x.s (prjSelSlot x.s)) (xs.map fun y => prjCode (f32v y) (f32v a))
        ((ys.take rows).zipIdx.map fun y => (y.2, y.1)).foldl (prjElem sc a dst) x

/-- The result word of R330; its counts saturate. -/
def prjResult (x : PrjAcc) (flags : Nat) : Nat :=
  let c := fun n => min n 0xFFFF
  c x.clipped * 2 ^ 48 + c x.nonfin * 2 ^ 32 + c x.sat * 2 ^ 16 + (if x.psn then 16 else 0) + flags +
    (if flags = 0 then 0 else 1)

/-- The time in ps by which a submission in service ends (R329). -/
def subEnd (u : Sub) : Nat :=
  let tv := if pbFmt u.blk == .hf16 then 250 else 500
  u.t0 * 1000 + 400000 + (pbN u.blk * 1024 + 1022) / 1023 * tv + (if u.q < 48 then 100000 else 0)

/-- The submission that ends first: the vectors of those in service interleave slot by slot, so the one whose time of R329
comes first does, the older one at a tie (log entry 83). -/
def firstEnd : List Sub → Option Sub
  | [] => none
  | u :: t => some (t.foldl (fun b x => if subEnd x < subEnd b then x else b) u)

/-- A submission in service ends (R329, R330): results at once, the result word at retirement. -/
def doPrjEnd (s0 : State) : State :=
  let s := prjNote s0
  match firstEnd (serving s) with
  | none => s
  | some u =>
    let b := u.blk
    let slot := prjSelSlot s
    let sc := BitVec.ofNat 32 (fld s (aPrjSlot slot) 31 0)
    let rows := pbRows s slot b
    let x := (List.range (pbN b)).foldl (prjVec u.q rows b sc) ⟨s, 0, 0, 0, false⟩
    let w := prjResult x u.flags
    let recs := (leBytes 8 w).zipIdx.map fun p => (lsBase u.q + pbFlag b + p.2, p.1)
    let s1 := modQuarter x.s u.q fun y =>
      { y with ops := y.ops.map fun o => if o.id = u.op then { o with fin := true, recs := recs, busy := [] } else o }
    let s2 := count (count (count s1 1398 (pbN b)) 1401 x.clipped) 1402 x.sat
    let s3 := if u.flags = 0 then s2 else count s2 1400 1
    prjServe (modPrj s3 fun p => { p with subs := p.subs.filter fun y => !(y.q == u.q && y.op == u.op) })

/-- The cut (R331): outputs of every submission written poisoned, no result word. -/
def prjCut (s : State) : State :=
  let s1 := s.prj.subs.foldl (fun t u =>
    let t1 := poisonRange t (lsBase u.q + pbDst u.blk) (pbN u.blk * 2 * pbRows t (prjSelSlot t) u.blk)
    modQuarter t1 u.q fun y =>
      { y with ops := y.ops.map fun o => if o.id = u.op then { o with fin := true, dead := true, busy := [] } else o }) s
  prjCounts (modPrj s1 fun p => { p with subs := [] })

/-- SETTLED at the start of a beat (R325): 0 where the beat holds a SELECT; else the selection made before stands. -/
def prjBeat (s : State) : State :=
  if (pendingSelect s).isSome then setFld s aPrjStatus 30 30 0
  else if prjSel s && s.prj.settling.isNone then prjServe (setFld s aPrjStatus 30 30 1)
  else s

/-! ### PROJECT (R324, R325) -/

/-- A table is read into a slot (R325): false where it was poisoned. -/
def prjLoad (s : State) (b : W512) : State × Bool :=
  let slot := pjSlot b
  let a := pjTable b
  if anyPsn s a 16384 then
    (raiseP (setFld (setFld s (aPrjSlot slot) 63 63 0) aPrjStatus (23 + slot) (23 + slot) 0) 5 slot a, false)
  else
    let s1 := modPrj (touch s clHost a 16384 false) fun p =>
      { p with table := smClear p.table (slot * 16384) 16384 }
    let s2 := modPrj s1 fun p => { p with table := smSetMany 0 p.table ((readBytes s a 16384).zipIdx.map fun e => (slot * 16384 + e.2, e.1)) }
    let w := 2 ^ 63 + pjCtl b % 4 * 2 ^ 56 + pjRm1 b % 64 * 2 ^ 48 + (pjScale b).toNat
    (setFld (setReg s2 (aPrjSlot slot) (BitVec.ofNat 64 w)) aPrjStatus (23 + slot) (23 + slot) 1, true)

/-- The LOAD part of a PROJECT: the status that ends it, if it fails. -/
def prjLoadStep (s : State) (a : Adm) : State × Option Nat :=
  if prjSel s && prjSelSlot s == pjSlot a.raw then (s, some sIllegalField)
  else
    let r := prjLoad s a.raw
    (r.1, if r.2 then none else some 0x10)

/-- A SELECT that fails leaves the meshes as they were (R325). -/
def prjStays (s : State) (a : Adm) (st : Nat) : State :=
  prjBeat (admEnd (modAdm s a.id fun x => { x with started := true }) a.id st (detail0 a.raw))

/-- The SELECT part: the meshes are set, and the settle begins. -/
def prjSelect (s : State) (a : Adm) : State :=
  let slot := pjSlot a.raw
  if fld s (aPrjSlot slot) 63 63 = 0 then prjStays s a sIllegalField
  else
    let s1 := setFld (setFld (setFld s aPrjStatus 29 29 1) aPrjStatus 28 27 slot) aPrjStatus 30 30 0
    modPrj (modAdm s1 a.id fun x => { x with started := true }) fun p => { p with settling := some a.id }

/-- The PROJECT of the running beat that has not started, with an OP. -/
def firstPrj (s : State) (op : Nat) : Option Adm := firstAdm s 5 fun a => pjOp a.raw == op && !s.disp.cut

/-- The read of a table waits at its slice (log entry 89). -/
def tableWaits (s : State) (a : Adm) : Bool := sliceWaits s (pjTable a.raw) 16384 false

/-- LOAD. -/
def doLoad (s : State) (a : Adm) : State :=
  if tableWaits s a then s else
  let r := prjLoadStep s a
  admEnd (modAdm r.1 a.id fun x => { x with started := true }) a.id (r.2.getD 0) (detail0 a.raw)

/-- LOAD_SELECT. -/
def doLoadSelect (s : State) (a : Adm) : State :=
  if tableWaits s a then s else
  let r := prjLoadStep s a
  match r.2 with
  | some st => prjStays r.1 a st
  | none => prjSelect r.1 a

/-- SETTLE_END (R325): the tracking error is at or below TRACK_LIM, or 100 us have passed. -/
def doSettleEnd (s : State) : State :=
  match s.prj.settling with
  | none => s
  | some id =>
    let late := decide (fld s aPrjCtl 15 8 * 64 < fld s aPrjTrack 15 0)
    let us := if late then 100 else min 100 ((s.now - s.disp.beatStart) / 1000)
    let s1 := modPrj (setFld s aPrjStatus 30 30 1) fun p => { p with settling := none }
    let s2 := if late then raiseP s1 4 (prjSelSlot s1) 0 else s1
    prjServe (admEnd s2 id 0 (us * 2 ^ 16 + (if late then 8 else 0) + prjSelSlot s2))

/-- The gain, offset and phase setting of output j after a reference: free, since the spec gives a loop and no formula. -/
def trackOut (s : State) (j : Nat) : State :=
  let s1 := modPrj s fun p =>
    { p with gain := smSet 0 p.gain j (Config.free32 s.free), offset := smSet 0 p.offset j (Config.free32 (s.free + 1)),
             screen := smSet 0 p.screen j (Config.free32 (s.free + 2)) }
  { s1 with free := s1.free + 3 }

/-- Squared error of a reference in units of (2^-24 of full scale)^2, summed over the outputs. -/
def refError (s : State) (ys : List Int) : Nat :=
  let g : Int := 2 ^ prjGain s (prjSelSlot s)
  (ys.zipIdx.map fun y =>
    let e := (f32Fix (prjMeasure s y.2 y.1 (s.free + y.2)).1 - y.1 / 64) / g
    e.natAbs * e.natAbs).foldl (· + ·) 0

/-- PRJ_TRACK.RMS from the errors of the last references (R332), rounded down to units of 2^-16 of full scale. -/
def trackRms (errs : List Nat) : Nat := min 65535 (isqrt (errs.foldl (· + ·) 0 / (64 * max 1 errs.length)) / 256)

/-- A reference of TRACKING (R332): a vector, d = 31 on one input, is measured and compared with that column of M; PRJ_TRACK
reports the error over the last 64 references; every output is adjusted, and batches in service are flagged. -/
def doTracking (s : State) : State :=
  let col := matReal (tabByte s (prjSelSlot s)) ((List.range 64).map fun i => if i = s.prj.refIn then 31 else 0)
  let errs := (refError s col :: s.prj.errs).take 64
  let s1 := (List.range 64).foldl trackOut { s with free := s.free + 64 }
  let s2 := modPrj (setFld s1 aPrjTrack 15 0 (trackRms errs)) fun p => { p with refIn := (p.refIn + 1) % 64, errs := errs }
  prjNote (count s2 1399 1)

/-- References, one after another. -/
def doReferences (s : State) (n : Nat) : State := (List.range n).foldl (fun t _ => doTracking t) s

/-! ### The heaters of the phase shifters (R322, R304) -/

/-- The phase shifters: theta and phi of both meshes, and the output screen. -/
def shifters : Nat := 8128

/-- The change of a sensor's value since the feedforward before (R304). -/
def shiftDelta (s : State) (temp : Nat → Option Int) (i : Nat) : Int :=
  match temp i with
  | some v => v - (smGet none s.prj.heatRef i).getD v
  | none => 0

/-- The heaters of the phase shifters follow their sensors, each by its own gain: `temp` gives the value of a sensor. -/
def prjFeed (s : State) (temp : Nat → Option Int) : State :=
  let delta := (List.range 64).map (shiftDelta s temp)
  let h := (List.range shifters).map fun k =>
    (s.prj.heater[k]?).getD 0 + Config.shifterGain k * (delta[Config.shifterSensor k % 64]?).getD 0
  let refs := (List.range 64).filterMap fun i => (temp i).map fun v => (i, some v)
  modPrj s fun p => { p with heater := if delta.all (· == 0) then p.heater else h, heatRef := smSetMany none p.heatRef refs }

/-! ### The commands -/

/-- ROTATE (R328): every OP but SKETCH. -/
def execRotate (q : Fin 96) (s : State) : Out :=
  .next (doPrjsub s q fun w => wOpcode w == opPrjsub && blockOp s q w != 1)
/-- SKETCH (R328). -/
def execSketch (q : Fin 96) (s : State) : Out :=
  .next (doPrjsub s q fun w => wOpcode w == opPrjsub && blockOp s q w == 1)
/-- PRJ_SUBMISSION_END (R329, R330). -/
def execPrjSubmissionEnd (s : State) : Out := .next (doPrjEnd s)
/-- LOAD (R325). -/
def execLoad (s : State) : Out :=
  .next (match firstPrj s 0 with
    | some a => doLoad s a
    | none => s)
/-- SELECT (R325). -/
def execSelect (s : State) : Out :=
  .next (match firstPrj s 1 with
    | some a => prjSelect s a
    | none => s)
/-- LOAD_SELECT (R325). -/
def execLoadSelect (s : State) : Out :=
  .next (match firstPrj s 2 with
    | some a => doLoadSelect s a
    | none => s)
/-- SETTLE_END (R325). -/
def execSettleEnd (s : State) : Out := .next (doSettleEnd s)
/-- TRACKING (R332): so many references go by. -/
def execTracking (refs : Nat) (s : State) : Out := .next (doReferences s refs)

end Sys2Proof.Machine
end

