-- ==== Sys2Proof/Machine/Stop.lean ====
section
/-! DEFINITION. JOB_STOP and the cut (09 R250, 15 R391-R396): STOP packets, what the cut does to the work in flight, the
stop's stages, retirement of channels: FORCE, CUT, JOB_STOP_COMPLETIONS, READABLE, REARM. -/

namespace Sys2Proof.Machine

def modDisp (s : State) (f : Disp → Disp) : State := { s with disp := f s.disp }

/-! ### The cut (R250) -/

/-- A circuit cell that still waits at its source: a data cell goes poisoned (R250), a control cell stays. -/
def cutCells : Nat → List (Nat × List CWord) → List (Nat × List CWord)
  | _, [] => []
  | left, c :: t => (c.1, if 0 < left then List.replicate 8 ⟨0, true⟩ else c.2) :: cutCells (leftAfter c.2 left) t

/-- The data cells that every source has still to send go poisoned. -/
def cutCircuits (s : State) : State :=
  modFab s fun f => { f with circSrc := f.circSrc.map fun p => (p.1, cutCells (smGet 0 f.srcLeft p.1) p.2) }

/-- The bank of an unfinished MMA or drain (R250): an MMA poisons it; its state follows HOLD, or KEEP. -/
def cutBank (q : Nat) (s : State) (o : Op) : State :=
  if o.fin then s
  else if wOpcode o.word = opMma then
    let b := mBank o.word
    setBank s q o.stream b { poisonBank (bank s q o.stream b) with st := mmaEndSt o.word }
  else if wOpcode o.word = opDrain then
    let c := o.stream - 4
    let b := mBank o.word
    setBank s q c b { bank s q c b with st := drainEndSt o.word }
  else s

/-- Writes of step 7 that an operation has still to make go poisoned (R250); a submission's result word is not written
(R331). -/
def cutRecs (s : State) (o : Op) : State :=
  if wOpcode o.word = opPrjsub then s else o.recs.foldl (fun t p => poisonWord t (p.1 / 8)) s

/-- The words of a range of memory, by number. -/
def rangeWords (r : Nat × Nat) : List Nat :=
  if r.2 = 0 then [] else (List.range ((r.1 + r.2 - 1) / 8 - r.1 / 8 + 1)).map (r.1 / 8 + ·)

/-- The data writes that an operation has still to make are made as poisoned words, those that it has made stand (R250).
How far it has come is the hardware's timing: a free number of its words (log entry 20). -/
def cutDst (s : State) (o : Op) : State :=
  if o.dst.isEmpty then s
  else
    let ws := o.dst.flatMap rangeWords
    let done := (Config.free64 s.free).toNat % (ws.length + 1)
    (ws.drop done).foldl poisonWord { s with free := s.free + 1 }

/-- An operation after the cut: finished, without signals or further debts. -/
def cutOp (o : Op) : Op :=
  { o with fin := true, dead := true, stat := none, recs := [], sigTo := .here, after := [], dst := [], busy := [] }

/-- A quarter at the cut. -/
def cutQuarter (s : State) (q : Nat) : State :=
  let ops := (quarter s q).ops
  let s1 := ops.foldl cutRecs (ops.foldl cutDst (ops.foldl (cutBank q) s))
  if ops.isEmpty then s1 else modQuarter s1 q fun x => { x with ops := x.ops.map cutOp }

/-- Requests of the quarters at the cut: a READ's destination goes poisoned; the others run on with no operation that
waits for them. -/
def cutReqs (s : State) : State :=
  let mine := s.fab.reqs.filter fun r => decide (r.flow < 192)
  let s1 := (mine.filter fun r => r.typ == 2).foldl (fun t r => poisonRange t r.addr r.len) s
  modFab s1 fun f =>
    { f with reqs := (f.reqs.filter fun r => decide (192 ≤ r.flow) || r.typ != 2).map fun r => if r.q < 96 then { r with q := 96 } else r }

/-- The data of a quarter's WRITE and ATOMIC_ADD packets that still wait on this chip goes poisoned (R250). -/
def cutPkt (s : State) (x : QPkt) : QPkt :=
  if x.src = 32 ∧ x.k.src = thisChip s ∧ x.k.cls = 0 ∧ x.k.flow < 192 ∧ (x.k.typ = 1 ∨ x.k.typ = 4) then
    { x with k := { x.k with words := x.k.words.take 1 ++ (x.k.words.drop 1).map fun _ => ⟨0, true⟩ } }
  else x

/-- The packets of the quarters at the cut. -/
def cutPkts (s : State) : State := modFab s fun f => { f with pktQ := f.pktQ.map fun p => (p.1, p.2.map (cutPkt s)) }

/-- COPYs that have started and not ended stop issuing (R250). -/
def cutCopies (s : State) : State :=
  (s.disp.adms.filter fun a => dType a.raw == 2 && a.started && a.status.isNone && a.beat == beatNum s).foldl
    (fun t a => admEnd t a.id sOverrun a.moved) s

/-- The cut of the running beat (R184, R250, R331). -/
def cut (s : State) : State :=
  if s.disp.cut then s
  else
    let s1 := modDisp s fun d => { d with cut := true }
    let s2 := (List.range 96).foldl cutQuarter s1
    cutUpdate (prjCut (cutCopies (cutCircuits (cutReqs (cutPkts s2)))))

/-! ### The start of JOB_STOP (R295, R391, R392) -/

/-- The STOP packet (R295). -/
def stopPkt (s : State) (origin reason beat : Nat) : Pkt :=
  ctrlPkt s 1 [BitVec.ofNat 64 (origin + reason * 65536), BitVec.ofNat 64 beat]

/-- A STOP waits at a port, ahead of every TICK there (R295). -/
def pushStop (k : Pkt) (s : State) (p : Nat) : State :=
  modFab s fun f =>
    { f with ctrlQ := smMod [] f.ctrlQ p fun l => (l.takeWhile fun x => x.typ != 0) ++ k :: (l.dropWhile fun x => x.typ != 0),
             ctrlWait := if smGet [] f.ctrlQ p = [] then smSet 0 f.ctrlWait p s.now else f.ctrlWait }

/-- A STOP on every enabled street port. -/
def sendStops (s : State) (origin reason beat : Nat) : State :=
  ((List.range 24).filter (portEn s)).foldl (pushStop (stopPkt s origin reason beat)) s

/-- STOPPED: JOB_STOP has run since the last reset or REARM. -/
def isStopped (s : State) : Bool := fld s aMgtStopStatus 0 0 == 1

/-- A job runs, or is about to: a tick is accepted or due. -/
def jobNear (s : State) : Bool := inJob s || !s.disp.ticks.isEmpty || s.disp.startAt.isSome

/-- The status word of a stop (MGT_STOP_STATUS): UNFIT and REARM_FAIL stay. -/
def stopWord (s : State) (origin reason beat : Nat) : Nat :=
  origin % 65536 * 2 ^ 48 + reason % 256 * 2 ^ 40 + beat % 2 ^ 32 * 256 + fld s aMgtStopStatus 4 3 * 8 + 3

/-- JOB_STOP starts (R391, R392): once, and only while a job runs or is about to. -/
def startStop (s : State) (reason origin beat : Nat) : State :=
  if isStopped s || !jobNear s then s
  else
    let s1 := setReg s aMgtStopStatus (BitVec.ofNat 64 (stopWord s origin reason beat))
    let s2 := modDisp s1 fun d => { d with ticks := [], startAt := none, endStop := none }
    let s3 := fireEvent (count s2 1416 1) 9
    let s4 := (quartersIn s3).foldl (fun t q => ccIrq t q 4) s3
    cut (sendStops s4 origin reason beat)

/-- JOB_STOP from a trigger on this chip. -/
def stopHere (s : State) (reason : Nat) : State := startStop s reason (thisChip s) (beatNum s)

/-- JOB_STOP at the end of the running beat (R251, R381, R389): the first reason stands. -/
def stopAtEnd (s : State) (reason : Nat) : State :=
  if inJob s && !isStopped s then modDisp s fun d => { d with endStop := d.endStop <|> some reason } else s

/-- The reasons of R391. -/
def rHost : Nat := 1
def rOverrun : Nat := 2
def rE2e : Nat := 3
def rTick : Nat := 4
def rPort : Nat := 5
def rPlan : Nat := 6
def rUnfit : Nat := 7
def rUe : Nat := 8
def rChDown : Nat := 9
def rChainTo : Nat := 0x0A
def rClock : Nat := 0x0B
def rStuck : Nat := 0x0C
def rThermal : Nat := 0x0D

/-! ### Completions of the stop (R393) -/

/-- DETAIL of a descriptor that is ended from outside (R235). -/
def detailNow (a : Adm) : Nat :=
  match dType a.raw with
  | 1 => match a.bad with
    | some (q, _, c) => launchDetail a.exceeded c q
    | none => launchDetail a.exceeded 0 0xFF
  | 2 => a.moved
  | 5 => pjSlot a.raw % 4
  | 6 => a.moved
  | _ => 0

/-- A DISCOVER that is ended from outside exchanges no more identities; FAB_DISC and MATCH stay as they are (log entry 24). -/
def closeDisco (s : State) (a : Adm) : State :=
  if s.fab.discoverId = some a.id then modFab s fun f => { f with disco := [], discoverId := none } else s

/-- An open descriptor ends with a status. -/
def endOpen (code : Nat) (s : State) (a : Adm) : State :=
  if a.status.isSome then s else admEnd (closeDisco s a) a.id code (detailNow a)

/-- The completion of one descriptor is written (R223, R233). -/
def complete (s : State) (a : Adm) : State :=
  match a.status with
  | none => s
  | some (code, detail, time) =>
    let s1 := cqPut s a.cq time a.beat detail code a.ring a.slot
    if code = sOverrun then count s1 1409 1 else s1

/-- A batch of completions in order of admission, with its interrupts (R224, R252), and the descriptors leave. -/
def completeAll (s : State) (as_ : List Adm) : State :=
  let ids := as_.map (·.id)
  let s1 := modDisp (as_.foldl complete s) fun d => { d with adms := d.adms.filter fun a => !ids.contains a.id }
  raiseBatch s1 ((as_.filter fun a => dIrq a.raw).map (·.cq))

/-- Every launch in hand or waiting is over. -/
def dropLaunches (s : State) : State :=
  { s with quarters := (List.range 96).foldl (fun m q =>
      smMod quarter0 m q fun x => { x with launch := none, waiting := [], ldone := none }) s.quarters }

/-- JOB_STOP_COMPLETIONS (R392, R393). -/
def doStopCompletions (s : State) : State :=
  if !stopRuns s then s
  else
    let s1 := s.disp.adms.foldl (endOpen sStopped) s
    let s2 := modDisp (completeAll s1 s1.disp.adms) fun d => { d with stopBeat := none, lastBeat := [] }
    setFld (dropLaunches s2) aFabRtCtl 1 1 0

/-! ### Memory opens to the host (R205, R208, R392, R394) -/

/-- FW_QUOTA of every slice, with the mode that follows (R205, SCC_MODE). -/
def setFwQuota (s : State) (on : Nat) : State :=
  (List.range 8).foldl (fun t k =>
    let t1 := setFld t (aSccMode k) 1 1 on
    setFld t1 (aSccMode k) 31 30 (if fld t1 (aSccMode k) 2 1 = 0 then 0 else 1)) s

/-- An atomic region is written back and disabled (R208). -/
def atomOff (s : State) (n : Nat) : State :=
  if fld s (aSccAtom n) 63 63 = 1 then setFld s (aSccAtom n) 63 62 0 else s

/-- RUN and every stream's EN of a quarter are cleared (R392); a stream that is disabled is emptied (R107). -/
def quarterOff (s : State) (q : Nat) : State :=
  (List.range 14).foldl (fun t i => flushStrm (setFld t (aQtrStrmCfg q i) 31 31 0) q i) (setFld s (aQtrCtl q) 0 0 0)

/-- Credit of every source entry as at its enable (R281). -/
def creditsAfresh (s : State) : SMap Nat :=
  smSetMany 0 [] (((List.range 1024).filter fun n => bit (circ s n) 63 && bits (circ s n) 61 57 == 31).map fun n =>
    (n, 8 * bits (circ s n) 12 0))

/-- The packet and circuit cells that the chip holds are discarded (R392), and credit counts start afresh. Requests of
the management core are left to their timeout. -/
def discardCells (s : State) : State :=
  let cr := creditsAfresh s
  modFab s fun f => { f with
    pktQ := [], inbox := [], circSrc := [], srcLeft := [], circQ := [], circRx := [], cred := cr, treeRet := [], treeSent := [],
    sinks := [], rets := [], vcUsed := [], moved := [], reqs := f.reqs.filter fun r => r.flow == 193,
    lanes := (f.lanes.map fun p => (p.1, { p.2 with out := [], asm := none })).filter fun p => p.2 != lane0 }

/-- A local beat begins (R242). -/
def localBeat (s : State) : State :=
  modDisp (count (setReg s aClkBeatNum (reg s aClkBeatNum + 1)) 1413 1) fun d => { d with cut := false, beatStart := s.now }

/-- READABLE (R392, R394). -/
def doReadable (s : State) : State :=
  if !stopRuns s || !s.disp.adms.isEmpty then s
  else
    let s1 := (quartersIn s).foldl quarterOff ((List.range 16).foldl atomOff s)
    let s2 := setFld (setFwQuota (discardCells s1) 1) aMgtStopStatus 2 2 1
    localBeat (setFld (setFld s2 aClkBeatCtl 29 29 0) aFabCtl 2 2 0)

/-! ### Retirement and REARM (R199, R396) -/

/-- Byte address a lies on stack k. -/
def onStk (s : State) (k a : Nat) : Bool := decide (a < stackEnd) && (locate s a).1 == k

/-- The contents of a stack are lost: nothing written to it, or kept of it, is left. -/
def loseStack (s : State) (k : Nat) : State :=
  modStk { s with mem := s.mem.filter fun c => !onStk s k c.1, memPsn := s.memPsn.filter fun p => !onStk s k (p.1 * 8) }
    fun t => { t with lines := t.lines.filter fun p => p.1 / 131072 != k, nibble := t.nibble.filter fun p => !onStk s k (p.1 * 2048) }

/-- A channel is retired (R199): false where its stack has one already. -/
def retireChan (s : State) (k c : Nat) : State × Bool :=
  if fld s (aMemRetire k) 31 31 = 1 then (s, false)
  else
    let s1 := setReg (loseStack s k) (aMemRetire k) (BitVec.ofNat 64 (2 ^ 31 + c))
    (modStk s1 fun t => { t with chan := smSet 0 t.chan (k * 128 + c) 3 }, true)

/-- Every DOWN channel retired; false where some stack would need a second (R396). -/
def retireDown (s : State) : State × Bool :=
  (s.stk.chan.filter fun p => p.2 == 2).foldl (fun x p =>
    let r := retireChan x.1 (p.1 / 128) (p.1 % 128)
    (r.1, x.2 && r.2)) (s, true)

/-- Every stream empty and every bank clear (R396). -/
def clearQuarters (s : State) : State :=
  let s1 := { s with banks := [] }
  (List.range 96).foldl (fun t q => (List.range 14).foldl (fun u i =>
    flushStrm u q i) (modQuarter t q fun x => { x with ops := [], aborted := none })) s1

/-- REARM (R396). -/
def doRearm (s : State) : State :=
  if fld s aMgtStopStatus 2 2 = 0 || fld s aMgtErr 3 2 != 0 then rangeErr s .mgt aMgtStopCtl
  else
    let r := retireDown s
    let s1 := clearQuarters r.1
    if r.2 then setFld s1 aMgtStopStatus 1 0 0 else setFld s1 aMgtStopStatus 4 4 1

/-- FORCE (R391): ignored and flagged outside a job. -/
def doForce (s : State) : State := if inJob s then stopHere s rHost else rangeErr s .mgt aMgtStopCtl

/-! ### The commands -/

/-- The cut of the running beat ends the UPDATE in hand; one that met an uncorrectable word in pass 2 stops the job then
(R381). -/
def doCut (s : State) : State :=
  if s.disp.cut then s
  else if (s.upd.cur.map (·.ue)).getD false then stopHere (cut s) rUe
  else cut s

/-- CUT (R250): the running beat's cut; none comes while a stop runs, which has made its own. -/
def execCut (s : State) : Out := .next (if devReady s then doCut s else s)
/-- FORCE (R391). -/
def execForce (s : State) : Out := .next (doForce s)
/-- JOB_STOP_COMPLETIONS (R393). -/
def execJobStopCompletions (s : State) : Out := .next (doStopCompletions s)
/-- READABLE (R392). -/
def execReadable (s : State) : Out := .next (doReadable s)
/-- REARM (R396). -/
def execRearm (s : State) : Out := .next (doRearm s)

end Sys2Proof.Machine
end

