-- ==== Sys2Proof/Machine/Link.lean ====
section
/-! DEFINITION. Lanes and frames (10, R257-R272): what a lane receives and what becomes of it, what a port sends in a
round, replay and lane failure: FRAME_RX, REPLAY_TIMEOUT, ROUND, CTRL_DISPLACE. -/

namespace Sys2Proof.Machine

/-! ### Lanes and ports -/

def lkey (p l : Nat) : Nat := p * 8 + l
def lane (s : State) (p l : Nat) : Lane := smGet lane0 s.fab.lanes (lkey p l)
def setLane (s : State) (p l : Nat) (x : Lane) : State :=
  modFab s fun f => { f with lanes := smSet lane0 f.lanes (lkey p l) x }

/-- A lane carries traffic (FAB_PORTp.LANES). -/
def laneUp (s : State) (p l : Nat) : Bool := bit (reg s (aFabPort p)) (16 + l)

/-- The lanes of a port that carry traffic. -/
def working (s : State) (p : Nat) : List Nat := (List.range 8).filter (laneUp s p)

/-- The position + 1 that an avenue lane is bound to (R312). -/
def boundTo (s : State) (p l : Nat) : Nat := smGet 0 s.opt.bound (lkey (p - 24) l)

/-- An avenue lane that is bound and has accepted no frame yet (R316): it is READY. -/
def linkUp (s : State) (p l : Nat) : Bool :=
  decide (24 ≤ p) && boundTo s p l != 0 && fld s (aOptLanel p l) 63 60 == 4

/-- A lane enters service (R306, R316). -/
def inService (s : State) (p l : Nat) : State :=
  setFld (setFld s (aOptLanel p l) 63 60 5) (aFabPort p) (16 + l) (16 + l) 1

/-- The input buffer of a lane's partner, and of the lane: a street port has one, and every lane of an avenue port has its
own partner (R271, R312). -/
def bufKey (p l : Nat) : Nat := if p < 24 then p else 64 + lkey p l

/-- Key of the credit count of a channel. -/
def vkeyOf (p l ch : Nat) : Nat := bufKey p l * 8 + ch

/-- The input channel of a packet (R271). -/
def chanOf (k : Pkt) : Nat := if k.cls = 2 then 4 else k.cls * 2 + k.vc

/-- The dimension of a street port: 1 X, 2 Y, 3 Z (FAB_PORTp.ROLE). -/
def portDim (s : State) (p : Nat) : Nat := (fld s (aFabPort p) 30 28 + 1) / 2

/-! ### Cells of packets (R258, R260) -/

/-- The header word of a cell. -/
def hdrWord (k : Pkt) (pos : Nat) (psn : Bool) : Nat :=
  k.dst % 65536 * 2 ^ 48 + k.src % 65536 * 2 ^ 32 + k.cls % 4 * 2 ^ 30 + k.vc % 2 * 2 ^ 29 + k.epoch % 2 * 2 ^ 28 +
    k.typ % 16 * 2 ^ 24 + pos * 2 ^ 22 + (if psn then 2 ^ 21 else 0) + k.seq % 4096 * 2 ^ 9 + k.flow % 512

/-- The packet that a header word begins, with payload words. -/
def pktOfHdr (h : W64) (ws : List CWord) : Pkt :=
  ⟨bits h 63 48, bits h 47 32, bits h 31 30, bits h 29 29, bits h 28 28, bits h 27 24, bits h 20 9, bits h 8 0, ws⟩

/-- A type that R259 lists for its class. -/
def typeOk (cls typ : Nat) : Bool :=
  match cls with
  | 0 => decide (1 ≤ typ) && decide (typ ≤ 4)
  | 1 => decide (1 ≤ typ) && decide (typ ≤ 3)
  | 2 => decide (typ ≤ 5)
  | _ => false

/-- Payload words as the cells of a packet, from cell i of n: POISON is set when every payload word of the cell is poisoned
(R258; log entry 16). -/
def pktCellsFrom (k : Pkt) (n : Nat) : List CWord → Nat → Nat → List (List CWord)
  | _, _, 0 => []
  | ws, i, f + 1 =>
    let c := ws.take 7
    let c7 := c ++ List.replicate (7 - c.length) ⟨0, false⟩
    let pos := if n = 1 then 0 else if i = 0 then 1 else if i + 1 = n then 3 else 2
    (⟨BitVec.ofNat 64 (hdrWord k pos (!c.isEmpty && c.all (·.psn))), false⟩ :: c7) :: pktCellsFrom k n (ws.drop 7) (i + 1) f

/-- The cells of a packet. -/
def cellsOfPkt (k : Pkt) : List (List CWord) := pktCellsFrom k (pktCells k) k.words 0 (pktCells k)

/-! ### Packets that arrive -/

/-- Cells of a packet leave an input buffer: their credit returns (R264, R271). -/
def freeBuf (s : State) (x : QPkt) : State := if x.src = 32 then s else addRet s x.src (retVc x.chan) (pktCells x.k)

/-- A packet waits for the unit that acts on it. -/
def toInbox (s : State) (x : QPkt) : State := modFab s fun f => { f with inbox := f.inbox ++ [x] }

/-- OLD_OPEN (R278). -/
def oldOpen (s : State) : Bool := fld s aFabRtCtl 2 2 == 1

/-- A packet, or a part of one, of the inactive epoch is in the router (R278). -/
def noteOld (s : State) (k : Pkt) : State :=
  if k.epoch = fld s aFabRtCtl 0 0 then s else modFab s fun f => { f with oldQuiet := false }

/-- The first cell of a packet that is to be assembled is one such part (R278). -/
def noteCell (s : State) (k : Pkt) : State := if k.cls = 2 then s else noteOld s k

/-- A REQ or RSP packet at a street or avenue port: refused, ejected, or forwarded (R272, R274, R276 to R278); while a stop
runs, requests are discarded (R392). -/
def routeIn (s : State) (p l : Nat) (k : Pkt) : State :=
  let x : QPkt := ⟨k, bufKey p l, chanOf k⟩
  if k.epoch ≠ fld s aFabRtCtl 0 0 ∧ !oldOpen s then raiseF (freeBuf s x) fStale p 0
  else if 24 ≤ p ∧ k.dst ≠ thisChip s then raiseF (freeBuf s x) fAvMisdir p 0
  else if stopRuns s && k.cls == 0 then freeBuf s x
  else if k.dst = thisChip s then toInbox (noteOld s k) x
  else match routePort s k.epoch k with
    | none => raiseF (freeBuf s x) fNoRoute p 0
    | some o =>
      pushQ (noteOld s k) o { x with k := { k with vc := if portDim s p = portDim s o then k.vc else 0 } }

/-- A whole packet has arrived on a port. -/
def arrive (s : State) (p l : Nat) (k : Pkt) : State :=
  if k.cls = 2 then toInbox s ⟨k, bufKey p l, 4⟩ else routeIn s p l k

/-- A cell received and discarded under R258 is counted. -/
def malformed (s : State) (p : Nat) : State := count s (cPort p 7) 1

/-- Two cells of one packet: every header field but POS and POISON agrees (R260). -/
def samePkt (a b : Pkt) : Bool := { a with words := [] } == { b with words := [] }

/-- The packet in assembly on a lane: CTRL packets and the others have each their own. -/
def asmOf (x : Lane) (ctrl : Bool) : Option Pkt := if ctrl then x.asmC else x.asm

def setAsm (s : State) (p l : Nat) (ctrl : Bool) (a : Option Pkt) : State :=
  let x := lane s p l
  setLane s p l (if ctrl then { x with asmC := a } else { x with asm := a })

/-- The lane whose assembly a cell continues: its own, or another of the port, from which the packet has moved (R269). -/
def asmLane (s : State) (p l : Nat) (k : Pkt) : Option Nat :=
  (l :: (List.range 8).filter (· != l)).find? fun j =>
    match asmOf (lane s p j) (k.cls == 2) with
    | some a => samePkt a k
    | none => false

/-- A later cell of a packet. -/
def contCell (s : State) (p l : Nat) (last : Bool) (k : Pkt) : State :=
  match asmLane s p l k with
  | none => malformed s p
  | some j =>
    match asmOf (lane s p j) (k.cls == 2) with
    | none => malformed s p
    | some a =>
      let a1 : Pkt := { a with words := a.words ++ k.words }
      let s1 := setAsm s p j (k.cls == 2) none
      if 518 < a1.words.length then malformed s1 p
      else if last then arrive s1 p l a1
      else setAsm s1 p l (k.cls == 2) (some a1)

/-- A cell of a PACKET or CTRL frame (R258, R260). A poisoned header tells nothing, and the cell is discarded (R379). -/
def packetCell (p l : Nat) (s : State) (c : List CWord) : State :=
  match c with
  | [] => s
  | h :: ws =>
    if h.psn then malformed s p
    else if h.v = 0 then s
    else
      let k := pktOfHdr h.v (if bit h.v 21 then ws.map fun _ => ⟨0, true⟩ else ws)
      if !typeOk k.cls k.typ then malformed s p
      else match bits h.v 23 22 with
        | 0 => arrive s p l k
        | 1 => setAsm (noteCell s k) p l (k.cls == 2) (some k)
        | 2 => contCell s p l false k
        | _ => contCell s p l true k

/-- The receive buffer of circuit n is full (R281). -/
def sinkFull (s : State) (n : Nat) : Bool := decide (8 * bits (circ s n) 12 0 ≤ (smGet [] s.fab.circRx n).length)

/-- A cell of a circuit: on to every street port of OUT, and into the receive buffer where LOCAL is set (R279, R281, R282). -/
def circuitCell (n : Nat) (s : State) (c : List CWord) : State :=
  let s1 := circPut s n c
  if !bit (circ s n) 56 then s1
  else if sinkFull s n then raiseSink s1 n 0
  else modFab s1 fun f => { f with circRx := smMod [] f.circRx n (· ++ [c]) }

/-- The cells of a CIRCUIT frame (R279): it comes on the entry's arriving street port, and never on an avenue port (R274);
while a stop runs they are discarded (R392). -/
def circuitFrame (s : State) (p n : Nat) (cells : List (List CWord)) : State :=
  if stopRuns s then s
  else if !bit (circ s n) 63 || decide (24 ≤ p) || bits (circ s n) 61 57 != p then raiseF s fSink p 0
  else cells.foldl (circuitCell n) s

/-! ### Sending (R263, R264, R266) -/

/-- The oldest pending return that a lane of a port sends, as the 24 bits of the return field (R264, R312). -/
def takeRet (s : State) (p l : Nat) : Nat × State :=
  match smGet [] s.fab.rets (bufKey p l) with
  | [] => (0, s)
  | x :: t =>
    let u := min (x % 2 ^ 32) 4095
    let rest := if u < x % 2 ^ 32 then (x - u) :: t else t
    (x / 2 ^ 32 * 4096 + u, modFab s fun f => { f with rets := smSet [] f.rets (bufKey p l) rest })

/-- The tag word of a frame (R263, R265). -/
def tagWord (x : Lane) (seq kind ncell circuit : Nat) (cells : List (List CWord)) (ret : Nat) : Nat :=
  let lo := seq * 2 ^ 24 + x.rxSeq * 65536 + (if x.nak then 32768 else 0) + kind * 8192 + ncell * 1024 + circuit
  frameCrc cells lo ret * 2 ^ 32 + lo

/-- Cells filled up to 8 with NULL cells, which are zero, as filler is. -/
def fill8 (cells : List (List CWord)) : List (List CWord) :=
  cells ++ List.replicate (8 - cells.length) (List.replicate 8 ⟨0, false⟩)

/-- Counters of cells sent (R397). -/
def countCells (s : State) (p kind n : Nat) : State :=
  if kind = 1 then count s (cPort p 4) n else count (if n = 0 then s else count s (cPort p 5) n) (cPort p 6) (8 - n)

/-- A frame leaves on a lane, and is kept until it is acknowledged (R268). -/
def sendFrame (s : State) (p l kind circuit : Nat) (cells : List (List CWord)) : State :=
  let r := takeRet s p l
  let x := lane r.2 p l
  let n := if kind = 1 then cells.length - 1 else 7
  let c8 := fill8 cells
  let fr : TxFrame := ⟨x.txSeq, kind, circuit, c8, BitVec.ofNat 64 (tagWord x x.txSeq kind n circuit c8 r.1), r.1, 0⟩
  countCells (count (setLane r.2 p l { x with txSeq := (x.txSeq + 1) % 256, nak := false, held := x.held ++ [fr] }) (cPort p 0) 1)
    p kind cells.length

/-- A held frame as it leaves again: with the ACK and NAK of the moment. -/
def retag (x : Lane) (f : TxFrame) : TxFrame :=
  { f with tag := BitVec.ofNat 64 (tagWord x f.seq f.kind (bits f.tag 12 10) f.circuit f.cells f.ret) }

/-- The frame holds something other than NULL cells. -/
def worthMoving (f : TxFrame) : Bool := f.kind == 1 || f.cells.any fun c => (cellWord c 0) != 0

/-- The valid cells of a held frame. -/
def heldCells (f : TxFrame) : List (List CWord) := if f.kind = 1 then f.cells.take (bits f.tag 12 10 + 1) else f.cells

/-- Cells cut into PACKET frames. -/
def chunk8 : List (List CWord) → Nat → List MovedFrame
  | _, 0 => []
  | [], _ => []
  | cs, f + 1 => ⟨0, 0, cs.take 8⟩ :: chunk8 (cs.drop 8) f

/-- The return field of a frame that is not acknowledged waits to be sent again (R264). -/
def reRet (p : Nat) (s : State) (f : TxFrame) : State := addRet s p (f.ret / 4096) (f.ret % 4096)

/-- What a lane of a street port still has to deliver moves to the other lanes (R269); an avenue lane keeps its frames until
the beat boundary (R316, R318). -/
def moveHeld (s : State) (p l : Nat) : State :=
  if 24 ≤ p then s
  else
    let x := lane s p l
    let fs := ((x.held.filter worthMoving).map fun f => (⟨f.kind, f.circuit, heldCells f⟩ : MovedFrame)) ++ chunk8 x.out x.out.length
    let s1 := x.held.foldl (reRet p) (setLane s p l { lane0 with asm := x.asm, asmC := x.asmC })
    modFab s1 fun f => { f with moved := smMod [] f.moved p (· ++ fs) }

/-- The state of a street port against its working lanes (R269); the loss of the port starts JOB_STOP (R296). -/
def portLanes (s : State) (p : Nat) : State :=
  if 24 ≤ p || !portUp s p then s
  else
    let n := (working s p).length
    if 8 ≤ n then setFld s (aFabPort p) 15 12 1
    else if n = 7 then setFld s (aFabPort p) 15 12 2
    else stopHere (raiseF (setFld s (aFabPort p) 15 12 3) fPortDown p 0) rPort

/-- The wavelength that a lane receives on: a street lane's own, the mirror of an avenue lane's (R310, R312). -/
def rxWl (p wl : Nat) : Nat := if p < 24 then wl else (16 - wl) % 16

/-- The rings of a lane, locked with verified pilot or not (OPT_RINGOKp). -/
def setRings (s : State) (p l v : Nat) : State :=
  let wl := fld s (aOptLanel p l) 59 56
  setFld (setFld s (aOptRingok p) wl wl v) (aOptRingok p) (16 + rxWl p wl) (16 + rxWl p wl) v

/-- What the partner last reported of a lane is forgotten: the states are exchanged anew (R307). -/
def forgetPeer (s : State) (p l : Nat) : State := modOpt s fun o => { o with peer := smSet 0 o.peer (lkey p l) 0 }

/-- A lane leaves service: DOWN, or FAILED (R305 to R307, R269); its rings are no longer locked. -/
def laneOut (s0 : State) (p l st : Nat) : State :=
  let s := forgetPeer (setRings s0 p l 0) p l
  let s1 := setFld s (aOptLanel p l) 63 60 st
  let s2 := if st = 6 then addFld s1 (aOptLanel p l) 15 0 1 else s1
  if !laneUp s p l then s2
  else portLanes (moveHeld (setFld s2 (aFabPort p) (16 + l) (16 + l) 0) p l) p

/-- A lane whose frame has failed five times (R269, R305). -/
def laneFail (s : State) (p l : Nat) : State := laneOut (raiseO (raiseF s fLaneFail p 0) 3 p l 0) p l 6

/-- The frames that a lane holds leave again, the first of them having failed once more (R268, R269). -/
def resend (s : State) (p l : Nat) : State :=
  let x := lane s p l
  match x.held with
  | [] => s
  | f :: t =>
    if 4 ≤ f.fails then laneFail s p l
    else
      let hs := ({ f with fails := f.fails + 1 } :: t).map (retag x)
      count (count (setLane s p l { x with held := hs, nak := false }) (cPort p 0) hs.length) (cPort p 2) hs.length

/-! ### A frame is received (R263 to R269) -/

/-- The word that a reading gives, and whether it was corrected. -/
def rxWord : WordRx → Option (CWord × Bool)
  | .clean w => some (w, false)
  | .corrected w => some (w, true)
  | .lost => none

/-- The readings of all words, or none where a word is uncorrectable. -/
def rxWords : List (W64 × Byte) → Option (List (CWord × Bool))
  | [] => some []
  | (v, c) :: t =>
    match rxWord (readWord v c), rxWords t with
    | some w, some ws => some (w :: ws)
    | _, _ => none

/-- Words cut into cells of 8. -/
def cut8 : List CWord → Nat → List (List CWord)
  | _, 0 => []
  | ws, f + 1 => ws.take 8 :: cut8 (ws.drop 8) f

/-- A frame that is discarded asks for a resend (R268). -/
def askAgain (s : State) (p l : Nat) : State := setLane s p l { lane s p l with nak := true }

/-- Frames up to ACK are acknowledged (R268). -/
def ackHeld (s : State) (p l ack : Nat) : State :=
  let x := lane s p l
  match x.held with
  | [] => s
  | f :: _ =>
    let n := (ack + 257 - f.seq) % 256
    if n ≤ x.held.length then setLane s p l { x with held := x.held.drop n } else s

/-- The return field takes effect (R264, R271, R281). -/
def takeReturn (s : State) (p l : Nat) (ret : W32) : State :=
  let n := bits ret 11 0
  match bits ret 23 22 with
  | 1 => circReturn s (bits ret 21 12) p n
  | 2 => modFab s fun f => { f with vcUsed := smMod 0 f.vcUsed (vkeyOf p l (bits ret 21 19)) (· - n) }
  | _ => s

/-- A frame that passes R268: acknowledgements, credit, cells; the first on a bound avenue lane puts it in service (R316). -/
def acceptFrame (s : State) (p l : Nat) (tag : W64) (cells : List (List CWord)) (ret : W32) : State :=
  let s := if linkUp s p l then inService s p l else s
  let s1 := count (setLane s p l { lane s p l with rxSeq := bits tag 31 24, nak := false }) (cPort p 1) 1
  let s2 := takeReturn (ackHeld s1 p l (bits tag 23 16)) p l ret
  let s3 := if bit tag 15 then resend s2 p l else s2
  if bits tag 14 13 = 1 then circuitFrame s3 p (bits tag 9 0) (cells.take (bits tag 12 10 + 1))
  else cells.foldl (packetCell p l) s3

/-- A frame on a lane that carries traffic, or that waits for its first (R268, R316). -/
def doFrameRx (s : State) (p l : Nat) (ws : List (W64 × Byte)) (ret : BitVec 24) : State :=
  if !laneUp s p l && !linkUp s p l then s
  else match rxWords ws with
    | none => askAgain s p l
    | some rs =>
      let s1 := count s (cPort p 3) (rs.filter (·.2)).length
      let cells := cut8 ((rs.take 64).map (·.1)) 8
      match (rs[64]?) with
      | none => s1
      | some (t, _) =>
        let bad := t.psn || bits t.v 63 32 != frameCrc cells (bits t.v 31 0) ret.toNat || bits t.v 14 13 == 3 ||
          bits ret 23 22 == 3 || bits t.v 31 24 != ((lane s1 p l).rxSeq + 1) % 256
        if bad then askAgain s1 p l else acceptFrame s1 p l t.v cells (ret.setWidth 32)

/-! ### A round (R266, R267) -/

/-- Entry i of a port's calendar: the circuit that the slot names (FAB_CALp_r). -/
def calSlot (s : State) (p i : Nat) : Option Nat :=
  let w := reg s (aFabCalr p (i / 4))
  let v := bits w (16 * (i % 4) + 15) (16 * (i % 4))
  if v.testBit 15 then some (v % 1024) else none

/-- Frames for the calendar's slots in order, as many as there are positions (R266 step 1). -/
def calFrames (p : Nat) (s : State) : List Nat → Nat → State × List MovedFrame
  | [], _ => (s, [])
  | _, 0 => (s, [])
  | i :: t, room + 1 =>
    match calSlot s p i with
    | none => calFrames p s t (room + 1)
    | some n =>
      match smGet [] s.fab.circQ (p * 1024 + n) with
      | [] => calFrames p s t (room + 1)
      | cs =>
        let s1 := modFab s fun f => { f with circQ := smSet [] f.circQ (p * 1024 + n) (cs.drop 8) }
        let r := calFrames p s1 t room
        (r.1, ⟨1, n, cs.take 8⟩ :: r.2)

/-- The last reserved frame gives its position to a CTRL frame (R267). -/
def displace (s : State) (p : Nat) (fs : List MovedFrame) : State × List MovedFrame :=
  if !smGet false s.fab.displ p then (s, fs)
  else
    let s1 := modFab s fun f => { f with displ := smSet false f.displ p false }
    match fs.getLast? with
    | none => (s1, fs)
    | some x => (modFab s1 fun f => { f with circQ := smMod [] f.circQ (p * 1024 + x.circuit) (x.cells ++ ·) }, fs.dropLast)

/-- A TICK's RESID grows by its stay in this chip (R293): its word 2 holds RESID less the instant it came, and here the
instant it leaves is added. -/
def stampCtrl (s : State) (k : Pkt) : Pkt :=
  if k.typ = 0 then
    { k with words := k.words.mapIdx fun i w =>
        if i = 1 then { w with v := BitVec.ofNat 64 ((bits w.v 63 32 + 4 * s.now) % 2 ^ 32 * 2 ^ 32 + bits w.v 31 0) } else w }
  else k

/-- One CTRL frame's cells: packets from the front of queue q that fit 8 cells and the credit v of the next hop (R271). -/
def ctrlTake (s : State) (q v : Nat) : List Pkt → Nat → List (List CWord) → State × List (List CWord)
  | [], _, cs => (modFab s fun f => { f with ctrlQ := smSet [] f.ctrlQ q [], ctrlWait := smSet 0 f.ctrlWait q 0 }, cs)
  | k :: t, room, cs =>
    let n := pktCells k
    if n ≤ room ∧ smGet 0 s.fab.vcUsed v + n ≤ 16 then
      ctrlTake (modFab s fun f => { f with vcUsed := smMod 0 f.vcUsed v (· + n) }) q v t (room - n)
        (cs ++ cellsOfPkt (stampCtrl s k))
    else (modFab s fun f => { f with ctrlQ := smSet [] f.ctrlQ q (k :: t) }, cs)

/-- The cells of one CTRL frame from queue q, if any may leave. -/
def ctrlFrame (s : State) (q v : Nat) : State × List (List CWord) :=
  match smGet [] s.fab.ctrlQ q with
  | [] => (s, [])
  | l =>
    let r := ctrlTake s q v l 8 []
    if r.2.isEmpty then (s, []) else r

/-- CTRL frames of a street port for the positions left (R266 step 2). -/
def ctrlFrames (p : Nat) : State → Nat → State × List MovedFrame
  | s, 0 => (s, [])
  | s, room + 1 =>
    let r := ctrlFrame s p (vkeyOf p 0 4)
    if r.2.isEmpty then (r.1, [])
    else
      let r2 := ctrlFrames p r.1 room
      (r2.1, ⟨2, 0, r.2⟩ :: r2.2)

/-- The queue that a lane takes packets from: its port's, or, for an avenue lane, that of the position it is bound to. -/
def laneQueue (s : State) (p l : Nat) : Option Nat :=
  if p < 24 then some p
  else
    let b := boundTo s p l
    if b = 0 then none else some (avQueue (p - 24) (b - 1))

/-- The next hop's channel holds credit for a whole packet (R271). -/
def hasCredit (s : State) (p l : Nat) (x : QPkt) : Bool :=
  decide (smGet 0 s.fab.vcUsed (vkeyOf p l (chanOf x.k)) + pktCells x.k ≤ (if chanOf x.k = 4 then 16 else 96))

/-- A packet's turn on a lane comes: the first of the queue that holds credit. -/
def startPkt (s : State) (p l : Nat) : State :=
  match laneQueue s p l with
  | none => s
  | some q =>
    match (smGet [] s.fab.pktQ q).find? (hasCredit s p l) with
    | none => s
    | some x =>
      let s1 := modFab s fun f =>
        { f with pktQ := smMod [] f.pktQ q (·.erase x),
                 vcUsed := smMod 0 f.vcUsed (vkeyOf p l (chanOf x.k)) (· + pktCells x.k) }
      setLane (freeBuf s1 x) p l { lane s1 p l with out := cellsOfPkt x.k }

/-- Packet cells for one PACKET frame of a lane (R260, R266); a new packet starts only where `fresh` allows it. -/
def packetCells (p l : Nat) (fresh : Bool) : State → Nat → List (List CWord) → State × List (List CWord)
  | s, 0, cs => (s, cs)
  | s, f + 1, cs =>
    let s1 := if fresh && (lane s p l).out.isEmpty && laneUp s p l && !stopRuns s then startPkt s p l else s
    match (lane s1 p l).out with
    | [] => (s1, cs)
    | c :: t => packetCells p l fresh (setLane s1 p l { lane s1 p l with out := t }) f (cs ++ [c])

/-- The first PACKET frame of a lane that left service leaves the port's list (R269). -/
def nextMoved (s : State) (p : Nat) : Option (MovedFrame × State) :=
  match (smGet [] s.fab.moved p).find? fun x => x.kind == 0 with
  | none => none
  | some x => some (x, modFab s fun f => { f with moved := smMod [] f.moved p (·.erase x) })

/-- A PACKET frame of a lane, NULL cells where nothing waits (R266). An avenue lane sends CTRL frames first. The PACKET frames
of a lane that left service go in their order on the first lane of the port, between packets of that lane (R260, R269). -/
def packetFrame (p first : Nat) (s : State) (l : Nat) : State :=
  let c := match laneQueue s p l with
    | some q => if 24 ≤ p then ctrlFrame s q (vkeyOf p l 4) else (s, [])
    | none => (s, [])
  if !c.2.isEmpty then sendFrame c.1 p l 2 0 c.2
  else match (if l = first then nextMoved s p else none) with
    | some (x, t) =>
      if (lane s p l).out.isEmpty then sendFrame t p l 0 0 x.cells
      else
        let r := packetCells p l false s 8 []
        sendFrame r.1 p l 0 0 r.2
    | none =>
      let r := packetCells p l true s 8 []
      sendFrame r.1 p l 0 0 r.2

/-- The frames of a round dealt over its positions (R266): those given, then PACKET frames. -/
def deal (p first : Nat) : State → List Nat → List MovedFrame → State
  | s, [], _ => s
  | s, l :: ls, x :: xs => deal p first (sendFrame s p l x.kind x.circuit x.cells) ls xs
  | s, l :: ls, [] => deal p first (packetFrame p first s l) ls []

/-- CIRCUIT and CTRL frames of a lane that left service, as many as fit. -/
def movedFrames (s : State) (p room : Nat) : State × List MovedFrame :=
  let fs := smGet [] s.fab.moved p
  let go := (fs.filter fun x => x.kind != 0).take room
  (modFab s fun f => { f with moved := smSet [] f.moved p (go.foldl (·.erase ·) fs) }, go)

/-- The lane management word of a lane (R302). -/
def ownWord (s : State) (p l : Nat) : W64 :=
  let w := reg s (aOptLanel p l)
  BitVec.ofNat 64 (bits w 55 48 * 2 ^ 48 + bits w 39 32 * 2 ^ 40 + bits w 63 60 * 2 ^ 36 + l * 2 ^ 32)

/-- After every 8th round of a port, which is every 64th frame of a lane, a management word leaves on each lane that is
IN_SERVICE, in TRAINING, or READY (R302; log entry 85). -/
def sendWords (s : State) (p : Nat) : State :=
  let n := smGet 0 s.opt.rounds p + 1
  if n < 8 then modOpt s fun o => { o with rounds := smSet 0 o.rounds p n }
  else
    let ls := (List.range 8).filter fun l => let st := fld s (aOptLanel p l) 63 60; st == 3 || st == 4 || st == 5
    modOpt s fun o => { o with rounds := smSet 0 o.rounds p 0, words := smSetMany 0 o.words (ls.map fun l => (lkey p l, ownWord s p l)) }

/-- The frames of a round (R266): 8 frame times on every working lane, and on a bound avenue lane that waits for its first
frame (R316). A lane whose partner reports TRAINING sends PRBS31 in their place (R306). While
a stop runs, no packet or circuit cell is sent (R392). -/
def roundFrames (s : State) (p : Nat) : State :=
  let ls := (List.range 8).filter fun l => (laneUp s p l || linkUp s p l) && smGet 0 s.opt.peer (lkey p l) != 3
  let first := ls.headD 8
  let pos := (List.range 8).flatMap fun _ => ls
  if stopRuns s then
    let c := ctrlFrames p s pos.length
    deal p first c.1 pos c.2
  else
    let m := movedFrames s p pos.length
    let r := calFrames p m.1 (if p < 24 then List.range 64 else []) (pos.length - m.2.length)
    let d := displace r.1 p r.2
    let c := ctrlFrames p d.1 (pos.length - m.2.length - d.2.length)
    deal p first c.1 pos (m.2 ++ d.2 ++ c.2)

/-- A round of a port (R266, R302). -/
def doRound (s : State) (p : Nat) : State := sendWords (roundFrames s p) p

/-- CTRL_DISPLACE (R267): a CTRL frame has waited 2 us. -/
def doCtrlDisplace (s : State) (p : Nat) : State :=
  if (smGet [] s.fab.ctrlQ p).isEmpty then s
  else raiseF (modFab s fun f => { f with displ := smSet false f.displ p true }) fCtrlDisplace p 0

/-! ### The commands -/

/-- FRAME_RX (R268). -/
def execFrameRx (p : Fin 32) (l : Fin 8) (ws : List (W64 × Byte)) (ret : BitVec 24) (s : State) : Out :=
  if WF.frame ws then .next (doFrameRx s p l ws ret) else .fault .illFormed
/-- REPLAY_TIMEOUT (R268): ACK has not advanced for 1 us while frames are outstanding. -/
def execReplayTimeout (p : Fin 32) (l : Fin 8) (s : State) : Out := .next (if laneUp s p l then resend s p l else s)
/-- ROUND (R266). -/
def execRound (p : Fin 32) (s : State) : Out := .next (doRound s p)
/-- CTRL_DISPLACE (R267). -/
def execCtrlDisplace (p : Fin 24) (s : State) : Out := .next (doCtrlDisplace s p)

end Sys2Proof.Machine
end

