-- ==== Sys2Proof/Machine/Fabric.lean ====
section
/-! DEFINITION. Packets and circuit cells at their end (10, R284-R286, R294, R295; 15, R382, R389): WRITE, READ, REQ_SIGNAL,
ATOMIC_ADD, ACK, READ_DATA, ERROR, E2E_TIMEOUT, STOP_CELL, ECHO, ECHO_REPLY, WRITE_HEAD, CIRCUIT_SIGNAL,
CIRCUIT_DATA_CELL. -/

namespace Sys2Proof.Machine

/-! ### Taking a packet -/

/-- A packet that waits for its unit is taken, and its buffer returns credit (R264). -/
def takePkt (s : State) (k : Pkt) : State :=
  match s.fab.inbox.find? fun x => x.k == k with
  | none => s
  | some x => freeBuf (modFab s fun f => { f with inbox := f.inbox.erase x }) x

/-- The answer to a request: by routing, or on the avenue port by which the request came (R274). -/
def respond (s : State) (p : Nat) (k : Pkt) (typ : Nat) (ws : List CWord) : State :=
  let r := rspPkt s k typ ws
  if 24 ≤ p then
    match districtPos s k.src with
    | some y => pushPkt s (avQueue (p - 24) y) r
    | none => pushPkt s p r
  else inject s r

/-- A request that the target refuses (R285). -/
def refuse (s : State) (p : Nat) (k : Pkt) (cause : Nat) : State := respond s p k 3 [⟨BitVec.ofNat 64 cause, false⟩]

/-- A request that is performed. -/
def acked (s : State) (p : Nat) (k : Pkt) : State := respond s p k 1 [⟨0, false⟩]

/-- Format code, address and bytes of the address word, or the cause that refuses it (R260, R285, R379). -/
def reqAddr (k : Pkt) : Except Nat (Nat × Nat × Nat) :=
  match k.words with
  | [] => .error 1
  | w :: _ =>
    if w.psn then .error 4
    else if bits w.v 59 49 ≠ 0 ∨ bits w.v 39 0 % 8 ≠ 0 then .error 1
    else .ok (bits w.v 63 60, bits w.v 39 0, 8 * (bits w.v 48 40 + 1))

/-- The access of a request waits at its slice (R210, R211, R214, R382, R383). -/
def reqWaits (s : State) (k : Pkt) (typ : Nat) : Bool :=
  match reqAddr k with
  | .ok (_, a, n) => typ != 3 && sliceWaits s a n (typ == 1)
  | .error _ => false

/-- A REQ packet of a type comes to this chip (R259, R274, R276); while a stop runs it is discarded without an answer
(R392), and one whose access waits at its slice waits here (log entry 89). -/
def reqIn (s : State) (p : Nat) (k : Pkt) (typ : Nat) (act : State → State) : State :=
  if k.cls ≠ 0 ∨ k.typ ≠ typ then s
  else if k.dst ≠ thisChip s then (if 24 ≤ p then raiseF (takePkt s k) fAvMisdir p 0 else s)
  else if stopRuns s then takePkt s k
  else if reqWaits s k typ then s
  else act (takePkt s k)

/-- The cause that refuses an access to [a, a + n), if any (R285). -/
def addrCause (s : State) (a n : Nat) : Option Nat :=
  if isSquareAddr a then some 2 else if inMem s a n then none else some 1

/-! ### Requests at the target (R284, R285) -/

/-- WRITE. -/
def doWrite (p : Nat) (k : Pkt) (s : State) : State :=
  match reqAddr k with
  | .error c => refuse s p k c
  | .ok (afmt, a, n) =>
    if afmt ≠ 0 then refuse s p k 1
    else match addrCause s a n with
      | some c => refuse s p k c
      | none => acked (touch (writeWords s a ((k.words.drop 1).take (n / 8))) clFab a n true) p k

/-- READ: a poisoned word turns the answer into an ERROR. -/
def doRead (p : Nat) (k : Pkt) (s : State) : State :=
  match reqAddr k with
  | .error c => refuse s p k c
  | .ok (afmt, a, n) =>
    if afmt ≠ 0 then refuse s p k 1
    else match addrCause s a n with
      | some c => refuse s p k c
      | none =>
        let ws := readWords s a (n / 8)
        let s1 := touch s clFab a n false
        if ws.any (·.psn) then refuse s1 p k 4 else respond s1 p k 2 ws

/-- SIGNAL (R119, R421). -/
def doReqSignal (p : Nat) (k : Pkt) (s : State) : State :=
  match k.words with
  | [] => refuse s p k 1
  | w :: _ =>
    if w.psn then refuse s p k 4
    else if bits w.v 31 16 = 0 then refuse s p k 1
    else if (square s (bits w.v 15 0)).psn then refuse s p k 4
    else acked (sqAdd s (bits w.v 15 0) (bits w.v 31 16)) p k

/-- The format of an atomic add, if its code is one of the three. -/
def atomFmt (c : Nat) : Option Fmt :=
  let f := fmtOfCode c
  if f == .b32 || f == .hf16 || f == .int32 then some f else none

/-- ATOMIC_ADD (R98). -/
def doAtomicAdd (p : Nat) (k : Pkt) (s : State) : State :=
  match reqAddr k with
  | .error c => refuse s p k c
  | .ok (afmt, a, n) =>
    match atomFmt afmt with
    | none => refuse s p k 1
    | some f =>
      if !isSquareAddr a && !inMem s a n then refuse s p k 1
      else if !atomicRange s a n then refuse s p k 2
      else acked (atomicAdds s f a ((k.words.drop 1).take (n / 8))) p k

/-! ### Recovery from a replica (R382) -/

/-- The lines of a line or segment whose recovery still runs (R383). -/
def recovLines (s : State) (a : Nat) : List Nat := (s.stk.recov.filter fun r => r.2 == a).map (·.1)

/-- The recovery of a line or segment is over. -/
def recovOver (s : State) (a : Nat) : State := modStk s fun t => { t with recov := t.recov.filter fun r => r.2 != a }

/-- A recovery has failed (R382 step 5): the lines are installed poisoned, and JOB_STOP starts. -/
def recovFail (s : State) (a : Nat) : State :=
  stopHere ((recovLines s a).foldl (fun t l => touch (poisonRange t l 256) clFab l 256 true) (recovOver s a)) rUe

/-- Data of a replica (R382 step 4, R383): the lines whose recovery still runs are installed and dirty. -/
def recovData (s : State) (a : Nat) (ws : List CWord) : State :=
  if (recovLines s a).isEmpty then s
  else if ws.any (·.psn) then recovFail s a
  else (recovLines s a).foldl (fun t l => touch (writeWords t l ((ws.drop ((l - a) / 8)).take 32)) clFab l 256 true) (recovOver s a)

/-! ### Responses at the requester (R286) -/

/-- The live request that a response answers. -/
def findReq (s : State) (k : Pkt) : Option Req :=
  s.fab.reqs.find? fun r => r.dst == k.src && r.flow == k.flow && r.seq == k.seq

def dropReq (s : State) (r : Req) : State := modFab s fun f => { f with reqs := f.reqs.erase r }

/-- A response that matches no live request (R286). -/
def lateRsp (s : State) (p : Nat) : State := addFld (raiseF s fLateRsp p 0) aFabE2eStatus 31 0 1

/-- A request is over: what waited for it may go on (R75, R142, R231). Quarter 97 stands for the dispatcher, and the
operation then for the descriptor. -/
def reqOver (s : State) (r : Req) : State :=
  if r.q < 96 then afterStep s r.q
  else if r.q = 97 then admEnd s r.op 0 0
  else s

/-- An RSP packet of a type comes to this chip. -/
def rspIn (s : State) (p : Nat) (k : Pkt) (typ : Nat) (fits : Req → Bool) (act : Req → State → State) : State :=
  if k.cls ≠ 1 ∨ k.typ ≠ typ then s
  else if k.dst ≠ thisChip s then (if 24 ≤ p then raiseF (takePkt s k) fAvMisdir p 0 else s)
  else
    let s1 := takePkt s k
    match findReq s1 k with
    | some r => if fits r then act r (dropReq s1 r) else lateRsp s1 p
    | none => lateRsp s1 p

/-- The data of a READ waits at the slice where it is to be written (R210, R382; log entry 89). -/
def dataWaits (s : State) (k : Pkt) : Bool :=
  match findReq s k with
  | some r => r.flow != 193 && r.typ == 2 && sliceWaits s r.addr r.len true
  | none => false

/-- READ_DATA: the data is written where the READ asked for it, or added there (R98, R137). -/
def takeData (k : Pkt) (r : Req) (s : State) : State :=
  let ws := k.words.take (r.len / 8)
  if r.flow = 193 then recovData s r.addr ws
  else match r.add with
    | some fm => reqOver (atomicAdds s (fmtOfCode fm) r.addr ws) r
    | none => reqOver (touch (writeWords s r.addr ws) clQtr r.addr r.len true) r

/-- RANGE of the requesting unit's error register (R285). -/
def unitRange (s : State) (r : Req) : State :=
  if r.flow < 96 then raiseQ s r.flow eRange 13 r.addr
  else if r.flow < 192 then raiseQ s (r.flow - 96) eRange 12 r.addr
  else if r.flow = 192 then raise s .hstQ 0 0
  else raise s .mgt 0 0

/-- ERROR (R285): a READ's destination goes poisoned; every other request counts as performed. -/
def takeError (p : Nat) (r : Req) (s : State) : State :=
  let s1 := unitRange (raiseF s fRemote (p % 32) r.addr) r
  if r.flow = 193 then recovFail s1 r.addr
  else reqOver (if r.typ = 2 then poisonRange s1 r.addr r.len else s1) r

/-! ### Expiry (R389) -/

/-- The operation of an expired request retires without its signals. -/
def deadOp (s : State) (q id : Nat) : State :=
  modQuarter s q fun x => { x with ops := x.ops.map fun o => if o.id = id then { o with dead := true, after := [] } else o }

/-- The descriptor behind a request ends OVERRUN, unless something ended it before (R236, R389). -/
def overrunOf (s : State) (r : Req) : State :=
  if r.q = 97 then admEnd s r.op sOverrun 0
  else if r.flow < 192 then
    match (quarter s (r.flow % 96)).launch with
    | some l =>
      match admOf s l.id with
      | some a => admEnd s l.id sOverrun (detailNow a)
      | none => s
    | none => s
  else s

/-- A request expires. -/
def expire (s : State) (r : Req) : State :=
  let s1 := addFld (dropReq s r) aFabE2eStatus 63 32 1
  if r.flow = 193 then stopAtEnd (recovFail s1 r.addr) rE2e
  else
    let s2 := if r.typ = 2 then poisonRange s1 r.addr r.len else s1
    stopAtEnd (overrunOf (if r.q < 96 then deadOp s2 r.q r.op else s2) r) rE2e

/-- E2E_TIMEOUT (R389). -/
def doE2eTimeout (s : State) (flow seq : Nat) : State :=
  match s.fab.reqs.find? fun r => r.flow == flow && r.seq == seq with
  | none => s
  | some r => expire s r

/-! ### Control packets (R275, R294, R295) -/

/-- A CTRL packet of a type on a port that acts on it; on any other port it is discarded (R275), and so it is where a word of
it is poisoned (R379). -/
def ctrlIn (s : State) (k : Pkt) (typ : Nat) (acts : Bool) (act : State → State) : State :=
  if k.cls ≠ 2 ∨ k.typ ≠ typ then s
  else if !acts || k.words.any (·.psn) then takePkt s k
  else act (takePkt s k)

/-- A street port on which CTRL cells act, but for TICK's own condition: its ROLE is not UNUSED, and it is not EXTRA (R275). -/
def streetRole (s : State) (p : Nat) : Bool := decide (p < 24) && fld s (aFabPort p) 30 28 != 0 && portState s p != 4

/-- A street port that is enabled (R275). -/
def streetOn (s : State) (p : Nat) : Bool := streetRole s p && portEn s p

/-- Word i of a packet's payload, from 1 (R259). -/
def pword (k : Pkt) (i : Nat) : W64 := cellWord k.words (i - 1)

/-- STOP (R295): the first of the job starts JOB_STOP with the originator's chip, reason and beat (R391). -/
def doStopCell (s : State) (p : Nat) (k : Pkt) : State :=
  ctrlIn s k 1 (streetOn s p) fun t =>
    startStop t (bits (pword k 1) 23 16) (bits (pword k 1) 15 0) (pword k 2).toNat

/-- ECHO (R294): answered on its port with the identifier and the turnaround. -/
def doEcho (s : State) (p : Nat) (k : Pkt) (turn : Nat) : State :=
  ctrlIn s k 4 (streetOn s p) fun t => pushCtrl t p (ctrlPkt t 5 [pword k 1, BitVec.ofNat 64 turn])

/-- A boundary that waits for tick 0 moves with the delay that has been measured (R240). -/
def moveBoundary (s : State) (old new : Nat) : State :=
  modDisp s fun d => { d with ticks := d.ticks.map fun t => if t.1 = 0 then (0, t.2 + old - new) else t }

/-- ECHO_REPLY (R240, R294): DLY_NS is the parent's, which firmware brings, and half the round trip less the turnaround.
`rtt` is in quarter ns. -/
def doEchoReply (s : State) (p : Nat) (k : Pkt) (rtt parentDly : Nat) : State :=
  ctrlIn s k 5 (streetOn s p) fun t =>
    match t.fab.echoes.find? fun e => e.1 == p && e.2.1 == (pword k 1).toNat with
    | none => t
    | some e =>
      let old := fld t aClkAlign 63 32
      let new := parentDly + (rtt - (pword k 2).toNat) / 8
      moveBoundary (setFld (modFab t fun f => { f with echoes := f.echoes.erase e }) aClkAlign 63 32 new) old new

/-! ### Circuit sinks (R261, R262, R281, R285) -/

/-- WRITE_HEAD: the address and the count of the cells to come; a range that is refused discards them. -/
def doWriteHead (s : State) (n : Nat) (c : List CWord) : State :=
  let r := sinkCtl s n c 1
  if !r.2 then r.1
  else
    let a := bits (cellWord c 0) 47 8
    let m := bits (cellWord c 1) 31 0
    let ok := a % 64 == 0 && inMem r.1 a (64 * m)
    let s1 := sinkFree (modSink r.1 n fun k => { k with addr := a, left := m, skip := !ok }) n 1
    if ok then s1 else raiseSink s1 n a

/-- A data cell: written at its place in the transfer, or discarded with a refused one; it may wait at its slice. -/
def doDataCell (s : State) (n : Nat) (c : List CWord) : State :=
  let k := smGet sink0 s.fab.sinks n
  if !circTurn s n c then s
  else if !(bit (circ s n) 63 && bit (circ s n) 56) then raiseSink (takeCirc s n c) n 0
  else if k.dead then sinkFree (takeCirc s n c) n 1
  else if k.left = 0 || (!k.skip && sliceWaits s k.addr 64 true) then s
  else
    let s1 := modSink (takeCirc s n c) n fun x => { x with addr := x.addr + 64, left := x.left - 1 }
    sinkFree (if k.skip then s1 else touch (writeWords s1 k.addr c) clFab k.addr 64 true) n 1

/-- SIGNAL: applied after every earlier cell of the circuit; discarded after a refused transfer. -/
def doCircSignal (s : State) (n : Nat) (c : List CWord) : State :=
  let r := sinkCtl s n c 2
  if !r.2 then r.1
  else
    let skip := (smGet sink0 r.1.fab.sinks n).skip
    let s1 := sinkFree (modSink r.1 n fun k => { k with skip := false }) n 1
    if skip then s1 else sqAdd s1 (bits (cellWord c 0) 63 48) (bits (cellWord c 1) 15 0)

/-! ### The commands -/

/-- A packet command on a packet that is one. -/
def onPkt (k : Pkt) (s : State) : Out := if WF.pkt k then .next s else .fault .illFormed

/-- A cell command on a cell that is one. -/
def onCell (c : List CWord) (s : State) : Out := if WF.cell c then .next s else .fault .illFormed

/-- WRITE (R285). -/
def execWrite (p : Fin 32) (k : Pkt) (s : State) : Out := onPkt k (reqIn s p k 1 (doWrite p k))
/-- READ (R285). -/
def execRead (p : Fin 32) (k : Pkt) (s : State) : Out := onPkt k (reqIn s p k 2 (doRead p k))
/-- REQ_SIGNAL (R119, R285). -/
def execReqSignal (p : Fin 32) (k : Pkt) (s : State) : Out := onPkt k (reqIn s p k 3 (doReqSignal p k))
/-- ATOMIC_ADD (R98, R285). -/
def execAtomicAdd (p : Fin 32) (k : Pkt) (s : State) : Out := onPkt k (reqIn s p k 4 (doAtomicAdd p k))
/-- ACK (R286). -/
def execAck (p : Fin 32) (k : Pkt) (s : State) : Out :=
  onPkt k (rspIn s p k 1 (fun r => r.typ != 2) fun r t => reqOver t r)
/-- READ_DATA (R286). -/
def execReadData (p : Fin 32) (k : Pkt) (s : State) : Out := onPkt k (if dataWaits s k then s else rspIn s p k 2 (fun r => r.typ == 2) (takeData k))
/-- ERROR (R285). -/
def execError (p : Fin 32) (k : Pkt) (s : State) : Out := onPkt k (rspIn s p k 3 (fun _ => true) (takeError p))
/-- STOP_CELL (R295). -/
def execStopCell (p : Fin 32) (k : Pkt) (s : State) : Out := onPkt k (doStopCell s p k)
/-- ECHO (R294). -/
def execEcho (p : Fin 32) (k : Pkt) (turn : Nat) (s : State) : Out := onPkt k (doEcho s p k turn)
/-- ECHO_REPLY (R294). -/
def execEchoReply (p : Fin 32) (k : Pkt) (rtt parentDly : Nat) (s : State) : Out := onPkt k (doEchoReply s p k rtt parentDly)
/-- WRITE_HEAD (R261). -/
def execWriteHead (n : Fin 1024) (cell : List CWord) (s : State) : Out := onCell cell (doWriteHead s n cell)
/-- CIRCUIT_SIGNAL (R262). -/
def execCircuitSignal (n : Fin 1024) (cell : List CWord) (s : State) : Out := onCell cell (doCircSignal s n cell)
/-- CIRCUIT_DATA_CELL (R262). -/
def execCircuitDataCell (n : Fin 1024) (cell : List CWord) (s : State) : Out := onCell cell (doDataCell s n cell)
/-- E2E_TIMEOUT (R389). -/
def execE2eTimeout (flow : Fin 512) (seq : Fin 4096) (s : State) : Out := .next (doE2eTimeout s flow seq)

end Sys2Proof.Machine
end

