-- ==== Sys2Proof/Machine/Hello.lean ====
section
/-! DEFINITION. The identity exchange of two ports (10, R289, R290, R292, 11, R313): HELLO, HELLO_SIG, HELLO_RESEND, and the
results of DISCOVER. -/

namespace Sys2Proof.Machine

/-! ### Ports in the exchange

An exchange has a key: p for a street port or an UNUSED port, 64 + (p - 24) * 16 + position for an avenue port and a member
of its district. -/

/-- FAB_PORTp.ROLE. -/
def portRole (s : State) (p : Nat) : Nat := fld s (aFabPort p) 30 28

/-- A plan is loaded. -/
def planLoaded (s : State) : Bool := fld s aFabCtl 1 1 == 1

/-- PLAN_ID of the plan in force. -/
def planId (s : State) : Nat := fld s aFabCtl 63 32

/-- The role under which DISCOVER takes a port: UNUSED while no plan is loaded (R290). -/
def discoRole (s : State) (p : Nat) : Nat := if planLoaded s then portRole s p else 0

/-- Positions of the other members of the district (R311). -/
def members (s : State) : List Nat :=
  if !bit (reg s aOptAvCtl) 63 then []
  else (List.range 16).filter fun m => bit (reg s (aOptDmem m)) 31 && m != myPos s

def avKey (p pos : Nat) : Nat := 64 + (p - 24) * 16 + pos

/-- The exchanges of a port. -/
def portKeys (s : State) (p : Nat) : List Nat :=
  if p < 24 ∨ discoRole s p = 0 then [p] else (members s).map (avKey p)

/-- The exchange to which a packet on a port belongs: on an avenue port, that of the member that sent it. -/
def helloKey (s : State) (p : Nat) (k : Pkt) : Nat :=
  if p < 24 ∨ discoRole s p = 0 then p
  else match districtPos s k.src with
    | some m => avKey p m
    | none => p

def disco (s : State) (key : Nat) : Disco := smGet disco0 s.fab.disco key

def modDisco (s : State) (key : Nat) (f : Disco → Disco) : State :=
  modFab s fun x => { x with disco := smMod disco0 x.disco key f }

/-! ### Sending (R289) -/

/-- A control packet leaves on the port and, for an avenue port, toward the member of an exchange. -/
def helloOut (s : State) (p key : Nat) (k : Pkt) : State :=
  pushCtrl s (if key < 64 then p else avQueue (p - 24) (key % 16)) k

/-- HELLO: this chip, the port, PLAN_ID, the nonce. -/
def sendHello (s : State) (p key : Nat) : State :=
  let n := (disco s key).nonce
  helloOut s p key (ctrlPkt s 2 [BitVec.ofNat 64 (thisChip s + p * 65536 + planId s * 2 ^ 32), n.setWidth 64, (n >>> 64).setWidth 64])

/-- An exchange begins with a fresh nonce. While a health test of the entropy source fails there is none, and no HELLO (R371). -/
def openHello (s : State) (p key : Nat) : State :=
  let r := draw256 s
  let s1 := modDisco r.2 key fun _ => ⟨r.1.setWidth 128, s.now, none, none, true, false⟩
  if s.mgt.entropyBad then s1 else sendHello s1 p key

/-! ### Signatures (R289, R370) -/

/-- The digest of the string that HELLO_SIG signs. -/
def helloDigest (nonce : W128) (chip port plan : Nat) : Nat :=
  sha256 (leBytes 16 nonce.toNat ++ leBytes 2 chip ++ leBytes 1 port ++ leBytes 4 plan)

/-- 64 bytes as 8 payload words. -/
def sigWords (l : List Byte) : List W64 := (List.range 8).map fun i => BitVec.ofNat 64 (leNat ((l.drop (8 * i)).take 8))

/-- r and s as octets, most significant first. -/
def sigBytes (r : Nat × Nat) : List Byte := beBytes 32 r.1 ++ beBytes 32 r.2

/-- The answer to a HELLO. A part without its key answers with a signature of zeros, which no key verifies (R370). -/
def helloAnswer (s : State) (p key : Nat) (nonce : W128) : State :=
  let d := s.mgt.idPriv.toNat
  if d = 0 then helloOut s p key (ctrlPkt s 3 (sigWords (sigBytes (0, 0))))
  else
    let r := draw256 s
    let z := helloDigest nonce (thisChip s) p (planId s)
    helloOut r.2 p key (ctrlPkt r.2 3 (sigWords (sigBytes (ecSign d z r.1.toNat))))

/-! ### The partner as planned (R288, R311) -/

/-- The planned partner: chip * 256 + port. -/
def planned (s : State) (p key : Nat) : Nat :=
  if key < 64 then smGet 0 s.fab.partners p else fld s (aOptDmem (key % 16)) 15 0 * 256 + p

/-- The partner's key: X and Y. -/
def plannedKey (s : State) (p key : Nat) : Nat × Nat :=
  if key < 64 then ((smGet 0 s.fab.keys (2 * p)).toNat, (smGet 0 s.fab.keys (2 * p + 1)).toNat)
  else
    let bs := (List.range 8).flatMap fun w => leBytes 8 (reg s (aOptDkeyw (key % 16) w)).toNat
    (beNat (bs.take 32), beNat (bs.drop 32))

/-- The answer verifies: over the nonce sent, and the partner's own chip, port and plan where its HELLO has come, else those
planned. -/
def sigGood (s : State) (p key : Nat) (k : Pkt) : Bool :=
  let x := disco s key
  let bs := (List.range 8).flatMap fun i => leBytes 8 (cellWord k.words i).toNat
  let pk := plannedKey s p key
  let who := x.seen.getD (planned s p key / 256, planned s p key % 256, planId s)
  ecVerify pk.1 pk.2 (helloDigest x.nonce who.1 who.2.1 who.2.2) (beNat (bs.take 32)) (beNat (bs.drop 32))

/-! ### Results (R290) -/

/-- An exchange as planned; else the code of R290 that its HELLO or its answer earns. A member of a district must also have
passed the error-ratio test of the pair (R313); without it the spec names no code, and the model gives NO_PARTNER (log
entry 86). -/
def helloCode (s : State) (p key : Nat) : Nat :=
  let x := disco s key
  match x.seen, x.sig with
  | some (chip, port, plan), some good =>
    if plan ≠ planId s then 4
    else if chip ≠ planned s p key / 256 then 5
    else if port ≠ planned s p key % 256 then 6
    else if !good then 7 else if 64 ≤ key && !x.test then 2 else 1
  | _, _ => 2

/-- A partner has answered. -/
def helloHeard (x : Disco) : Bool := x.seen.isSome || x.sig.isSome

/-- The first member that an avenue port has not verified. -/
def unverified (s : State) (p : Nat) : Option Nat := (members s).find? fun m => helloCode s p (avKey p m) != 1

/-- RESULT of a port (R290). -/
def discoResult (s : State) (p : Nat) : Nat :=
  if discoRole s p = 0 then (if helloHeard (disco s p) then 8 else 0)
  else if p < 24 then
    let c := helloCode s p p
    if c = 2 then 2 else if (working s p).length < 7 then 3 else c
  else match unverified s p with
    | some m => helloCode s p (avKey p m)
    | none => 1

/-- The partner that FAB_DISCp names: on an avenue port, the first member not verified, or else the first. -/
def discoSeen (s : State) (p : Nat) : Nat :=
  let key := if p < 24 ∨ discoRole s p = 0 then p
    else avKey p (((unverified s p) <|> (members s).head?).getD 0)
  match (disco s key).seen with
  | some (chip, port, plan) => port % 32 * 2 ^ 48 + chip % 65536 * 2 ^ 32 + plan % 2 ^ 32
  | none => 0

/-- FAB_DISCp is written. -/
def putDisc (s : State) (p r : Nat) : State := setReg s (aFabDisc p) (BitVec.ofNat 64 (r * 2 ^ 60 + discoSeen s p))

/-- FAB_PORTp.STATE of a port that matches (R269). -/
def matchedState (s : State) (p : Nat) : Nat := if p < 24 ∧ (working s p).length < 8 then 2 else 1

/-! ### The re-exchange of a recovered port (R292) -/

/-- A recovered port's exchange is over when both cells have come: it carries traffic again, or JOB_STOP starts. -/
def rejoin (s : State) (p : Nat) : State :=
  if s.fab.discoverId.isSome || 24 ≤ p || !((disco s p).seen.isSome && (disco s p).sig.isSome) then s
  else
    let r := discoResult s p
    let s1 := modDisco (putDisc s p r) p fun _ => disco0
    if r = 1 then setFld s1 (aFabPort p) 15 12 (matchedState s1 p) else stopHere s1 rPort

/-! ### The commands -/

/-- An exchange runs, and takes HELLO and HELLO_SIG (R275). -/
def helloOpen (s : State) (key : Nat) : Bool := s.fab.discoverId.isSome || (disco s key).active

/-- HELLO (R289). -/
def doHello (s : State) (p : Nat) (k : Pkt) : State :=
  let key := helloKey s p k
  ctrlIn s k 2 (helloOpen s key) fun t =>
    let w := pword k 1
    let nonce : W128 := (pword k 2).setWidth 128 ||| (pword k 3).setWidth 128 <<< 64
    let t1 := modDisco t key fun x => { x with seen := some (bits w 15 0, bits w 20 16, bits w 63 32) }
    rejoin (helloAnswer t1 p key nonce) p

/-- HELLO_SIG (R289). -/
def doHelloSig (s : State) (p : Nat) (k : Pkt) : State :=
  let key := helloKey s p k
  ctrlIn s k 3 (helloOpen s key) fun t => rejoin (modDisco t key fun x => { x with sig := some (sigGood t p key k) }) p

/-- The set of offsets of R313 that an avenue port binds: A in the first ms, then B. -/
def setOffsets (b : Bool) : List Nat := if b then [5, 6, 7, 8, 9, 10, 11] else [1, 2, 3, 4, 12, 13, 14, 15]

/-- Position + 1 of the member at an offset, if there is one. -/
def offsetMember (s : State) (k : Nat) : Nat :=
  let m := (myPos s + k) % 16
  if (members s).contains m then m + 1 else 0

/-- An avenue lane bound to a position, for transmission on an offset's wavelength; its frames start at SEQ 0 (R312, R316). A
position that is not PRESENT is never lit (R311). -/
def bindLane (s : State) (p l k st : Nat) : State :=
  let m := offsetMember s k
  let w := if m = 0 then 0 else st * 2 ^ 60 + k * 2 ^ 56
  let s1 := setReg s (aOptLanel p l) (BitVec.ofNat 64 (w + bits (reg s (aOptLanel p l)) 55 0))
  let s2 := setLane s1 p l lane0
  { s2 with opt := { s2.opt with bound := smSet 0 s2.opt.bound (lkey (p - 24) l) m, peer := smSet 0 s2.opt.peer (lkey p l) 0 } }

/-- Every lane of an avenue port unbound; its rings keep what was verified of them (R316). -/
def unbindPort (s : State) (p : Nat) : State :=
  (List.range 8).foldl (fun t l =>
    let t1 := setFld (setFld (setFld t (aOptLanel p l) 63 56 0) (aOptLanel p l) 31 28 0) (aFabPort p) (16 + l) (16 + l) 0
    { setLane t1 p l lane0 with opt := { t1.opt with bound := smSet 0 t1.opt.bound (lkey (p - 24) l) 0 } }) s

/-- An avenue port bound to a set of offsets. -/
def bindSet (s : State) (p : Nat) (b : Bool) : State :=
  (setOffsets b).zipIdx.foldl (fun t x => bindLane t p x.2 x.1 1) (unbindPort s p)

/-- An avenue port in DISCOVER turns to set B 1 ms after the start (R313). -/
def turnSet (s : State) (p : Nat) : State :=
  let t0 := match (portKeys s p).head? with
    | some key => (disco s key).t0
    | none => s.now
  if p < 24 ∨ discoRole s p = 0 ∨ s.fab.discoverId.isNone ∨ s.now < t0 + 1000000 then s
  else if (List.range 7).all fun i => boundTo s p i == offsetMember s (i + 5) then s
  else bindSet s p true

/-- A recovered port whose exchange has had no valid HELLO and HELLO_SIG for 1 ms has NO_PARTNER, and JOB_STOP starts (R289,
R292, R296). -/
def lostPartner (s : State) (p : Nat) : State :=
  if s.fab.discoverId.isSome || 24 ≤ p || !(disco s p).active || s.now < (disco s p).t0 + 1000000 then s
  else stopHere (modDisco (putDisc s p 2) p fun _ => disco0) rPort

/-- HELLO_RESEND (R289): every exchange of the port that has had no answer. -/
def doHelloResend (s0 : State) (p : Nat) : State :=
  let s := lostPartner s0 p
  (portKeys s p).foldl (fun t key =>
    let x := disco t key
    if !x.active || x.sig.isSome || s.mgt.entropyBad then t else sendHello t p key) (turnSet s p)

/-- HELLO (R289). -/
def execHello (p : Fin 32) (k : Pkt) (s : State) : Out := onPkt k (doHello s p k)
/-- HELLO_SIG (R289). -/
def execHelloSig (p : Fin 32) (k : Pkt) (s : State) : Out := onPkt k (doHelloSig s p k)
/-- HELLO_RESEND (R289). -/
def execHelloResend (p : Fin 32) (s : State) : Out := .next (doHelloResend s p)

end Sys2Proof.Machine
end

