-- ==== Sys2Proof/Machine/Power.lean ====
section
/-! DEFINITION. Temperature and power (17, R416-R419): DIE_SENSOR_SAMPLE, POWER_SAMPLE, THERMTRIP, the junction limits and
the derate rule. Temperatures are in thousandths of a degree. -/

namespace Sys2Proof.Machine

def modMgt (s : State) (f : Mgt → Mgt) : State := { s with mgt := f s.mgt }

/-- The higher of two values that may be absent. -/
def maxOpt (a b : Option Int) : Option Int :=
  match a, b with
  | some x, some y => some (max x y)
  | some x, none => some x
  | none, y => y

/-- The highest filtered value of a list of sensors. -/
def hottest (l : SMap Sensor) : Option Int := l.foldl (fun m p => maxOpt m (filtered p.2)) none

/-- TJ_MAX and TPH_MAX (R416). -/
def tjMax (s : State) : Option Int := hottest s.mgt.tj
def tphMax (s : State) : Option Int := hottest s.opt.sens

/-- A temperature as a register field holds it, in whole degrees. -/
def tempByte (t : Option Int) : Nat :=
  match t with
  | none => 0
  | some v => if v < 0 then (Config.tempCode (v / 1000)).toNat else (v / 1000).toNat

/-- A value is at or above, or above, so many degrees. -/
def hotGe (t : Option Int) (c : Nat) : Bool := (t.map fun v => decide (((1000 * c : Nat) : Int) ≤ v)).getD false
def hotGt (t : Option Int) (c : Nat) : Bool := (t.map fun v => decide (((1000 * c : Nat) : Int) < v)).getD false

/-- The junction limits (R418): JOB_STOP in a job; outside one, D is held at 63 until the dies have cooled. -/
def thermal (s : State) : State :=
  let isOver := hotGe (tjMax s) 110 || hotGt (tphMax s) 95
  if isOver then
    if inJob s then stopHere s rThermal
    else setFld (modMgt s fun m => { m with hold := true }) aClkDerate 5 0 63
  else if hotGt (tjMax s) 100 || hotGt (tphMax s) 90 then s
  else modMgt s fun m => { m with hold := false }

/-- Range of a sample (R303, R416). -/
def sampleOk (t : Int) : Bool := decide (-40000 ≤ t) && decide (t ≤ 150000)

/-- A sensor after a sample that is out of range: it fails at the fifth in a row, and has no value then. -/
def badSample (x : Sensor) : Sensor :=
  if x.discards = 4 then ⟨[], [], 5, true⟩ else { x with discards := x.discards + 1 }

/-- A compute-die sensor after a sample in range (R416). -/
def dieSample (now : Nat) (t : Int) (x : Sensor) : Sensor :=
  let l := (t :: x.last).take 5
  { x with last := l, hist := [(now, median l)], discards := 0 }

/-- DIE_SENSOR_SAMPLE (R416): TJ_MAX follows, and the limits of R418. -/
def doDieSample (s : State) (key : Nat) (t : Int) : State :=
  let x := smGet sensor0 s.mgt.tj key
  let y := if x.failed then x else if sampleOk t then dieSample s.now t x else badSample x
  let s1 := modMgt s fun m => { m with tj := smSet sensor0 m.tj key y }
  thermal (modMgt s1 fun m => { m with tBeat := maxOpt m.tBeat (tjMax s1) })

/-- POWER_SAMPLE (R417). -/
def doPowerSample (s : State) (w : Nat) : State := modMgt s fun m => { m with pSum := m.pSum + w, pN := m.pN + 1 }

/-- Quotient rounded up. -/
def ceilDiv (a b : Nat) : Nat := (a + b - 1) / b

/-- The new derate of R417, from the derate in force, the register's, the power samples of the beat (their sum and number, so
that P_b is exact) and the beat's temperatures. -/
def derateOf (s : State) (db d0 sum n : Nat) (tb tph : Option Int) : Nat :=
  let tgt := fld s aMgtPwrCtl 27 16 - 50
  let tw := fld s aMgtPwrCtl 15 8
  let d1 := if tgt * n < sum then max d0 (min 63 (db + ceilDiv (64 * (sum - tgt * n)) sum)) else d0
  let d2 := if hotGt tb tw || hotGt tph 90 then max d1 (min 63 (db + 4)) else d1
  let d3 := if hotGe tb 105 then max d2 32 else d2
  if sum < (tgt - 100) * n ∧ !hotGt tb (tw - 5) ∧ !hotGt tph 85 ∧ db = d3 ∧ 0 < d3 then d3 - 1 else d3

/-- The mean power of the beat as P_BEAT_W holds it, in whole W (log entry 91); 0 where no sample fell in it. -/
def meanPower (s : State) : Nat := s.mgt.pSum / s.mgt.pN

/-- The end of a beat for power (R417): what MGT_PWR_STATUS reports of it, and the rule while AUTO is 1. D stays at 63 while
R418 holds it. -/
def beatPower (s : State) : State :=
  let db := s.disp.dRun
  let p := meanPower s
  let tb := s.mgt.tBeat <|> tjMax s
  let ph := s.mgt.phBeat <|> tphMax s
  let s1 := setFld (setFld (setFld s aMgtPwrStatus 63 48 p) aMgtPwrStatus 15 8 db) aMgtPwrStatus 0 0 1
  let s2 := modMgt s1 fun m => { m with pSum := 0, pN := 0, tBeat := none, phBeat := none }
  if fld s aMgtPwrCtl 31 31 = 1 ∧ !s.mgt.hold then
    setFld s2 aClkDerate 5 0 (derateOf s db (fld s aClkDerate 5 0) s.mgt.pSum (max 1 s.mgt.pN) tb ph)
  else s2

/-- DIE_SENSOR_SAMPLE (R416). -/
def execDieSensorSample (die : Fin 2) (i : Fin 52) (t : Int) (s : State) : Out := .next (doDieSample s (die * 64 + i) t)
/-- POWER_SAMPLE (R417). -/
def execPowerSample (w : Nat) (s : State) : Out := .next (doPowerSample s w)
/-- THERMTRIP (R419): THERMTRIP_N is asserted until POR_N. -/
def execThermtrip (s : State) : Out := .next (modMgt s fun m => { m with trip := true })

end Sys2Proof.Machine
end

