-- ==== Sys2Proof/Machine/Photonic.lean ====
section
/-! DEFINITION. The photonic links (11, R302-R318): sensors and ring heaters, lanes and their relock, lasers, the roll call
of a district: OPT_SENSOR_SAMPLE, RING_FEEDFORWARD, LANE_DOWN, LANE_RELOCK_END, LANE_MANAGEMENT_WORD, RX_POWER_MEASURE,
LASER_FAIL, LASER_SWAP, LASER_AGE_WARN, ANNOUNCE_BLOCK, AV_ASSIGNMENT. -/

namespace Sys2Proof.Machine

/-! ### Sensors and heaters (R303, R304, R308) -/

/-- The history that a ramp rate needs: the newest value, and those back to the first that is 100 us old. -/
def keepHist (now : Nat) : List (Nat × Int) → List (Nat × Int)
  | [] => []
  | x :: t => if x.1 + 100000 ≤ now then [x] else x :: keepHist now t

/-- A sensor after a sample in range (R303). -/
def optSample (now : Nat) (t : Int) (x : Sensor) : Sensor :=
  let l := (t :: x.last).take 3
  { x with last := l, hist := keepHist now ((now, median l) :: x.hist), discards := 0 }

/-- OPT_LANEp_l.STATE. -/
def laneSt (s : State) (p l : Nat) : Nat := fld s (aOptLanel p l) 63 60

/-- A lane is bound and not DOWN or FAILED. -/
def laneLive (s : State) (p l : Nat) : Bool := decide (1 ≤ laneSt s p l) && decide (laneSt s p l ≤ 5)

/-- A lane goes DOWN for a reason (R305): bit b of OPT_ERR. -/
def dropLane (s : State) (b p l : Nat) : State := if laneLive s p l then laneOut (raiseO s b p l 0) p l 6 else s

/-- A ring of a lane follows sensor j of its port: ring r, transmit rings first, has sensor r / 8 (R308; log entry 6). -/
def usesSensor (s : State) (p l j : Nat) : Bool :=
  let wl := fld s (aOptLanel p l) 59 56
  wl / 8 == j || (16 + rxWl p wl) / 8 == j

/-- OPT_SENSOR_SAMPLE (R303): a ramp above LANE_RATE takes the lanes whose rings use the sensor DOWN (R308);
the limits of R418 and the batches of the projector (R333) follow. -/
def doOptSample (s : State) (die i : Nat) (t : Int) : State :=
  let key := die * 64 + i
  let x := sensor s key
  let y := if x.failed then x else if sampleOk t then optSample s.now t x else badSample x
  let p := sensorPort die i
  let s1 := modOpt s fun o => { o with sens := smSet sensor0 o.sens key y }
  let s2 := if y.failed && !x.failed then raiseO s1 9 p 0 0 else s1
  let s3 := modMgt s2 fun m => { m with phBeat := maxOpt m.phBeat (tphMax s2) }
  let s4 := if rampAbove s3 key (fld s3 aOptCtl 7 0) then
      ((List.range 8).filter fun l => usesSensor s3 p l (i % 4)).foldl (fun t l => dropLane t 5 p l) s3
    else s3
  thermal (prjNote s4)

/-- The value that the rings of a sensor use: its own, or, once it has failed, the highest of the port's others (R303). -/
def ringTemp (s : State) (p i : Nat) : Option Int :=
  let ks := portSensors p
  match (ks[i]?) with
  | none => none
  | some k =>
    if (sensor s k).failed then ((ks.erase k).map fun j => filtered (sensor s j)).foldl maxOpt none else filtered (sensor s k)

/-- One ring's heater follows its sensor: ring r of a port has sensor r / 8 (log entry 6), and settings are in thousandths of
a step. -/
def feedRing (s : State) (k : Nat) : State :=
  match ringTemp s (k / 32) (k % 32 / 8) with
  | none => s
  | some v => modOpt s fun o =>
      { o with heater := smMod 0 o.heater k (· + Config.ringGain (k / 32) (k % 32) * (v - (smGet none s.opt.heatRef k).getD v)),
               heatRef := smSet none o.heatRef k (some v) }

/-- RING_FEEDFORWARD (R304): the heaters of the rings, and of the projector's phase shifters on the west die (R322). -/
def doFeedforward (s : State) : State :=
  prjFeed ((List.range 1024).foldl feedRing s) fun i => ringTemp s (sensorPort 1 i) (i % 4)

/-! ### Lanes (R302, R305 to R307, R320) -/

/-- PREFEC (R302): the greatest k up to 255 with errs / bits at most 10^(-k/10). -/
def prefec (errs bits : Nat) : Nat :=
  ((List.range 256).filter fun k => decide (errs ^ 10 * 10 ^ k ≤ bits ^ 10)).foldl max 0

/-- A bit error ratio above 10^(-e/10) (R305). -/
def berAbove (errs bits e : Nat) : Bool := decide (bits ^ 10 < errs ^ 10 * 10 ^ e)

/-- PREFEC of a receive lane. -/
def notePrefec (s : State) (p l errs bits : Nat) : State := setFld s (aOptLanel p l) 39 32 (prefec errs bits)

/-- LANE_DOWN (R305): the conditions that are found on a lane; a bit error ratio is held against OPT_CTL.DROP_EXP. -/
def doLaneDown (s : State) (p l : Nat) (c : LaneCause) : State :=
  match c with
  | .lock => dropLane s 3 p l
  | .pilot => dropLane s 2 p l
  | .ber errs bits =>
    let s1 := notePrefec s p l errs bits
    if berAbove errs bits (fld s aOptCtl 15 8) then dropLane s1 4 p l else s1

/-- A lane enters service; a street port that had failed exchanges identities before it carries traffic (R292). -/
def laneJoins (s : State) (p l : Nat) : State :=
  let s1 := portLanes (inService (setLane s p l { lane0 with asm := (lane s p l).asm, asmC := (lane s p l).asmC }) p l) p
  if portState s1 p = 3 ∧ 7 ≤ (working s1 p).length ∧ s1.fab.discoverId.isNone ∧ !(disco s1 p).active then openHello s1 p p
  else s1

/-- The partner reports its receiver READY or IN_SERVICE. -/
def peerReady (s : State) (p l : Nat) : Bool := let r := smGet 0 s.opt.peer (lkey p l); r == 4 || r == 5

/-- A verified lane: READY, and in service once the partner is; an avenue lane waits for its first frame (R316). During
DISCOVER an avenue pair has passed its error-ratio test (R313). -/
def laneGood (s : State) (p l : Nat) : State :=
  let s1 := setFld s (aOptLanel p l) 63 60 4
  if 24 ≤ p then (if boundTo s p l = 0 then s1 else modDisco s1 (avKey p (boundTo s p l - 1)) fun x => { x with test := x.active })
  else if peerReady s1 p l then laneJoins s1 p l
  else s1

/-- The sequence of R307 has failed: three times in a row, and the lane is FAILED; else it begins again. -/
def relockFailed (s : State) (p l : Nat) : State :=
  let n := smGet 0 s.opt.fails (lkey p l) + 1
  let s1 := modOpt s fun o => { o with fails := smSet 0 o.fails (lkey p l) (if 3 ≤ n then 0 else n) }
  if 3 ≤ n then laneOut s1 p l 7 else setFld s1 (aOptLanel p l) 63 60 1

/-- The rings of a wavelength of a port are locked with verified pilot, while its lasers light it (R304, R305). -/
def ringsGood (s : State) (p wl : Nat) : State :=
  if laserLit s (portBank p) wl then setFld (setFld s (aOptRingok p) wl wl 1) (aOptRingok p) (16 + rxWl p wl) (16 + rxWl p wl) 1 else s

/-- The pilots of a wavelength are verified (R305, R307): the rings count again, and a lane LOCKED on it goes to TRAINING. An
avenue lane that is DOWN stays out until the next roll call (R316). -/
def pilotGood (s : State) (p l wl : Nat) : State :=
  let s1 := ringsGood s p wl
  if laneSt s p l = 2 ∧ fld s (aOptLanel p l) 59 56 = wl ∧ laserLit s (portBank p) wl then setFld s1 (aOptLanel p l) 63 60 3 else s1

/-- LANE_RELOCK_END (R306, R307): the stages of a lane's way back, at most 100 errors in the test. -/
def doRelockEnd (s : State) (p l : Nat) (r : RelockStage) : State :=
  let st := laneSt s p l
  match r with
  | .seek => if st = 6 ∧ p < 24 then setFld s (aOptLanel p l) 63 60 1 else s
  | .locked => if st = 1 then setFld s (aOptLanel p l) 63 60 2 else s
  | .pilot wl => pilotGood s p l wl
  | .trained n =>
    if st ≠ 3 then s
    else if n ≤ 100 then laneGood (modOpt s fun o => { o with fails := smSet 0 o.fails (lkey p l) 0 }) p l
    else relockFailed s p l
  | .failed => if st = 1 ∨ st = 2 ∨ st = 3 ∨ (st = 6 ∧ p < 24) then relockFailed s p l else s

/-- The reported margin over -9.0 dBm is below OPT_CTL.MARGIN (R320); the power is signed, in 0.1 dBm. -/
def lowMargin (s : State) (w : W64) : Bool :=
  let rx : Int := (BitVec.ofNat 8 (bits w 55 48)).toInt
  decide (rx + 90 < (fld s aOptCtl 23 16 : Nat))

/-- LANE_MANAGEMENT_WORD (R302, R320): a word that fails its code is ignored. -/
def doManagementWord (s : State) (p l : Nat) (w0 : W64) (c : Byte) : State :=
  match rxWord (readWord w0 c) with
  | none => s
  | some (x, fixed) =>
  if !laneLive s p l || x.psn then s
  else
    let w := x.v
    let s := if fixed then count s (cPort p 3) 1 else s
    let s1 := modOpt (setFld s (aOptLanel p l) 47 40 (bits w 55 48)) fun o =>
      { o with peer := smSet 0 o.peer (lkey p l) (bits w 39 36) }
    let s2 := if lowMargin s w then raiseO s1 8 p l 0 else s1
    if p < 24 ∧ laneSt s2 p l = 4 ∧ peerReady s2 p l then laneJoins s2 p l else s2

/-- RX_POWER_MEASURE (R302, R320): the power, in 0.1 dBm and signed, and the bit errors before FEC of the last 100 us. -/
def doRxPower (s : State) (p l : Nat) (v : Int) (errs bits : Nat) : State :=
  setFld (notePrefec s p l errs bits) (aOptLanel p l) 55 48 (BitVec.ofInt 8 (max (-128) (min 127 v))).toNat

/-! ### Lasers (R300, R309) -/

/-- The other laser of a pair. -/
def laserMate (n : Nat) : Nat := if n % 2 = 0 then n + 1 else n - 1

/-- The lanes of a bank's 8 ports that use a wavelength, in either direction. -/
def lanesOn (s : State) (b wl : Nat) : List (Nat × Nat) :=
  ((List.range 32).filter fun p => portBank p == b).flatMap fun p =>
    ((List.range 8).filter fun l =>
      let w := fld s (aOptLanel p l) 59 56
      laneSt s p l != 0 && (w == wl || rxWl p w == wl)).map fun l => (p, l)

/-- Both lasers of a wavelength have failed: it is dark on all 8 ports. -/
def darken (s : State) (b wl : Nat) : State :=
  let s1 := (lanesOn s b wl).foldl (fun t x => if x.1 < 24 then laneOut t x.1 x.2 7 else t) s
  ((List.range 32).filter fun p => portBank p == b).foldl (fun t p =>
    setFld (setFld t (aOptRingok p) wl wl 0) (aOptRingok p) (16 + wl) (16 + wl) 0) s1

/-- LASER_FAIL (R309). -/
def doLaserFail (s : State) (n : Nat) : State :=
  if laserState s n = 0 ∨ laserState s n = 4 then s
  else
    let b := n / 32
    let wl := n % 32 / 2
    let s1 := setFld (raiseO s 6 0 0 n) (aOptLaser n) 31 29 4
    let s2 := if laserActive s n then (lanesOn s1 b wl).foldl (fun t x => if laneLive t x.1 x.2 then laneOut t x.1 x.2 6 else t) s1 else s1
    prjNote (if laserState s2 (laserMate n) = 4 then darken s2 b wl else s2)

/-- The mate of a laser becomes ACTIVE in its place, if it is in STANDBY. -/
def swapLaser (s : State) (n : Nat) : State :=
  let m := laserMate n
  if laserActive s n && laserState s m == 3 then
    setFld (setFld (setFld s (aOptLaser n) 28 28 0) (aOptLaser m) 28 28 1) (aOptLaser m) 31 29 2
  else s

/-- LASER_SWAP (R309): laser n has failed, and its spare is ready. -/
def doLaserSwap (s : State) (n : Nat) : State := if laserState s n = 4 then swapLaser s n else s

/-- LASER_AGE_WARN (R309). -/
def doLaserAge (s : State) (n : Nat) : State :=
  raiseO (setFld (setFld s (aOptLaser n) 27 27 1) (aOptLaser n) 15 8 (max 85 (fld s (aOptLaser n) 15 8))) 7 0 0 n

/-- Warned lasers give way to their spares before DISCOVER; the laser that leaves is kept in STANDBY (R309). -/
def swapWarned (s : State) : State :=
  ((List.range 128).filter fun n => laserActive s n && fld s (aOptLaser n) 27 27 == 1 && laserState s n == 2).foldl (fun t n =>
    let t1 := swapLaser t n
    if laserActive t1 n then t1 else setFld t1 (aOptLaser n) 31 29 3) s

/-! ### The roll call (R314 to R318) -/

/-- The ring-pair mask of a port; 0 for a port not enabled. -/
def ringMask (s : State) (p : Nat) : Nat := if portEn s p then fld s (aOptRingok p) 15 0 &&& fld s (aOptRingok p) 31 16 else 0

/-- Values of w bits packed from bit 0. -/
def packFields (w : Nat) (l : List Nat) : W64 := BitVec.ofNat 64 (l.foldr (fun x n => n * 2 ^ w + x % 2 ^ w) 0)

/-- This chip's announce block for a plane (R314). -/
def ownBlock (s : State) (plane : Nat) : List W64 :=
  let mask := fun i => ringMask s (24 + i)
  let dem := fun y => smGet 0 s.opt.demand y
  let w0 := BitVec.ofNat 64 (thisChip s * 2 ^ 48 + myPos s * 2 ^ 44 + plane * 2 ^ 40 + 0x41 * 2 ^ 32 + beatNum s % 2 ^ 32)
  let ws := [w0, packFields 16 ((List.range 4).map mask), packFields 16 ((List.range 4).map fun i => mask (4 + i))] ++
    ((List.range 4).map fun j => packFields 16 ((List.range 4).map fun i => dem (4 * j + i))) ++
    [packFields 4 ((List.range 16).map fun y => smGet 0 s.opt.age y)]
  ws ++ [BitVec.ofNat 64 (crc32 (ws.map fun w => (w.toNat, 64)))]

/-- An announce block counts as heard (R314). -/
def blockOk (s : State) (ws : List W64) : Bool :=
  let w0 := (ws[0]?).getD 0
  let m := reg s (aOptDmem (bits w0 47 44))
  bits ((ws[8]?).getD 0) 31 0 == crc32 ((ws.take 8).map fun w => (w.toNat, 64)) && bits w0 31 0 == beatNum s % 2 ^ 32 &&
    bit m 31 && bits m 15 0 == bits w0 63 48

/-- The avenue ports of the district that are enabled. -/
def avPorts (s : State) : List Nat := if bit (reg s aOptAvCtl) 63 then ((List.range 8).map (24 + ·)).filter (portEn s) else []

/-- The announce block leaves on every bound lane of a port; it is sent 4 times there (R314). -/
def sendBlocks (s : State) (p : Nat) : State :=
  let ls := (List.range 8).filter fun l => boundTo s p l != 0
  modOpt s fun o => { o with announced := smSetMany [] o.announced (ls.map fun l => (lkey (p - 24) l, ownBlock s (p - 24))) }

/-- A set of offsets is bound on every avenue port, and the block announced on it (R314). -/
def rollSet (s : State) (b : Bool) : State := (avPorts s).foldl (fun t p => sendBlocks (bindSet t p b) p) s

/-- Set B follows 1.2 us after the start of the beat, at the latest before the assignment (R314). -/
def rollTurn (s : State) (due : Bool) : State :=
  if s.opt.roll && !s.opt.setB && (due || decide (s.disp.beatStart + 1200 ≤ s.now)) then
    rollSet (modOpt s fun o => { o with setB := true }) true
  else s

/-- ANNOUNCE_BLOCK (R314): a block with an uncorrectable or poisoned word is not heard. -/
def doAnnounce (s0 : State) (p : Nat) (xs : List (W64 × Byte)) : State :=
  let s := rollTurn s0 false
  match rxWords xs with
  | none => s
  | some rs =>
    let ws := rs.map (·.1.v)
    let s1 := count s (cPort (24 + p) 3) (rs.filter (·.2)).length
    if s.opt.roll && !(rs.any (·.1.psn)) && blockOk s ws then
      modOpt s1 fun o => { o with blocks := smSet [] o.blocks (bits ((ws[0]?).getD 0) 47 44) ws }
    else s1

/-- R318 on one lane: frames neither sent nor acknowledged are dropped and counted; a bound pair that accepted no frame is
reported (R316). -/
def dropFrames (p : Nat) (s : State) (l : Nat) : State :=
  let s1 := if linkUp s p l then raiseO s 11 p l 0 else s
  let x := lane s1 p l
  let n := x.held.length + (x.out.length + 7) / 8
  setLane (if n = 0 then s1 else count s1 1403 n) p l lane0

/-- R318 on the packets that wait for a position on a plane. -/
def dropQueue (s : State) (k : Nat) : State :=
  let n := (queuedCells s k + 7) / 8
  modFab (if n = 0 then s else count s 1403 n) fun f => { f with pktQ := smSet [] f.pktQ k [] }

/-- R318: avenue cells never cross a beat boundary; the next hops' buffers count afresh. -/
def avenueDrop (s : State) : State :=
  let s1 := (avPorts s).foldl (fun t p => (List.range 8).foldl (dropFrames p) t) s
  let s2 := if (avPorts s).isEmpty then s1 else ((List.range 128).map (100 + ·) ++ (List.range 16).map (300 + ·)).foldl dropQueue s1
  let mine := fun (b : Nat) => decide (64 ≤ b) && (avPorts s).contains ((b - 64) / 8)
  modFab s2 fun f => { f with vcUsed := f.vcUsed.filter fun x => !mine (x.1 / 8), rets := f.rets.filter fun x => !mine x.1 }

/-- The roll call opens with the beat (R314): the demand of the beat before is announced, and set A bound; set B follows. -/
def rollCall (s : State) : State :=
  if (avPorts s).isEmpty then modOpt s fun o => { o with offered := [] }
  else
    let dem := (List.range 16).map fun y => (y, min 65535 (ceilDiv (smGet 0 s.opt.offered y) 64))
    let s1 := modOpt s fun o => { o with demand := smSetMany 0 [] dem, offered := [], blocks := [], roll := true, setB := false,
                                         announced := [], carried := [] }
    let s2 := rollSet s1 false
    modOpt s2 fun o => { o with blocks := smSet [] o.blocks (myPos s2) (ownBlock s2 0) }

/-- The assignment in hand: r by 16 * i + j, free lanes by 8 * x + p, the pairs carried, in order. -/
structure AvAcc where
  r : List (Nat × Nat)
  free : SMap Nat
  carry : List (Nat × Nat)
  deriving DecidableEq, Repr

/-- Demand, age and mask of a member as its block gives them; all zero where it was not heard. -/
def blkWord (s : State) (x i : Nat) : W64 := ((smGet [] s.opt.blocks x)[i]?).getD 0
def avDemand (s : State) (x y : Nat) : Nat := bits (blkWord s x (3 + y / 4)) (16 * (y % 4) + 15) (16 * (y % 4))
def avAge (s : State) (x y : Nat) : Nat := bits (blkWord s x 7) (4 * y + 3) (4 * y)
def avMask (s : State) (x p : Nat) : Nat := bits (blkWord s x (1 + p / 4)) (16 * (p % 4) + 15) (16 * (p % 4))

/-- The rings of a pair's offset are good at both ends of a plane. -/
def pairGood (s : State) (i j p : Nat) : Bool :=
  let k := (j + 16 - i) % 16
  [avMask s i p, avMask s j p].all fun m => m.testBit k && m.testBit (16 - k)

def avFree (a : AvAcc) (x p : Nat) : Nat := smGet 8 a.free (8 * x + p)

/-- A pair carried on a plane. -/
def carry (a : AvAcc) (ij p : Nat) : AvAcc :=
  { a with free := smMod 8 (smMod 8 a.free (8 * (ij / 16) + p) (· - 1)) (8 * (ij % 16) + p) (· - 1), carry := a.carry ++ [(ij, p)] }

/-- r of a pair changed. -/
def setR (a : AvAcc) (ij : Nat) (f : Nat → Nat) : AvAcc := { a with r := a.r.map fun x => if x.1 = ij then (ij, f x.2) else x }

/-- The baseline lane of a pair (R315). -/
def baseline (s : State) (a : AvAcc) (ij : Nat) : AvAcc :=
  let k := (ij % 16 + 16 - ij / 16) % 16
  let p := min k (16 - k) - 1
  if pairGood s (ij / 16) (ij % 16) p then carry a ij p else setR a ij (max · 1)

/-- The pair with the largest r above 0; ties go to the smallest index, which comes first. -/
def largest (l : List (Nat × Nat)) : Option (Nat × Nat) :=
  l.foldl (fun m x => match m with
    | some b => if b.2 < x.2 then some x else m
    | none => if 0 < x.2 then some x else none) none

/-- One turn of R315's loop; none when it stops. -/
def assignStep (s : State) (a : AvAcc) : Option AvAcc :=
  match largest a.r with
  | none => none
  | some (ij, _) =>
    let i := ij / 16
    let j := ij % 16
    some (match (List.range 8).find? fun p =>
        !(a.carry.contains (ij, p)) && decide (0 < avFree a i p) && decide (0 < avFree a j p) && pairGood s i j p with
      | none => setR a ij fun _ => 0
      | some p => setR (carry a ij p) ij (· - fld s aOptAvCtl 47 32))

/-- The loop; each turn ends a pair or takes a lane, so 1,100 turns are enough. -/
def assignLoop (s : State) : Nat → AvAcc → AvAcc
  | 0, a => a
  | n + 1, a =>
    match assignStep s a with
    | none => a
    | some b => assignLoop s n b

/-- Present positions. -/
def present (s : State) : List Nat := (List.range 16).filter fun m => bit (reg s (aOptDmem m)) 31

/-- The pairs i < j of present members as 16 * i + j, in ascending order. -/
def avPairs (s : State) : List Nat :=
  (present s).flatMap fun i => ((present s).filter fun j => decide (i < j)).map fun j => 16 * i + j

/-- The assignment of R315: (16 * i + j, plane), in the order in which pairs were carried. -/
def assignment (s : State) : List (Nat × Nat) :=
  let w := fld s aOptAvCtl 31 16
  let r := (avPairs s).map fun ij =>
    let i := ij / 16
    let j := ij % 16
    (ij, avDemand s i j + avDemand s j i + w * (avAge s i j + avAge s j i))
  (assignLoop s 1100 ((avPairs s).foldl (baseline s) ⟨r, [], []⟩)).carry

/-- The other end of a pair that this chip belongs to. -/
def pairMate (s : State) (ij : Nat) : Option Nat :=
  if ij / 16 = myPos s then some (ij % 16) else if ij % 16 = myPos s then some (ij / 16) else none

/-- A carried pair bound on its plane, on the lowest free lane (R312). -/
def bindPair (s : State) (x : Nat × Nat) : State :=
  let p := 24 + x.2
  match pairMate s x.1, (List.range 8).find? fun l => boundTo s p l == 0 with
  | some y, some l =>
    let k := (y + 16 - myPos s) % 16
    let s1 := setFld (bindLane s p l k 4) (aOptLanel p l) 31 28 k
    modOpt s1 fun o => { o with carried := smMod [] o.carried y (· ++ [x.2]) }
  | _, _ => s

/-- Packets that waited for a plane are steered (R317). -/
def steerWaiting (s : State) (y : Nat) : State :=
  let l := smGet [] s.fab.pktQ (300 + y)
  let s1 := modFab s fun f => { f with pktQ := smSet [] f.pktQ (300 + y) [] }
  l.foldl (fun t x => let q := avSteer t y; modFab t fun f => { f with pktQ := smMod [] f.pktQ q (· ++ [x]) }) s1

/-- The age toward a position after an assignment (R315). -/
def nextAge (s : State) (y : Nat) : Nat :=
  if smGet [] s.opt.carried y ≠ [] then 0
  else if 0 < smGet 0 s.opt.demand y then min (smGet 0 s.opt.age y + 1) 15
  else 0

/-- Members heard, but this chip. -/
def heard (s : State) : List Nat := (members s).filter fun m => smGet [] s.opt.blocks m != []

/-- Positions as a bit mask. -/
def posMask (l : List Nat) : Nat := l.foldl (fun n m => n ||| 2 ^ m) 0

/-- AV_ASSIGNMENT (R315, R316): the members not heard are counted and reported, the pairs of this chip are bound. -/
def doAssignment (s0 : State) : State :=
  if !s0.opt.roll then s0
  else
    let s := rollTurn s0 true
    let miss := (members s).length - (heard s).length
    let s1 := if miss = 0 then s else raiseO (count s 1404 miss) 10 0 0 0
    let s2 := modOpt ((avPorts s1).foldl unbindPort s1) fun o => { o with roll := false, carried := [] }
    let s3 := (assignment s2).foldl bindPair s2
    let s4 := modOpt s3 fun o => { o with age := smSetMany 0 [] ((List.range 16).map fun y => (y, nextAge s3 y)) }
    let car := (List.range 16).filter fun y => smGet [] s4.opt.carried y != []
    let w := posMask (heard s) * 2 ^ 48 + posMask car * 2 ^ 32 + beatNum s % 2 ^ 32
    (List.range 16).foldl steerWaiting (setReg s4 aOptAvStatus (BitVec.ofNat 64 w))

/-! ### The commands -/

/-- OPT_SENSOR_SAMPLE (R303). -/
def execOptSensorSample (die : Fin 2) (i : Fin 64) (t : Int) (s : State) : Out := .next (doOptSample s die i t)
/-- RING_FEEDFORWARD (R304). -/
def execRingFeedforward (s : State) : Out := .next (doFeedforward s)
/-- LANE_DOWN (R305). -/
def execLaneDown (p : Fin 32) (l : Fin 8) (cause : LaneCause) (s : State) : Out := .next (doLaneDown s p l cause)
/-- LANE_RELOCK_END (R307). -/
def execLaneRelockEnd (p : Fin 32) (l : Fin 8) (r : RelockStage) (s : State) : Out := .next (doRelockEnd s p l r)
/-- LANE_MANAGEMENT_WORD (R302). -/
def execLaneManagementWord (p : Fin 32) (l : Fin 8) (w : W64 × Byte) (s : State) : Out :=
  .next (doManagementWord s p l w.1 w.2)
/-- RX_POWER_MEASURE (R320). -/
def execRxPowerMeasure (p : Fin 32) (l : Fin 8) (m : RxMeasure) (s : State) : Out :=
  .next (doRxPower s p l m.power m.errs m.bits)
/-- LASER_FAIL (R309). -/
def execLaserFail (n : Fin 128) (s : State) : Out := .next (doLaserFail s n)
/-- LASER_SWAP (R309). -/
def execLaserSwap (n : Fin 128) (s : State) : Out := .next (doLaserSwap s n)
/-- LASER_AGE_WARN (R309). -/
def execLaserAgeWarn (n : Fin 128) (s : State) : Out := .next (doLaserAge s n)
/-- ANNOUNCE_BLOCK (R314). -/
def execAnnounceBlock (p : Fin 8) (_l : Fin 8) (ws : List (W64 × Byte)) (s : State) : Out :=
  if WF.announce ws then .next (doAnnounce s p ws) else .fault .illFormed
/-- AV_ASSIGNMENT (R315). -/
def execAvAssignment (s : State) : Out := .next (doAssignment s)

end Sys2Proof.Machine
end

