-- ==== Sys2Proof/Machine/FabricCfg.lean ====
section
/-! DEFINITION. Configuration of the fabric (10, R278-R281, R287-R292, R297; 15, R387): the checks of the routing, circuit
and calendar registers, plans, DISCOVER: WRITE_RT, WRITE_CIRC, WRITE_CAL, FLIP, DISCOVER, DISCOVER_END, LOAD_PLAN,
ENTROPY_HEALTH_FAIL. -/

namespace Sys2Proof.Machine

/-! ### Table registers (R276, R278 to R281)

Each writer answers whether the write took effect. -/

/-- A routing entry (R278, FAB_RTb_e). -/
def rteWrite (s : State) (b e : Nat) (v : W64) : State × Bool :=
  let off := aFabRte b e
  if b = fld s aFabRtCtl 0 0 ∨ oldOpen s then (raiseF s fActiveBank 0 off, false)
  else if (bit v 63 && bits v 55 32 == 0) || decide (bits v 31 16 < bits v 15 0) then (rangeErr s .fab off, false)
  else (setReg s off (writeFlds (fldsAt off) true (reg s off) v).1, true)

/-- The registers of a table, which reset to 0: those that are not 0. -/
def regsIn (s : State) (lo n : Nat) : List (Nat × W64) := s.regs.filter fun p => decide (lo ≤ p.1) && decide (p.1 < lo + n)

/-- The four slots of a calendar register. -/
def slotsOf (w : W64) : List Nat := (List.range 4).map fun i => bits w (16 * i + 15) (16 * i)

/-- The street ports whose calendars name a circuit. -/
def portsNaming (s : State) (n : Nat) : List Nat :=
  ((regsIn s (aFabCalr 0 0) 3072).filter fun p => (slotsOf p.2).any fun x => x.testBit 15 && x % 1024 == n).map fun p =>
    (p.1 - aFabCalr 0 0) / 128

/-- CRED_U over the sink entries but circuit n. -/
def sinkPool (s : State) (n : Nat) : Nat :=
  (((regsIn s (aFabCirc 0) 8192).filter fun p => p.1 != aFabCirc n && bit p.2 63 && bit p.2 56).map fun p => bits p.2 12 0).foldl (· + ·) 0

/-- A circuit entry is in range (R280, R281). A CRED_U that is not 0 at a transit point is no reason of R280: such an entry
is accepted, and the field has no effect there (log entry 73). -/
def circLegal (s : State) (n : Nat) (v : W64) : Bool :=
  let named := portsNaming s n
  !(decide (24 ≤ bits v 61 57) && decide (bits v 61 57 ≤ 30)) && decide (bits v 12 0 ≤ 4096) &&
    (if bit v 63 then
      ((List.range 24).all fun p => !bit v (32 + p) || portEn s p) && (named.all fun p => bit v (32 + p)) &&
        (!bit v 56 || decide (sinkPool s n + bits v 12 0 ≤ 4096))
    else named.isEmpty)

/-- Credit and counts of a circuit as at its enable (R281). -/
def circFresh (s : State) (n : Nat) : State :=
  let w := circ s n
  let f := s.fab
  let keep := fun (k : Nat) => k % 1024 != n
  { s with fab := { f with
    cred := smSet 0 f.cred n (if bit w 63 && bits w 61 57 == 31 then 8 * bits w 12 0 else 0),
    sinks := smSet sink0 f.sinks n sink0, circRx := smSet [] f.circRx n [], circSrc := smSet [] f.circSrc n [],
    srcLeft := smSet 0 f.srcLeft n 0, treeSent := smSet 0 f.treeSent n 0, treeRet := f.treeRet.filter fun p => keep p.1,
    circQ := f.circQ.filter fun p => keep p.1 } }

/-- A circuit entry is written (R280, R281). -/
def circWr (s : State) (n : Nat) (v : W64) : State × Bool :=
  let ok := circLegal s n v && !inJob s
  let s1 := regPut s .fab (aFabCirc n) (fldsAt (aFabCirc n)) (!inJob s) (circLegal s n v) v
  (if ok then circFresh s1 n else s1, ok)

/-- A calendar register is in range (R280). A slot whose bits [14:10] are not zero is out of range (log entry 72). -/
def calLegal (s : State) (p r : Nat) (v : W64) : Bool :=
  ((slotsOf v).all fun x => x / 1024 % 32 == 0 && (!x.testBit 15 || (bit (circ s (x % 1024)) 63 && bit (circ s (x % 1024)) (32 + p)))) &&
    decide (((((List.range 16).map fun i => if i = r then v else reg s (aFabCalr p i)).flatMap slotsOf).filter (·.testBit 15)).length ≤ 56)

/-- A calendar register is written. -/
def calWr (s : State) (p r : Nat) (v : W64) : State × Bool :=
  let off := aFabCalr p r
  (regPut s .fab off (fldsAt off) (!inJob s) (calLegal s p r v) v, calLegal s p r v && !inJob s)

/-- An entry of a FABRIC_CFG write operation (R297). -/
def cfgEntry (op : Nat) (s : State) (i : Nat) (v : W64) : State × Bool :=
  match op with
  | 0 => rteWrite s (1 - fld s aFabRtCtl 0 0) i v
  | 1 => circWr s i v
  | _ => calWr s (i / 16) (i % 16) v

/-! ### FABRIC_CFG (R297) -/

/-- The FABRIC_CFG of an operation that is next: one that has started, or the first of the running beat. -/
def fcNext (s : State) (op : Nat) : Option Adm :=
  if s.disp.cut && inJob s then none
  else (s.disp.adms.find? fun a => dType a.raw == 6 && fcOp a.raw == op && a.started && a.status.isNone) <|>
    firstAdm s 6 fun a => fcOp a.raw == op

/-- The operation starts: the checks on the job state and OLD_OPEN are made again. -/
def fcStart (s : State) (a : Adm) (act : State → State) : State :=
  match (if a.started then none else fcStateStatus s (fcOp a.raw)) with
  | some st => admEnd s a.id st 0
  | none => act (modAdm s a.id fun x => { x with started := true })

/-- Entries written from index i on, until one fails or COUNT are done. -/
def cfgEntries (op id first cnt : Nat) : List W64 → Nat → State → State
  | [], i, s => if i = cnt then admEnd s id 0 cnt else s
  | w :: t, i, s =>
    if cnt ≤ i then admEnd s id 0 cnt
    else
      let r := cfgEntry op s (first + i) w
      if r.2 then cfgEntries op id first cnt t (i + 1) (modAdm r.1 id fun x => { x with moved := i + 1 })
      else admEnd r.1 id sIllegalField i

/-- A write operation goes on with what a host read brought. -/
def fcWrite (s : State) (op : Nat) (d : Answer (List W64)) : State :=
  match fcNext s op with
  | none => s
  | some a => fcStart s a fun t =>
      match d with
      | .data ws => cfgEntries op a.id (fcFirst a.raw) (fcCount a.raw) ws a.moved (count t 1410 ((8 * ws.length + 63) / 64))
      | .poison => admEnd (poisonRx t 0) a.id sHostErr a.moved
      | .error e => admEnd (pcieReport t e) a.id sHostErr a.moved

/-! ### FLIP (R278) -/

/-- Cells of the inactive epoch in the router (FAB_RT_CTL.INFLIGHT_OLD): of packets that wait, are in assembly, or go out. -/
def inflightOld (s : State) : Nat :=
  let act := fld s aFabRtCtl 0 0
  let ks := ((s.fab.pktQ.flatMap (·.2)) ++ s.fab.inbox).filter fun x => x.k.epoch != act && x.k.cls != 2
  let asm := (s.fab.lanes.filterMap (·.2.asm)).filter fun k => k.epoch != act
  let moved := (s.fab.moved.flatMap (·.2)).flatMap fun f => if f.kind = 0 then f.cells.filter fun c => (cellWord c 0) != 0 else []
  let out := ((s.fab.lanes.flatMap (·.2.out)) ++ moved).filter fun c => bits (cellWord c 0) 28 28 != act
  ((ks.map (·.k) ++ asm).map pktCells).foldl (· + ·) 0 + out.length

/-- A FLIP waits for a beat not yet started. -/
def flipWaits (s : State) : Bool :=
  s.disp.adms.any fun a => dType a.raw == 6 && fcOp a.raw == 3 && !a.started && a.status.isNone && decide (beatNum s < a.beat)

/-- FLIP: the banks change places. -/
def flipBanks (s : State) : State :=
  let s1 := setFld (setFld s aFabRtCtl 0 0 (1 - fld s aFabRtCtl 0 0)) aFabRtCtl 2 2 1
  modFab s1 fun f => { f with oldQuiet := inflightOld s1 == 0 }

def doFlip (s : State) : State :=
  match fcNext s 3 with
  | none => s
  | some a =>
    let s1 := fcStart s a fun t => admEnd (flipBanks t) a.id 0 0
    setFld s1 aFabRtCtl 1 1 (if flipWaits s1 then 1 else 0)

/-- OLD_OPEN at a beat boundary: 0 once a whole beat has passed with no cell of the inactive epoch. -/
def closeOld (s : State) : State :=
  let quiet := inflightOld s == 0
  let s1 := if s.fab.oldQuiet && quiet then setFld s aFabRtCtl 2 2 0 else s
  modFab s1 fun f => { f with oldQuiet := quiet }

/-! ### Ports of a plan -/

/-- A street lane on its wavelength, to be verified (R306, R310); FAILED on a wavelength that is dark (R309). -/
def seekLane (p : Nat) (s : State) (l : Nat) : State :=
  let wl := fld s (aOptStlmap p) (4 * l + 3) (4 * l)
  let dark := laserState s (32 * portBank p + 2 * wl) == 4 && laserState s (32 * portBank p + 2 * wl + 1) == 4
  modOpt (setFld (setFld s (aOptLanel p l) 63 60 (if dark then 7 else 1)) (aOptLanel p l) 59 56 wl) fun o =>
    { o with peer := smSet 0 o.peer (lkey p l) 0, fails := smSet 0 o.fails (lkey p l) 0 }

/-- A lane of a port that is not enabled is OFF (R306). -/
def offLane (p : Nat) (s : State) (l : Nat) : State := setLane (setFld s (aOptLanel p l) 63 56 0) p l lane0

/-- What FAB_PORTp leaves of a port whose EN has changed: its lanes out of service, those of an enabled street port seeking
their lines. -/
def portChanged (s : State) (p : Nat) : State :=
  let s1 := (List.range 8).foldl (offLane p) (setFld (setFld s (aFabPort p) 23 16 0) (aFabPort p) 15 12 0)
  if p < 24 ∧ portEn s p then (List.range 8).foldl (seekLane p) s1 else s1

/-! ### LOAD_PLAN (R272, R288, R387) -/

/-- n bytes of a plan from offset o, as a number. -/
def plB (d : List Byte) (o n : Nat) : Nat := leNat ((d.drop o).take n)

/-- Every byte from o on, n of them, is 0. -/
def plZero (d : List Byte) (o n : Nat) : Bool := ((d.drop o).take n).all (· == 0)

/-- Lengths and coordinates of an axis: 0 X, 1 Y, 2 Z. -/
def plLen (d : List Byte) (a : Nat) : Nat := plB d (6 + a) 1 + 1
def plCoord (d : List Byte) (a : Nat) : Nat := plB d (9 + a) 1
def plRing (d : List Byte) (a : Nat) : Bool := (plB d 12 1).testBit a

/-- The entry of a port. -/
def plEntry (d : List Byte) (p : Nat) : List Byte := (d.drop (64 + 128 * p)).take 128
def plRole (d : List Byte) (p : Nat) : Nat := plB (plEntry d p) 3 1

/-- DATELINE as R272 wants it. -/
def plDateline (d : List Byte) (role : Nat) : Nat :=
  if role = 0 ∨ 7 ≤ role then 0
  else
    let a := (role - 1) / 2
    if plRing d a ∧ plCoord d a = (if role % 2 = 1 then plLen d a - 1 else 0) then 1 else 0

/-- A port entry passes. -/
def entryOk (d : List Byte) (p : Nat) : Bool :=
  let e := plEntry d p
  let role := plB e 3 1
  if p < 24 then decide (role ≤ 6) && decide (plB e 2 1 ≤ 31) && plZero e 5 59 && plB e 4 1 == plDateline d role
  else (role == 0 || role == 7) && plZero e 0 3 && plZero e 4 124

/-- Ports of a role. -/
def roleCount (d : List Byte) (role : Nat) : Nat := ((List.range 24).filter fun p => plRole d p == role).length

/-- A plan passes R288. -/
def planOk (d : List Byte) : Bool :=
  plB d 0 4 != 0 && ((List.range 3).all fun a => decide (plLen d a ≤ 64) && decide (plCoord d a < plLen d a)) &&
    decide (plLen d 0 * plLen d 1 * plLen d 2 ≤ 65536) && decide (plB d 12 1 < 8) && plZero d 13 51 &&
    ((List.range 32).all (entryOk d)) &&
    ((List.range 3).all fun a => !plRing d a || roleCount d (2 * a + 1) == roleCount d (2 * a + 2))

/-- One port of a plan is written. -/
def planPort (d : List Byte) (s : State) (p : Nat) : State :=
  let e := plEntry d p
  let role := plB e 3 1
  let w := (if role = 0 then 0 else 2 ^ 31) + role * 2 ^ 28 + plB e 4 1 % 2 * 2 ^ 27
  let s1 := modFab (setReg s (aFabPort p) (BitVec.ofNat 64 w)) fun f => { f with
    keys := smSet 0 (smSet 0 f.keys (2 * p) (BitVec.ofNat 256 (beNat ((e.drop 64).take 32)))) (2 * p + 1)
      (BitVec.ofNat 256 (beNat ((e.drop 96).take 32))),
    partners := smSet 0 f.partners p (plB e 0 2 * 256 + plB e 2 1) }
  portChanged s1 p

/-- MIN_US of R387: h hops of at most 0.82 us. -/
def minUs (d : List Byte) : Nat :=
  let h := plLen d 0 + plLen d 1 + plLen d 2 - 3
  max 400 (ceilDiv (8 * (70 + 82 * h) + 2400) 100)

/-- A plan that passes takes effect. -/
def planPut (s : State) (d : List Byte) : State :=
  let s1 := setReg s aFabCtl (BitVec.ofNat 64 (plB d 0 4 * 2 ^ 32 + plB d 4 2 * 65536 + 2))
  let s2 := (List.range 32).foldl (planPort d) s1
  let s3 := modFab s2 fun f => { f with plan := smSetMany 0 [] (d.zipIdx.map fun x => (x.2, x.1)) }
  setReg s3 aFabE2eTo (BitVec.ofNat 64 (minUs d * 2 ^ 32 + max (fld s aFabE2eTo 15 0) (minUs d)))

/-- LOAD_PLAN. -/
def doLoadPlan (s : State) (d : Answer (List Byte)) : State :=
  match fcNext s 5 with
  | none => s
  | some a => fcStart s a fun t =>
      match d with
      | .data b =>
        let t1 := count t 1410 65
        if planOk b then admEnd (planPut t1 b) a.id 0 0 else admEnd t1 a.id sIllegalField 0
      | .poison => admEnd (poisonRx t 0) a.id sHostErr 0
      | .error e => admEnd (pcieReport t e) a.id sHostErr 0

/-! ### DISCOVER (R289, R290, R309, R313) -/

/-- The lanes of a port that DISCOVER will verify: a street lane that is OFF or FAILED seeks its line again; an avenue port
binds set A. -/
def discoLanes (s : State) (p : Nat) : State :=
  if 24 ≤ p then bindSet s p false
  else (List.range 8).foldl (fun t l => if laneSt t p l = 0 ∨ laneSt t p l = 7 then seekLane p t l else t) s

/-- DISCOVER starts on a port. -/
def discoPort (s : State) (p : Nat) : State :=
  if discoRole s p = 0 then s else (portKeys s p).foldl (fun t key => openHello t p key) (discoLanes s p)

/-- The result of a port is written, and its STATE follows; a street port with 6 lanes or fewer is FAILED (R269). -/
def endPort (forced : Option Nat) (s : State) (p : Nat) : State :=
  let r := forced.getD (discoResult s p)
  let s1 := setFld (putDisc s p r) (aFabPort p) 15 12 (match r with
    | 1 => matchedState s p
    | 3 => 3
    | 8 => 4
    | _ => 0)
  if r = 3 then stopHere (raiseF s1 fPortDown p 0) rPort else s1

/-- DISCOVER ends: results, MATCH, the completion. -/
def endDiscover (s : State) (forced : Option Nat) : State :=
  match s.fab.discoverId with
  | none => s
  | some id =>
    let planned := (List.range 32).filter fun p => discoRole s p != 0
    let s1 := (List.range 32).foldl (endPort forced) s
    let bad := planned.filter fun p => fld s1 (aFabDisc p) 63 60 != 1
    let s2 := setFld s1 aFabCtl 2 2 (if planLoaded s && bad.isEmpty then 1 else 0)
    admEnd (modFab s2 fun f => { f with disco := [], discoverId := none }) id 0 (posMask bad)

/-- DISCOVER: one runs at a time. While a health test of the entropy source fails, every port ends NO_PARTNER (R371). -/
def doDiscover (s : State) : State :=
  match firstAdm s 6 fun a => fcOp a.raw == 4 && s.fab.discoverId.isNone with
  | none => s
  | some a => fcStart s a fun t =>
      let t1 := modFab (swapWarned t) fun f => { f with disco := [], discoverId := some a.id }
      let t2 := (List.range 32).foldl discoPort t1
      if t.mgt.entropyBad then endDiscover t2 (some 2) else t2

/-- ENTROPY_HEALTH_FAIL (R371). -/
def doEntropyFail (s : State) : State :=
  endDiscover (raise (modMgt s fun m => { m with entropyBad := true }) .mgt 6 0) (some 2)

/-! ### The commands -/

/-- WRITE_RT (R297). -/
def execWriteRt (a : Answer (List W64)) (s : State) : Out := .next (fcWrite s 0 a)
/-- WRITE_CIRC (R297). -/
def execWriteCirc (a : Answer (List W64)) (s : State) : Out := .next (fcWrite s 1 a)
/-- WRITE_CAL (R297). -/
def execWriteCal (a : Answer (List W64)) (s : State) : Out := .next (fcWrite s 2 a)
/-- FLIP (R278). -/
def execFlip (s : State) : Out := .next (doFlip s)
/-- DISCOVER (R289). -/
def execDiscover (s : State) : Out := .next (doDiscover s)
/-- DISCOVER_END (R290). -/
def execDiscoverEnd (s : State) : Out := .next (endDiscover s none)
/-- LOAD_PLAN (R288). -/
def execLoadPlan (a : Answer (List Byte)) (s : State) : Out :=
  if WF.plan a then .next (doLoadPlan s a) else .fault .illFormed
/-- ENTROPY_HEALTH_FAIL (R371). -/
def execEntropyHealthFail (s : State) : Out := .next (doEntropyFail s)

end Sys2Proof.Machine
end

