-- ==== Sys2Proof/Machine/Memory.lean ====
section
/-! DEFINITION. Stacks and shared cache (08, R193, R197-R200, R208-R214; 15, R381, R382): temperature, drift, retrains and
windows, timeouts and recovery, traffic generators, the region table, retirement, atomic regions: STACK_TEMP_SAMPLE,
DRIFT_TRACKING, EMERGENCY_RETRAIN, EMERGENCY_RETRAIN_END, FULL_RETRAIN_END, REQ_TO, UE_REREAD, TG_START, TG_END,
CHANNEL_RETIRE, REGION_WRITE, ATOMIC_REGION_ENABLE, ATOMIC_REGION_DISABLE, SCC_ATOM_BUSY_END. -/

namespace Sys2Proof.Machine

/-- An error of a stack with its channel and address (MEM_ERR_REC). -/
def raiseM (s : State) (k b c addr : Nat) : State := raise s (.mem k) b (c * 2 ^ 40 + addr % 2 ^ 40)

/-! ### Temperature (R193) -/

/-- A sample out of range: discarded and counted; the fifth in a row means doubled refresh until reset. -/
def stackBad (s : State) (k : Nat) : State :=
  let n := smGet 0 s.stk.discards k + 1
  let s1 := modStk (addFld s (aMemStatus k) 7 0 1) fun t => { t with discards := smSet 0 t.discards k n }
  if n = 5 then setFld (modStk (raiseM s1 k 8 0 0) fun t => { t with failed := smSet false t.failed k true }) (aMemStatus k) 29 29 1
  else s1

/-- A sample in range: the median of the last five moves HOT. -/
def stackGood (s : State) (k : Nat) (t : Int) : State :=
  let l := (t :: smGet [] s.stk.temps k).take 5
  let m := median l
  let s1 := modStk s fun x => { x with temps := smSet [] x.temps k l, discards := smSet 0 x.discards k 0 }
  let s2 := setFld s1 (aMemStatus k) 15 8 (tempByte (some m))
  if 85000 < m then setFld s2 (aMemStatus k) 29 29 1
  else if m ≤ 83000 ∧ !smGet false s.stk.failed k then setFld s2 (aMemStatus k) 29 29 0
  else s2

/-! ### Channels (R209 to R212) -/

def chanKey (k c : Nat) : Nat := k * 128 + c

/-- The state of a channel: 0 IN_SERVICE, 1 RETRAINING, 2 DOWN, 3 RETIRED. -/
def chanSt (s : State) (k c : Nat) : Nat := smGet 0 s.stk.chan (chanKey k c)
def setChan (s : State) (k c v : Nat) : State := modStk s fun t => { t with chan := smSet 0 t.chan (chanKey k c) v }

/-- An emergency retrain runs in a stack. -/
def retraining (s : State) (k : Nat) : Bool := s.stk.chan.any fun p => p.1 / 128 == k && p.2 == 1

/-- An emergency retrain starts. -/
def startRetrain (s : State) (k c : Nat) : State := setChan (raiseM s k 4 c 0) k c 1

/-- A trigger of R211: it waits while a retrain or a window of its stack runs. -/
def trigger (s : State) (k c : Nat) : State :=
  if chanSt s k c ≠ 0 then s
  else if retraining s k ∨ s.stk.window = some k then
    modStk s fun t => { t with retrainQ := smMod [] t.retrainQ k fun l => if l.contains c then l else l ++ [c] }
  else startRetrain s k c

/-- The 1 ms interval that runs (R211); intervals are counted from reset. -/
def msNow (s : State) : Nat := s.now / 1000000

/-- Corrected words of a channel in the running interval (R211). -/
def ceNow (s : State) (k c : Nat) : Nat :=
  let x := smGet (0, 0) s.stk.ceIn (chanKey k c)
  if x.1 = msNow s then x.2 else 0

/-- A lane of a channel has drifted by 16 taps (R209). -/
def driftedOut (s : State) (k c : Nat) : Bool :=
  s.stk.drift.any fun p => p.1 / 32 == chanKey k c && decide (16 ≤ p.2.natAbs)

/-- A condition that triggers an emergency retrain holds (R209, R211). -/
def retrainDue (s : State) (k c : Nat) : Bool := decide (fld s (aMemCtl k) 15 8 ≤ ceNow s k c) || driftedOut s k c

/-- DRIFT_TRACKING (R209): a lane's sampling point moves by one tap. -/
def doDrift (s : State) (k c lane : Nat) (up : Bool) : State :=
  if chanSt s k c ≠ 0 then s
  else
    let key := chanKey k c * 32 + lane
    let v := smGet 0 s.stk.drift key + (if up then 1 else -1)
    let s1 := modStk s fun t => { t with drift := smSet 0 t.drift key v }
    if v.natAbs = 12 then setFld (raiseM s1 k 6 c 0) (aMemChStatus k c) 5 5 1
    else if 16 ≤ v.natAbs then trigger s1 k c
    else s1

/-- A trained channel: no offset, no mark. -/
def chanTrained (s : State) (k c : Nat) : State :=
  let s1 := modStk s fun t => { t with drift := t.drift.filter fun p => p.1 / 32 != chanKey k c }
  setFld s1 (aMemChStatus k c) 5 5 0

/-- A channel that fails its retrain (R212). -/
def chanDown (s : State) (k c : Nat) : State := stopHere (raiseM (setChan s k c 2) k 5 c 0) rChDown

/-- What spare i replaces: 31 for nothing. -/
def spareFor (s : State) (k c i : Nat) : Nat := fld s (aMemChLanes k c) (5 * i + 4) (5 * i)

/-- Lanes that need a spare after an eye test (R191): those that fail and no spare replaces, and those whose spare fails. -/
def lanesToMove (s : State) (k c : Nat) (bad : List Nat) : List Nat :=
  (List.range 18).filter fun l =>
    let by_ := (List.range 2).find? fun i => spareFor s k c i == l
    match by_ with
    | some i => bad.contains (18 + i)
    | none => bad.contains l

/-- Spares that can be switched in. -/
def freeSpares (s : State) (k c : Nat) (bad : List Nat) : List Nat :=
  (List.range 2).filter fun i => spareFor s k c i == 31 && !bad.contains (18 + i)

/-- Spares switched for failing lanes; none where they are too few, and the channel cannot train (R191). -/
def switchSpares (s : State) (k c : Nat) (bad : List Nat) : Option State :=
  let need := lanesToMove s k c bad
  let sp := freeSpares s k c bad
  if sp.length < need.length then none
  else
    let s1 := (List.range 2).foldl (fun t i => if bad.contains (18 + i) then setFld t (aMemChLanes k c) (5 * i + 4) (5 * i) 31 else t) s
    some ((need.zip sp).foldl (fun t x => setFld t (aMemChLanes k c) (5 * x.2 + 4) (5 * x.2) x.1) s1)

/-- A window starts on a stack (R210). -/
def windowOn (s : State) (k : Nat) : State :=
  modStk (setFld s (aMemStatus k) 28 28 1) fun t => { t with window := some k }

/-- The first window that waits and may start: none runs, and its stack does not retrain (R210, R211). -/
def nextWindow (s : State) : State :=
  if s.stk.window.isSome then s
  else match s.stk.windowQ.find? fun k => !retraining s k with
    | some k => windowOn (modStk s fun t => { t with windowQ := t.windowQ.erase k }) k
    | none => s

/-- A trigger that waits in a stack starts once neither a retrain nor a window of the stack runs (R211). -/
def nextRetrain (s : State) (k : Nat) : State :=
  if retraining s k || s.stk.window == some k then s
  else match smGet [] s.stk.retrainQ k with
    | c :: l => startRetrain (modStk s fun t => { t with retrainQ := smSet [] t.retrainQ k l }) k c
    | [] => s

/-- A stack whose retrain or window has ended: a window that is due starts, then a trigger that waits (R211). -/
def stackNext (s : State) (k : Nat) : State := nextRetrain (nextWindow s) k

/-- EMERGENCY_RETRAIN_END (R211, R212): the lanes that failed the eye search. -/
def doRetrainEnd (s : State) (k c : Nat) (bad : List Nat) : State :=
  if chanSt s k c ≠ 1 then s
  else
    let s1 := setChan s k c 0
    stackNext (match switchSpares s1 k c bad with
      | some t => chanTrained t k c
      | none => chanDown s1 k c) k

/-- A channel at the end of a full retrain: spares switched for the lanes that failed, or DOWN (R191, R212). -/
def fullChan (k : Nat) (bad : List (Nat × List Nat)) (s : State) (c : Nat) : State :=
  match switchSpares s k c ((bad.filter fun b => b.1 == c).flatMap (·.2)) with
  | some t => chanTrained t k c
  | none => chanDown s k c

/-- FULL_RETRAIN_END (R191, R210, R212): the lanes that failed, by channel. -/
def doFullEnd (s : State) (k : Nat) (bad : List (Nat × List Nat)) : State :=
  if s.stk.window ≠ some k then s
  else
    let s1 := modStk (setFld s (aMemStatus k) 28 28 0) fun t => { t with window := none }
    stackNext (((List.range 128).filter fun c => chanSt s1 k c == 0).foldl (fullChan k bad) s1) k

/-- The lowest stack that holds a marked channel (R209, R210). -/
def markedStack (s : State) : Option Nat :=
  (List.range 8).find? fun k => (regsIn s (aMemChStatus k 0) (128 * 0x800)).any fun p =>
    (p.1 - aMemChStatus k 0) % 0x800 == 0 && bit p.2 5

/-- The maintenance window of a beat that holds one (R210). -/
def openWindow (s : State) : State :=
  if !(inJob s && hasWindow s (beatNum s)) then s
  else
    let next := fld s aMemMaint 2 0
    let k := (markedStack s).getD next
    let s1 := if (markedStack s).isSome then s else setFld s aMemMaint 2 0 ((next + 1) % 8)
    nextWindow (modStk s1 fun t => { t with windowQ := t.windowQ ++ [k] })

/-! ### Timeouts and uncorrectable words (R213, R381, R382) -/

/-- The lines of a line or segment come into recovery: their requests are held (R382 step 1). -/
def recovStart (s : State) (a n : Nat) : State :=
  modStk s fun t => { t with recov := t.recov ++ ((List.range (n / 256)).map fun i => (a + 256 * i, a)).filter fun r => !t.recov.contains r }

/-- Step 3 of R382: the replica is asked, or the recovery has failed. -/
def refetch (s0 : State) (a n : Nat) : State :=
  let s := recovStart s0 a n
  match regionAt s a with
  | some w => if bit w 58 then sendRead s (bits w 57 42) 193 a n a 96 0 else recovFail s a
  | none => recovFail s a

/-- Lines or segments that hold [a, a + n), and the size of each: a compressed region is read by segments (R201, R202). -/
def unitsOf (s : State) (a n : Nat) : List (Nat × Nat) :=
  let z := if (cmpRegion s a).isSome then 2048 else 256
  (List.range ((a + n - 1) / z - a / z + 1)).map fun i => ((a / z + i) * z, z)

/-- REQ_TO (R213): the request is handled as a re-read that has failed (R381). -/
def doReqTo (s : State) (a n : Nat) : State :=
  if stackEnd ≤ a ∨ n = 0 then s
  else
    let x := locate s a
    (unitsOf s a n).foldl (fun t u => refetch t u.1 u.2) (raiseM s x.1 3 x.2.1 a)

/-- An uncorrectable word on a fill (R382): the line, or the whole segment, is read again. -/
def fillError (s : State) (a : Nat) (good : Bool) : State :=
  let x := locate s a
  let s1 := count (raiseM s x.1 2 x.2.1 a) (cMem x.1 3) 1
  if good then s1 else (unitsOf s1 a 1).foldl (fun t u => refetch t u.1 u.2) s1

/-- A corrected word on a fill (R206, R211, R377): counted, its 64 B part dirty; enough of them retrain the channel. -/
def fixedWord (s : State) (a : Nat) : State :=
  let (k, c, _) := locate s a
  let s1 := count (addFld (raiseM s k 1 c a) (aMemChCe k c) 31 0 1) (cMem k 2) 1
  let s2 := modStk s1 fun t => { t with ceIn := smSet (0, 0) t.ceIn (chanKey k c) (msNow s, ceNow s k c + 1) }
  let s3 := touchLine s2 clQtr (a / 256) (2 ^ (a / 64 % 4)) true false
  if fld s3 (aMemCtl k) 15 8 ≤ ceNow s3 k c then trigger s3 k c else s3

/-- A word of a local store in error, read by a unit with a source code of R46 (R377, R381): corrected and counted, or
poisoned, with a stop at the end of the beat. -/
def storeError (s : State) (a src : Nat) (fixed : Bool) : State :=
  let q := (a - stackEnd) / 0x400000
  let off := (a - stackEnd) % 0x400000
  if a < stackEnd ∨ !qtrPresent s q ∨ lsSize ≤ off then s
  else if fixed then raiseQ s q eLsCe src a
  else stopAtEnd (raiseQ (poisonWord s (a / 8)) q eLsUe src a) rUe

/-- UE_REREAD (R377, R381, R382): a word in error is found, and handled as its place asks. A square or an accumulator bank is
poisoned, and JOB_STOP starts at once for these as for every other internal SRAM; none of these has an address. `good` tells
that the second read of a fill was clean, or that a local store's word was corrected. -/
def doReread (s : State) (a : Nat) (w : WordErr) (good : Bool) : State :=
  match w with
  | .fill => if stackEnd ≤ a then s else fillError s a good
  | .corrected => if stackEnd ≤ a then s else fixedWord s a
  | .store src => storeError s a src.toNat good
  | .square n => stopHere (setSquare s n.toNat { square s n.toNat with psn := true }) rUe
  | .bank q c b => stopHere (setBank s q c b (poisonBank (bank s q c b))) rUe
  | .sram => stopHere s rUe

/-! ### Traffic generators (R214) -/

/-- TG_CTL is in range. -/
def tgLegal (v : W64) : Bool :=
  let n := bits v 63 32
  let p := bits v 15 12
  decide (1 ≤ n) && decide (n ≤ 12582912) && decide (p ≤ 4) && decide (bits v 9 8 ≤ 2) && (decide (3 ≤ p) || bits v 31 16 != 0)

/-- The granules whose slot of a channel is u under one interleave or the other, and the one that lies there (R196 to R199). -/
def granuleAt (s : State) (k c u : Nat) : Option Nat :=
  [(u * 1024 + ((c * 8 + k) ^^^ (u % 1024) ^^^ ((u / 1024) % 512))),
   (u / 512) * 524288 + k * 65536 + ((u % 512) * 128 + (c ^^^ (u % 512 % 128) ^^^ (u % 512 / 128)))].find? fun g =>
    decide (g * 2048 < stackEnd) && locate s (g * 2048) == (k, c, u)

/-- A word of a pattern: ADDR_WALK holds the word's own channel byte address; how the lanes of the others make up words, the
spec does not say (log entry 87). -/
def tgWord (v : W64) (c i : Nat) : W64 := if bits v 15 12 = 3 then BitVec.ofNat 64 (8 * i) else Config.tgWord v c i

/-- A burst of a pattern overwrites what its 64 B held (R214). -/
def tgBurst (k c : Nat) (v : W64) (s : State) (i : Nat) : State :=
  match granuleAt s k c (i / 32) with
  | none => s
  | some g => (List.range 8).foldl (fun t j => writePart t ((g * 2048 + i % 32 * 64) / 8 + j) 0 (leBytes 8 (tgWord v c (8 * i + j)).toNat)) s

/-- A write of TG_CTL; the run writes the bursts of its pattern. -/
def tgWrite (s : State) (k c : Nat) (v : W64) : State :=
  let off := aMemChTgCtl k c
  let mode := fld s (aMemCtl k) 0 0 == 1
  let s1 := regPut s (.mem k) off (fldsAt off) true (tgLegal v) v
  if !tgLegal v || !bit v 1 then s1
  else if !mode then rangeErr s1 (.mem k) off
  else if fld s off 0 0 = 1 then s1
  else
    let s2 := setReg (setReg (setFld s1 off 0 0 1) (aMemChTgRes k c) 0) (aMemChTgFirst k c) 0
    if bits v 9 8 = 1 then s2 else (List.range (bits v 63 32)).foldl (tgBurst k c v) s2

/-- TG_END: failing bits, lanes, the first failing burst. -/
def doTgEnd (s : State) (k c : Nat) (errors : W32) (lanes : BitVec 20) (first : BitVec 30) : State :=
  if fld s (aMemChTgCtl k c) 0 0 = 0 then s
  else
    let w := (if errors = 0 then 0 else 2 ^ 63) + lanes.toNat * 2 ^ 32 + errors.toNat
    let s1 := setReg (setFld s (aMemChTgCtl k c) 0 0 0) (aMemChTgRes k c) (BitVec.ofNat 64 w)
    if errors = 0 then s1 else setReg s1 (aMemChTgFirst k c) (BitVec.ofNat 64 first.toNat)

/-! ### Retirement (R199) -/

/-- A write of MEM_RETIRE: the mapping of the whole stack changes, and its contents are lost. -/
def retireWrite (s : State) (k : Nat) (v : W64) : State :=
  let off := aMemRetire k
  let s1 := regPut s (.mem k) off (fldsAt off) (!inJob s) true v
  if reg s1 off = reg s off then s1
  else
    let s2 := modStk (loseStack s1 k) fun t => { t with chan := t.chan.filter fun p => !(p.1 / 128 == k && p.2 == 3) }
    if fld s2 off 31 31 = 1 then setChan s2 k (fld s2 off 6 0) 3 else s2

/-! ### The region table (R196 to R198, R200) -/

/-- Two region words share a window. -/
def shareWindow (a b : W64) : Bool := decide (bits a 9 0 ≤ bits b 19 10) && decide (bits b 9 0 ≤ bits a 19 10)

/-- A region entry is in range (R197). -/
def regionLegal (s : State) (n : Nat) (v : W64) : Bool :=
  decide (bits v 9 0 ≤ bits v 19 10) && decide (bits v 19 10 ≤ 767) && (!bit v 63 || !(List.range 64).any fun m =>
    m != n && bit (reg s (aMemReg m)) 63 && shareWindow v (reg s (aMemReg m)))

/-- The windows that a region word puts under STACK interleave. -/
def stackWindows (w : W64) : List Nat :=
  if bit w 63 && bit w 62 then (List.range (bits w 19 10 + 1 - bits w 9 0)).map (bits w 9 0 + ·) else []

/-- The address whose slot under one interleave is that of `a` under the other (R196, R198). -/
def otherAddr (toStack : Bool) (a : Nat) : Nat :=
  if toStack then
    let (k, c, u) := locDefault (a / 2048)
    let h := u % 512
    (u / 512) * 2 ^ 30 + k * 2 ^ 27 + ((h * 128) + (c ^^^ (h % 128) ^^^ (h / 128))) * 2048 + a % 2048
  else
    let (k, c, u) := locStack a
    (u * 1024 + ((c * 8 + k) ^^^ (u % 1024) ^^^ ((u / 1024) % 512))) * 2048 + a % 2048

/-- The contents of windows whose interleave changes stay in their slots, and so take other addresses. -/
def rehome (s : State) (toStack : Bool) (ws : List Nat) : State :=
  if ws.isEmpty then s
  else
    let s1 := ws.foldl (fun t w => dropLines t (w * 2 ^ 30) (2 ^ 30)) s
    let hit := fun a => ws.contains (a / 2 ^ 30)
    let m := s1.mem.filter fun p => hit p.1
    let ps := s1.memPsn.filter fun p => hit (p.1 * 8)
    { s1 with
      mem := smSetMany 0 (s1.mem.filter fun p => !hit p.1) (m.map fun p => (otherAddr toStack p.1, p.2)),
      memPsn := smSetMany false (s1.memPsn.filter fun p => !hit (p.1 * 8)) (ps.map fun p => (otherAddr toStack (p.1 * 8) / 8, p.2)) }

/-- Elements of width w of a segment's contents. -/
def segElems (v w : Nat) : List Nat := (List.range (16384 / w)).map fun i => v / 2 ^ (w * i) % 2 ^ w

/-- The encoded form of a segment (R200): the bitmap, and the elements that are not zero, packed. -/
def encodeSeg (v w : Nat) : Nat :=
  let es := segElems v w
  let bitmap := es.zipIdx.foldl (fun n p => if p.1 = 0 then n else n + 2 ^ p.2) 0
  let packed := (es.filter (· != 0)).foldr (fun e n => n * 2 ^ w + e) 0
  bitmap + packed * 2 ^ (16384 / w)

/-- The contents that an encoded form of width w stands for. -/
def decodeSeg (v w : Nat) : Nat :=
  let go := fun (x : List Nat × Nat) (i : Nat) =>
    if v.testBit i then (x.1 ++ [v / 2 ^ (16384 / w + w * x.2) % 2 ^ w], x.2 + 1) else (x.1 ++ [0], x.2)
  ((List.range (16384 / w)).foldl go ([], 0)).1.foldr (fun e n => n * 2 ^ w + e) 0

/-- What the slot of an encoded segment holds: s sectors of the encoded form, and beyond them what was there, which no rule
tells (free). -/
def slotBytes (s : State) (v w n : Nat) : List Byte :=
  leBytes (256 * n) (encodeSeg v w) ++ (List.range (2048 - 256 * n)).map fun i => (Config.free32 (s.free + i)).setWidth 8

/-- A segment with a nibble other than 7 whose region entry changes (R200): its slot keeps the encoded form. It is read as such
by a region of another element size, and as plain bytes where compression ends; where compression begins, the nibble is 7. -/
def recode (old : State) (s : State) (x : Nat × Nat) : State :=
  let a := x.1 * 2048
  let drop := fun (t : State) => modStk t fun y => { y with nibble := smSet 7 y.nibble x.1 7 }
  match cmpRegion old a, cmpRegion s a with
  | some w, none =>
    drop (writeBytes { s with free := s.free + 2048 } a (slotBytes s (readNat old a 2048) (cmpWidth w) (x.2 + 1)))
  | some w, some w' =>
    if cmpWidth w = cmpWidth w' then s
    else writeBytes s a (leBytes 2048 (decodeSeg (encodeSeg (readNat old a 2048) (cmpWidth w)) (cmpWidth w')))
  | none, _ => drop s

/-- The segments of windows whose compression changes: lines are written back first, under the old entry (R200, R201). -/
def recodeAll (old s : State) : State := old.stk.nibble.foldl (recode old) s

/-- The lines of compressed regions are written back and leave. -/
def flushCompressed (s : State) : State :=
  ((s.stk.lines.filter fun p => (cmpRegion s (p.2.addr * 256)).isSome).map (·.1)).foldl evict s

/-- A write of MEM_REGn. -/
def regionWr (s : State) (n : Nat) (v : W64) : State :=
  let off := aMemReg n
  let old := reg s off
  let sf := if inJob s || !regionLegal s n v then s else flushCompressed s
  let s1 := regPut sf (.mem 0) off (fldsAt off) (!inJob s) (regionLegal s n v) v
  let new := reg s1 off
  let was := stackWindows old
  let now := stackWindows new
  let s2 := rehome (rehome s1 false (was.filter fun w => !now.contains w)) true (now.filter fun w => !was.contains w)
  recodeAll sf s2

/-! ### Atomic regions (R208) -/

/-- First granule and number of granules of an atomic region. -/
def atomFirst (w : W64) : Nat := bits w 39 11
def atomCount (w : W64) : Nat := bits w 53 40 + 1

/-- The other enabled atomic regions. -/
def otherAtoms (s : State) (n : Nat) : List W64 :=
  (((List.range 16).filter (· != n)).map fun m => reg s (aSccAtom m)).filter fun w => bit w 63

/-- The stacks of the granules of a region. -/
def atomStacks (s : State) (w : W64) : List Nat := (List.range (atomCount w)).map fun i => (locate s ((atomFirst w + i) * 2048)).1

/-- An atomic region entry is in range. -/
def atomLegal (s : State) (n : Nat) (v : W64) : Bool :=
  decide (atomCount v ≤ 16128) && (!bit v 63 || (
    let f := atomFirst v
    let c := atomCount v
    let os := otherAtoms s n
    decide ((f + c) * 2048 ≤ stackEnd) &&
      ((List.range (((f + c - 1) / 524288) - f / 524288 + 1)).all fun i => (cmpRegion s ((f / 524288 + i) * 2 ^ 30)).isNone) &&
      (os.all fun w => decide (atomFirst w + atomCount w ≤ f) || decide (f + c ≤ atomFirst w)) &&
      (let ks := atomStacks s v ++ os.flatMap (atomStacks s)
       (List.range 8).all fun k => decide (8 * (ks.filter (· == k)).length ≤ 16128))))

/-- A write of SCC_ATOMn: an enable fills pinned lines, a disable writes them back; BUSY until SCC_ATOM_BUSY_END. -/
def atomWrite (s : State) (n : Nat) (v : W64) : State :=
  let off := aSccAtom n
  let old := reg s off
  let ok := atomLegal s n v && !inJob s
  let s1 := regPut s (.mem 0) off (fldsAt off) (!inJob s) (atomLegal s n v) v
  let new := reg s1 off
  if !ok || !(bit old 63 || bit new 63) then s1
  else
    let s2 := setFld s1 off 62 62 1
    if bit new 63 then dropLines s2 (atomFirst new * 2048) (atomCount new * 2048) else s2

/-! ### The commands -/

/-- STACK_TEMP_SAMPLE (R193). -/
def execStackTempSample (k : Fin 8) (t : Int) (s : State) : Out := .next (if sampleOk t then stackGood s k t else stackBad s k)
/-- DRIFT_TRACKING (R209). -/
def execDriftTracking (k : Fin 8) (c : Fin 128) (lane : Fin 20) (up : Bool) (s : State) : Out := .next (doDrift s k c lane up)
/-- EMERGENCY_RETRAIN (R211): a trigger, where one of its conditions holds. -/
def execEmergencyRetrain (k : Fin 8) (c : Fin 128) (s : State) : Out := .next (if retrainDue s k c then trigger s k c else s)
/-- EMERGENCY_RETRAIN_END (R211, R212). -/
def execEmergencyRetrainEnd (k : Fin 8) (c : Fin 128) (bad : List (Fin 20)) (s : State) : Out :=
  .next (doRetrainEnd s k c (bad.map (·.val)))
/-- FULL_RETRAIN_END (R191, R210, R212). -/
def execFullRetrainEnd (k : Fin 8) (bad : List (Fin 128 × List (Fin 20))) (s : State) : Out :=
  .next (doFullEnd s k (bad.map fun b => (b.1.val, b.2.map (·.val))))
/-- REQ_TO (R213). -/
def execReqTo (a : BitVec 40) (_rd : Bool) (bytes : Fin 2049) (s : State) : Out := .next (doReqTo s a.toNat bytes)
/-- UE_REREAD (R382). -/
def execUeReread (a : BitVec 40) (w : WordErr) (good : Bool) (s : State) : Out := .next (doReread s a.toNat w good)
/-- TG_START (R214): the write holds START = 1. -/
def execTgStart (k : Fin 8) (c : Fin 128) (v : W64) (s : State) : Out := .next (tgWrite s k c (putBits v 1 1 1))
/-- TG_END (R214). -/
def execTgEnd (k : Fin 8) (c : Fin 128) (errors : W32) (lanes : BitVec 20) (first : BitVec 30) (s : State) : Out :=
  .next (doTgEnd s k c errors lanes first)
/-- CHANNEL_RETIRE (R199). -/
def execChannelRetire (k : Fin 8) (v : W32) (s : State) : Out := .next (retireWrite s k (v.setWidth 64))
/-- REGION_WRITE (R197). -/
def execRegionWrite (n : Fin 64) (v : W64) (s : State) : Out := .next (regionWr s n v)
/-- ATOMIC_REGION_ENABLE (R208): the write holds EN = 1. -/
def execAtomicRegionEnable (n : Fin 16) (v : W64) (s : State) : Out := .next (atomWrite s n (putBits v 63 63 1))
/-- ATOMIC_REGION_DISABLE (R208): the write holds EN = 0. -/
def execAtomicRegionDisable (n : Fin 16) (v : W64) (s : State) : Out := .next (atomWrite s n (putBits v 63 63 0))
/-- SCC_ATOM_BUSY_END (R208). -/
def execSccAtomBusyEnd (n : Fin 16) (s : State) : Out := .next (setFld s (aSccAtom n) 62 62 0)

end Sys2Proof.Machine
end

