-- ==== Sys2Proof/Machine/Beats.lean ====
section
/-! DEFINITION. Beats (09, R228-R232, R239-R242, R248-R252; 07, R178, R182; 10, R291, R293; 15, R395): launches, COPY,
SIGNAL, STOP, job start, ticks and beat boundaries: LAUNCH, LDONE, LAUNCH_END, COPY, SIGNAL, STOP, START, TICK_SEND, TICK,
TICK_MISSED, BEAT_BOUNDARY, UPDATE_END, CHAIN_TO. -/

namespace Sys2Proof.Machine

/-! ### Launches (R228, R229) -/

/-- The count of QMASK bits below a quarter. -/
def rankOf (b : W512) (q : Nat) : Nat := ((dQuarters b).filter fun p => decide (p < q)).length

/-- Value of QTR_MTIME at which the running beat's cut begins (R250): BEAT_LEN * 0.9996 - 2 us after its start. -/
def cutTime (s : State) : Nat := (10 * s.disp.beatStart + 9996 * (beatLen s / 1000) - 20000) / 100

/-- The mailbox of a quarter (QTR_MAIL0 to QTR_MAIL7). -/
def mailWords (s : State) (q : Nat) (a : Adm) : List W64 :=
  [BitVec.ofNat 64 a.beat, BitVec.ofNat 64 (rankOf a.raw q * 65536 + a.ring), BitVec.ofNat 64 (a.slot * 2 ^ 48 + dQtNs a.raw),
   BitVec.ofNat 64 (cutTime s), BitVec.ofNat 64 (blk a.raw 48 8), BitVec.ofNat 64 (blk a.raw 56 8), 0, 0]

/-- A launch starts in a quarter: the mailbox is written, and then LAUNCH raised. -/
def startLaunch (s : State) (q : Nat) (a : Adm) : State :=
  let s1 := (mailWords s q a).zipIdx.foldl (fun t x => setReg t (aQtrMail q x.2) x.1) s
  ccIrq (modQuarter s1 q fun x => { x with launch := some ⟨a.id, s.now⟩, ldone := none }) q 0

/-- The next launch that waits in a quarter starts; one whose LAUNCH has already ended is passed over, and none starts
after the cut (R249, R250). -/
def nextLaunch (s : State) (q : Nat) : State :=
  if s.disp.cut then s
  else match ((quarter s q).waiting.filterMap (admOf s)).filter fun a => a.status.isNone with
    | [] => modQuarter s q fun x => { x with waiting := [] }
    | a :: t => startLaunch (modQuarter s q fun x => { x with waiting := t.map (·.id) }) q a

/-- A LAUNCH comes to a quarter: launches run one at a time, in order of admission. -/
def joinQuarter (id : Nat) (s : State) (q : Nat) : State :=
  let s1 := modQuarter s q fun x => { x with waiting := x.waiting ++ [id] }
  if (quarter s1 q).launch.isSome then s1 else nextLaunch s1 q

/-- LAUNCH (R228): the first of the running beat that has not started comes to every quarter of QMASK. One of the routine
KREFRESH does the stage of R187 that its factor record has come to. -/
def doLaunch (s : State) : State :=
  match firstAdm s 1 fun _ => !s.disp.cut with
  | none => s
  | some a =>
    kLaunch ((dQuarters a.raw).foldl (joinQuarter a.id) (modAdm s a.id fun x => { x with started := true })) a.raw

/-- LDONE (R229): a write of QTR_LDONE; the first of a launch stands. -/
def ldoneWrite (s : State) (q : Nat) (v : W64) (src : Src) : State :=
  if (quarter s q).launch.isNone then raiseQReg s q eRange src (aQtrLdone q)
  else modQuarter s q fun x => { x with ldone := x.ldone <|> some (bits v 7 0, x.ops.map (·.id)) }

/-- The launch in hand has ended in a quarter: its time is held against QT_NS, a failure is noted, and with its last quarter
the LAUNCH ends (R229, R235). -/
def launchOver (s : State) (q code : Nat) (l : Launch) : State :=
  let s1 := modAdm s l.id fun a => { a with
    left := a.left.filter (· != q), exceeded := a.exceeded || decide (dQtNs a.raw < s.now - l.t0),
    bad := a.bad <|> (if code = 0 then none else some (q, 0x0E, code)) }
  match admOf s1 l.id with
  | some a => if a.left.isEmpty then admEnd s1 a.id 0 (detailNow a) else s1
  | none => s1

/-- LAUNCH_END (R229): QTR_LDONE is written, and every operation then in flight has retired. -/
def doLaunchEnd (s : State) (q : Nat) : State :=
  match (quarter s q).launch, (quarter s q).ldone with
  | some l, some (code, ops) =>
    if (quarter s q).ops.any fun o => ops.contains o.id then s
    else nextLaunch (launchOver (modQuarter s q fun x => { x with launch := none, ldone := none }) q code l) q
  | _, _ => s

/-! ### COPY (R230, R349, R352) -/

/-- The COPY that goes on: one that has started, or the first of the running beat. -/
def copyNext (s : State) : Option Adm :=
  if s.disp.cut then none
  else (s.disp.adms.find? fun a => dType a.raw == 2 && a.started && a.status.isNone) <|> firstAdm s 2 fun _ => true

/-- A COPY has moved to `moved` units: it ends with its last. -/
def copyMoved (s : State) (a : Adm) (moved : Nat) : State :=
  let s1 := modAdm s a.id fun x => { x with moved := moved }
  if moved = cpUnits a.raw then admEnd s1 a.id 0 moved else s1

/-- Units from the host written at their local addresses. -/
def copyIn (s : State) (d : Nat) : List W512 → State
  | [] => s
  | w :: t => copyIn (touch (writeNat s d 64 w.toNat) clHost d 64 true) (d + 64) t

/-- n units sent to the host from unit i on; one that holds a poisoned word goes with EP, sets POISON_RX, and makes the COPY
end HOST_ERR (R349). -/
def copyOut (a : Adm) : Nat → Nat → State → State
  | _, 0, s => s
  | i, n + 1, s =>
    let d := cpDaddr a.raw + 64 * i
    let s1 := touch s clHost d 64 false
    let p := anyPsn s1 d 64
    let s2 := hostWrite s1 (cpHaddr a.raw + 64 * i) 64 (BitVec.ofNat 512 (readNat s1 d 64)) p true
    let s3 := if p then modAdm (raise s2 .hst 1 0) a.id fun x => { x with bad := x.bad <|> some (0, sHostErr, 0) } else s2
    copyOut a (i + 1) n s3

/-- The units that a COPY moves next wait at a slice (log entry 89). -/
def copyWaits (s : State) (a : Adm) (d : Answer (List W512)) (n : Nat) : Bool :=
  let room := cpUnits a.raw - a.moved
  let units := if cpToHost a.raw then min n room else match d with
    | .data l => min l.length room
    | _ => 0
  sliceWaits s (cpDaddr a.raw + 64 * a.moved) (64 * units) (!cpToHost a.raw)

/-- COPY: the next units move. From the host, `d` is what the read brought; to the host, `n` units go. -/
def doCopy (s : State) (d : Answer (List W512)) (n : Nat) : State :=
  match copyNext s with
  | none => s
  | some a =>
    if copyWaits s a d n then s else
    let s1 := modAdm s a.id fun x => { x with started := true }
    let room := cpUnits a.raw - a.moved
    if cpToHost a.raw then copyMoved (copyOut a a.moved (min n room) s1) a (a.moved + min n room)
    else if !s.host.bme then admEnd s1 a.id sHostErr a.moved
    else match d with
      | .data l =>
        let us := l.take room
        copyMoved (count (copyIn s1 (cpDaddr a.raw + 64 * a.moved) us) 1410 us.length) a (a.moved + us.length)
      | .poison => admEnd (poisonRx s1 0) a.id sHostErr a.moved
      | .error e => admEnd (pcieReport s1 e) a.id sHostErr a.moved

/-! ### SIGNAL and STOP (R231, R232) -/

/-- SIGNAL: a set, an add, or a REQ SIGNAL that the descriptor waits for. -/
def doSignal (s : State) : State :=
  match firstAdm s 3 fun _ => !s.disp.cut with
  | none => s
  | some a =>
    let b := a.raw
    let s1 := modAdm s a.id fun x => { x with started := true }
    if sgSet b then admEnd (sqPut s1 (sgSq b) (sgValue b)) a.id 0 0
    else if sgRemote b && sgChip b != thisChip s then
      sendSignal s1 (sgChip b) 192 (sgSq b) (sgAmount b) 97 a.id none
    else admEnd (sqAdd s1 (sgSq b) (sgAmount b)) a.id 0 0

/-- STOP: it runs to the end of its beat, and ends the job there. -/
def doStop (s : State) : State :=
  match firstAdm s 7 fun _ => true with
  | none => s
  | some a => modAdm s a.id fun x => { x with started := true }

/-! ### Job start and ticks (R239 to R241, R291, R293, R395) -/

/-- The chip is the town-clock chip. -/
def isRoot (s : State) : Bool := fld s aClkBeatCtl 31 31 == 1

/-- A chip unfit for a job (R395). -/
def unfit (s : State) : Bool := isStopped s || !(List.range 8).all (stkPresent s)

/-- Every planned port matches (FAB_CTL.MATCH). A part whose identity has FAILed takes part in no job either (R370), and says
so as one without MATCH does (log entry 88). -/
def matched (s : State) : Bool := fld s aFabCtl 2 2 == 1 && fld s aMgtIdent 7 6 != 2

/-- A chip that takes no part in a job says so (R291, R395). -/
def refuseJob (s : State) : State :=
  raiseF (if unfit s then setFld s aMgtStopStatus 3 3 1 else s) fPlan 0 0

/-- START (R239): ignored, and RANGE set, elsewhere than on the town-clock chip; on a chip that takes no part (R291, R395);
while a job runs or starts. -/
def doStart (s : State) : State :=
  if !isRoot s then raise s .clk 0 0
  else if jobNear s || stopRuns s then s
  else if unfit s || !matched s then refuseJob s
  else modDisp s fun d => { d with startAt := some (s.now + 100000), nextTick := 0 }

/-- The street ports toward children. -/
def children (s : State) : List Nat := (List.range 24).filter fun p => bit (reg s aClkTree) (32 + p)

/-- A TICK (R293) that came, or was made, at an instant; its RESID is completed as it leaves. -/
def tickPkt (s : State) (n resid at_ chip : Nat) : Pkt :=
  let r := (resid + 2 ^ 32 * (4 * at_) - 4 * at_) % 2 ^ 32
  ctrlPkt s 0 [BitVec.ofNat 64 n, BitVec.ofNat 64 (r * 2 ^ 32 + beatLen s / 1000), BitVec.ofNat 64 chip]

/-- A TICK to every child. -/
def forwardTick (s : State) (k : Pkt) : State := (children s).foldl (fun t p => pushCtrl t p k) s

/-- ALIGN_NS and DLY_NS. -/
def alignNs (s : State) : Nat := fld s aClkAlign 16 0
def dlyNs (s : State) : Nat := fld s aClkAlign 63 32

/-- TICK_SEND: the tick that is due leaves the town-clock chip, and its boundary is set (R239, R240). -/
def doTickSend (s0 : State) : State :=
  match s0.disp.startAt with
  | none => s0
  | some t =>
    let n := s0.disp.nextTick
    if pastStop s0 n && inJob s0 then s0
    else
      let s := { s0 with now := max s0.now t }
      let s1 := forwardTick s (tickPkt s n 0 t (thisChip s))
      modDisp s1 fun d => { d with
        startAt := some (t + beatLen s), nextTick := n + 1, ticks := d.ticks ++ [(n, t + alignNs s)] }

/-- Beat number and time of the last boundary that is known. -/
def lastBoundary (s : State) : Nat × Nat := (s.disp.ticks.getLast?).getD (beatNum s, s.disp.beatStart)

/-- Boundary in quarter ns of a tick that came at an instant (R240, R293); negative values are cut at 0. -/
def boundaryQ (s : State) (at_ resid : Nat) : Nat := 4 * (at_ + alignNs s) - resid - 4 * dlyNs s

/-- A tick is late, or has the wrong number (R241): the window is 1 us + 0.0004 * BEAT_LEN, in tenths of a quarter ns. -/
def tickLate (s : State) (n bq : Nat) : Bool :=
  let l := lastBoundary s
  let p := 4 * (l.2 + beatLen s)
  let w := 40000 + 16 * (beatLen s / 1000)
  n != l.1 + 1 || decide (10 * bq + w < 10 * p) || decide (10 * p + w < 10 * bq)

/-- A STOP with a reason goes to the parent (R291, R395). -/
def stopParent (s : State) (reason : Nat) : State :=
  pushStop (stopPkt s (thisChip s) reason (beatNum s)) s (fld s aClkTree 4 0)

/-- A tick is accepted: it goes on to the children, its boundary stands, and the count of misses is reset; with tick 0 the
echo that measures DLY_NS leaves toward the parent (R240, R294). -/
def acceptTick (s : State) (n bq resid at_ chip : Nat) : State :=
  let s1 := modDisp (forwardTick s (tickPkt s n resid at_ chip)) fun d => { d with miss := 0, ticks := d.ticks ++ [(n, bq / 4)] }
  if n ≠ 0 then s1
  else
    let p := fld s aClkTree 4 0
    let id := Config.free64 s1.free
    let s3 := pushCtrl { s1 with free := s1.free + 1 } p (ctrlPkt s1 4 [id])
    modFab s3 fun f => { f with echoes := f.echoes ++ [(p, id.toNat, 4 * s3.now)] }

/-- A tick on the parent's port: the checks of R241, and those of a job's start. -/
def takeTick (s : State) (k : Pkt) (at_ : Nat) : State :=
  let n := (pword k 1).toNat
  let resid := bits (pword k 2) 63 32
  let joins := !inJob s && s.disp.ticks.isEmpty
  if stopRuns s || (joins && n != 0) then s
  else
    let bq := boundaryQ s at_ resid
    let len := bits (pword k 2) 13 0 != beatLen s / 1000
    let late := !joins && tickLate s n bq
    let align := decide (alignNs s < dlyNs s)
    let s1 := if len then raise s .clk 4 0 else s
    let s2 := if align then raise s1 .clk 3 0 else s1
    let s3 := if late then raise s2 .clk 2 0 else s2
    if len || late || align then s3
    else if joins && unfit s then stopParent (refuseJob s3) rUnfit
    else if joins && !matched s then stopParent (refuseJob s3) rPlan
    else acceptTick s3 n bq resid at_ (bits (pword k 3) 15 0)

/-- Every quarter is told of a tick that has come (QTR_CC_IRQ.BEAT, R147). -/
def tellTick (s : State) : State := (quartersIn s).foldl (fun t q => ccIrq t q 3) s

/-- TICK (R240): acted on only on the parent's port of a chip that is not the town-clock chip (R275). -/
def doTick (s0 : State) (p : Nat) (k : Pkt) (at_ : Nat) : State :=
  let s := { s0 with now := max s0.now at_ }
  ctrlIn s k 0 (!isRoot s && p == fld s aClkTree 4 0 && streetRole s p) fun t => takeTick (tellTick t) k at_

/-- TICK_MISSED (R241): no tick is accepted for the next boundary; the beat begins at the predicted one, and with the second
miss in a row the job stops there. -/
def doTickMissed (s : State) : State :=
  if !inJob s || isRoot s || !s.disp.ticks.isEmpty || stopRuns s || s.disp.stopBeat == some (beatNum s) then s
  else
    let s1 := count (raise s .clk 1 0) 1414 1
    let s2 := modDisp s1 fun d => { d with miss := d.miss + 1, ticks := [(beatNum s + 1, d.beatStart + beatLen s)] }
    if s2.disp.miss = 2 then stopAtEnd s2 rTick else s2

/-! ### The beat boundary (R242, R248, R251, R252) -/

/-- What ends with its beat (R251): a STOP ends well, all else that is open ends OVERRUN, in local beats too. -/
def endWithBeat (s : State) (a : Adm) : State :=
  if a.beat ≠ beatNum s then s
  else if dType a.raw = 7 then endOpen 0 s a
  else endOpen sOverrun s a

/-- The descriptors of the ended beat complete (R252). What avenues hold is dropped where the beat that begins has a roll
call (R318). -/
def endBeat (s : State) : State :=
  let lost := !s.disp.cut && (s.upd.cur.map (·.ue)).getD false
  let s0 := cut s
  let s1 := s0.disp.adms.foldl endWithBeat (if lost then stopAtEnd s0 rUe else s0)
  let done := s1.disp.adms.filter fun a => a.status.isSome
  let s2 := dropLaunches (completeAll s1 done)
  beatPower (if inJob s2 || !s2.disp.ticks.isEmpty then avenueDrop s2 else s2)

/-- The job ends in good order with the beat of its STOP (R232): no tick is sent or expected, and the sinks that discard
cells take them again. -/
def leaveJob (s : State) : State :=
  if s.disp.stopBeat = some (beatNum s) ∧ inJob s ∧ s.disp.endStop.isNone then
    let s1 := s.disp.adms.foldl (fun t a => if dType a.raw = 2 ∨ dType a.raw = 6 then t else endOpen sStopped t a) s
    let s2 := completeAll s1 (s1.disp.adms.filter fun a => a.status.isSome)
    modFab (modDisp (setFld s2 aClkBeatCtl 29 29 0) fun d => { d with
      startAt := none, ticks := [], stopBeat := none, miss := 0 }) fun f => { f with
      sinks := (f.sinks.map fun x => (x.1, { x.2 with dead := false })).filter fun x => x.2 != sink0 }
  else s

/-- The job starts with tick 0 (R101, R147, R205, R242): generators load the seed, every quarter runs, descriptors admitted to
local beats come into its first beat. -/
def enterJob (s : State) : State :=
  let s1 := setFwQuota (setFld s aClkBeatCtl 29 29 1) 0
  let s2 := (quartersIn s1).foldl (fun t q => setFld t (aQtrCtl q) 0 0 1) s1
  modDisp s2 fun d => { d with
    seed := some (reg s2 aMgtRngSeed), lastBeat := [], stopBeat := none, miss := 0, adms := d.adms.map fun a => { a with beat := 0 } }

/-- A beat begins: its number and time, the derate in force `dr`, which the rule of R417 at this boundary does not touch
(R244), what waits for a boundary (R278, R314, R325, R403), and the maintenance window (R210). -/
def openBeat (s : State) (n t dr : Nat) : State :=
  let s1 := setReg s aClkBeatNum (BitVec.ofNat 64 n)
  let s2 := modDisp (count { s1 with mgt := { s1.mgt with coreSel := fld s1 aMgtPmcCtl 4 2 } } 1413 1) fun d => { d with
    beatStart := t, cut := false, dRun := dr,
    adms := d.adms.map fun a => if a.beat = n ∧ !a.started then { a with t0 := t } else a }
  let s3 := prjBeat (closeOld s2)
  let s4 := setFld s3 aFabRtCtl 1 1 (if flipWaits s3 then 1 else 0)
  openWindow (if inJob s4 then rollCall s4 else modOpt s4 fun o => { o with offered := [] })

/-- The boundary that comes next: number and time. In a job it is that of an accepted tick, or the predicted one of a single
miss, or the end of the beat of a STOP. -/
def nextBoundary (s : State) : Option (Nat × Nat) :=
  let local_ := (beatNum s + 1, s.disp.beatStart + beatLen s)
  if s.disp.stopBeat = some (beatNum s) ∧ inJob s then some local_
  else match s.disp.ticks with
    | b :: _ => some b
    | [] => if inJob s then none else some local_

/-- BEAT_BOUNDARY. -/
def doBoundary (s0 : State) : State :=
  if !devReady s0 || stopRuns s0 then s0
  else match nextBoundary s0 with
    | none => s0
    | some (n, t) =>
      let s1 := leaveJob (endBeat { s0 with now := max s0.now t })
      let starts := !inJob s1 && !s1.disp.ticks.isEmpty
      let s2 := modDisp s1 fun d => { d with ticks := d.ticks.drop 1 }
      let s3 := openBeat (if starts then enterJob s2 else s2) n t (fld s0 aClkDerate 5 0)
      match s3.disp.endStop with
      | some r => if inJob s3 then stopHere s3 r else modDisp s3 fun d => { d with endStop := none }
      | none => s3

/-! ### The end of an UPDATE (R178, R182, R381) -/

/-- UPDATE_END: the sequencer writes the results of an UPDATE that is done; an uncorrectable word in pass 2 stops the job. -/
def doUpdateEnd (s : State) : State :=
  match s.upd.cur with
  | none => s
  | some c =>
    if !updDone s c then s
    else
      let s1 := updEnd s true
      if c.ue then stopHere s1 rUe else s1

/-- The sequencer waits for a record of the chain. -/
def chainWaits (c : UpdCur) : Bool := c.phase == 2

/-- CHAIN_TO (R178). -/
def doChainTo (s : State) : State :=
  match s.upd.cur with
  | none => s
  | some c =>
    if !chainWaits c then s
    else
      let s1 := c.ks.foldl (fun t k => raiseU t k 4 0xFFFF 0) (modCur s fun x => { x with code := some 7, phase := 4 })
      stopHere (updEnd s1 true) rChainTo

/-! ### The commands -/

/-- LAUNCH (R228). -/
def execLaunch (s : State) : Out := .next (doLaunch s)
/-- LDONE (R229); a disabled quarter ignores writes (R46). -/
def execLdone (q : Fin 96) (v : W32) (src : Src) (s : State) : Out :=
  .next (fromSrc s src fun t => if qtrPresent t q then ldoneWrite t q (v.setWidth 64) src else t)
/-- LAUNCH_END (R229). -/
def execLaunchEnd (q : Fin 96) (s : State) : Out := .next (doLaunchEnd s q)
/-- COPY (R230). -/
def execCopy (a : Answer (List W512)) (n : Nat) (s : State) : Out := .next (doCopy s a n)
/-- SIGNAL (R231). -/
def execSignal (s : State) : Out := .next (doSignal s)
/-- STOP (R232). -/
def execStop (s : State) : Out := .next (doStop s)
/-- START (R239): the write holds START = 1. -/
def execStart (s : State) : Out := .next (doStart s)
/-- TICK_SEND (R239). -/
def execTickSend (s : State) : Out := .next (doTickSend s)
/-- TICK (R240). -/
def execTick (p : Fin 32) (k : Pkt) (at_ : Nat) (s : State) : Out := onPkt k (doTick s p k at_)
/-- TICK_MISSED (R241). -/
def execTickMissed (s : State) : Out := .next (doTickMissed s)
/-- BEAT_BOUNDARY (R248). -/
def execBeatBoundary (s : State) : Out := .next (doBoundary s)
/-- UPDATE_END (R182). -/
def execUpdateEnd (s : State) : Out := .next (doUpdateEnd s)
/-- CHAIN_TO (R178). -/
def execChainTo (s : State) : Out := .next (doChainTo s)

end Sys2Proof.Machine
end

