-- ==== Sys2Proof/Machine/HostIf.lean ====
section
/-! DEFINITION. The host interface (13, R338-R354): accesses by local address, the BAR4 aperture, MSI-X, event sources, the
link, power states and PCIe errors: DOORBELL_IGNORED, BAR4_READ, BAR4_WRITE, BAR4_BASE_WRITE, IRQ_SRC_ENABLE, BME_CLEAR, MSE_CLEAR, D3HOT,
D0_RETURN, LINK_CHANGE, RESIZABLE_BAR_WRITE, MSIX_FUNCTION_MASK_WRITE, COMPLETION_TIMEOUT, SURPRISE_DOWN. -/

namespace Sys2Proof.Machine

/-! ### Targets of local addresses (R194, R345) -/

/-- What a local address reaches. -/
inductive Target where
  /-- stacked memory, or the populated local store of an in-service quarter -/
  | mem
  /-- unpopulated local store, or the window of a quarter not in service: its quarter -/
  | unpop (q : Nat)
  | square (n : Nat)
  /-- the register mirror: a BAR0 offset -/
  | mirror (off : Nat)
  | reserved
  deriving DecidableEq, Repr

/-- The target of a local address. -/
def targetOf (s : State) (a : Nat) : Target :=
  if a < stackEnd then .mem
  else if a < 0xC018000000 then
    let q := (a - stackEnd) / 0x400000
    if (a - stackEnd) % 0x400000 < lsSize ∧ qtrPresent s q = true then .mem else .unpop q
  else if isSquareAddr a then .square ((a - 0xC100000000) / 8)
  else if 0xC200000000 ≤ a ∧ a < 0xC204000000 then .mirror (a - 0xC200000000)
  else .reserved

/-- A square as the 64-bit word of R237; a poisoned one carries no count. -/
def squareWord (s : State) (n : Nat) : W64 :=
  let x := square s n
  if x.psn then 0 else BitVec.ofNat 64 (x.sigseq.toNat * 2 ^ 32 + x.count.toNat)

/-- The 64-bit words that hold [a, a + n), by number. -/
def wordsIn (a n : Nat) : List Nat := if n = 0 then [] else (List.range ((a + n - 1) / 8 - a / 8 + 1)).map (a / 8 + ·)

/-- A byte as BAR4 returns it. -/
def apByte (s : State) (a : Nat) : Byte :=
  match targetOf s a with
  | .mem => if wordPsn s a then 0 else memByte s a
  | .square n => BitVec.ofNat 8 ((squareWord s n).toNat >>> (8 * (a % 8)))
  | _ => 0

/-- A word makes its completion carry EP. -/
def apPsn (s : State) (w : Nat) : Bool :=
  match targetOf s (8 * w) with
  | .mem => wordPsn s (8 * w)
  | .unpop _ => true
  | .square n => (square s n).psn
  | _ => false

/-- What an access to a word reports: UNPOP in the owning quarter, APERTURE. -/
def apReport (s : State) (w : Nat) : State :=
  match targetOf s (8 * w) with
  | .unpop q => if qtrPresent s q then raiseQ s q eUnpop 0x10 (8 * w) else s
  | .mirror _ => raise s .hst 4 (8 * w)
  | .reserved => raise s .hst 4 (8 * w)
  | _ => s

/-! ### The aperture (R344, R345, R354) -/

/-- Bytes of BAR4. -/
def bar4Size (s : State) : Nat := 2 ^ fld s aHstBar4Ctl 5 0

/-- Local address of an offset of BAR4. -/
def bar4Addr (s : State) (off : Nat) : Nat := fld s aHstBar4Ctl 39 30 * 2 ^ 30 + off

/-- The part of [a, a + n) that is stacked memory is touched in the host class (R204, R344). -/
def touchHost (s : State) (a n : Nat) (wr : Bool) : State := touch s clHost a (min n (stackEnd - a)) wr

/-- The answer to a read goes to the host. -/
def answer (s : State) (v : List Byte) (ep : Bool) : State := hostPush s (.completion v ep)

/-- A read of BAR4. -/
def bar4Read (s : State) (a n : Nat) : State :=
  let s1 := (wordsIn a n).foldl apReport (touchHost s a n false)
  answer s1 ((List.range n).map fun i => apByte s1 (a + i)) ((wordsIn a n).any (apPsn s1))

/-- A read before boot has ended: the spec gives no value (R354). -/
def bar4Early (s : State) (n : Nat) : State :=
  answer { s with free := s.free + n } ((List.range n).map fun i => (Config.free32 (s.free + i)).setWidth 8) false

/-- Part of one word is written, from byte `lo`. -/
def apWrite (ep : Bool) (s : State) (w lo : Nat) (bs : List Byte) : State :=
  match targetOf s (8 * w) with
  | .mem => if ep then poisonWord s w else writePart s w lo bs
  | .square _ => raise s .hstQ 0 0
  | _ => apReport s w

/-- Bytes written word by word; `fuel` bounds the words. -/
def apLoop (ep : Bool) (a : Nat) (bs : List Byte) : Nat → State → State
  | 0, s => s
  | f + 1, s =>
    match bs with
    | [] => s
    | _ =>
      let n := 8 - a % 8
      apLoop ep (a + (bs.take n).length) (bs.drop n) f (apWrite ep s (a / 8) (a % 8) (bs.take n))

/-- A write of BAR4; data of a poisoned TLP is written as poisoned words. -/
def bar4Write (s : State) (a : Nat) (bs : List Byte) (ep : Bool) : State :=
  apLoop ep a bs bs.length (touchHost (if ep then poisonRx s a else s) a bs.length true)

/-- A base that HST_BAR4_CTL takes (R344). -/
def bar4Legal (s : State) (v : W64) : Bool :=
  decide (bits v 39 30 * 2 ^ 30 % bar4Size s = 0) && decide (bits v 39 30 * 2 ^ 30 < 0xC018000000)

/-- A write of HST_BAR4_CTL (R344, R346). -/
def bar4BaseWrite (s : State) (v : W64) : State :=
  regPut s .hst aHstBar4Ctl (fldsAt aHstBar4Ctl) true (bar4Legal s v) v

/-! ### MSI-X and event sources (R340, R347, R348) -/

/-- Vectors that are pending are sent where nothing masks them any more. -/
def sendPending (s : State) : State :=
  (s.host.pba.map (·.1)).foldl (fun t v =>
    msixRaise { t with host := { t.host with pba := smSet false t.host.pba v false } } v) s

/-- The MSI-X table in BAR0. -/
def msixBase : Nat := 0x108000
def pbaBase : Nat := 0x109000

/-- A write of 8 B of an MSI-X table entry. -/
def vecWrite (s : State) (i : Nat) (v : W64) : State :=
  let e := smGet vec0 s.host.vecs (i / 2)
  let w := if i % 2 = 0 then BitVec.ofNat 128 (bits e 127 64 * 2 ^ 64 + v.toNat)
    else BitVec.ofNat 128 (v.toNat * 2 ^ 64 + bits e 63 0)
  sendPending { s with host := { s.host with vecs := smSet vec0 s.host.vecs (i / 2) w } }

/-- 8 B of an MSI-X table entry. -/
def vecRead (s : State) (i : Nat) : W64 :=
  let e := smGet vec0 s.host.vecs (i / 2)
  BitVec.ofNat 64 (if i % 2 = 0 then bits e 63 0 else bits e 127 64)

/-- 8 B of the Pending Bit Array. -/
def pbaRead (s : State) (i : Nat) : W64 :=
  BitVec.ofNat 64 (((List.range 64).filter fun b => smGet false s.host.pba (64 * i + b)).foldl (fun n b => n + 2 ^ b) 0)

/-- The condition of an event source (R347). -/
def eventCond (s : State) (e : Nat) : Bool :=
  if e ≤ 8 then errCond s e
  else if e = 9 then isStopped s
  else if e = 10 then reg s aMgtPmcOvf != 0
  else devReady s

/-- A write of HST_IRQ_SRCe: a source whose condition already holds raises its vector as EN is set (R348). -/
def irqSrcWrite (s : State) (e : Nat) (v : W64) : State :=
  let was := fld s (aHstIrqSrc e) 31 31
  let s1 := regPut s .hst (aHstIrqSrc e) (fldsAt (aHstIrqSrc e)) true true v
  if was = 0 ∧ eventCond s1 e then fireEvent s1 e else s1

/-! ### Configuration space and the link -/

def modHost (s : State) (f : HostP → HostP) : State := { s with host := f s.host }

/-- D0_RETURN (R340): the BARs answer again, and messages held are sent. -/
def doD0 (s : State) : State := sendPending (modHost s fun h => { h with d3 := false })

/-- MSI-X Enable and Function Mask. -/
def doFunctionMask (s : State) (enable mask : Bool) : State :=
  sendPending (modHost s fun h => { h with msixEn := enable, fmask := mask })

/-- The link as HST_LINK gives it; 64 GT/s is always in Flit mode (R337). -/
def linkWord (width rate : Nat) (flit l0p : Bool) : W64 :=
  BitVec.ofNat 64 (width * 65536 + rate * 4096 + (if flit || rate == 6 then 256 else 0) + (if l0p then 1 else 0))

/-- The link runs, or is down. -/
def setLink (s : State) (w : W64) : State := setReg (modHost s fun h => { h with link := w }) aHstLink w

/-- LINK_CHANGE (R339): a width and rate that the H2 has; what the port has met on the link meanwhile goes to AER (R349). -/
def doLinkChange (s : State) (width rate : Nat) (flit l0p : Bool) (errs : List PcieErr) : State :=
  let s1 := errs.foldl pcieReport s
  if [1, 2, 4, 8, 16].contains width && decide (1 ≤ rate) then setLink s1 (linkWord width rate flit l0p) else s1

/-- RESIZABLE_BAR_WRITE (R341). -/
def doResize (s : State) (log2 : Nat) : State := if 30 ≤ log2 ∧ log2 ≤ 36 then setFld s aHstBar4Ctl 5 0 log2 else s

/-- The FABRIC_CFG whose read of host memory is out. -/
def fcReading (s : State) : Option Adm := ([0, 1, 2, 5].filterMap (fcNext s)).head?

/-- Device Control 2 in configuration space, with the completion timeout (PCIe; its offset is the model's, log entry 11). -/
def cfgDevCtl2 : Nat := 0x88

/-- COMPLETION_TIMEOUT (R349): of a descriptor read, of a COPY's, of a FABRIC_CFG's; none while Device Control 2 disables it. -/
def doCplTimeout (s : State) (what : Nat) : State :=
  if bit ((smGet none s.host.cfg cfgDevCtl2).getD 0) 4 then s
  else match what with
  | 0 => fetchOne s (.error readTimeout)
  | 1 =>
    match copyNext s with
    | some a => if cpToHost a.raw then s else admEnd (readTimeout (modAdm s a.id fun x => { x with started := true })) a.id sHostErr a.moved
    | none => s
  | _ =>
    match fcReading s with
    | some a => fcStart s a fun t => admEnd (readTimeout t) a.id sHostErr a.moved
    | none => s

/-! ### The commands -/

/-- DOORBELL_IGNORED (R217): a write to BAR2 at any offset, of any width, or a read, which returns 0 (R217, R342). -/
def execDoorbellIgnored (off bytes : Nat) (v : Option W64) (s : State) : Out :=
  .next (match v with
    | some w => hostBar2 s off bytes w
    | none => if !barOpen s || decide (2 ^ 24 < off + bytes) then unsupported s else answer s (List.replicate bytes 0) false)
/-- BAR4_READ (R345). An access that waits at its slice comes again (log entry 89). -/
def execBar4Read (off bytes : Nat) (s : State) : Out :=
  if !WF.hostLen bytes then .fault .illFormed
  else .next (if !barOpen s || decide (bar4Size s < off + bytes) then unsupported s
    else if !devReady s then bar4Early s bytes
    else if sliceWaits s (bar4Addr s off) bytes false then s
    else bar4Read s (bar4Addr s off) bytes)
/-- BAR4_WRITE (R345). -/
def execBar4Write (off : Nat) (data : List Byte) (ep : Bool) (s : State) : Out :=
  if !WF.hostLen data.length then .fault .illFormed
  else .next (if !barOpen s || decide (bar4Size s < off + data.length) then unsupportedWrite s
    else if !devReady s || sliceWaits s (bar4Addr s off) data.length true then s
    else bar4Write s (bar4Addr s off) data ep)
/-- BAR4_BASE_WRITE (R344). -/
def execBar4BaseWrite (v : W64) (s : State) : Out := .next (bar4BaseWrite s v)
/-- IRQ_SRC_ENABLE (R348): the write holds EN = 1; sources 12 to 15 have no register (R342). -/
def execIrqSrcEnable (e : Fin 16) (v : W32) (s : State) : Out :=
  .next (if e.val < 12 then irqSrcWrite s e (putBits (v.setWidth 64) 31 31 1) else raise s .hst 0 (aHstIrqSrc e))
/-- BME_CLEAR (R352): a write of Bus Master Enable. -/
def execBmeClear (v : Bool) (s : State) : Out := .next (modHost s fun h => { h with bme := v })
/-- MSE_CLEAR (R353): a write of Memory Space Enable. -/
def execMseClear (v : Bool) (s : State) : Out := .next (modHost s fun h => { h with mse := v })
/-- D3HOT (R340). -/
def execD3hot (s : State) : Out := .next (modHost s fun h => { h with d3 := true })
/-- D0_RETURN (R340). -/
def execD0Return (s : State) : Out := .next (doD0 s)
/-- LINK_CHANGE (R339). -/
def execLinkChange (width : Fin 17) (rate : Fin 7) (flit : Bool) (seen : LinkSeen) (s : State) : Out :=
  .next (doLinkChange s width rate flit seen.l0p seen.errs)
/-- RESIZABLE_BAR_WRITE (R341). -/
def execResizableBarWrite (log2 : Nat) (s : State) : Out := .next (doResize s log2)
/-- MSIX_FUNCTION_MASK_WRITE (R347). -/
def execMsixFunctionMaskWrite (enable mask : Bool) (s : State) : Out := .next (doFunctionMask s enable mask)
/-- COMPLETION_TIMEOUT (R349). -/
def execCompletionTimeout (what : Fin 3) (s : State) : Out := .next (doCplTimeout s what)
/-- SURPRISE_DOWN (R349): reported in AER; the link is down. -/
def execSurpriseDown (s : State) : Out := .next (setLink (aerSet s 5) 0)

end Sys2Proof.Machine
end

