-- ==== Sys2Proof/Machine/Boot.lean ====
section
/-! DEFINITION. Reset, boot, identity and clock faults (14, R358-R372; 17, R410): FLR, HOT_RESET, PERST_N, POR_N,
RESET_RELEASE, BOOT_STAGE_END, CLOCK_FAULT, HEARTBEAT, DOMAIN_STUCK. -/

namespace Sys2Proof.Machine

/-! ### Reset (R362, R363) -/

/-- The device-wide reset. What lies outside the package stays: the flash, what was sent to the host, the commands that wait;
THERMTRIP_N is asserted until POR_N (R419). `keep` says that the link and the sticky bits of AER are kept; `por`, that
POR_N is asserted. -/
def deviceReset (s : State) (keep por : Bool) : State :=
  { State.reset with
    free := s.free, pending := s.pending,
    host := { host0 with out := s.host.out, link := (if keep then s.host.link else 0),
                         aerU := (if keep then s.host.aerU else 0), aerC := (if keep then s.host.aerC else 0) },
    mgt := { mgt0 with flash := s.mgt.flash, boots := s.mgt.boots, vdm := s.mgt.vdm, trip := s.mgt.trip && !por } }

/-- A pin held low for a time is taken (R362): surely from 20 us on, never below 14 us, and between as the filter will have it. -/
def pinTaken (s : State) (us : Nat) : Bool × State :=
  if us < 14 then (false, s)
  else if 20 ≤ us then (true, s)
  else
    let r := draw32 s
    (bit r.1 0, r.2)

/-- POR_N or PERST_N held low. -/
def doPin (s : State) (us : Nat) (por : Bool) : State :=
  let r := pinTaken s us
  if r.1 then deviceReset r.2 false por else r.2

/-- RESET_RELEASE (R362, R368, R369, R372, R410): the device leaves reset, boot starts and measures the mask ROM, the VID
outputs drive code 30. -/
def doRelease (s : State) : State :=
  if s.mgt.released then s
  else
    let s1 := modMgt s fun m => { m with released := true, t0 := s.now, boots := m.boots + 1,
                                         meas := smSet 0 m.meas 1 Config.maskRomDigest }
    let s2 := setFld (setFld s1 aMgtPwrStatus 28 24 30) aMgtPwrStatus 20 16 30
    setReg (setFld s2 aMgtBootStatus 3 0 1) aHstLink s.host.link

/-! ### Flash and images (R364 to R367) -/

/-- n bytes of the flash from an offset. -/
def flashBytes (s : State) (o n : Nat) : List Byte := (List.range n).map fun i => smGet 0xFF#8 s.mgt.flash (o + i)

/-- A little-endian number of the flash. -/
def flashNat (s : State) (o n : Nat) : Nat := leNat (flashBytes s o n)

/-- n bytes of the flash from an offset are 0. -/
def flashZero (s : State) (o n : Nat) : Bool := (flashBytes s o n).all (· == 0)

/-- Base of a slot: A, or B. -/
def slotBase (b : Bool) : Nat := if b then 0x1000000 else 0

/-- The flash offset of an image of a slot, from the slot's directory (R364). -/
def imageAt (s : State) (b : Bool) (t : Nat) : Option Nat :=
  let e := fun i => slotBase b + 16 * i
  match (List.range 8).find? fun i => flashNat s (e i) 1 == t with
  | none => none
  | some i => if flashNat s (e i + 4) 4 < 0x1000000 then some (slotBase b + flashNat s (e i + 4) 4) else none

/-- Length of the body that a header gives. -/
def bodyLen (s : State) (o : Nat) : Nat := flashNat s (o + 16) 4

/-- The end of the flash region that an offset lies in: a slot, or the part record (R364). -/
def regionEnd (o : Nat) : Nat := if o < 0x2000000 then (o / 0x1000000 + 1) * 0x1000000 else 0x2010000

/-- Header and body lie within their region: nothing beyond it is read (R364). -/
def inRegion (s : State) (o : Nat) : Bool :=
  decide (o + 256 ≤ regionEnd o) && decide (o + 256 + bodyLen s o ≤ regionEnd o)

/-- Digest of header and body. -/
def imageDigest (s : State) (o : Nat) : Nat := sha256 (flashBytes s o (256 + bodyLen s o))

/-- The mask ROM accepts a header and body (R365). -/
def imageOk (s : State) (o t : Nat) : Bool :=
  inRegion s o && flashNat s o 4 == 0x49324A48 && flashNat s (o + 4) 1 == t && decide (bodyLen s o ≤ 14 * 2 ^ 20) && flashZero s (o + 10) 6 &&
    flashZero s (o + 20) 12 && flashZero s (o + 96) 32 && flashZero s (o + 192) 64 &&
    sha256 (flashBytes s (o + 32) 64) == Config.rootKeyHash.toNat &&
    ecVerify (beNat (flashBytes s (o + 32) 32)) (beNat (flashBytes s (o + 64) 32))
      (sha256 (flashBytes s o 128 ++ flashBytes s (o + 256) (bodyLen s o)))
      (beNat (flashBytes s (o + 128) 32)) (beNat (flashBytes s (o + 160) 32))

/-- Boot stops in RECOVERY with a FAILCODE (R366). -/
def recovery (s : State) (code : Nat) : State := setFld (setFld s aMgtBootStatus 7 7 1) aMgtBootStatus 47 40 code

/-- A FAILCODE with which boot continues: the first stands. -/
def failCode (s : State) (code : Nat) : State :=
  if fld s aMgtBootStatus 47 40 = 0 then setFld s aMgtBootStatus 47 40 code else s

/-- An image or part record fails (MGT_ERR.IMAGE). -/
def imageErr (s : State) (t : Nat) (b : Bool) (o : Nat) : State :=
  raise s .mgt 4 (t * 2 ^ 36 + (if b then 2 ^ 35 else 0) + o)

/-- An image or part record is loaded: MGT_IMGt and its measurement (R372). -/
def imageLoad (s : State) (t : Nat) (b : Bool) (o : Nat) : State :=
  let v := (if b then 2 ^ 40 else 0) + flashNat s (o + 8) 2 * 2 ^ 24 + flashNat s (o + 5) 1 * 65536 + flashNat s (o + 6) 1 * 256 +
    flashNat s (o + 7) 1
  let s1 := setReg s (aMgtImg t) (BitVec.ofNat 64 v)
  let s2 := if b then setFld s1 aMgtBootStatus (31 + t) (31 + t) 1 else s1
  modMgt s2 fun m => { m with meas := smSet 0 m.meas (t + 1) (BitVec.ofNat 256 (imageDigest s o)) }

/-- One image type in one slot: whether it is loaded. -/
def tryImage (t : Nat) (x : State × Bool) (b : Bool) : State × Bool :=
  if x.2 then x
  else match imageAt x.1 b t with
    | none => x
    | some o => if imageOk x.1 o t then (imageLoad x.1 t b o, true) else (imageErr x.1 t b o, false)

/-- The four image types in turn (R366): false where one has no valid image. -/
def loadImages (s : State) : List Nat → State × Bool
  | [] => (s, true)
  | t :: l =>
    let r := [false, true].foldl (tryImage t) (s, false)
    if r.2 then loadImages r.1 l else r

/-- Flash offset of the part record. -/
def partBase : Nat := 0x2000000

/-- Stage 2 (R366, R367). -/
def stageImages (s : State) : State :=
  let r := loadImages s [1, 2, 3, 4]
  if !r.2 then recovery r.1 1
  else if !imageOk r.1 partBase 5 then recovery (imageErr r.1 5 false partBase) 2
  else
    let n := bodyLen r.1 partBase
    modMgt (imageLoad r.1 5 false partBase) fun m =>
      { m with part := smSetMany 0 [] ((flashBytes r.1 (partBase + 256) n).zipIdx.map fun x => (x.2, x.1)) }

/-! ### Identity (R338, R370, R371) -/

/-- Flash region of the PUF helper data and the identity certificate. -/
def identRegion (s : State) : List Byte := flashBytes s 0x2010000 0x10000

/-- The private scalar of a seed: c = 0 is the smallest counter, and every hash gives a scalar. -/
def privOf (seed : W256) : Nat := sha256 (beBytes 32 seed.toNat ++ [0]) % (ecN - 1) + 1

/-- A public key as octets. -/
def keyBytes (k : Nat × Nat) : List Byte := beBytes 32 k.1 ++ beBytes 32 k.2

/-- The identity fails: MGT_IDENT.STATE, MGT_ERR.IDENT. -/
def identFail (s : State) (pct : Nat) : State := raise (setReg s aMgtIdent (BitVec.ofNat 64 (128 + pct % 64))) .mgt 5 0

/-- Stage 3: what it reads of the flash stands until the next boot (R373). -/
def stageIdentity (s0 : State) : State :=
  let region := identRegion s0
  let s := modMgt s0 fun m => { m with certs := Config.certChain region }
  match Config.pufSeed (BitVec.ofNat 256 (sha256 region)) s.mgt.boots with
  | none => identFail s 0
  | some (seed, pct) =>
    let d := privOf seed
    let q := ecPublic d
    if Config.certKey region ≠ some (BitVec.ofNat 256 q.1, BitVec.ofNat 256 q.2) then identFail s pct
    else
      let s1 := setReg s aMgtIdent (BitVec.ofNat 64 (64 + pct % 64))
      let s2 := (List.range 8).foldl (fun t w =>
        setReg t (aMgtIdkey w) (BitVec.ofNat 64 (leNat (((keyBytes q).drop (8 * w)).take 8)))) s1
      modMgt s2 fun m => { m with idPriv := BitVec.ofNat 256 d, dsn := BitVec.ofNat 64 (sha256 (keyBytes q)) }

/-! ### Training and self-test (R191, R199, R367, R410) -/

/-- A little-endian number of the part record body. -/
def partNat (s : State) (o n : Nat) : Nat := leNat ((List.range n).map fun i => partByte s (o + i))

/-- The spare-lane map of the part record. -/
def partLanes (s : State) (i : Nat) : Nat := partNat s 32 2560 / 2 ^ (20 * i) % 2 ^ 20

/-- MEM_CHc_LANES of every channel from the part record. -/
def setLanes (s : State) : State :=
  let m := partNat s 32 2560
  (List.range 1024).foldl (fun t i =>
    let e := m / 2 ^ (20 * i)
    setReg t (aMemChLanes (i / 128) (i % 128)) (BitVec.ofNat 64 (e / 1024 % 32 * 32 + e % 32))) s

/-- The channel of a stack that the part record retires. -/
def partRetire (s : State) (k : Nat) : List Nat :=
  let b := (partByte s (24 + k)).toNat
  if 128 ≤ b then [b % 128] else []

/-- Eye tests of a stack: spares are switched; the channels that cannot train. -/
def trainEyes (k : Nat) (x : State × List Nat) (e : Fin 8 × Fin 128 × List (Fin 20)) : State × List Nat :=
  if e.1.val ≠ k then x
  else match switchSpares x.1 k e.2.1 (e.2.2.map (·.val)) with
    | some t => (t, x.2)
    | none => (x.1, if x.2.contains e.2.1.val then x.2 else x.2 ++ [e.2.1.val])

/-- A stack out of service (R367). -/
def stackOff (s : State) (k : Nat) : State := modStk s fun t => { t with off := smSet false t.off k true }

/-- Power-on training of a stack. -/
def trainStack (r : BootRes) (s : State) (k : Nat) : State :=
  let x := r.eyes.foldl (trainEyes k) (s, partRetire s k)
  let s1 := setFld x.1 (aMemStatus k) 30 30 1
  if r.untrained.toNat.testBit k then failCode (stackOff s1 k) 5
  else match x.2 with
    | [] => s1
    | [c] => (retireChan s1 k c).1
    | _ => failCode (stackOff s1 k) 3

/-- Stage 4. -/
def stageTrain (s : State) (r : BootRes) : State := (List.range 8).foldl (trainStack r) (setLanes s)

/-- The VID code of a die (R410). -/
def vidCode (c : Nat) : Nat := if c = 31 then 30 else min 30 (c + 2)

/-- Stage 5: what failed is out of service, and the VID outputs are set. -/
def stageSelftest (s : State) (r : BootRes) : State :=
  let f := r.failed.toNat
  let s1 := setReg s (aMgtPartSelftest 0) (BitVec.ofNat 64 (f % 2 ^ 64))
  let s2 := setReg s1 (aMgtPartSelftest 1) (BitVec.ofNat 64 (f / 2 ^ 64 % 2 ^ 42 - f / 2 ^ 96 % 2 * 2 ^ 32))
  let e := vidCode r.vidE
  let w := vidCode r.vidW
  let s3 := modMgt s2 fun m => { m with vidE := e, vidW := w }
  if r.vidE.val = 31 ∨ r.vidW.val = 31 then recovery s3 6 else s3

/-! ### Lasers and rings (R300, R309, R367) -/

/-- A laser failed, at its stage or by the part record. -/
def laserBad (s : State) (r : BootRes) (n : Nat) : Bool := r.lasers.toNat.testBit n || (partByte s (5152 + 8 * n + 4)).toNat.testBit 0

/-- A laser after stage 6: the primary feeds its wavelength, or else the spare; bias and monitor power are as measured (free). -/
def laserBoot (r : BootRes) (s : State) (n : Nat) : State :=
  let act := if n % 2 = 0 then !laserBad s r n else laserBad s r (n - 1) && !laserBad s r n
  let st := if laserBad s r n then 4 else if act then 2 else 3
  let x := Config.free32 (s.free + n)
  let low := if laserBad s r n then 0 else bits x 15 8 % 85 * 256 + bits x 7 0
  setReg s (aOptLaser n) (BitVec.ofNat 64 (st * 2 ^ 29 + (if act then 2 ^ 28 else 0) + low))

/-- Wavelengths of a bank with no laser. -/
def darkWl (s : State) (r : BootRes) (b : Nat) : List Nat :=
  (List.range 16).filter fun w => laserBad s r (32 * b + 2 * w) && laserBad s r (32 * b + 2 * w + 1)

/-- Stage 6. -/
def stageLasers (s : State) (r : BootRes) : State :=
  let s1 := (List.range 128).foldl (laserBoot r) s
  let s2 := { s1 with free := s1.free + 128 }
  if (List.range 4).any fun b => !(darkWl s r b).isEmpty then failCode s2 4 else s2

/-- Stage 7: the rings that are locked; those of a dark wavelength are not. -/
def stageRings (s : State) (r : BootRes) : State :=
  (List.range 32).foldl (fun t p =>
    let w := ((r.rings[p]?).getD 0).toNat
    let ok := fun i => w.testBit i && (laserLit s (portBank p) (i % 16))
    setReg t (aOptRingok p) (BitVec.ofNat 64 (((List.range 32).filter ok).foldl (fun n i => n + 2 ^ i) 0))) s

/-! ### Runtime and READY (R368, R372) -/

/-- Measurement 7: VERSION, SVN and slot of images 1 to 4 and the part record. -/
def manifest (s : State) : List Byte :=
  ((List.range 5).flatMap fun i =>
    let w := reg s (aMgtImg (i + 1))
    beBytes 3 (bits w 23 0) ++ leBytes 2 (bits w 39 24) ++ leBytes 1 (bits w 40 40)) ++ [0, 0]

/-- Measurement 8: MGT_BOOT_STATUS, MGT_PART_SELFTEST, MGT_IDENT. -/
def bootBlock (s : State) : List Byte :=
  [aMgtBootStatus, aMgtPartSelftest 0, aMgtPartSelftest 1, aMgtIdent].flatMap fun o => leBytes 8 (reg s o).toNat

/-- ELAPSED_MS is brought up to the present. -/
def stampElapsed (s : State) : State := setFld s aMgtBootStatus 31 8 ((s.now - s.mgt.t0) / 1000000)

/-- The resident quarter runtime in a quarter: it is loaded, ENTRY is written, and both control cores start there (R147). -/
def loadRuntime (s : State) (q : Nat) : State :=
  let e := 4 * (Config.runtimeEntry % (lsSize / 4))
  let s1 := { s with mem := smSetMany 0 s.mem (Config.runtime.map fun p => (lsBase q + p.1 % lsSize, p.2)) }
  let s2 := setReg s1 (aQtrCcCtl q) (BitVec.ofNat 64 (e * 2 ^ 32))
  modQuarter s2 q fun x => { x with ccs := [0, 1].foldl (fun m i =>
    smMod ccore0 m i fun c => { c with pc := BitVec.ofNat 64 e }) x.ccs }

/-- Stage 8: quarters run their runtime, the measurements of this boot are complete, and READY fires. -/
def stageRuntime (s0 : State) : State :=
  let s := (quartersIn s0).foldl loadRuntime s0
  let s1 := setFld s aMgtBootStatus 3 0 9
  let ms := [(7, BitVec.ofNat 256 (beNat (manifest s1))), (8, BitVec.ofNat 256 (beNat (bootBlock s1)))]
  let s2 := modMgt s1 fun m => { m with meas := smSetMany 0 m.meas ms }
  let s3 := setFld s2 aHstDevStatus 31 31 1
  fireEvent (modDisp s3 fun d => { d with beatStart := s.now }) 11

/-- What a stage does by its end. -/
def stageWork (s : State) (st : Nat) (r : BootRes) : State :=
  match st with
  | 2 => stageImages s
  | 3 => stageIdentity s
  | 4 => stageTrain s r
  | 5 => stageSelftest s r
  | 6 => stageLasers s r
  | 7 => stageRings s r
  | 8 => stageRuntime s
  | _ => s

/-- Boot runs. -/
def booting (s : State) : Bool :=
  s.mgt.released && fld s aMgtBootStatus 7 7 == 0 && decide (1 ≤ fld s aMgtBootStatus 3 0) && decide (fld s aMgtBootStatus 3 0 ≤ 8)

/-- BOOT_STAGE_END. -/
def doStageEnd (s : State) (r : BootRes) : State :=
  if !booting s then s
  else
    let st := fld s aMgtBootStatus 3 0
    let s1 := stageWork (stampElapsed s) st r
    if fld s1 aMgtBootStatus 7 7 = 1 ∨ st = 8 then s1 else setFld s1 aMgtBootStatus 3 0 (st + 1)

/-! ### Clocks and domains (R358, R361) -/

/-- CLOCK_FAULT. -/
def doClockFault (s : State) (d : Nat) : State := stopHere (raise s .mgt 2 (d * 2 ^ 40)) rClock

/-- DOMAIN_STUCK: no heartbeat for 100 us; MGMT, bit 24, always reads 1. -/
def doStuck (s : State) (d : Nat) : State :=
  let h := smGet 0 s.mgt.hb d
  if h ≠ 0 ∧ s.now + 1 < h + 100000 then s
  else
    let s1 := if d = 24 then s else setFld s aMgtDomainStatus d d 0
    stopHere (raise s1 .mgt 3 (d * 2 ^ 40)) rStuck

/-! ### The commands -/

/-- FLR (R354, R362). -/
def execFlr (s : State) : Out := .next (deviceReset s true false)
/-- HOT_RESET (R362). -/
def execHotReset (s : State) : Out := .next (deviceReset s true false)
/-- PERST_N (R362). -/
def execPerstN (us : Nat) (s : State) : Out := .next (doPin s us false)
/-- POR_N (R362). -/
def execPorN (us : Nat) (s : State) : Out := .next (doPin s us true)
/-- RESET_RELEASE (R362). -/
def execResetRelease (s : State) : Out := .next (doRelease s)
/-- BOOT_STAGE_END (R368). -/
def execBootStageEnd (r : BootRes) (s : State) : Out := .next (doStageEnd s r)
/-- CLOCK_FAULT (R358). -/
def execClockFault (d : Fin 25) (s : State) : Out := .next (doClockFault s d)
/-- HEARTBEAT (R361). -/
def execHeartbeat (d : Fin 25) (s : State) : Out := .next (modMgt s fun m => { m with hb := smSet 0 m.hb d (s.now + 1) })
/-- DOMAIN_STUCK (R361). -/
def execDomainStuck (d : Fin 25) (s : State) : Out := .next (doStuck s d)

end Sys2Proof.Machine
end

