-- ==== Sys2Proof/Machine/Mctp.lean ====
section
/-! DEFINITION. The management endpoint (13, R350, R351; 14, R372, R373; 15, R384, R385): GET_BOOT_STATUS, FLASH_READ,
FLASH_ERASE, FLASH_WRITE, GET_PART_RECORD, RESET, SET_ENDPOINT_ID, GET_VERSION, GET_CAPABILITIES, NEGOTIATE_ALGORITHMS,
GET_DIGESTS, GET_CERTIFICATE, CHALLENGE, GET_MEASUREMENTS, SMBUS_RESPONSE_READ, SMBUS_TIMEOUT, TAP_INSTRUCTION. Layouts that
MCTP (DSP0236) and SPDM (DSP0274) give and the spec does not repeat are PRESUMED (log entries 11 and 17). -/

namespace Sys2Proof.Machine

/-! ### Responses (R350) -/

/-- A message in transmission units of 64 B (R350); `fuel` bounds their number. -/
def mctpUnits : Nat → List Byte → List (List Byte)
  | 0, _ => []
  | f + 1, m => if m.length ≤ 64 then [m] else m.take 64 :: mctpUnits f (m.drop 64)

/-- A response leaves on the binding of its request, in transmission units: as PCIe messages, or to be read on SMBus, with
ALERT_N asserted. -/
def mctpSend (s : State) (smb : Bool) (m : List Byte) : State :=
  if smb then modMgt s fun x => { x with smb := some m, alert := true }
  else modMgt s fun x => { x with vdm := x.vdm ++ mctpUnits (m.length + 1) m }

/-- The H2's address on SMBus (R350). -/
def smbAddr : BitVec 7 := 0x3A

/-- The endpoint ID of a binding. -/
def eidOf (s : State) (smb : Bool) : Nat := smGet 0 s.mgt.eid (if smb then 1 else 0)

/-- The endpoint takes a message: the device has left reset; on SMBus, it comes to the H2's address and its packets' codes
hold (R350, R384); it is for this endpoint or for the null one (DSP0236). -/
def mctpTakes (s : State) (b : MctpIn) : Bool :=
  s.mgt.released && (!b.smb || (b.addr == smbAddr && b.pec)) && (b.eid == 0 || b.eid.toNat == eidOf s b.smb)

/-- A message of an accepted type is served; any other is discarded (R350). -/
def mctpOn (s : State) (b : MctpIn) (typ : Byte) (act : State → State) : State :=
  if mctpTakes s b && b.typ == typ then act s else s

/-! ### Vendor messages (R373) -/

def vOk : Nat := 0
def vRange : Nat := 1
def vBusy : Nat := 2
def vUnsupported : Nat := 3

/-- A vendor-defined response: type 0x7E, Vendor ID 0x1F3A, command, status, fields. -/
def vendor (cmd status : Nat) (fields : List Byte) : List Byte :=
  [0x7E, 0x1F, 0x3A, BitVec.ofNat 8 cmd, BitVec.ofNat 8 status] ++ fields

/-- The vendor response to a command. -/
def reply (s : State) (smb : Bool) (cmd status : Nat) (fields : List Byte) : State := mctpSend s smb (vendor cmd status fields)

/-- The command with a code is served. A message of another Vendor ID is discarded, a code that R373 does not list answered
UNSUPPORTED; the listed ones have rows of their own. -/
def vendorOn (s : State) (b : MctpIn) (code : Nat) (act : State → State) : State :=
  mctpOn s b 0x7E fun t =>
    if b.vendor ≠ 0x1F3A then t
    else if b.code.toNat = code then act t
    else if 1 ≤ b.code.toNat ∧ b.code.toNat ≤ 6 then t
    else reply t b.smb b.code.toNat vUnsupported []

/-- n bytes from an offset lie in the flash (R364): within its 64 MiB, or what it holds beyond them. -/
def inFlash (o n : Nat) : Bool := decide (o + n ≤ 0x4000000) || decide (o + n ≤ 0x4000000 + Config.flashMore)

/-- A length of 1 to 48 bytes. -/
def len48 (n : Nat) : Bool := decide (1 ≤ n) && decide (n ≤ 48)

/-- GET_BOOT_STATUS. -/
def doBootStatus (s : State) (smb : Bool) : State := reply s smb 1 vOk (leBytes 8 (reg s aMgtBootStatus).toNat)

/-- FLASH_READ. -/
def doFlashRead (s : State) (smb : Bool) (o n : Nat) : State :=
  if len48 n && inFlash o n then reply s smb 2 vOk (flashBytes s o n) else reply s smb 2 vRange []

/-- A flash change is refused while a job runs. -/
def flashChange (s : State) (smb : Bool) (cmd : Nat) (ok : Bool) (act : SMap Byte → SMap Byte) : State :=
  if inJob s then reply s smb cmd vBusy []
  else if !ok then reply s smb cmd vRange []
  else reply (modMgt s fun m => { m with flash := act m.flash }) smb cmd vOk []

/-- FLASH_ERASE: a 64 KiB block reads 0xFF. -/
def doFlashErase (s : State) (smb : Bool) (o : Nat) : State :=
  flashChange s smb 3 (o % 65536 == 0 && inFlash o 65536) fun f => smClear f o 65536

/-- Bytes programmed into NOR cells: a write clears bits, and only an erase sets them (log entry 4). -/
def program (o : Nat) : List Byte → SMap Byte → SMap Byte
  | [], f => f
  | b :: t, f => program (o + 1) t (smSet 0xFF#8 f o (smGet 0xFF#8 f o &&& b))

/-- FLASH_WRITE. -/
def doFlashWrite (s : State) (smb : Bool) (o : Nat) (d : List Byte) : State :=
  flashChange s smb 4 (len48 d.length && inFlash o d.length) (program o d)

/-- GET_PART_RECORD. -/
def doPartRecord (s : State) (smb : Bool) (o n : Nat) : State :=
  if len48 n && decide (o + n ≤ 65536) then reply s smb 5 vOk (flashBytes s (partBase + o) n) else reply s smb 5 vRange []

/-- RESET: the response is sent before a reset that acts as POR_N; on SMBus it still waits to be read after it. -/
def doReset (s : State) (smb : Bool) : State :=
  let s1 := reply s smb 6 vOk []
  let s2 := deviceReset s1 false true
  if smb then modMgt s2 fun m => { m with smb := s1.mgt.smb, alert := true } else s2

/-- SET_ENDPOINT_ID (DSP0236): 0 and 0xFF are no endpoint IDs. -/
def doSetEid (s : State) (smb : Bool) (e : Byte) : State :=
  if e = 0 ∨ e = 0xFF then mctpSend s smb [0, 0, 1, 2]
  else mctpSend (modMgt s fun m => { m with eid := smSet 0 m.eid (if smb then 1 else 0) e.toNat }) smb [0, 0, 1, 0, 0, e, 0]

/-- The other commands of MCTP control (DSP0236; log entry 11): the endpoint's ID, the versions and the message types that it
supports; any other answers ERROR_UNSUPPORTED_CMD. -/
def doControl (s : State) (b : MctpIn) : State :=
  mctpSend s b.smb (match b.code.toNat with
    | 2 => [0, 0, 2, 0, BitVec.ofNat 8 (eidOf s b.smb), 0, 0]
    | 4 => [0, 0, 4, 0, 1, 0xF1, 0xF3, 0xF1, 0]
    | 5 => [0, 0, 5, 0, 3, 0, 5, 0x7E]
    | _ => [0, 0, b.code, 5])

/-! ### SPDM (R351, R372) -/

/-- A byte of a message; 0 past its end. -/
def byteAt (m : List Byte) (i : Nat) : Byte := (m[i]?).getD 0

/-- Messages of a part of the transcript. -/
def spdmPart (s : State) (p : Nat) : List Byte := (s.mgt.spdm.filter fun x => x.1 == p).flatMap (·.2)

/-- Requests and responses so far in the part of version, capabilities and algorithms. -/
def spdmSteps (s : State) : Nat := (s.mgt.spdm.filter fun x => x.1 == 0).length

/-- An SPDM response leaves, in an MCTP message of type 0x05. -/
def spdmSend (s : State) (smb : Bool) (m : List Byte) : State := mctpSend s smb (0x05 :: m)

/-- Request and response join a part of the transcript, and the response leaves. -/
def spdmReply (s : State) (smb : Bool) (p : Nat) (req m : List Byte) : State :=
  spdmSend (modMgt s fun x => { x with spdm := x.spdm ++ [(p, req), (p, m)] }) smb m

/-- An ERROR response. -/
def spdmError (s : State) (smb : Bool) (code : Byte) : State := spdmSend s smb [0x12, 0x7F, code, 0]

/-- ERROR codes: InvalidRequest, UnexpectedRequest, Unspecified, UnsupportedRequest. -/
def eInvalid : Byte := 1
def eUnexpected : Byte := 4
def eUnspecified : Byte := 5
def eUnsupported : Byte := 7

/-- The request codes that the responder supports (R351). -/
def spdmKnown : List Byte := [0x81, 0x82, 0x83, 0x84, 0xE0, 0xE1, 0xE3]

/-- A request whose code is not the one expected: KEY_EXCHANGE, and whatever else is not supported, answers
UnsupportedRequest (R351). -/
def spdmOther (s : State) (smb : Bool) (req : List Byte) : State :=
  spdmError s smb (if spdmKnown.contains (byteAt req 1) then eInvalid else eUnsupported)

/-- A request of SPDM 1.2 with its code comes when its turn has come. -/
def spdmTurn (s : State) (smb : Bool) (req : List Byte) (code : Byte) (turn : Bool) (act : State → State) : State :=
  if byteAt req 1 ≠ code then spdmOther s smb req
  else if byteAt req 0 ≠ 0x12 then spdmError s smb eInvalid
  else if !turn then spdmError s smb eUnexpected
  else act s

/-- The session of version, capabilities and algorithms is complete. -/
def spdmReady (s : State) : Bool := spdmSteps s == 6

/-- GET_VERSION: version 1.2 only; the transcript begins anew. -/
def doGetVersion (s : State) (smb : Bool) (req : List Byte) : State :=
  if byteAt req 1 ≠ 0x84 then spdmOther s smb req
  else if byteAt req 0 ≠ 0x10 then spdmError s smb eInvalid
  else spdmReply (modMgt s fun m => { m with spdm := [] }) smb 0 req [0x10, 0x04, 0, 0, 0, 1, 0x00, 0x12]

/-- CAPABILITIES: certificates, challenge and signed measurements, and no keys, sessions or mutual authentication (R351). The
timeout exponent and the buffer sizes are free. -/
def capBody (req : List Byte) : List Byte :=
  let f := (Config.spdmBody 0x61 req ++ List.replicate 9 0).take 9
  [0] ++ f.take 1 ++ [0, 0, 0x16, 0, 0, 0] ++ f.drop 1

/-- GET_CAPABILITIES. -/
def doGetCapabilities (s : State) (smb : Bool) (req : List Byte) : State :=
  spdmTurn s smb req 0xE1 (spdmSteps s == 2) fun t => spdmReply t smb 0 req ([0x12, 0x61, 0, 0] ++ capBody req)

/-- ALGORITHMS: 36 bytes that select ECDSA on P-256 and SHA-256, for signatures and measurements, and nothing else (R351). -/
def algBody : List Byte :=
  leBytes 2 36 ++ [1, 0] ++ leBytes 4 2 ++ leBytes 4 16 ++ leBytes 4 1 ++ List.replicate 16 0

/-- NEGOTIATE_ALGORITHMS: a requester that offers other algorithms only has asked for what there is not. -/
def doNegotiate (s : State) (smb : Bool) (req : List Byte) : State :=
  spdmTurn s smb req 0xE3 (spdmSteps s == 4) fun t =>
    if bit (byteAt req 8) 4 && bit (byteAt req 12) 0 then spdmReply t smb 0 req ([0x12, 0x63, 0, 0] ++ algBody)
    else spdmError t smb eInvalid

/-- The certificate chain of slot 0: its length and two reserved bytes, then the root hash and the certificates, which are
free (DSP0274; log entry 17), as this boot has read them. -/
def chain (s : State) : List Byte :=
  let c := s.mgt.certs
  leBytes 2 (c.length + 4) ++ [0, 0] ++ c

/-- Its digest. -/
def chainHash (s : State) : List Byte := beBytes 32 (sha256 (chain s))

/-- GET_DIGESTS: slot 0 only. -/
def doGetDigests (s : State) (smb : Bool) (req : List Byte) : State :=
  spdmTurn s smb req 0x81 (spdmReady s) fun t => spdmReply t smb 1 req ([0x12, 0x01, 0, 1] ++ chainHash t)

/-- GET_CERTIFICATE: a portion of the chain. -/
def doGetCertificate (s : State) (smb : Bool) (req : List Byte) : State :=
  spdmTurn s smb req 0x82 (spdmReady s) fun t =>
    let o := leNat ((req.drop 4).take 2)
    let n := leNat ((req.drop 6).take 2)
    let c := chain t
    if bits (byteAt req 2) 3 0 ≠ 0 ∨ c.length ≤ o then spdmError t smb eInvalid
    else
      let p := (c.drop o).take n
      spdmReply t smb 1 req ([0x12, 0x02, 0, 0] ++ leBytes 2 p.length ++ leBytes 2 (c.length - o - p.length) ++ p)

/-- The message that a signature covers: the prefix of SPDM 1.2 with its context, in 100 bytes, and the transcript's digest. -/
def spdmSigned (context transcript : List Byte) : List Byte :=
  let v := "dmtf-spdm-v1.2.*".toList.map fun c => BitVec.ofNat 8 c.toNat
  v ++ v ++ v ++ v ++ List.replicate (36 - context.length) 0 ++ context ++ beBytes 32 (sha256 transcript)

/-- Text as bytes. -/
def textBytes (t : String) : List Byte := t.toList.map fun c => BitVec.ofNat 8 c.toNat

/-- A signature with the identity key (R371). -/
def spdmSig (s : State) (context transcript : List Byte) : List Byte × State :=
  let r := draw256 s
  (sigBytes (ecSign s.mgt.idPriv.toNat (sha256 (spdmSigned context transcript)) r.1.toNat), r.2)

/-- The device can sign, and has random values (R370, R371). -/
def canSign (s : State) : Bool := s.mgt.idPriv != 0 && !s.mgt.entropyBad

/-- The DMTF type of a measurement block: bit 7 marks raw contents (R372). -/
def measType (i : Nat) : Byte :=
  match i with
  | 1 => 0x00
  | 6 => 0x02
  | 7 => 0x84
  | 8 => 0x83
  | _ => 0x01

/-- A measurement block. -/
def measBlock (s : State) (i : Nat) : List Byte :=
  [BitVec.ofNat 8 i, 1] ++ leBytes 2 35 ++ [measType i] ++ leBytes 2 32 ++ beBytes 32 (smGet 0 s.mgt.meas i).toNat

/-- The blocks that boot has taken (R372): the mask ROM's from the start, an image's with the image, and 7 and 8 as boot ends
(log entry 90). -/
def measTaken (s : State) : List Nat :=
  ((List.range 8).map (· + 1)).filter fun i =>
    if 7 ≤ i then fld s aMgtBootStatus 3 0 == 9 else i == 1 || smGet 0 s.mgt.meas i != 0

/-- The measurement summary that a CHALLENGE asks for: none, or a digest of the blocks. -/
def measSummary (s : State) (kind : Byte) : List Byte :=
  if kind = 0 then []
  else
    let is := if kind = 1 then [1] else measTaken s
    beBytes 32 (sha256 (is.flatMap (measBlock s)))

/-- CHALLENGE: a part without its key cannot answer (R370). -/
def doChallenge (s : State) (smb : Bool) (req : List Byte) : State :=
  spdmTurn s smb req 0x83 (spdmReady s) fun t =>
    if byteAt req 2 ≠ 0 ∨ req.length < 36 then spdmError t smb eInvalid
    else if !canSign t then spdmError t smb eUnspecified
    else
      let n := draw256 t
      let m := [0x12, 0x03, 0, 1] ++ chainHash t ++ beBytes 32 n.1.toNat ++ measSummary t (byteAt req 3) ++ [0, 0]
      let g := spdmSig n.2 (textBytes "responder-challenge_auth signing") (spdmPart t 0 ++ spdmPart t 1 ++ req ++ m)
      spdmSend g.2 smb (m ++ g.1)

/-- The blocks that GET_MEASUREMENTS asks for: none, one, or all; one that is not taken is not there. -/
def measAsked (s : State) (op : Byte) : Option (List Nat) :=
  if op = 0 then some []
  else if op = 0xFF then some (measTaken s)
  else if (measTaken s).contains op.toNat then some [op.toNat]
  else none

/-- GET_MEASUREMENTS (R372), signed where the request asks for it. -/
def doGetMeasurements (s : State) (smb : Bool) (req : List Byte) : State :=
  spdmTurn s smb req 0xE0 (spdmReady s) fun t =>
    let op := byteAt req 3
    match measAsked t op with
    | none => spdmError t smb eInvalid
    | some is =>
      let sign := bit (byteAt req 2) 0
      if t.mgt.entropyBad || (sign && !canSign t) then spdmError t smb eUnspecified
      else
        let rc := is.flatMap (measBlock t)
        let n := draw256 t
        let m := [0x12, 0x60, (if op = 0 then BitVec.ofNat 8 (measTaken t).length else 0), 0, BitVec.ofNat 8 is.length] ++ leBytes 3 rc.length ++ rc ++
          beBytes 32 n.1.toNat ++ [0, 0]
        if sign then
          let g := spdmSig n.2 (textBytes "responder-measurements signing") (spdmPart t 0 ++ spdmPart t 2 ++ req ++ m)
          spdmSend (modMgt g.2 fun x => { x with spdm := x.spdm.filter fun y => y.1 != 2 }) smb (m ++ g.1)
        else spdmReply n.2 smb 2 req m

/-! ### SMBus and the test access port (R350, R384, R385) -/

/-- SMBUS_RESPONSE_READ: ALERT_N is released. -/
def doSmbRead (s : State) : State := modMgt s fun m => { m with smb := none, alert := false }

/-- What the data register of an instruction captures (IEEE 1149.1; log entry 11): BYPASS a 0, IDCODE the identification code,
whose lowest bit is 1, any other a register that the spec does not describe (free). -/
def tapCapture (s : State) (ir : Nat) : W32 :=
  match ir with
  | 0 => 0
  | 1 => Config.idcode ||| 1
  | _ => Config.free32 s.free

/-- TAP_INSTRUCTION: in a job only BYPASS and IDCODE stand, and any other takes effect as BYPASS. -/
def doTap (s : State) (ir : Nat) : State :=
  let i := if inJob s && decide (2 ≤ ir) then 0 else ir
  modMgt { s with free := s.free + 1 } fun m => { m with tap := i, tapDr := tapCapture s i }

/-! ### The commands -/

/-- GET_BOOT_STATUS (R373). -/
def execGetBootStatus (b : MctpIn) (s : State) : Out := .next (vendorOn s b 1 fun t => doBootStatus t b.smb)
/-- FLASH_READ (R373). -/
def execFlashRead (b : MctpIn) (off : W32) (len : Byte) (s : State) : Out :=
  .next (vendorOn s b 2 fun t => doFlashRead t b.smb off.toNat len.toNat)
/-- FLASH_ERASE (R373). -/
def execFlashErase (b : MctpIn) (off : W32) (s : State) : Out := .next (vendorOn s b 3 fun t => doFlashErase t b.smb off.toNat)
/-- FLASH_WRITE (R373). -/
def execFlashWrite (b : MctpIn) (off : W32) (data : List Byte) (s : State) : Out :=
  .next (vendorOn s b 4 fun t => doFlashWrite t b.smb off.toNat data)
/-- GET_PART_RECORD (R373). -/
def execGetPartRecord (b : MctpIn) (off : W16) (len : Byte) (s : State) : Out :=
  .next (vendorOn s b 5 fun t => doPartRecord t b.smb off.toNat len.toNat)
/-- RESET (R373). -/
def execReset (b : MctpIn) (s : State) : Out := .next (vendorOn s b 6 fun t => doReset t b.smb)
/-- SET_ENDPOINT_ID (R350), and the other commands of MCTP control. -/
def execSetEndpointId (b : MctpIn) (eid : Byte) (s : State) : Out :=
  .next (mctpOn s b 0 fun t => if b.code = 1 then doSetEid t b.smb eid else doControl t b)
/-- GET_VERSION (R351). -/
def execGetVersion (b : MctpIn) (req : List Byte) (s : State) : Out := .next (mctpOn s b 5 fun t => doGetVersion t b.smb req)
/-- GET_CAPABILITIES (R351). -/
def execGetCapabilities (b : MctpIn) (req : List Byte) (s : State) : Out := .next (mctpOn s b 5 fun t => doGetCapabilities t b.smb req)
/-- NEGOTIATE_ALGORITHMS (R351). -/
def execNegotiateAlgorithms (b : MctpIn) (req : List Byte) (s : State) : Out := .next (mctpOn s b 5 fun t => doNegotiate t b.smb req)
/-- GET_DIGESTS (R351). -/
def execGetDigests (b : MctpIn) (req : List Byte) (s : State) : Out := .next (mctpOn s b 5 fun t => doGetDigests t b.smb req)
/-- GET_CERTIFICATE (R351). -/
def execGetCertificate (b : MctpIn) (req : List Byte) (s : State) : Out := .next (mctpOn s b 5 fun t => doGetCertificate t b.smb req)
/-- CHALLENGE (R351, R370, R371). -/
def execChallenge (b : MctpIn) (req : List Byte) (s : State) : Out := .next (mctpOn s b 5 fun t => doChallenge t b.smb req)
/-- GET_MEASUREMENTS (R351, R372). -/
def execGetMeasurements (b : MctpIn) (req : List Byte) (s : State) : Out := .next (mctpOn s b 5 fun t => doGetMeasurements t b.smb req)
/-- SMBUS_RESPONSE_READ (R350). -/
def execSmbusResponseRead (s : State) : Out := .next (doSmbRead s)
/-- SMBUS_TIMEOUT (R384): SCL low for 25 ms resets the interface; no response waits any more. -/
def execSmbusTimeout (s : State) : Out := .next (modMgt s fun m => { m with smb := none, alert := false })
/-- TAP_INSTRUCTION (R385). -/
def execTapInstruction (ir : Nat) (s : State) : Out := .next (doTap s ir)

end Sys2Proof.Machine
end

