-- ==== Sys2Proof/Machine/Pmc.lean ====
section
/-! DEFINITION. Writes of the performance counters (16, R398, R403, R404): CLEAR, H1_COUNTER_WRITE. -/

namespace Sys2Proof.Machine

/-- Every native counter becomes 0 (R398); the H1 counters stay. -/
def pmcClear (s : State) : State := { s with pmc := s.pmc.filter fun p => decide (2048 ≤ p.1) }

/-- A write of MGT_PMC_CTL (R398, R403): a new CORE_SEL takes effect at once outside a job. -/
def pmcCtlWrite (s : State) (v : W64) : State :=
  let legal := decide (bits v 4 2 ≤ 4)
  let s1 := regPut s .mgt aMgtPmcCtl (fldsAt aMgtPmcCtl) true legal v
  if !legal then s1
  else
    let s2 := if bit v 5 then pmcClear s1 else s1
    if inJob s2 then s2 else modMgt s2 fun m => { m with coreSel := fld s2 aMgtPmcCtl 4 2 }

/-- H1 counter j is set (R404). -/
def h1Write (s : State) (j : Nat) (v : W64) : State := { s with pmc := smSet 0 s.pmc (2048 + j) (bits v 31 0) }

/-- CLEAR (R398): MGT_PMC_CTL is written with CLEAR = 1 and its other fields as they stand. -/
def execClear (s : State) : Out := .next (pmcCtlWrite s (putBits (reg s aMgtPmcCtl) 5 5 1))
/-- H1_COUNTER_WRITE (R404). -/
def execH1CounterWrite (j : Fin 64) (v : W32) (s : State) : Out := .next (h1Write s j (v.setWidth 64))

end Sys2Proof.Machine
end

