-- ==== Sys2Proof/Machine/Training.lean ====
section
/-! DEFINITION. Training numerics (06, R158-R165): the gradient format table and its close, the loss watch: LOSS,
RESTART, GRAD_NF_RAISE, CLOSE, CLOSE_END. -/

namespace Sys2Proof.Machine

/-! ### The loss watch (R164, R165) -/

/-- a = f32(1.0 / n) during warm-up, 2^-ALPHA_SH after it. -/
def lwAlpha (n warm sh : Nat) : W32 := if n ≤ warm then f32Ratio 1 n else f32Ratio 1 (2 ^ sh)

/-- The limit of the spike test. -/
def lwLimit (k mean var : W32) : W32 := f32Add mean (f32Mul k (f32Sqrt var))

/-- The mean after an accepted loss: fused, one rounding. -/
def lwMean (mean a d : W32) : W32 := f32Fma a d mean

/-- The variance after an accepted loss: inner step fused, one rounding. -/
def lwVar (var a d : W32) : W32 := f32Mul (f32Sub f32One a) (f32Fma a (f32Mul d d) var)

/-- One more consecutive spiked or non-finite loss, up to 65,535. -/
def lwConsec (s : State) : State := addFld s aMgtLwStatus 47 32 1

/-- An accepted loss (R164). -/
def lwAccept (s : State) (x : W32) : State :=
  let n := min (fld s aMgtLwN 31 0 + 1) 0xFFFFFFFF
  let mean := BitVec.ofNat 32 (fld s aMgtLwState 31 0)
  let var := BitVec.ofNat 32 (fld s aMgtLwState 63 32)
  let a := lwAlpha n (fld s aMgtLwCtl 31 16) (fld s aMgtLwCtl 11 8)
  let d := f32Sub x mean
  let s1 := setFld (setFld s aMgtLwStatus 47 32 0) aMgtLwN 31 0 n
  setFld (setFld s1 aMgtLwState 31 0 (lwMean mean a d).toNat) aMgtLwState 63 32 (lwVar var a d).toNat

/-- A loss exceeds the limit after warm-up (R164). -/
def lwSpikes (s : State) (x : W32) : Bool :=
  decide (fld s aMgtLwCtl 31 16 ≤ fld s aMgtLwN 31 0) &&
    f32Lt (lwLimit (BitVec.ofNat 32 (fld s aMgtLwCtl 63 32)) (BitVec.ofNat 32 (fld s aMgtLwState 31 0))
      (BitVec.ofNat 32 (fld s aMgtLwState 63 32))) x

/-- A write of MGT_LW_LOSS (R164). -/
def doLoss (s : State) (x : W32) : State :=
  if fld s aMgtLwCtl 0 0 = 0 then s
  else if !f32IsFinite x then lwConsec (setFld s aMgtLwStatus 2 2 1)
  else if lwSpikes s x then lwConsec (setFld s aMgtLwStatus 1 1 1)
  else lwAccept s x

/-- A write of MGT_LW_CTL.RESTART = 1: N, MEAN, VAR and CONSEC become 0; the flags stay (R164). -/
def doRestart (s : State) : State :=
  setReg (setFld (setFld s aMgtLwStatus 47 32 0) aMgtLwN 31 0 0) aMgtLwState 0

/-- A write of 1 to MGT_LW_RAISE.GRAD_NF (R165). -/
def doGradNfRaise (s : State) : State := setFld s aMgtLwStatus 0 0 1

/-! ### The gradient format table (R158 to R162) -/

/-- An entry as R160 names its parts. -/
structure GftEntry where
  elem : Nat
  sat : Nat
  flush : Nat
  nonfin : Nat
  badHist : Nat
  goodHist : Nat
  hold : Nat
  steps : Nat
  level : Nat
  deriving DecidableEq, Repr

/-- The settings of R160. -/
structure GftSet where
  adapt : Bool
  maxLevel : Nat
  minLevel : Nat
  hold : Nat
  downW : Nat
  upN : Nat
  w : Nat
  satUp : Nat
  flushUp : Nat
  satDown : Nat
  flushDown : Nat
  deriving DecidableEq, Repr

def gftEntry (s : State) (n : Nat) : GftEntry :=
  let a := reg s (aMgtGftCnta n)
  let b := reg s (aMgtGftCntb n)
  let t := reg s (aMgtGftState n)
  ⟨bits a 31 0, bits a 63 32, bits b 31 0, bits b 63 32, bits t 63 48, bits t 47 32, bits t 31 24, bits t 23 16,
    bits t 1 0⟩

def gftSet (s : State) : GftSet :=
  let c := reg s aMgtGftCtl
  let t := reg s aMgtGftThr
  ⟨bit c 0, bits c 27 26, bits c 25 24, bits c 23 16, bits c 15 12 + 1, bits c 11 8 + 1, bits c 7 4 + 1,
    bits t 63 48, bits t 47 32, bits t 31 16, bits t 15 0⟩

/-- Bits set among the low n bits of a history. -/
def popLow (h n : Nat) : Nat := ((List.range n).filter fun i => h.testBit i).length

/-- A step is bad, or good, under the thresholds (R160). -/
def gftBad (g : GftSet) (e : GftEntry) : Bool :=
  decide (g.satUp * e.elem < e.sat * 2 ^ 20) || decide (g.flushUp * e.elem < e.flush * 2 ^ 20)
def gftGood (g : GftSet) (e : GftEntry) : Bool :=
  decide (e.sat * 2 ^ 20 ≤ g.satDown * e.elem) && decide (e.flush * 2 ^ 20 ≤ g.flushDown * e.elem)

/-- The move of an entry after its histories are brought up to date (R160). -/
def gftMove (g : GftSet) (e : GftEntry) : GftEntry :=
  if 0 < e.hold then { e with hold := e.hold - 1 }
  else if g.upN ≤ popLow e.badHist g.w && decide (e.level < g.maxLevel) then
    { e with level := e.level + 1, badHist := 0, goodHist := 0, hold := g.hold }
  else if e.goodHist % 2 ^ g.downW = 2 ^ g.downW - 1 && decide (g.minLevel < e.level) then
    { e with level := e.level - 1, badHist := 0, goodHist := 0, hold := g.hold }
  else e

/-- A recorded step of an entry (R160). -/
def gftStep (g : GftSet) (e : GftEntry) : GftEntry :=
  if g.adapt && e.elem != 0 && e.nonfin == 0 then
    gftMove g { e with
      badHist := (e.badHist * 2 + if gftBad g e then 1 else 0) % 65536
      goodHist := (e.goodHist * 2 + if gftGood g e then 1 else 0) % 65536
      steps := min (e.steps + 1) 255 }
  else e

/-- The rule of R160 for one entry. -/
def gftClose (g : GftSet) (e : GftEntry) : GftEntry :=
  let x := gftStep g e
  { x with level := min (max x.level g.minLevel) g.maxLevel, elem := 0, sat := 0, flush := 0, nonfin := 0 }

/-- The STATE word of an entry; its FMT field is composed when it is read. -/
def gftStateWord (e : GftEntry) (old : W64) : W64 :=
  putBits (putBits (putBits (putBits (putBits old 63 48 e.badHist) 47 32 e.goodHist) 31 24 e.hold) 23 16 e.steps) 1 0 e.level

/-- The close of entry n. -/
def closeEntry (s : State) (n : Nat) : State :=
  let e := gftClose (gftSet s) (gftEntry s n)
  setReg (setReg (setReg s (aMgtGftCnta n) 0) (aMgtGftCntb n) 0) (aMgtGftState n) (gftStateWord e (reg s (aMgtGftState n)))

/-- A write of MGT_GFT_CTL.CLOSE = 1 (R160, R161): ignored with the management block's flag while a close runs. -/
def doClose (s : State) : State :=
  if fld s aMgtGftCtl 2 2 = 1 then rwiErr s .mgt aMgtGftCtl
  else addFld (setFld ((List.range 4096).foldl closeEntry s) aMgtGftCtl 2 2 1) aMgtGftCtl 63 32 1

/-- The close finishes (R161). -/
def doCloseEnd (s : State) : State := setFld s aMgtGftCtl 2 2 0

/-- The format code of a level (MGT_GFTn_STATE.FMT). -/
def gftFmt (adapt : Bool) (level : Nat) : Nat :=
  if !adapt then 5 else match level with
    | 0 => 2
    | 1 => 3
    | _ => 5

/-! ### The commands -/

/-- LOSS (R164). -/
def execLoss (v : W32) (s : State) : Out := .next (doLoss s v)
/-- RESTART (R164). -/
def execRestart (s : State) : Out := .next (doRestart s)
/-- GRAD_NF_RAISE (R165). -/
def execGradNfRaise (s : State) : Out := .next (doGradNfRaise s)
/-- CLOSE (R160). -/
def execClose (s : State) : Out := .next (doClose s)
/-- CLOSE_END (R161). -/
def execCloseEnd (s : State) : Out := .next (doCloseEnd s)

end Sys2Proof.Machine
end

