-- ==== Sys2Proof/Machine/Flags.lean ====
section
/-! DEFINITION. The status flags and fields that a register read composes from the state (R7, and the register tables of 03
to 17): IDLE, BUSY and PRESENT flags, states of banks and channels, temperatures, counters, summaries. -/

namespace Sys2Proof.Machine

/-- A flag as a number. -/
def flag (b : Bool) : Nat := if b then 1 else 0

/-! ### Quarters (03) -/

/-- QTR_STATUS. -/
def qtrStatus (s : State) (q : Nat) : Nat :=
  2 ^ 31 + flag (qtrIdle s q) * 2 ^ 30 + min (inflight s q) 63 * 2 ^ 24 +
    ((List.range 8).map fun i => bankCode (smGet bank0 s.banks (q * 8 + i)).st * 2 ^ (3 * i)).foldl (· + ·) 0

/-! ### Training numerics (06) -/

/-- MGT_GFTn_STATE: FMT follows MODE and LEVEL. -/
def gftView (s : State) (w : W64) : W64 := putBits w 7 4 (gftFmt (fld s aMgtGftCtl 0 0 == 1) (bits w 1 0))

/-- MGT_LW_STATUS: SKIP and WARM (R165). -/
def lwView (s : State) (w : W64) : W64 :=
  putBits (putBits w 4 4 (flag (bits w 2 0 != 0))) 3 3 (flag (decide (fld s aMgtLwCtl 31 16 ≤ fld s aMgtLwN 31 0)))

/-! ### Update chiplets (07) -/

/-- The chiplet takes part in the UPDATE in hand. -/
def updHas (s : State) (k : Nat) : Bool := (s.upd.cur.map fun c => c.ks.contains k).getD false

/-- UPD_STATUS.GROUP: the group in hand of pass 2; within pass 1, whose course the model does not time, a free value (log
entry 1). -/
def updGroup (s : State) (k : Nat) : Nat :=
  let c := updChip s k
  if !updHas s k then 0
  else if c.phase = 1 then (Config.free32 s.free).toNat % 65536
  else (c.groups.head?.map (·.1)).getD 0

/-- UPD_STATUS. -/
def updStatus (s : State) (k : Nat) : Nat :=
  if !updPresent s k then 0
  else
    let p := (updChip s k).phase
    2 ^ 31 + flag (!updHas s k) * 2 ^ 30 + (if updHas s k && decide (p ≤ 3) then p else 0) * 2 ^ 28 + updGroup s k

/-! ### Stacks (08) -/

/-- The largest lane offset of a channel (R209). -/
def maxDrift (s : State) (k c : Nat) : Nat :=
  ((List.range 20).map fun l => (smGet 0 s.stk.drift ((k * 128 + c) * 32 + l)).natAbs).foldl max 0

/-- Spares in use (R212). -/
def sparesUsed (s : State) (k c : Nat) : Nat := ((List.range 2).filter fun i => spareFor s k c i != 31).length

/-- MEM_CHc_STATUS: its MARKED bit is held. -/
def chView (s : State) (k c : Nat) (w : W64) : Nat :=
  chanSt s k c * 2 ^ 30 + sparesUsed s k c * 2 ^ 20 + bits w 5 5 * 32 + min (maxDrift s k c) 31

/-! ### Photonic links (11) -/

/-- The highest filtered sensor of a die. -/
def dieMax (s : State) (die : Nat) : Option Int := hottest (s.opt.sens.filter fun p => p.1 / 64 == die)

/-- OPT_STATUS.READY: the lasers feed light, every ACTIVE one is LOCKED, and every ring of an enabled port has verified its
pilot. -/
def optReady (s : State) : Bool :=
  ((List.range 128).any (laserActive s)) && ((List.range 128).all fun n => !laserActive s n || laserState s n == 2) &&
    (List.range 32).all fun p => !portEn s p || fld s (aOptRingok p) 31 0 == 0xFFFFFFFF

/-- OPT_STATUS. -/
def optStatus (s : State) : Nat :=
  flag (optReady s) * 2 ^ 31 + flag ((List.range 2).any fun d => dieRamps s d (fld s aOptCtl 7 0)) * 2 ^ 30 +
    tempByte (dieMax s 1) * 256 + tempByte (dieMax s 0)

/-! ### Power, faults and counters (15 to 17) -/

/-- A compute-die sensor is excluded (R416). -/
def sensorFault (s : State) : Bool := s.mgt.tj.any fun p => p.2.failed

/-- MGT_PWR_STATUS: P_BEAT_W, D_LAST and VALID are held. VID_E and VID_W are the codes driven, 30 from reset on (R410), where the
table's reset value is 0 (log entry 74). -/
def pwrView (s : State) (w : W64) : Nat :=
  bits w 63 48 * 2 ^ 48 + tempByte (tjMax s) * 2 ^ 40 + tempByte (tphMax s) * 2 ^ 32 + s.mgt.vidE % 32 * 2 ^ 24 +
    s.mgt.vidW % 32 * 2 ^ 16 + bits w 15 8 * 256 + flag (sensorFault s) * 4 + flag (hotGt (tjMax s) (fld s aMgtPwrCtl 15 8)) * 2 +
    bits w 0 0

/-- MGT_FAULT_SUM. -/
def faultSum (s : State) : Nat := ((List.range 9).map fun e => flag (errCond s e) * 2 ^ e).foldl (· + ·) 0

/-- Native counter n as it reads (R399). -/
def cntWord (s : State) (n : Nat) : Nat := beatNum s % 65536 * 2 ^ 48 + smGet 0 s.pmc n

/-- H1 counter j (R404). -/
def h1Word (s : State) (j : Nat) : Nat := smGet 0 s.pmc (2048 + j)

/-- The user gate of the counter window (R400). -/
def gated (s : State) (v : Nat) : Nat := if fld s aMgtPmcUserEn 0 0 = 1 then v else 0

/-! ### The value of a register -/

/-- The register of a row of the register tables, with indices i and j and offset `off`. -/
def viewRow (s : State) (d : RegD) (i j off : Nat) : W64 :=
  let w := reg s off
  if 0x1400000 ≤ d.base ∧ d.base < 0x2000000 ∧ !qtrPresent s i then 0
  else match d.base with
    | 0x1400004 => BitVec.ofNat 64 (qtrStatus s i)
    | 0x1400030 => BitVec.ofNat 64 (mtime s)
    | 0x80010 => gftView s w
    | 0x850 => lwView s w
    | 0x1000000 => BitVec.ofNat 64 (updStatus s i)
    | 0x1001008 => putBits w 17 16 s.upd.inbox.length
    | 0x800000 => if stkPresent s i then w else 0
    | 0x800100 => putBits w 2 0 ((markedStack s).getD (bits w 2 0))
    | 0x840000 => BitVec.ofNat 64 (chView s i j w)
    | 0x200018 => putBits w 47 32 (min (inflightOld s) 0xFFFF)
    | 0x400000 => BitVec.ofNat 64 (optStatus s)
    | 0x600000 => if prjPresent s then w else 0
    | 0x510 => BitVec.ofNat 64 (faultSum s)
    | 0xa08 => BitVec.ofNat 64 (pwrView s w)
    | 0xe00 => BitVec.ofNat 64 (h1Word s i)
    | 0x3f00000 => BitVec.ofNat 64 (gated s (cntWord s i))
    | 0x3f80000 => BitVec.ofNat 64 (gated s (h1Word s i))
    | _ => w

/-- One field of a register as a read returns it: a WO field reads 0 (R7). -/
def readFld (w acc : W64) (f : Fld) : W64 := if f.acc = .wo then acc else putBits acc f.hi f.lo (bits w f.hi f.lo)

/-- A register as a read returns it: its fields, and 0 in every reserved bit (R7, R8). -/
def readFlds (fs : List Fld) (w : W64) : W64 := fs.foldl (readFld w) 0

/-- The register at an offset, if there is one. -/
def viewReg (s : State) (off : Nat) : Option (W64 × Nat) :=
  (regFind off regTable).map fun x => (readFlds x.1.flds (viewRow s x.1 x.2.1 x.2.2 off), x.1.wid)

/-- The register at an offset as 32 bits. -/
def view32 (s : State) (off : Nat) : Nat := ((viewReg s off).map fun x => x.1.toNat % 2 ^ 32).getD 0

/-- The registers in the 8 bytes at an offset. -/
def viewPair (s : State) (o : Nat) : Nat :=
  match viewReg s o with
  | some (w, 64) => w.toNat
  | _ => view32 s o + view32 s (o + 4) * 2 ^ 32

/-- An offset of the alias of the counters (R400): 8 bytes there. -/
def aliasPair (s : State) (o : Nat) : Nat :=
  if o < 0xC0000 + 8 * 1417 then cntWord s ((o - 0xC0000) / 8)
  else if 0xC8000 ≤ o ∧ o < 0xC8100 then h1Word s ((o - 0xC8000) / 4) + h1Word s ((o - 0xC8000) / 4 + 1) * 2 ^ 32
  else 0

/-- The offset lies in the alias of the counters. -/
def inAlias (o : Nat) : Bool := decide (0xC0000 ≤ o) && decide (o < 0xC8100)

/-- The square window (R342). -/
def inSqWindow (o : Nat) : Bool := decide (0x2000000 ≤ o) && decide (o < 0x2080000)

/-- The MSI-X table and the Pending Bit Array (R347). -/
def inMsix (o : Nat) : Bool := decide (msixBase ≤ o) && decide (o < msixBase + 4096)
def inPba (o : Nat) : Bool := decide (pbaBase ≤ o) && decide (o < pbaBase + 32)

/-- The 8 bytes of BAR0 at an offset, and whether their completion carries EP (R342, R347, R400, R421). -/
def barPair (s : State) (o : Nat) : W64 × Bool :=
  if inSqWindow o then (squareWord s ((o - 0x2000000) / 8), (square s ((o - 0x2000000) / 8)).psn)
  else if inMsix o then (vecRead s ((o - msixBase) / 8), false)
  else if inPba o then (pbaRead s ((o - pbaBase) / 8), false)
  else if inAlias o then (BitVec.ofNat 64 (aliasPair s o), false)
  else (BitVec.ofNat 64 (viewPair s o), false)

/-! ### Reading (R7, R343) -/

/-- A width and alignment that BAR0 accepts (R343). -/
def widthOk (off bytes : Nat) : Bool := (bytes == 4 || bytes == 8) && off % bytes == 0

/-- The RC fields of a register that a read of bits [hi:lo] touches are cleared (R7). -/
def clearFlds (s : State) (off hi lo : Nat) : State :=
  (fldsAt off).foldl (fun t f => if f.acc = .rc ∧ f.lo ≤ hi ∧ lo ≤ f.hi then setFld t off f.hi f.lo 0 else t) s

/-- What a read of 4 or 8 bytes clears: fields of the register at the offset, or of one that it reads half of. -/
def readClears (s : State) (off bytes : Nat) : State :=
  let lo := off / 8 * 8
  match (regFind lo regTable).map fun x => x.1.wid with
  | some 64 => clearFlds s lo (8 * (off % 8 + bytes) - 1) (8 * (off % 8))
  | _ =>
    let s1 := clearFlds s off 31 0
    if bytes = 8 then clearFlds s1 (off + 4) 31 0 else s1

/-- A read of BAR0 or of the register mirror: the value, EP, and the state after it. -/
def readBar (s : State) (off bytes : Nat) : Nat × Bool × State :=
  if !widthOk off bytes then (0, false, raise s .hst 3 off)
  else
    let p := barPair s (off / 8 * 8)
    (p.1.toNat >>> (8 * (off % 8)) % 2 ^ (8 * bytes), p.2, { readClears s off bytes with free := s.free + 1 })

end Sys2Proof.Machine
end

