-- ==== Sys2Proof/Machine/PcieCfg.lean ====
section
/-! DEFINITION. Configuration space (13, R337, R338, R340, R341, R349): its header and capabilities as a read returns them, and
what a write does. The spec gives the features, the identities and their values; the layout of each register is PCIe's, and
the places of the capabilities are the model's (log entry 11). -/

namespace Sys2Proof.Machine

/-! ### Places of the capabilities -/

def cfgPm : Nat := 0x40
def cfgMsix : Nat := 0x50
def cfgPcie : Nat := 0x60
def cfgAer : Nat := 0x100
def cfgDsn : Nat := 0x150
def cfgRebar : Nat := 0x160

/-- A header of an extended capability: its ID and version, and the next. -/
def extCap (id ver next : Nat) : Nat := next * 2 ^ 20 + ver * 65536 + id

/-- What a register holds after reset, where it is fixed or no field of the state holds it. Max_Payload_Size to 1,024 B,
Max_Read_Request_Size 512 B, Ranges A and B of the completion timeout, 14-bit tags, one function (R337, R349). -/
def cfgReset (off : Nat) : Nat :=
  match off with
  | 0x000 => 0x48021F3A
  | 0x008 => 0x12000001
  | 0x010 => 0x4
  | 0x018 => 0x4
  | 0x020 => 0xC
  | 0x02C => 0x48021F3A
  | 0x034 => cfgPm
  | 0x040 => 3 * 65536 + cfgMsix * 256 + 0x01
  | 0x054 => 0x108000
  | 0x058 => 0x109000
  | 0x060 => 2 * 65536 + 0x10
  | 0x064 => 0x10008023
  | 0x068 => 0x2810
  | 0x06C => 16 * 16 + 6
  | 0x084 => 0x30013
  | 0x08C => 0x7E
  | 0x090 => 6
  | 0x100 => extCap 0x0001 2 cfgDsn
  | 0x10C => 2 ^ 4 + 2 ^ 5 + 2 ^ 17 + 2 ^ 18
  | 0x114 => 2 ^ 13
  | 0x118 => 2 ^ 5 + 2 ^ 7
  | 0x150 => extCap 0x0003 1 cfgRebar
  | 0x160 => extCap 0x0015 1 0x180
  | 0x164 => 0x7F * 2 ^ 14
  | 0x180 => extCap 0x0025 1 0x190
  | 0x194 => 2 ^ 31
  | 0x190 => extCap 0x0026 1 0x1C0
  | 0x1C0 => extCap 0x002A 1 0x1F0
  | 0x1F0 => extCap 0x0031 1 0x210
  | 0x210 => extCap 0x0027 1 0x260
  | 0x260 => extCap 0x002F 1 0
  | 0x264 => 6
  | _ => 0

/-- The bits that software may write in a register that no field of the state holds: the bases of the BARs (R341), Device
Control and Control 2, Link Control, the masks and severities of AER, ECRC enables, tags. -/
def cfgMask (s : State) (off : Nat) : Nat :=
  match off with
  | 0x010 => 0xFC000000
  | 0x014 => 0xFFFFFFFF
  | 0x018 => 0xFF000000
  | 0x01C => 0xFFFFFFFF
  | 0x024 => 0x100000000 - bar4Size s / 2 ^ 32
  | 0x03C => 0xFF
  | 0x068 => 0x78FF
  | 0x088 => 0x1F
  | 0x108 => 0x1FF030
  | 0x10C => 0x1FF030
  | 0x114 => 0x31C1
  | 0x118 => 2 ^ 6 + 2 ^ 8
  | 0x268 => 2
  | _ => 0

/-- A register of configuration space as it is read. No_Soft_Reset is 1 (R340); the Device Serial Number is 0 without an
identity (R338). -/
def cfgWord (s : State) (off : Nat) : W32 :=
  let h := s.host
  match off with
  | 0x004 => BitVec.ofNat 32 (2 ^ 20 + h.mse.toNat * 2 + h.bme.toNat * 4)
  | 0x044 => BitVec.ofNat 32 (2 ^ 3 + (if h.d3 then 3 else 0))
  | 0x050 => BitVec.ofNat 32 (h.msixEn.toNat * 2 ^ 31 + h.fmask.toNat * 2 ^ 30 + 255 * 65536 + cfgPcie * 256 + 0x11)
  | 0x070 => BitVec.ofNat 32 (bits h.link 20 16 * 2 ^ 20 + bits h.link 15 12 * 65536)
  | 0x104 => BitVec.ofNat 32 h.aerU
  | 0x110 => BitVec.ofNat 32 h.aerC
  | 0x154 => s.mgt.dsn.setWidth 32
  | 0x158 => (s.mgt.dsn >>> 32).setWidth 32
  | 0x168 => BitVec.ofNat 32 ((fld s aHstBar4Ctl 5 0 - 20) * 256 + 0x24)
  | _ => (smGet none h.cfg off).getD (BitVec.ofNat 32 (cfgReset off))

/-- A write of a register that no other field of the state holds. -/
def cfgPlain (s : State) (off : Nat) (v : W32) : State :=
  let m : W32 := BitVec.ofNat 32 (cfgMask s off)
  if m = 0 then s else modHost s fun h => { h with cfg := smSet none h.cfg off (some ((cfgWord s off &&& ~~~m) ||| (v &&& m))) }

/-- A write of Device Control; bit 15 initiates a Function Level Reset (R362). -/
def devCtlWrite (s : State) (v : W32) : State := if bit v 15 then deviceReset s true false else cfgPlain s 0x068 v

/-- A write of a whole register of configuration space: the enables (R352, R353), the power state (R340), MSI-X (R347), the
status bits of AER, which a 1 clears (R349), the size of BAR4 (R341). -/
def cfgRegWrite (s : State) (off : Nat) (v : W32) : State :=
  match off with
  | 0x004 => modHost s fun h => { h with mse := bit v 1, bme := bit v 2 }
  | 0x044 => if bits v 1 0 = 3 then modHost s fun h => { h with d3 := true } else if bits v 1 0 = 0 then doD0 s else s
  | 0x050 => doFunctionMask s (bit v 31) (bit v 30)
  | 0x068 => devCtlWrite s v
  | 0x104 => modHost s fun h => { h with aerU := (BitVec.ofNat 32 h.aerU &&& ~~~v).toNat }
  | 0x110 => modHost s fun h => { h with aerC := (BitVec.ofNat 32 h.aerC &&& ~~~v).toNat }
  | 0x168 => doResize s (bits v 13 8 + 20)
  | _ => cfgPlain s off v

/-- The bytes that an access reaches within its register. -/
def cfgPart (off bytes : Nat) : Bool := decide (1 ≤ bytes) && decide (off % 4 + bytes ≤ 4) && decide (off < 4096)

/-- A configuration read, which needs no enable and is answered in D3hot. -/
def cfgRead (s : State) (off bytes : Nat) : State :=
  if cfgPart off bytes then
    answer s (((leBytes 4 (cfgWord s (off / 4 * 4)).toNat).drop (off % 4)).take bytes) false
  else unsupported s

/-- A configuration write of some bytes of a register; status bits of the others are not cleared by it. -/
def cfgPut (s : State) (off bytes : Nat) (v : W64) : State :=
  if cfgPart off bytes then
    let o := off / 4 * 4
    let lo := 8 * (off % 4)
    let old : W32 := if o = 0x104 ∨ o = 0x110 then 0 else cfgWord s o
    cfgRegWrite s o ((putBits (old.setWidth 64) (lo + 8 * bytes - 1) lo (bits v (8 * bytes - 1) 0)).setWidth 32)
  else unsupportedWrite s

end Sys2Proof.Machine
end

