-- ==== Sys2Proof/Machine/RegWrite.lean ====
section
/-! DEFINITION. Register writes (R7-R9, R342, R343, R355) of every register of the H2, and reads by the host: REGISTER_WRITE,
REGISTER_READ_CLEAR. -/

namespace Sys2Proof.Machine

/-- The block that owns a BAR0 offset (R342). -/
def blkOf (off : Nat) : Blk :=
  if off < 0x100000 then .mgt
  else if off < 0x180000 then (if off = aHstQErr ∨ 0x101000 ≤ off ∧ off < 0x103000 then .hstQ else .hst)
  else if off < 0x200000 then .clk
  else if off < 0x400000 then .fab
  else if off < 0x600000 then .opt
  else if off < 0x800000 then .prj
  else if off < 0x1000000 then .mem ((off - 0x800000) / 0x100000)
  else if off < 0x1400000 then .upd ((off - 0x1000000) / 0x80000)
  else .qtr ((off - 0x1400000) / 0x20000)

/-! ### Legal ranges (R9, from the register tables) -/

/-- A number lies in a range. -/
def within (lo hi n : Nat) : Bool := decide (lo ≤ n) && decide (n ≤ hi)

/-- MGT_GFT_CTL. -/
def gftCtlLegal (v : W64) : Bool :=
  decide (bits v 27 26 ≤ 2) && decide (bits v 25 24 ≤ bits v 27 26) && decide (bits v 7 4 ≤ bits v 15 12) &&
    decide (bits v 11 8 ≤ bits v 7 4)

/-- MGT_GFT_THR. -/
def gftThrLegal (v : W64) : Bool := decide (bits v 31 16 < bits v 63 48) && decide (bits v 15 0 < bits v 47 32)

/-- MGT_LW_CTL: K positive, finite and normal. -/
def lwCtlLegal (v : W64) : Bool :=
  !bit v 63 && within 1 254 (bits v 62 55) && decide (1 ≤ bits v 31 16) && within 1 12 (bits v 11 8)

/-- MGT_LW_STATE: VAR finite and not negative, MEAN finite. -/
def lwStateLegal (v : W64) : Bool :=
  bits v 62 55 != 255 && bits v 30 23 != 255 && (!bit v 63 || bits v 62 32 == 0)

/-- SCC_QUOTA. -/
def quotaLegal (v : W64) : Bool :=
  let l := [bits v 15 12, bits v 11 8, bits v 7 4, bits v 3 0]
  (l.all fun n => decide (1 ≤ n)) && l.foldl (· + ·) 0 == 14

/-- CLK_TREE. -/
def treeLegal (v : W64) : Bool := decide (bits v 4 0 < 24) && !bit v (32 + bits v 4 0)

/-- FAB_PORTp.ROLE. -/
def roleLegal (p : Nat) (v : W64) : Bool :=
  let r := bits v 30 28
  if p < 24 then decide (r ≤ 6) else r == 0 || r == 7

/-- OPT_STLMAPp: no two nibbles are equal. -/
def mapLegal (v : W64) : Bool :=
  (List.range 8).all fun i => (List.range i).all fun j => bits v (4 * i + 3) (4 * i) != bits v (4 * j + 3) (4 * j)

/-- OPT_AV_CTL: QUANT is not 0, and position POS holds a member. -/
def avCtlLegal (s : State) (v : W64) : Bool := decide (1 ≤ bits v 47 32) && bit (reg s (aOptDmem (bits v 51 48))) 31

/-- A value of the register of a row is in range: the rows whose tables state a range. -/
def rowLegal (s : State) (base : Nat) (i : Nat) (v : W64) : Bool :=
  match base with
  | 0x1400000 => decide (1 ≤ bits v 6 4)
  | 0x1400008 => within 400 10000 (bits v 15 0)
  | 0x1400020 => bits v 53 32 % 4 == 0
  | 0x800 => gftCtlLegal v
  | 0x808 => gftThrLegal v
  | 0x80010 => bits v 1 0 != 3
  | 0x840 => lwCtlLegal v
  | 0x858 => lwStateLegal v
  | 0x1001000 => within 400 10000 (bits v 15 0)
  | 0x800008 => within 100 1000 (bits v 31 16) && decide (1 ≤ bits v 15 8)
  | 0x880008 => quotaLegal v
  | 0x180000 => within 50 10000 (bits v 13 0)
  | 0x180010 => treeLegal v
  | 0x180018 => decide (bits v 16 0 ≤ 100000)
  | 0x200100 => roleLegal i v
  | 0x400008 => decide (bits v 23 16 ≤ 90) && within 25 50 (bits v 15 8) && within 10 30 (bits v 7 0)
  | 0x400100 => avCtlLegal s v
  | 0x401000 => mapLegal v
  | 0x600008 => decide (8 ≤ bits v 15 8) && within 1 30 (bits v 7 0)
  | 0x200020 => within (fld s aFabE2eTo 47 32) 10000 (bits v 15 0)
  | 0x608 => decide (bits v 4 2 ≤ 4)
  | 0x700 => decide (bits v 10 0 ≤ 1416)
  | 0xa00 => within 1000 3000 (bits v 27 16) && within 80 104 (bits v 15 8)
  | _ => true

/-- The block of a row is idle for its RWI fields (R7). -/
def rowIdle (s : State) (base i : Nat) : Bool :=
  if 0x1400000 ≤ base then qtrIdle s i
  else if base = 0x102000 then !cqEn s i
  else !inJob s

/-! ### Writes that do more than set fields -/

/-- A register of a quarter is written under its fields' codes, with errors under the code of the writer (R46, R77). -/
def qtrPut (s : State) (q off : Nat) (legal : Bool) (v : W64) (src : Src) : State :=
  if !legal then raiseQReg s q eRange src off
  else
    let r := writeFlds (fldsAt off) (qtrIdle s q) (reg s off) v
    let s1 := setReg s off r.1
    if r.2 then raiseQReg s1 q eRwi src off else s1

/-- QTR_ENG_FAULT: with VALID cleared, the quarter starts work again (R144, R145). -/
def engFaultWrite (s : State) (q : Nat) (v : W64) (src : Src) : State :=
  let s1 := qtrPut s q (aQtrEngFault q) true v src
  if fld s (aQtrEngFault q) 63 63 = 1 ∧ fld s1 (aQtrEngFault q) 63 63 = 0 then
    modQuarter s1 q fun x => { x with aborted := none }
  else s1

/-- The sources of QTR_CC_IRQ whose condition is a level that the state holds: STREAM_LOW, FAULT, ERR. -/
def ccConds (s : State) (q : Nat) : Nat :=
  let low := (List.range 14).any fun i =>
    bit (reg s (aQtrStrmCfg q i)) 31 && decide (ringCount (reg s (aQtrStrmPtr q i)) ≤ fld s (aQtrStrmCfg q i) 25 22)
  flag low * 2 + fld s (aQtrEngFault q) 63 63 * 4 + flag (reg s (aQtrErr q) != 0) * 32

/-- QTR_CC_IRQ: a PEND bit that is cleared while its condition holds is set again. -/
def ccIrqWrite (s : State) (q : Nat) (v : W64) (src : Src) : State :=
  let off := aQtrCcIrq q
  let s1 := qtrPut s q off true v src
  let cleared := bits (reg s off) 5 0 &&& bits v 5 0
  setReg s1 off (reg s1 off ||| BitVec.ofNat 64 (cleared &&& ccConds s1 q))

/-- A control core. -/
def ccore (s : State) (q i : Nat) : CCore := smGet ccore0 (quarter s q).ccs i
def setCcore (s : State) (q i : Nat) (c : CCore) : State := modQuarter s q fun x => { x with ccs := smSet ccore0 x.ccs i c }

/-- HALTi of QTR_CC_CTL. -/
def ccHalted (s : State) (q i : Nat) : Bool := bit (reg s (aQtrCcCtl q)) i

/-- Control core i starts at ENTRY where its HALT bit has gone from 1 to 0. -/
def ccStarts (old : State) (q : Nat) (s : State) (i : Nat) : State :=
  if ccHalted old q i && !ccHalted s q i then setCcore s q i { ccore s q i with pc := BitVec.ofNat 64 (fld s (aQtrCcCtl q) 53 32) }
  else s

/-- QTR_CC_CTL (R147). -/
def ccCtlWrite (s : State) (q : Nat) (v : W64) (src : Src) : State :=
  let s1 := qtrPut s q (aQtrCcCtl q) (bits v 53 32 % 4 == 0) v src
  [0, 1].foldl (ccStarts s q) s1

/-- QTR_MTIMECMP (R147): the interrupt is pending while MTIME is not below it. -/
def cmpWrite (s : State) (q i : Nat) (v : W64) (src : Src) : State :=
  let s1 := qtrPut s q (aQtrMtimecmp q i) true v src
  setCcore s1 q i { ccore s1 q i with mtip := decide ((reg s1 (aQtrMtimecmp q i)).toNat ≤ mtime s1) }

/-- MGT_GFT_CTL. -/
def gftCtlWrite (s : State) (v : W64) : State :=
  let s1 := regPut s .mgt aMgtGftCtl (fldsAt aMgtGftCtl) (!inJob s) (gftCtlLegal v) v
  if gftCtlLegal v && bit v 1 then doClose s1 else s1

/-- MGT_GFT_THR and the table: refused while a close runs (R161). -/
def gftWrite (s : State) (off : Nat) (legal : Bool) (v : W64) : State :=
  if fld s aMgtGftCtl 2 2 = 1 then rwiErr s .mgt off else regPut s .mgt off (fldsAt off) (!inJob s) legal v

/-- MGT_LW_CTL. -/
def lwCtlWrite (s : State) (v : W64) : State :=
  let s1 := regPut s .mgt aMgtLwCtl (fldsAt aMgtLwCtl) true (lwCtlLegal v) v
  if lwCtlLegal v && bit v 1 then doRestart s1 else s1

/-- SCC_MODE: MODE follows (R204, R205). -/
def sccModeWrite (s : State) (k : Nat) (v : W64) : State :=
  let s1 := regPut s (.mem k) (aSccMode k) (fldsAt (aSccMode k)) true true v
  setFld s1 (aSccMode k) 31 30 (if fld s1 (aSccMode k) 2 1 = 0 then 0 else 1)

/-- CLK_BEAT_CTL; on the town-clock chip DLY_NS is 0 (R240). -/
def beatCtlWrite (s : State) (v : W64) : State :=
  let ok := rowLegal s 0x180000 0 v
  let s0 := regPut s .clk aClkBeatCtl (fldsAt aClkBeatCtl) (!inJob s) ok v
  let s1 := if isRoot s0 then setFld s0 aClkAlign 63 32 0 else s0
  if ok && bit v 30 then doStart s1 else s1

/-- CLK_DERATE: D stays 63 while R418 holds it. -/
def derateWrite (s : State) (v : W64) : State :=
  let s1 := regPut s .clk aClkDerate (fldsAt aClkDerate) true true v
  if s.mgt.hold then setFld s1 aClkDerate 5 0 63 else s1

/-- FAB_PORTp. -/
def portWrite (s : State) (p : Nat) (v : W64) : State :=
  let off := aFabPort p
  let s1 := regPut s .fab off (fldsAt off) (!inJob s) (roleLegal p v) v
  if bit (reg s1 off) 31 == bit (reg s off) 31 then s1 else portChanged s1 p

/-- OPT_STLMAPp (R310): the lanes of an enabled port seek the lines of a new map. -/
def mapWrite (s : State) (p : Nat) (v : W64) : State :=
  let off := aOptStlmap p
  let s1 := regPut s .opt off (fldsAt off) (!inJob s) (mapLegal v) v
  if reg s1 off ≠ reg s off ∧ portEn s1 p then portChanged s1 p else s1

/-- MGT_STOP_CTL. -/
def stopCtlWrite (s : State) (v : W64) : State :=
  let s1 := if bit v 0 then doForce s else s
  if bit v 1 then doRearm s1 else s1

/-- The error register that a row holds. -/
def isErrRow (base : Nat) : Bool := [0x140000c, 0x1000008, 0x800018, 0x200008, 0x400010, 0x600010, 0x100020, 8].contains base

/-- A write of a row with no more effect than its fields have. -/
def plainWrite (s : State) (d : RegD) (i off : Nat) (v : W64) : State :=
  let s1 := regPut s (blkOf off) off d.flds (rowIdle s d.base i) (rowLegal s d.base i v) v
  if isErrRow d.base then recClear s1 (blkOf off) else s1

/-- A write of a register of an in-service quarter. -/
def qtrWrite (s : State) (d : RegD) (q j off : Nat) (v : W64) (src : Src) : State :=
  match d.base with
  | 0x1400100 => cfgWrite s q j v src
  | 0x1400108 => ptrWrite s q j v src
  | 0x1400018 => engFaultWrite s q v src
  | 0x1400020 => ccCtlWrite s q v src
  | 0x1400028 => ccIrqWrite s q v src
  | 0x1400038 => cmpWrite s q j v src
  | 0x1400248 => ldoneWrite s q v src
  | 0x140000c => recClear (qtrPut s q off true v src) (.qtr q)
  | b => qtrPut s q off (rowLegal s b q v) v src

/-- A write of the whole of the register of a row, with indices i and j (R355: under R7 to R9 whatever its source). -/
def writeRow (s : State) (d : RegD) (i j off : Nat) (v : W64) (src : Src) : State :=
  if 0x1400000 ≤ d.base ∧ d.base < 0x2000000 then (if qtrPresent s i then qtrWrite s d i j off v src else s)
  else match d.base with
    | 0x800 => gftCtlWrite s v
    | 0x808 => gftWrite s off (gftThrLegal v) v
    | 0x80000 => gftWrite s off true v
    | 0x80008 => gftWrite s off true v
    | 0x80010 => gftWrite s off (bits v 1 0 != 3) v
    | 0x840 => lwCtlWrite s v
    | 0x848 => doLoss s (v.setWidth 32)
    | 0x868 => if bit v 0 then doGradNfRaise s else s
    | 0x800010 => retireWrite s i v
    | 0x810000 => regionWr s i v
    | 0x840100 => tgWrite s i j v
    | 0x880000 => sccModeWrite s i v
    | 0x890000 => atomWrite s i v
    | 0x101000 => sqBaseWrite s i v
    | 0x101008 => sqCfgWrite s i v
    | 0x102008 => cqCfgWrite s i v
    | 0x180000 => beatCtlWrite s v
    | 0x180020 => derateWrite s v
    | 0x200100 => portWrite s i v
    | 0x210000 => (rteWrite s i j v).1
    | 0x220000 => (circWr s i v).1
    | 0x230000 => (calWr s i j v).1
    | 0x401000 => mapWrite s i v
    | 0x100010 => bar4BaseWrite s v
    | 0x100400 => irqSrcWrite s i v
    | 0x600008 => prjNote (plainWrite s d i off v)
    | 0x508 => stopCtlWrite s v
    | 0x608 => pmcCtlWrite s v
    | 0xe00 => h1Write s i v
    | _ => plainWrite s d i off v

/-! ### Accesses to BAR0 (R342, R343) -/

/-- The register that a write reaches: none at the places of the counters, which are read-only (R400). -/
def regHere (off : Nat) : Option (RegD × Nat × Nat) := if off < 0x3f00000 then regFind off regTable else none

/-- Bits of RW and RWI fields: what a write of the other half of a register keeps; 0 has no effect on every other field. -/
def keepMask (fs : List Fld) : Nat :=
  (fs.map fun f => match f.acc with
    | .rw => (2 ^ (f.hi + 1 - f.lo) - 1) * 2 ^ f.lo
    | .rwi => (2 ^ (f.hi + 1 - f.lo) - 1) * 2 ^ f.lo
    | _ => 0).foldl (· + ·) 0

/-- 4 bytes written to half h of the 64-bit register of a row (R343): the other half is kept, and the register is checked
whole. The half of QTR_STRMs_PTR without HEAD writes GATE (R110). -/
def writeHalf (s : State) (d : RegD) (i j off h : Nat) (v : Nat) (src : Src) : State :=
  let old := (reg s off).toNat &&& keepMask d.flds
  if d.base = 0x1400108 ∧ h = 1 then
    (if qtrPresent s i then gateWrite s i j (BitVec.ofNat 64 (v * 2 ^ 32)) else s)
  else writeRow s d i j off (BitVec.ofNat 64 (if h = 0 then old / 2 ^ 32 * 2 ^ 32 + v else v * 2 ^ 32 + old % 2 ^ 32)) src

/-- 4 bytes written at an offset; the second result tells whether a register is there. -/
def write4 (s : State) (off v : Nat) (src : Src) : State × Bool :=
  match regHere off with
  | some (d, i, j) => if d.wid = 64 then (writeHalf s d i j off 0 v src, true) else (writeRow s d i j off (BitVec.ofNat 64 v) src, true)
  | none =>
    match (if off % 8 = 4 then regHere (off - 4) else none) with
    | some (d, i, j) => if d.wid = 64 then (writeHalf s d i j (off - 4) 1 v src, true) else (s, false)
    | none => (s, false)

/-- 8 bytes written at an offset: a 64-bit register, or two of 32 bits, the lower first. -/
def write8 (s : State) (off : Nat) (v : W64) (src : Src) : State × Bool :=
  match regHere off with
  | some (d, i, j) =>
    if d.wid = 64 then (writeRow s d i j off v src, true)
    else ((write4 (write4 s off (bits v 31 0) src).1 (off + 4) (bits v 63 32) src).1, true)
  | none => write4 s (off + 4) (bits v 63 32) src

/-- A write to the MSI-X table. -/
def msixWrite (s : State) (off bytes : Nat) (v : W64) : State :=
  let i := (off - msixBase) / 8
  if bytes = 8 then vecWrite s i v
  else vecWrite s i (if off % 8 = 0 then putBits (vecRead s i) 31 0 (bits v 31 0) else putBits (vecRead s i) 63 32 (bits v 31 0))

/-- A write to BAR0 or the register mirror. -/
def writeBar (s : State) (off bytes : Nat) (v : W64) (src : Src) : State :=
  if !widthOk off bytes then raise s .hst 3 off
  else if inSqWindow off then raise s .hstQ 0 0
  else if inMsix off then msixWrite s off bytes v
  else if inPba off then s
  else
    let r := if bytes = 8 then write8 s off v src else write4 s off (bits v 31 0) src
    if r.2 then r.1 else raise s .hst 0 off

/-! ### The host's accesses -/

/-- The offsets that read their live value before boot has ended (R354). -/
def earlyOk (off : Nat) : Bool := decide (off < 8) || off == aHstDevStatus

/-- A read of BAR0, of 64 MiB (R341), by the host (R340, R353, R354). -/
def hostRead (s : State) (off bytes : Nat) : State :=
  if !barOpen s || decide (2 ^ 26 < off + bytes) then unsupported s
  else if widthOk off bytes && !devReady s && !earlyOk off then answer s (List.replicate bytes 0) false
  else
    let r := readBar s off bytes
    answer r.2.2 (leBytes bytes r.1) r.2.1

/-- A write of BAR0, of 64 MiB (R341); a poisoned TLP is ignored and reported (R343). -/
def barWrite (s : State) (off bytes : Nat) (v : W64) (src : Src) (ep : Bool) : State :=
  if src == .host && decide (2 ^ 26 < off + bytes) then unsupportedWrite s
  else fromSrc s src fun t => if ep && src == .host then poisonRx t 0 else writeBar t off bytes v src

/-- REGISTER_WRITE (R7), or, from the host, a write of configuration space (R337). -/
def execRegisterWrite (at_ : RegAt) (bytes : Nat) (v : W64) (src : Src) (ep : Bool) (s : State) : Out :=
  .next (match at_ with
    | .bar0 off => barWrite s off bytes v src ep
    | .config off => if src == .host then (if ep then poisonRx s 0 else cfgPut s off bytes v) else s)

/-- A read of BAR0: the host's is answered; a control core takes the datum. -/
def barRead (s : State) (off bytes : Nat) (src : Src) : State :=
  match src with
  | .host => hostRead s off bytes
  | .fw => (readBar s off bytes).2.2
  | .cc q i =>
    let r := readBar s off bytes
    setCcore r.2.2 q i { ccore r.2.2 q i with last := BitVec.ofNat 64 r.1 }

/-- REGISTER_READ_CLEAR (R7), or, from the host, a read of configuration space (R337). -/
def execRegisterReadClear (at_ : RegAt) (bytes : Nat) (src : Src) (s : State) : Out :=
  .next (match at_ with
    | .bar0 off => barRead s off bytes src
    | .config off => if src == .host then cfgRead s off bytes else s)

end Sys2Proof.Machine
end

