-- ==== Sys2Proof/Machine/ControlCore.lean ====
section
/-! DEFINITION. The control cores, as far as the H2 is particular (05, R146, R147): start, the address map, access faults, the
machine timer interrupt: CC_START, CONTROL_CORE_LOAD_STORE, MACHINE_TIMER_INTERRUPT. -/

namespace Sys2Proof.Machine

/-! ### Traps (RISC-V, machine mode only; log entry 10) -/

/-- mcause of the access faults: instruction, load, store. -/
def cFetch : Nat := 1
def cLoad : Nat := 5
def cStore : Nat := 7
/-- mcause of the misaligned atomic operations: LR, and the others. -/
def cLoadAlign : Nat := 4
def cStoreAlign : Nat := 6
/-- Interrupt codes: machine external, machine timer. -/
def cExt : Nat := 11
def cTimer : Nat := 7

/-- The trap entry of a core. -/
def trapTo (c : CCore) (cause : W64) (tval target : W64) : CCore :=
  { c with mepc := c.pc, mcause := cause, mtval := tval, mpie := c.mie, mie := false, pc := target }

/-- The base of mtvec. -/
def trapBase (c : CCore) : W64 := BitVec.ofNat 64 (c.mtvec.toNat / 4 * 4)

/-- An exception. -/
def ccTrap (s : State) (q i cause : Nat) (a : W64) : State :=
  let c := ccore s q i
  setCcore s q i (trapTo c (BitVec.ofNat 64 cause) a (trapBase c))

/-- An interrupt; in the vectored mode of mtvec it goes to its own entry. -/
def ccInterrupt (s : State) (q i code : Nat) : State :=
  let c := ccore s q i
  setCcore s q i (trapTo c (BitVec.ofNat 64 (2 ^ 63 + code)) 0
    (if c.mtvec.toNat % 4 = 1 then trapBase c + BitVec.ofNat 64 (4 * code) else trapBase c))

/-- The machine external interrupt of a core (QTR_CC_IRQ). -/
def ccExternal (s : State) (q i : Nat) : Bool :=
  let w := reg s (aQtrCcIrq q)
  bits w 5 0 &&& (if i = 0 then bits w 13 8 else bits w 21 16) != 0

/-- The machine timer interrupt of a core is pending while MTIME has come to CMP (R147). -/
def ccTimer (s : State) (q i : Nat) : Bool := decide ((reg s (aQtrMtimecmp q i)).toNat ≤ mtime s)

/-- The interrupt that a core takes before it fetches: the external one comes first. -/
def ccPending (s : State) (q i : Nat) : Option Nat :=
  let c := ccore s q i
  if !c.mie then none
  else if c.meie && ccExternal s q i then some cExt
  else if c.mtie && ccTimer s q i then some cTimer
  else none

/-! ### The address map (R146) -/

/-- What an address reaches: the own local store at its chip address, a BAR0 offset, another local address of the chip. -/
inductive CcPlace where
  | own (a : Nat)
  | regs (off : Nat)
  | chip (a : Nat)
  | none
  deriving DecidableEq, Repr

/-- n bytes at an address of a core of quarter q. -/
def ccPlace (q a n : Nat) : CcPlace :=
  let b := a - 2 ^ 40
  if a + n ≤ lsSize then .own (lsBase q + a)
  else if 0x400000 ≤ a ∧ a + n ≤ 0x420000 then .regs (0x1400000 + 0x20000 * q + (a - 0x400000))
  else if 2 ^ 40 ≤ a ∧ b + n ≤ 0xC204000000 ∧ b % n = 0 then
    (if 0xC200000000 ≤ b then .regs (b - 0xC200000000) else .chip b)
  else .none

/-- The datum of an access reaches its core. -/
def ccTake (s : State) (q i : Nat) (v : Nat) : State := setCcore s q i { ccore s q i with last := BitVec.ofNat 64 v }

/-- An access to unpopulated local store sets UNPOP in the owning quarter, where in service (R47). -/
def ccUnpop (s : State) (q : Fin 96) (i : Fin 2) (p b : Nat) : State :=
  if qtrPresent s p then raiseQ s p eUnpop (qSrcCode p (.cc q i)) b else s

/-- A load of n bytes: its value, or none where it faults, and the state after it. -/
def ccRead (s : State) (q : Fin 96) (i : Fin 2) (a n : Nat) : Option Nat × State :=
  match ccPlace q a n with
  | .own b => (if anyPsn s b n then none else some (readNat s b n), s)
  | .regs off =>
    let r := readBar s off n
    (if r.2.1 then none else some r.1, r.2.2)
  | .chip b =>
    match targetOf s b with
    | .mem =>
      let s1 := touch s clQtr b (min n (stackEnd - b)) false
      (if anyPsn s1 b n then none else some (readNat s1 b n), s1)
    | .unpop p => (none, ccUnpop s q i p b)
    | .square m => (if (square s m).psn then none else some ((squareWord s m).toNat >>> (8 * (b % 8)) % 2 ^ (8 * n)), s)
    | _ => (none, s)
  | .none => (none, s)

/-- A store of n bytes; the first result tells that it did not fault. -/
def ccWrite (s : State) (q : Fin 96) (i : Fin 2) (a n : Nat) (v : W64) : Bool × State :=
  match ccPlace q a n with
  | .own b => (true, writeNat s b n v.toNat)
  | .regs off => (true, writeBar s off n v (.cc q i))
  | .chip b =>
    match targetOf s b with
    | .mem => (true, writeNat (touch s clQtr b (min n (stackEnd - b)) true) b n v.toNat)
    | .unpop p => (true, ccUnpop s q i p b)
    | _ => (false, s)
  | .none => (false, s)

/-- An access through the chip map that waits at its slice (R210, R211, R214, R382): the core issues it again. -/
def ccWaits (s : State) (q a n : Nat) (wr : Bool) : Bool :=
  match ccPlace q a n with
  | .chip b => targetOf s b == .mem && sliceWaits s b n wr
  | _ => false

/-! ### Accesses -/

/-- A fetch at an address of the own local store: 2 B, or 4 B where the low bits ask for them. -/
def ccFetch (s : State) (q : Fin 96) (i : Fin 2) (a : W64) : State :=
  match ccPending s q i with
  | some code => ccInterrupt s q i code
  | none =>
    let s1 := setCcore s q i { ccore s q i with pc := a }
    let b := lsBase q + a.toNat
    let n := if a.toNat + 2 ≤ lsSize ∧ readNat s b 2 % 4 = 3 then 4 else 2
    if lsSize < a.toNat + n then ccTrap s1 q i cFetch a
    else if anyPsn s b n then ccTrap s1 q i cFetch a
    else ccTake s1 q i (readNat s b n)

/-- A load. -/
def ccLoad (s : State) (q : Fin 96) (i : Fin 2) (a : W64) (n : Nat) : State :=
  match ccRead s q i a.toNat n with
  | (some v, s1) => ccTake s1 q i v
  | (none, s1) => ccTrap s1 q i cLoad a

/-- A store. -/
def ccStore (s : State) (q : Fin 96) (i : Fin 2) (a : W64) (n : Nat) (v : W64) : State :=
  match ccWrite s q i a.toNat n v with
  | (true, s1) => s1
  | (false, s1) => ccTrap s1 q i cStore a

/-- The new value of an AMO on n bytes. -/
def amoVal (op : AmoOp) (n : Nat) (old v : Nat) : Nat :=
  let sg := fun (x : Nat) => if x < 2 ^ (8 * n - 1) then (x : Int) else (x : Int) - ((2 ^ (8 * n) : Nat) : Int)
  match op with
  | .swap => v
  | .add => (old + v) % 2 ^ (8 * n)
  | .xor => old ^^^ v
  | .and => old &&& v
  | .or => old ||| v
  | .min => if sg old ≤ sg v then old else v
  | .max => if sg old ≤ sg v then v else old
  | .minu => min old v
  | .maxu => max old v

/-- An atomic operation reaches the own local store (R146), aligned (log entry 10): otherwise it traps, with these causes. -/
def ccAtomic (s : State) (q : Fin 96) (i : Fin 2) (a : W64) (n align fault : Nat) (act : Nat → State) : State :=
  if lsSize < a.toNat + n then ccTrap s q i fault a
  else if a.toNat % n ≠ 0 then ccTrap s q i align a
  else if anyPsn s (lsBase q + a.toNat) n then ccTrap s q i fault a
  else act (lsBase q + a.toNat)

/-- An AMO: the old value comes back. -/
def ccAmo (s : State) (q : Fin 96) (i : Fin 2) (a : W64) (op : AmoOp) (n : Nat) (v : W64) : State :=
  ccAtomic s q i a n cStoreAlign cStore fun b =>
    let old := readNat s b n
    ccTake (writeNat s b n (amoVal op n old (v.toNat % 2 ^ (8 * n)))) q i old

/-- LR: the reservation is of the doubleword that holds the word. -/
def ccLr (s : State) (q : Fin 96) (i : Fin 2) (a : W64) (n : Nat) : State :=
  ccAtomic s q i a n cLoadAlign cLoad fun b =>
    setCcore s q i { ccore s q i with last := BitVec.ofNat 64 (readNat s b n), lr := some (a.toNat / 8 * 8) }

/-- SC: it stores where the reservation holds, and its datum is 0 then, 1 otherwise; the reservation ends. -/
def ccSc (s : State) (q : Fin 96) (i : Fin 2) (a : W64) (n : Nat) (v : W64) : State :=
  ccAtomic s q i a n cStoreAlign cStore fun b =>
    let c := ccore s q i
    if c.lr = some (a.toNat / 8 * 8) then
      let s1 := writeNat s b n (v.toNat % 2 ^ (8 * n))
      setCcore s1 q i { ccore s1 q i with last := 0, lr := none }
    else setCcore s q i { c with last := 1, lr := none }

/-- Bytes of a word or doubleword. -/
def amoBytes (dword : Bool) : Nat := if dword then 8 else 4

/-! ### The machine-mode registers (opening of 05: RISC-V's; log entry 10) -/

/-- mstatus and mie as they are read: MIE and MPIE; MTIE and MEIE. -/
def pairWord (lo : Nat) (a : Bool) (hi : Nat) (b : Bool) : W64 := BitVec.ofNat 64 (a.toNat * 2 ^ lo + b.toNat * 2 ^ hi)

/-- A control and status register of a core: its value, or none where the core has no such register. -/
def csrRead (s : State) (q i num : Nat) : Option W64 :=
  let c := ccore s q i
  match num with
  | 0x300 => some (pairWord 3 c.mie 7 c.mpie)
  | 0x304 => some (pairWord 7 c.mtie 11 c.meie)
  | 0x305 => some c.mtvec
  | 0x340 => some c.mscratch
  | 0x341 => some c.mepc
  | 0x342 => some c.mcause
  | 0x343 => some c.mtval
  | 0x344 => some (pairWord 7 (ccTimer s q i) 11 (ccExternal s q i))
  | _ => none

/-- The core after a write of one of them; mip follows its sources, and mepc has no bit 0. -/
def csrWrite (c : CCore) (num : Nat) (v : W64) : CCore :=
  match num with
  | 0x300 => { c with mie := bit v 3, mpie := bit v 7 }
  | 0x304 => { c with mtie := bit v 7, meie := bit v 11 }
  | 0x305 => { c with mtvec := v }
  | 0x340 => { c with mscratch := v }
  | 0x341 => { c with mepc := BitVec.ofNat 64 (v.toNat / 2 * 2) }
  | 0x342 => { c with mcause := v }
  | 0x343 => { c with mtval := v }
  | _ => c

/-- mcause of an illegal instruction. -/
def cIllegal : Nat := 2

/-- The registers of RISC-V whose values neither the spec nor this model gives: misa, the counters, the identities of the
hart. They read a free value, and a write leaves nothing behind. -/
def csrFree (num : Nat) : Bool := [0x301, 0xB00, 0xB02, 0xF11, 0xF12, 0xF13, 0xF14, 0xF15].contains num

/-- The exchange of a control and status register with a value. -/
def ccCsr (s : State) (q i : Nat) (num : BitVec 12) (v : W64) : State :=
  match csrRead s q i num.toNat with
  | none =>
    if csrFree num.toNat then
      setCcore { s with free := s.free + 1 } q i { ccore s q i with last := Config.free64 s.free }
    else ccTrap s q i cIllegal 0
  | some old => setCcore s q i { csrWrite (ccore s q i) num.toNat v with last := old }

/-- The return from a trap. -/
def trapReturn (c : CCore) : CCore := { c with pc := c.mepc, mie := c.mpie, mpie := true }

/-- An access of a core that runs. -/
def ccAccess (s : State) (q : Fin 96) (i : Fin 2) (acc : CcAccess) (a : W64) : State :=
  match acc with
  | .fetch => ccFetch s q i a
  | .load n => if [1, 2, 4, 8].contains n.val && !ccWaits s q a.toNat n false then ccLoad s q i a n else s
  | .store n v => if [1, 2, 4, 8].contains n.val && !ccWaits s q a.toNat n true then ccStore s q i a n v else s
  | .amo op d v => ccAmo s q i a op (amoBytes d) v
  | .lr d => ccLr s q i a (amoBytes d)
  | .sc d v => ccSc s q i a (amoBytes d) v
  | .csr num v => ccCsr s q i num v
  | .mret => setCcore s q i (trapReturn (ccore s q i))

/-- A core runs: its quarter is in service, and it is not halted. -/
def ccRuns (s : State) (q i : Nat) : Bool := qtrPresent s q && !ccHalted s q i

/-- The timer interrupt of a core (QTR_MTIMECMP): MTIME has come to CMP; a core that runs with it enabled takes it. -/
def doTimer (s : State) (q i : Nat) : State :=
  if qtrPresent s q && ccTimer s q i then
    let s1 := setCcore s q i { ccore s q i with mtip := true }
    if ccRuns s q i && ccPending s1 q i == some cTimer then ccInterrupt s1 q i cTimer else s1
  else s

/-! ### The commands -/

/-- CC_START (R147): a write of QTR_CC_CTL. -/
def execCcStart (q : Fin 96) (v : W64) (src : Src) (s : State) : Out :=
  .next (fromSrc s src fun t => if qtrPresent t q then ccCtlWrite t q v src else t)
/-- CONTROL_CORE_LOAD_STORE (R146). -/
def execControlCoreLoadStore (q : Fin 96) (i : Fin 2) (acc : CcAccess) (a : W64) (s : State) : Out :=
  .next (if ccRuns s q i then ccAccess s q i acc a else s)
/-- MACHINE_TIMER_INTERRUPT (R147). -/
def execMachineTimerInterrupt (q : Fin 96) (i : Fin 2) (s : State) : Out := .next (doTimer s q i)

end Sys2Proof.Machine
end

