-- ==== Sys2Proof/Machine/Dispatch.lean ====
section
/-! DEFINITION. The meaning of each command: one arm for each constructor of Instr, each a call of its own definition. -/

namespace Sys2Proof.Machine

/-- The effect of a command on the state, its queue apart. -/
def exec (i : Instr) (s : State) : Host.Outcome State Fault Refusal :=
  match i with
  | .nop q j => Sys2Proof.Machine.execNop q j s
  | .mma q c => Sys2Proof.Machine.execMma q c s
  | .mmaEnd q c => Sys2Proof.Machine.execMmaEnd q c s
  | .dcfg q d => Sys2Proof.Machine.execDcfg q d s
  | .drain q d => Sys2Proof.Machine.execDrain q d s
  | .drainEnd q d => Sys2Proof.Machine.execDrainEnd q d s
  | .valu q c => Sys2Proof.Machine.execValu q c s
  | .vld q c => Sys2Proof.Machine.execVld q c s
  | .vst q c => Sys2Proof.Machine.execVst q c s
  | .vred q c => Sys2Proof.Machine.execVred q c s
  | .momfin q c => Sys2Proof.Machine.execMomfin q c s
  | .vrelay q c => Sys2Proof.Machine.execVrelay q c s
  | .topk q c => Sys2Proof.Machine.execTopk q c s
  | .dropout q c => Sys2Proof.Machine.execDropout q c s
  | .maskapply q c => Sys2Proof.Machine.execMaskapply q c s
  | .moveCopy q => Sys2Proof.Machine.execMoveCopy q s
  | .moveAtomicAdd q => Sys2Proof.Machine.execMoveAtomicAdd q s
  | .dispatch q => Sys2Proof.Machine.execDispatch q s
  | .gatherRows q => Sys2Proof.Machine.execGatherRows q s
  | .combine q => Sys2Proof.Machine.execCombine q s
  | .scatterAdd q => Sys2Proof.Machine.execScatterAdd q s
  | .scatterRows q => Sys2Proof.Machine.execScatterRows q s
  | .rotate q => Sys2Proof.Machine.execRotate q s
  | .sketch q => Sys2Proof.Machine.execSketch q s
  | .prjSubmissionEnd => Sys2Proof.Machine.execPrjSubmissionEnd s
  | .sqsig q j => Sys2Proof.Machine.execSqsig q j s
  | .sqwait q j => Sys2Proof.Machine.execSqwait q j s
  | .sqwaitResume q j => Sys2Proof.Machine.execSqwaitResume q j s
  | .sqset q j => Sys2Proof.Machine.execSqset q j s
  | .streamFetch q j => Sys2Proof.Machine.execStreamFetch q j s
  | .engineOpRetire q j => Sys2Proof.Machine.execEngineOpRetire q j s
  | .waitTo q j => Sys2Proof.Machine.execWaitTo q j s
  | .streamHeadWrite q j v src => Sys2Proof.Machine.execStreamHeadWrite q j v src s
  | .streamGateWrite q j v src => Sys2Proof.Machine.execStreamGateWrite q j v src s
  | .streamDisable q j v src => Sys2Proof.Machine.execStreamDisable q j v src s
  | .ccStart q v src => Sys2Proof.Machine.execCcStart q v src s
  | .ldone q v src => Sys2Proof.Machine.execLdone q v src s
  | .launchEnd q => Sys2Proof.Machine.execLaunchEnd q s
  | .sqDoorbell n v => Sys2Proof.Machine.execSqDoorbell n v s
  | .cqDoorbell n v => Sys2Proof.Machine.execCqDoorbell n v s
  | .doorbellIgnored off bytes v => Sys2Proof.Machine.execDoorbellIgnored off bytes v s
  | .descriptorFetch a => Sys2Proof.Machine.execDescriptorFetch a s
  | .launch => Sys2Proof.Machine.execLaunch s
  | .copy a n => Sys2Proof.Machine.execCopy a n s
  | .signal => Sys2Proof.Machine.execSignal s
  | .update => Sys2Proof.Machine.execUpdate s
  | .stop => Sys2Proof.Machine.execStop s
  | .load => Sys2Proof.Machine.execLoad s
  | .select => Sys2Proof.Machine.execSelect s
  | .loadSelect => Sys2Proof.Machine.execLoadSelect s
  | .settleEnd => Sys2Proof.Machine.execSettleEnd s
  | .tracking refs => Sys2Proof.Machine.execTracking refs s
  | .writeRt a => Sys2Proof.Machine.execWriteRt a s
  | .writeCirc a => Sys2Proof.Machine.execWriteCirc a s
  | .writeCal a => Sys2Proof.Machine.execWriteCal a s
  | .flip => Sys2Proof.Machine.execFlip s
  | .discover => Sys2Proof.Machine.execDiscover s
  | .helloResend p => Sys2Proof.Machine.execHelloResend p s
  | .discoverEnd => Sys2Proof.Machine.execDiscoverEnd s
  | .loadPlan a => Sys2Proof.Machine.execLoadPlan a s
  | .start => Sys2Proof.Machine.execStart s
  | .tickSend => Sys2Proof.Machine.execTickSend s
  | .tick p k at_ => Sys2Proof.Machine.execTick p k at_ s
  | .tickMissed => Sys2Proof.Machine.execTickMissed s
  | .beatBoundary => Sys2Proof.Machine.execBeatBoundary s
  | .fullRetrainEnd k bad => Sys2Proof.Machine.execFullRetrainEnd k bad s
  | .cut => Sys2Proof.Machine.execCut s
  | .pass1Start ue => Sys2Proof.Machine.execPass1Start ue s
  | .pass1End k => Sys2Proof.Machine.execPass1End k s
  | .seqrec n cell => Sys2Proof.Machine.execSeqrec n cell s
  | .pass2Start k blocks ue => Sys2Proof.Machine.execPass2Start k blocks ue s
  | .updateEnd => Sys2Proof.Machine.execUpdateEnd s
  | .chainTo => Sys2Proof.Machine.execChainTo s
  | .loss v => Sys2Proof.Machine.execLoss v s
  | .restart => Sys2Proof.Machine.execRestart s
  | .gradNfRaise => Sys2Proof.Machine.execGradNfRaise s
  | .close => Sys2Proof.Machine.execClose s
  | .closeEnd => Sys2Proof.Machine.execCloseEnd s
  | .stackTempSample k t => Sys2Proof.Machine.execStackTempSample k t s
  | .driftTracking k c lane up => Sys2Proof.Machine.execDriftTracking k c lane up s
  | .emergencyRetrain k c => Sys2Proof.Machine.execEmergencyRetrain k c s
  | .emergencyRetrainEnd k c bad => Sys2Proof.Machine.execEmergencyRetrainEnd k c bad s
  | .reqTo a rd bytes => Sys2Proof.Machine.execReqTo a rd bytes s
  | .ueReread a w good => Sys2Proof.Machine.execUeReread a w good s
  | .tgStart k c v => Sys2Proof.Machine.execTgStart k c v s
  | .tgEnd k c errors lanes first => Sys2Proof.Machine.execTgEnd k c errors lanes first s
  | .channelRetire k v => Sys2Proof.Machine.execChannelRetire k v s
  | .regionWrite n v => Sys2Proof.Machine.execRegionWrite n v s
  | .atomicRegionEnable n v => Sys2Proof.Machine.execAtomicRegionEnable n v s
  | .atomicRegionDisable n v => Sys2Proof.Machine.execAtomicRegionDisable n v s
  | .frameRx p l ws ret => Sys2Proof.Machine.execFrameRx p l ws ret s
  | .replayTimeout p l => Sys2Proof.Machine.execReplayTimeout p l s
  | .round p => Sys2Proof.Machine.execRound p s
  | .ctrlDisplace p => Sys2Proof.Machine.execCtrlDisplace p s
  | .write p k => Sys2Proof.Machine.execWrite p k s
  | .read p k => Sys2Proof.Machine.execRead p k s
  | .reqSignal p k => Sys2Proof.Machine.execReqSignal p k s
  | .atomicAdd p k => Sys2Proof.Machine.execAtomicAdd p k s
  | .ack p k => Sys2Proof.Machine.execAck p k s
  | .readData p k => Sys2Proof.Machine.execReadData p k s
  | .error p k => Sys2Proof.Machine.execError p k s
  | .stopCell p k => Sys2Proof.Machine.execStopCell p k s
  | .hello p k => Sys2Proof.Machine.execHello p k s
  | .helloSig p k => Sys2Proof.Machine.execHelloSig p k s
  | .echo p k turn => Sys2Proof.Machine.execEcho p k turn s
  | .echoReply p k rtt parentDly => Sys2Proof.Machine.execEchoReply p k rtt parentDly s
  | .writeHead n cell => Sys2Proof.Machine.execWriteHead n cell s
  | .circuitSignal n cell => Sys2Proof.Machine.execCircuitSignal n cell s
  | .circuitDataCell n cell => Sys2Proof.Machine.execCircuitDataCell n cell s
  | .e2eTimeout flow seq => Sys2Proof.Machine.execE2eTimeout flow seq s
  | .optSensorSample die j t => Sys2Proof.Machine.execOptSensorSample die j t s
  | .ringFeedforward => Sys2Proof.Machine.execRingFeedforward s
  | .laneDown p l cause => Sys2Proof.Machine.execLaneDown p l cause s
  | .laneRelockEnd p l r => Sys2Proof.Machine.execLaneRelockEnd p l r s
  | .laneManagementWord p l w => Sys2Proof.Machine.execLaneManagementWord p l w s
  | .rxPowerMeasure p l m => Sys2Proof.Machine.execRxPowerMeasure p l m s
  | .laserFail n => Sys2Proof.Machine.execLaserFail n s
  | .laserSwap n => Sys2Proof.Machine.execLaserSwap n s
  | .laserAgeWarn n => Sys2Proof.Machine.execLaserAgeWarn n s
  | .announceBlock p l ws => Sys2Proof.Machine.execAnnounceBlock p l ws s
  | .avAssignment => Sys2Proof.Machine.execAvAssignment s
  | .bar4Read off bytes => Sys2Proof.Machine.execBar4Read off bytes s
  | .bar4Write off data ep => Sys2Proof.Machine.execBar4Write off data ep s
  | .bar4BaseWrite v => Sys2Proof.Machine.execBar4BaseWrite v s
  | .registerWrite off bytes v src ep => Sys2Proof.Machine.execRegisterWrite off bytes v src ep s
  | .registerReadClear off bytes src => Sys2Proof.Machine.execRegisterReadClear off bytes src s
  | .sqBaseWrite n v => Sys2Proof.Machine.execSqBaseWrite n v s
  | .sqCfgWrite n v => Sys2Proof.Machine.execSqCfgWrite n v s
  | .cqEnable n v => Sys2Proof.Machine.execCqEnable n v s
  | .cqDisable n v => Sys2Proof.Machine.execCqDisable n v s
  | .irqSrcEnable e v => Sys2Proof.Machine.execIrqSrcEnable e v s
  | .bmeClear v => Sys2Proof.Machine.execBmeClear v s
  | .mseClear v => Sys2Proof.Machine.execMseClear v s
  | .d3hot => Sys2Proof.Machine.execD3hot s
  | .d0Return => Sys2Proof.Machine.execD0Return s
  | .linkChange width rate flit seen => Sys2Proof.Machine.execLinkChange width rate flit seen s
  | .flr => Sys2Proof.Machine.execFlr s
  | .hotReset => Sys2Proof.Machine.execHotReset s
  | .perstN us => Sys2Proof.Machine.execPerstN us s
  | .porN us => Sys2Proof.Machine.execPorN us s
  | .resetRelease => Sys2Proof.Machine.execResetRelease s
  | .bootStageEnd r => Sys2Proof.Machine.execBootStageEnd r s
  | .getBootStatus b => Sys2Proof.Machine.execGetBootStatus b s
  | .flashRead b off len => Sys2Proof.Machine.execFlashRead b off len s
  | .flashErase b off => Sys2Proof.Machine.execFlashErase b off s
  | .flashWrite b off data => Sys2Proof.Machine.execFlashWrite b off data s
  | .getPartRecord b off len => Sys2Proof.Machine.execGetPartRecord b off len s
  | .reset b => Sys2Proof.Machine.execReset b s
  | .setEndpointId b eid => Sys2Proof.Machine.execSetEndpointId b eid s
  | .getVersion b req => Sys2Proof.Machine.execGetVersion b req s
  | .getCapabilities b req => Sys2Proof.Machine.execGetCapabilities b req s
  | .negotiateAlgorithms b req => Sys2Proof.Machine.execNegotiateAlgorithms b req s
  | .getDigests b req => Sys2Proof.Machine.execGetDigests b req s
  | .getCertificate b req => Sys2Proof.Machine.execGetCertificate b req s
  | .challenge b req => Sys2Proof.Machine.execChallenge b req s
  | .getMeasurements b req => Sys2Proof.Machine.execGetMeasurements b req s
  | .smbusTimeout => Sys2Proof.Machine.execSmbusTimeout s
  | .tapInstruction ir => Sys2Proof.Machine.execTapInstruction ir s
  | .clockFault d => Sys2Proof.Machine.execClockFault d s
  | .heartbeat d => Sys2Proof.Machine.execHeartbeat d s
  | .domainStuck d => Sys2Proof.Machine.execDomainStuck d s
  | .force => Sys2Proof.Machine.execForce s
  | .jobStopCompletions => Sys2Proof.Machine.execJobStopCompletions s
  | .readable => Sys2Proof.Machine.execReadable s
  | .rearm => Sys2Proof.Machine.execRearm s
  | .dieSensorSample die j t => Sys2Proof.Machine.execDieSensorSample die j t s
  | .powerSample w => Sys2Proof.Machine.execPowerSample w s
  | .thermtrip => Sys2Proof.Machine.execThermtrip s
  | .clear => Sys2Proof.Machine.execClear s
  | .h1CounterWrite j v => Sys2Proof.Machine.execH1CounterWrite j v s
  | .controlCoreLoadStore q j acc a => Sys2Proof.Machine.execControlCoreLoadStore q j acc a s
  | .machineTimerInterrupt q j => Sys2Proof.Machine.execMachineTimerInterrupt q j s
  | .completionTimeout what => Sys2Proof.Machine.execCompletionTimeout what s
  | .surpriseDown => Sys2Proof.Machine.execSurpriseDown s
  | .entropyHealthFail => Sys2Proof.Machine.execEntropyHealthFail s
  | .sccAtomBusyEnd n => Sys2Proof.Machine.execSccAtomBusyEnd n s
  | .resizableBarWrite log2 => Sys2Proof.Machine.execResizableBarWrite log2 s
  | .msixFunctionMaskWrite enable mask => Sys2Proof.Machine.execMsixFunctionMaskWrite enable mask s
  | .smbusResponseRead => Sys2Proof.Machine.execSmbusResponseRead s

end Sys2Proof.Machine
end

