-- ==== Sys2Proof/Machine/Idle.lean ====
section
/-! DEFINITION. What a step does on an empty queue: time passes. -/

namespace Sys2Proof.Machine

/-- One tick of the 100 MHz reference, 10 ns (R358, QTR_MTIME; log entry 7): the model's clock. -/
def idle (s : State) : State := { s with now := s.now + 10 }

end Sys2Proof.Machine
end

