-- ==== Sys2Proof/Safety.lean ====
section
/-! DEFINITION. What counts as a well-kept state, in the terms that statements use: the canonical form of the arrays
that hold the machine's registers, memory, marks, squares, banks, vector registers, quarters and counters. -/

namespace Sys2Proof.Machine

/-- Memory is in its canonical form: addresses strictly rising, no byte listed that reads as an unlisted one does. -/
abbrev Memory.wf (m : List Host.Cell) : Bool := smWf (fun _ => (0#8)) m

/-- The memory and the poison marks of a state are in canonical form. -/
def State.memOk (s : State) : Bool := Memory.wf s.mem && smWf (fun _ => false) s.memPsn

/-- Every top-level array of a state is in canonical form, so that equal contents are equal data: registers (by their
reset values), memory and its poison marks, squares, accumulator banks, drain slots, vector registers and their poison
bits, quarters, counters. -/
def State.canon (s : State) : Bool :=
  s.memOk && smWf regReset s.regs && smWf (fun _ => square0) s.squares && smWf (fun _ => bank0) s.banks &&
    smWf (fun _ => (0 : W512)) s.dcfg && smWf (fun _ => (0#32)) s.vregs && smWf (fun _ => false) s.vpsn &&
    smWf (fun _ => quarter0) s.quarters && smWf (fun _ => 0) s.pmc

/-- Every byte of memory and every poison mark outside the words that hold a byte of [a, a + n) is unchanged; n = 0:
all of memory. -/
def keepsMem (s t : State) (a n : Nat) : Prop :=
  ∀ x, (n = 0 ∨ x / 8 < a / 8 ∨ (a + n - 1) / 8 < x / 8) →
    memByte t x = memByte s x ∧ smGet false t.memPsn (x / 8) = smGet false s.memPsn (x / 8)

/-- Every register outside a list of BAR0 offsets is unchanged. -/
def keepsRegs (s t : State) (l : List Nat) : Prop := ∀ o, o ∉ l → reg t o = reg s o

/-- The registers that counting an event or sending a message to the host may change: the drops, the host port's error and
its record, the counter overflows (R348, R352, R405). -/
def eventRegs : List Nat := [aHstBmeDrops, aHstPortErr, aHstPortErrRec, aMgtPmcOvf]

/-- Only registers, counters and the host port may differ: what an error, a message or a count reaches. -/
def keepsCore (s t : State) : Prop := t = { s with regs := t.regs, host := t.host, pmc := t.pmc }

/-- Of the quarters at most reservations of their control cores end: all else of every quarter is unchanged. -/
def keepsQuarters (s t : State) : Prop :=
  ∀ q, quarter t q = { quarter s q with ccs := (quarter t q).ccs } ∧
    ∀ i, ccore t q i = { ccore s q i with lr := (ccore t q i).lr } ∧
      ((ccore t q i).lr = (ccore s q i).lr ∨ (ccore t q i).lr = none)

/-- A register write of a source comes to the registers: from the host only while BAR0 answers and boot has ended (R353,
R354, R355). -/
def reaches (s : State) (src : Src) : Prop := src = .host → barOpen s = true ∧ devReady s = true

/-- A step that neither faults nor is refused. -/
def goesOn (o : Host.Outcome State Fault Refusal) : Bool :=
  match o with
  | .next _ => true
  | _ => false

end Sys2Proof.Machine
end

