-- ==== Sys2Proof/Certificates/Slice0/Obligations.lean ====
section
/-! DEFINITION. The statements for the provers: what a step does, what every step keeps, and, family by family, what
each command does where its effect takes place, with what it leaves unchanged. -/

open Sys2Proof Sys2Proof.Machine

/-! ### Steps, the queue, reset -/

/-- A step with command c at the front of its queue is exec of c on the state with the queue's rest (log entry 7 for the
empty queue). -/
def Obligations.StepRunsFrontCommand : Prop :=
  ∀ (c : Instr) (rest : List Instr) (s : State),
    step { s with pending := c :: rest } = exec c { s with pending := rest }

/-- On an empty queue a step answers the same state 10 ns later (the model's choice, log entry 7). -/
def Obligations.StepIdlesOnEmptyQueue : Prop :=
  ∀ s : State, s.pending = [] → step s = .next { s with now := s.now + 10 }

/-- The state after reset: no command waits, every array is canonical, every register reads its reset value (R11), all
memory reads 0 and unpoisoned (log entry 2), banks are EMPTY (R55). -/
def Obligations.ResetHoldsResetValues : Prop :=
  State.reset.canon = true ∧ State.reset.pending = [] ∧ (∀ o, reg State.reset o = regReset o) ∧
    (∀ a, memByte State.reset a = 0 ∧ smGet false State.reset.memPsn a = false) ∧
    (∀ q c b, (bank State.reset q c b).st = .empty)

/-- Every step keeps every top-level array in canonical form: registers, memory and its poison marks, squares, banks,
drain slots, vector registers, quarters and counters, so that equal contents are equal data. -/
def Obligations.StepKeepsCanonicalForm : Prop :=
  ∀ s t : State, s.canon = true → step s = .next t → t.canon = true

/-- A command leaves the queue of waiting commands alone: after a step the queue is what stood behind its front. -/
def Obligations.StepTakesOnlyTheFront : Prop :=
  ∀ (c : Instr) (s t : State), exec c s = .next t → t.pending = s.pending

/-! ### Memory and its marks -/

/-- Bytes written to memory that is not lost (no DOWN channel) read back in order (R3), and no other byte changes; the
register file, squares and banks stay; of the quarters the reservations of the words written end (R146; log entry 10), and no
more. A word written whole loses its poison mark (R379). -/
def Obligations.WrittenBytesReadBack : Prop :=
  ∀ (s : State) (a : Nat) (bs : List Byte), s.stk.chan = [] →
    (∀ i, i < bs.length → smGet false s.memPsn ((a + i) / 8) = false → memByte (writeBytes s a bs) (a + i) = bs.getD i 0) ∧
    (∀ x, x < a ∨ a + bs.length ≤ x → memByte (writeBytes s a bs) x = memByte s x) ∧
    (∀ w, a ≤ 8 * w → 8 * w + 8 ≤ a + bs.length → smGet false (writeBytes s a bs).memPsn w = false) ∧
    (∀ q i x, q < 96 → i < 2 → (ccore s q i).lr = some x → x % 8 = 0 → x < 0x400000 → a < lsBase q + x + 8 →
      lsBase q + x < a + bs.length → (ccore (writeBytes s a bs) q i).lr = none) ∧
    keepsMem s (writeBytes s a bs) a bs.length ∧
    keepsQuarters s (writeBytes s a bs) ∧
    writeBytes s a bs = { s with mem := (writeBytes s a bs).mem, memPsn := (writeBytes s a bs).memPsn,
                                 quarters := (writeBytes s a bs).quarters }

/-- R378: a word written poisoned has all data bits 0 and check bits 0xFF, and every other word is as before; a word that
arrives with syndrome 0xFF is poisoned, whatever its data bits hold. -/
def Obligations.PoisonedWordHoldsZero : Prop :=
  (wireCheck ⟨0, true⟩ = 0xFF ∧
    ∀ (v : W64) (c : Byte), c.toNat ^^^ checkBits v = 0xFF → readWord v c = .clean ⟨0, true⟩) ∧
  ∀ (s : State) (w : Nat), s.stk.chan = [] →
    smGet false (poisonWord s w).memPsn w = true ∧ (∀ i, i < 8 → memByte (poisonWord s w) (8 * w + i) = 0) ∧
    keepsMem s (poisonWord s w) (8 * w) 8 ∧
    keepsQuarters s (poisonWord s w) ∧
    poisonWord s w = { s with mem := (poisonWord s w).mem, memPsn := (poisonWord s w).memPsn, quarters := (poisonWord s w).quarters }

/-! ### Registers and error records -/

/-- Reserved bits read 0 and ignore writes (R8): a bit that lies in no field of its register keeps its value under every write,
whatever the fields' access codes, and a read of the register returns 0 there, whatever is stored. -/
def Obligations.ReservedBitsIgnoreWrites : Prop :=
  (∀ (fs : List Fld) (idle : Bool) (old new : W64) (b : Nat), b < 64 →
    (∀ f ∈ fs, f.lo ≤ f.hi ∧ f.hi < 64 ∧ (b < f.lo ∨ f.hi < b)) →
    bit (writeFlds fs idle old new).1 b = bit old b ∧ bit (readFlds fs old) b = false) ∧
  (∀ (s : State) (off : Nat) (d : RegD) (i j b : Nat), regFind off regTable = some (d, i, j) → b < 64 →
    (∀ f ∈ d.flds, f.lo ≤ f.hi ∧ f.hi < 64 ∧ (b < f.lo ∨ f.hi < b)) →
    ∃ w, viewReg s off = some (w, d.wid) ∧ bit w b = false)

/-- Access codes of R7 on one field. Written: RW takes the new bits, W1C clears the bits written as 1, W1S sets them, RO and RC
keep theirs and a WO field stores nothing (what its write triggers is the register's own), RWI takes them while its block is
idle and keeps them, reporting a change, while it is not. Read: WO returns 0, every other field its value. -/
def Obligations.AccessCodesGovernWrites : Prop :=
  ∀ (hi lo : Nat) (idle : Bool) (old new : W64), lo ≤ hi → hi < 64 →
    let w := fun acc => writeFlds [⟨hi, lo, acc⟩] idle old new
    bits (w .rw).1 hi lo = bits new hi lo ∧
    (∀ b, lo ≤ b → b ≤ hi → bit (w .w1c).1 b = (bit old b && !bit new b)) ∧
    (∀ b, lo ≤ b → b ≤ hi → bit (w .w1s).1 b = (bit old b || bit new b)) ∧
    (w .ro = (old, false) ∧ w .wo = (old, false) ∧ w .rc = (old, false)) ∧
    (idle = true → bits (w .rwi).1 hi lo = bits new hi lo ∧ (w .rwi).2 = false) ∧
    (idle = false → (w .rwi).1 = old ∧ (w .rwi).2 = (bits old hi lo != bits new hi lo)) ∧
    (∀ acc, bits (readFlds [⟨hi, lo, acc⟩] old) hi lo = if acc = .wo then 0 else bits old hi lo)

/-- A write outside the legal range leaves the register unchanged and sets bit 0 of the block's error register (R9). -/
def Obligations.IllegalValueLeavesRegister : Prop :=
  ∀ (s : State) (blk : Blk) (off : Nat) (fs : List Fld) (idle : Bool) (v : W64),
    off ∉ eventRegs → off ≠ errReg blk → (∀ r t, errRec blk = some (r, t) → off ≠ r) → (∀ q, blk = .qtr q → off ≠ aQtrCcIrq q) →
    reg (regPut s blk off fs idle false v) off = reg s off ∧
    bit (reg (regPut s blk off fs idle false v) (errReg blk)) 0 = true ∧ keepsCore s (regPut s blk off fs idle false v)

/-- An error sets its bit, and the record captures it only while its VALID bit is 0 (R77): the first error stands. -/
def Obligations.FirstErrorIsCaptured : Prop :=
  ∀ (s : State) (blk : Blk) (b low : Nat), b < 48 → bit (reg (setErr s blk b low) (errReg blk)) b = true ∧
    ∀ r t, errRec blk = some (r, t) → r ≠ errReg blk →
      (fld s r 63 63 = 1 → reg (setErr s blk b low) r = reg s r) ∧
      (fld s r 63 63 = 0 → reg (setErr s blk b low) r = BitVec.ofNat 64 (2 ^ 63 + b * 2 ^ t + low)) ∧
      keepsRegs s (setErr s blk b low) [errReg blk, r] ∧ setErr s blk b low = { s with regs := (setErr s blk b low).regs }

/-! ### Engine instructions (05) -/

/-- STREAM_FETCH: the word at FETCH joins the queue of the engine when it passes the word checks, FETCH advances by one, and
nothing but the pointer, the interrupt that STREAM_LOW raises and the queue changes (R107). -/
def Obligations.FetchAdvancesStream : Prop :=
  ∀ (s : State) (q : Fin 96) (i : Fin 14), mayFetch s q i = true →
    wordStatus i (nextWord s q i).2 (nextWord s q i).1.word = none →
    ∃ t, exec (.streamFetch q i) s = .next t ∧
      (strm t q i).queue = (strm s q i).queue ++ [(nextWord s q i).1] ∧
      fld t (aQtrStrmPtr q i) 31 16 = (fld s (aQtrStrmPtr q i) 31 16 + 1) % 65536 ∧
      keepsRegs s t [aQtrStrmPtr q i, aQtrCcIrq q] ∧ t = { s with regs := t.regs, quarters := t.quarters }

/-- A word that fails a check faults with the status of the first that fails (R112): the record captures it, and the quarter's
program is aborted (R144); no word joins the queue. Memory, squares and banks stay. -/
def Obligations.BadWordFaultsAtFetch : Prop :=
  ∀ (s : State) (q : Fin 96) (i : Fin 14) (st : Nat), mayFetch s q i = true → fld s (aQtrEngFault q) 63 63 = 0 →
    (quarter s q).aborted = none → wordStatus i (nextWord s q i).2 (nextWord s q i).1.word = some st →
    ∃ t, exec (.streamFetch q i) s = .next t ∧ (quarter t q).aborted = some st ∧ (strm t q i).queue = (strm s q i).queue ∧
      reg t (aQtrEngFault q) = BitVec.ofNat 64 (2 ^ 63 + st * 2 ^ 48 + i.val * 2 ^ 40 + (nextWord s q i).1.off % 2 ^ 22) ∧
      (∀ a, memByte t a = memByte s a) ∧ (∀ n, square t n = square s n) ∧ (∀ c d b, bank t c d b = bank s c d b)

/-- NOP, SQSIG on this chip, SQWAIT, SQWAIT_RESUME and SQSET with a true predicate: a NOP gives its header signal and no more;
SQSIG adds AMOUNT to its square, SQSET writes VALUE; a SQWAIT whose condition holds retires, at once or when resumed, and
otherwise holds its stream. Only squares and the streams change (R113, R119 to R121). -/
def Obligations.SquareInstructionsAct : Prop :=
  ∀ (s : State) (q : Fin 96) (i : Fin 14) (f : Fetched),
    (headOf s q i (fun w => wOpcode w == opNop) = .ok f true → (wSigen f.word && wSigdst f.word) = false →
      exec (.nop q i) s = .next (if wSigen f.word then sqAdd (popHead s q i) (wSigsq f.word) 1 else popHead s q i)) ∧
    (headOf s q i (fun w => wOpcode w == opSqsig) = .ok f true → bits f.word 31 16 ≠ 0 → bit f.word 15 = false →
      streamOps s q i = [] → wSigen f.word = false → s.fab.reqs = [] →
      exec (.sqsig q i) s = .next (sqAdd (popHead s q i) (wPb f.word) (bits f.word 31 16))) ∧
    (headOf s q i (fun w => wOpcode w == opSqset) = .ok f true → wSigen f.word = false →
      ∃ t, exec (.sqset q i) s = .next t ∧ (square t (wPb f.word)).count = BitVec.ofNat 32 (bits f.word 31 0) ∧
        (∀ n, n ≠ wPb f.word → square t n = square s n) ∧ t = { popHead s q i with squares := t.squares }) ∧
    (headOf s q i (fun w => wOpcode w == opSqwait) = .ok f true → bits f.word 47 45 ≠ 0 → bits f.word 47 45 ≠ 7 →
      (square s (wPb f.word)).psn = false → wSigen f.word = false →
      exec (.sqwait q i) s = .next (if condHolds (bits f.word 47 45) (square s (wPb f.word)).count.toNat (bits f.word 31 0)
        then popHead s q i else setStrm s q i { strm s q i with pred := some true, waiting := true })) ∧
    (∀ l, (strm s q i).queue = f :: l → (strm s q i).waiting = true → mayStart s q = true → wSigen f.word = false →
      (square s (wPb f.word)).psn = false →
      condHolds (bits f.word 47 45) (square s (wPb f.word)).count.toNat (bits f.word 31 0) = true →
      exec (.sqwaitResume q i) s = .next (popHead s q i))

/-- A signal adds its amount to a square's count, which saturates, and counts in SIGSEQ; a poisoned square takes no signal and
keeps its mark (R119, R237, R421). Every other square and everything else is as before. -/
def Obligations.SignalsSaturate : Prop :=
  ∀ (s : State) (n amt : Nat),
    ((square s n).psn = false →
      (square (sqAdd s n amt) n).count.toNat = min ((square s n).count.toNat + amt) 0xFFFFFFFF ∧
      (square (sqAdd s n amt) n).sigseq = (square s n).sigseq + 1) ∧
    ((square s n).psn = true → sqAdd s n amt = s) ∧
    (∀ m, m ≠ n → square (sqAdd s n amt) m = square s m) ∧ sqAdd s n amt = { s with squares := (sqAdd s n amt).squares }

/-- An instruction whose predicate is false ends at once: its word leaves the queue, and with no header signal nothing else
changes but counters (R118); an MMA and a DRAIN still change the state of their bank (R57). -/
def Obligations.FalsePredicateSkips : Prop :=
  ∀ (s : State) (q : Fin 96) (c : Fin 4) (f : Fetched), wSigen f.word = false →
    let skips := fun (cmd : Instr) (i : Nat) => ∃ t, exec cmd s = .next t ∧ (strm t q i).queue = (strm s q i).queue.drop 1 ∧
      (quarter t q).ops = (quarter s q).ops ∧ keepsRegs s t eventRegs ∧
      t = { s with regs := t.regs, host := t.host, pmc := t.pmc, quarters := t.quarters }
    (headOf s q (8 + c) (fun w => wOpcode w == opValu) = .ok f false → skips (.valu q c) (8 + c)) ∧
    (headOf s q (8 + c) (fun w => wOpcode w == opVld) = .ok f false → skips (.vld q c) (8 + c)) ∧
    (headOf s q (8 + c) (fun w => wOpcode w == opVst) = .ok f false → skips (.vst q c) (8 + c)) ∧
    (headOf s q (8 + c) (fun w => wOpcode w == opVrelay) = .ok f false → skips (.vrelay q c) (8 + c)) ∧
    (headOf s q (8 + c) (fun w => wOpcode w == opTopk) = .ok f false → skips (.topk q c) (8 + c)) ∧
    (headOf s q 13 (fun w => wOpcode w == opMove && blockOp s q w != 1) = .ok f false → skips (.moveCopy q) 13) ∧
    (headOf s q 12 (fun w => wOpcode w == opGather && blockOp s q w != 1) = .ok f false → skips (.dispatch q) 12) ∧
    (headOf s q (4 + c) (fun w => wOpcode w == opDcfg) = .ok f false → skips (.dcfg q c) (4 + c)) ∧
    (headOf s q c (fun w => wOpcode w == opMma) = .ok f false → bankWaits s q c f.word = false →
      (bank s q c (mBank f.word)).st ≠ .filling → s.mgt.coreSel = 4 →
      ∃ t, exec (.mma q c) s = .next t ∧ (bank t q c (mBank f.word)).st = (if mHold f.word then .held else .full) ∧
        (bank t q c (mBank f.word)).elems = (bank s q c (mBank f.word)).elems ∧ (∀ a, memByte t a = memByte s a)) ∧
    (headOf s q (4 + c) (fun w => wOpcode w == opDrain) = .ok f false → (bank s q c (mBank f.word)).st = .full →
      ∃ t, exec (.drain q c) s = .next t ∧ (bank t q c (mBank f.word)).st = (if dKeep f.word then .full else .empty) ∧
        (∀ a, memByte t a = memByte s a))

/-- The matrix engine: MMA loads the bank that R52 to R62 compute and is in flight; MMA_END brings its bank to HELD or FULL
(R55); DCFG copies its block into its slot (R127); DRAIN sets its bank DRAINING and writes the rows of R63; DRAIN_END writes
the record and brings the bank to EMPTY, or FULL with KEEP (R55, R68). No command but DRAIN and DRAIN_END writes memory. -/
def Obligations.MatrixInstructionsAct : Prop :=
  ∀ (s : State) (q : Fin 96) (c : Fin 4) (f : Fetched),
    (∀ ab bb, headOf s q c (fun w => wOpcode w == opMma) = .ok f true → bankWaits s q c f.word = false →
      (bank s q c (mBank f.word)).st ≠ .filling → slotFree s q c = true →
      readBlock s q (bits f.word 63 48) tileReserved = .ok ab → readBlock s q (bits f.word 47 32) tileReserved = .ok bb →
      mmaStatus (tileOf ab) (tileOf bb) (mK f.word) (mRows f.word) (mCols f.word) = none →
      ∃ t, exec (.mma q c) s = .next t ∧
        bank t q c (mBank f.word) = mmaBank s q c f.word (tileOf ab) (tileOf bb) (bank s q c (mBank f.word)) ∧
        (bank t q c (mBank f.word)).st = .filling ∧
        (∀ b, b ≠ mBank f.word → b < 2 → mBank f.word < 2 → bank t q c b = bank s q c b) ∧
        (quarter t q).ops.length = (quarter s q).ops.length + 1 ∧
        (strm t q c).queue = (strm s q c).queue.drop 1 ∧ (∀ a, memByte t a = memByte s a) ∧ (∀ n, square t n = square s n) ∧
        (∀ v r l, vreg t q v r l = vreg s q v r l)) ∧
    (∀ o, (streamOps s q c).find? (fun o => !o.fin && o.slot) = some o →
      ∃ t, exec (.mmaEnd q c) s = .next t ∧ (bank t q c (mBank o.word)).st = (if mHold o.word then .held else .full) ∧
        (bank t q c (mBank o.word)).elems = (bank s q c (mBank o.word)).elems ∧
        (∀ p, p ∈ (quarter t q).ops → p.id = o.id → p.fin = true) ∧
        t = { s with banks := t.banks, quarters := t.quarters }) ∧
    (∀ b, headOf s q (4 + c) (fun w => wOpcode w == opDcfg) = .ok f true → strmIdle s q (4 + c) = true →
      readBlock s q (wPb f.word) dcReserved = .ok b → dcStatus b = none → wSigen f.word = false →
      ∃ t, exec (.dcfg q c) s = .next t ∧ dcGet t q c (bits f.word 47 46) = b ∧
        (strm t q (4 + c)).queue = (strm s q (4 + c)).queue.drop 1 ∧
        (∀ k, k ≠ dcKey q c (bits f.word 47 46) → smGet 0 t.dcfg k = smGet 0 s.dcfg k) ∧
        t = { s with dcfg := t.dcfg, quarters := t.quarters }) ∧
    (headOf s q (4 + c) (fun w => wOpcode w == opDrain) = .ok f true → (bank s q c (mBank f.word)).st = .full →
      slotFree s q (4 + c) = true → (dcDest (dcGet s q c (dSlot f.word)) = 1 ∨ dcDest (dcGet s q c (dSlot f.word)) = 2) →
      drainRange s q (dcGet s q c (dSlot f.word)) (bank s q c (mBank f.word)) f.word = true →
      ∃ t, exec (.drain q c) s = .next t ∧ (bank t q c (mBank f.word)).st = .draining ∧
        (∀ a, memByte t a = memByte (drainWrite s (ownKey q (nextOpId s q)) (dcGet s q c (dSlot f.word)) (bank s q c (mBank f.word)) f.word
          (drainRows s q (dcGet s q c (dSlot f.word)) (bank s q c (mBank f.word)))) a) ∧
        (quarter t q).ops.length = (quarter s q).ops.length + 1) ∧
    (∀ o, (streamOps s q (4 + c)).find? (fun o => !o.fin && o.slot) = some o → o.sigTo = .here → dMerge o.word = false →
      reports (dcGet s q c (dSlot o.word)) (bank s q c (mBank o.word)) = false →
      ∃ t, exec (.drainEnd q c) s = .next t ∧
        bank t q c (mBank o.word) = { bank s q c (mBank o.word) with
          st := (if dKeep o.word then .full else .empty), sat := 0, metaF := 0 } ∧
        (∀ a, memByte t a = memByte (writeStat s q (dStat o.word) (o.stat.getD stat0)) a) ∧
        (∀ p, p ∈ (quarter t q).ops → p.id = o.id → p.fin = true))

/-- VALU writes its result into every active lane (R80, R130, R131): a lane with clean sources holds the operation's binary32
result, a lane with a poisoned source reads 0 and is poisoned (R85). No other lane, register or cluster changes. -/
def Obligations.ValuWritesItsLanes : Prop :=
  ∀ (s : State) (q : Fin 96) (c : Fin 4) (f : Fetched),
    headOf s q (8 + c) (fun w => wOpcode w == opValu) = .ok f true → slotFree s q (8 + c) = true →
    valuStatus f.word = none → vPk f.word = false → vStat f.word = false →
    ∃ t, exec (.valu q c) s = .next t ∧
      (∀ l, l < vLanes f.word →
        let n := vArity (vVop f.word) false (vFmt f.word)
        let bad := vpsn s q c (vVa f.word) l || (decide (2 ≤ n) && vpsn s q c (vVb f.word) l) || (n == 3 && vpsn s q c (vVc f.word) l)
        vpsn t q c (vVd f.word) l = bad ∧
        vreg t q c (vVd f.word) l = if bad then 0 else
          (valuOp (vVop f.word) (vFmt f.word) (vNovf f.word) (vreg s q c (vVa f.word) l) (vreg s q c (vVb f.word) l)
            (vreg s q c (vVc f.word) l)).1) ∧
      (∀ (p : Fin 96) (d : Fin 4) (r : Fin 64) (l : Fin 128),
        (p ≠ q ∨ d ≠ c ∨ r.val ≠ vVd f.word ∨ vLanes f.word ≤ l.val) →
        vreg t p d r l = vreg s p d r l ∧ vpsn t p d r l = vpsn s p d r l) ∧
      (strm t q (8 + c)).queue = (strm s q (8 + c)).queue.drop 1 ∧ (quarter t q).ops.length = (quarter s q).ops.length + 1 ∧
      t = { s with vregs := t.vregs, vpsn := t.vpsn, quarters := t.quarters }

/-- VST writes the bytes of its packed row and no other (R23, R132): every byte outside the row that starts at its address in
the quarter's local store is unchanged, and with clean registers and no record so is all else. -/
def Obligations.VstWritesItsRow : Prop :=
  ∀ (s : State) (q : Fin 96) (c : Fin 4) (f : Fetched),
    headOf s q (8 + c) (fun w => wOpcode w == opVst) = .ok f true → slotFree s q (8 + c) = true →
    lStatus false f.word = none → lStat f.word = false →
    (∀ i, i < lN f.word → vpsn s q c (lPlace f.word i).1 (lPlace f.word i).2.1 = false) →
    ∃ t, exec (.vst q c) s = .next t ∧
      (∀ x, x < lsBase q + lAddr f.word ∨ lsBase q + lAddr f.word + rowBytes (lFmt f.word) (lN f.word) ≤ x →
        memByte t x = memByte s x) ∧
      (strm t q (8 + c)).queue = (strm s q (8 + c)).queue.drop 1 ∧ (quarter t q).ops.length = (quarter s q).ops.length + 1 ∧
      t = { s with mem := t.mem, memPsn := t.memPsn, quarters := t.quarters }

/-- The vector instructions whose checks pass do their work in one step, leave their stream's queue and are in flight, in every
form: VALU and VLD fill registers and write a record (R84, R130, R132); VST writes its row; VRED and MOMFIN their result (R90,
R91), poisoned where an input is (R85); VRELAY its partial (R95); TOPK its tokens (R87); DROPOUT and MASKAPPLY their elements
(R102). -/
def Obligations.VectorInstructionsAct : Prop :=
  ∀ (s : State) (q : Fin 96) (c : Fin 4) (f : Fetched) (b : W512), slotFree s q (8 + c) = true →
    let leaves := fun (d : State) (tgt : SigTo) (all : Bool) (out : List (Nat × Nat)) =>
      amendOp (startOp (popHead d q (8 + c)) q (8 + c) f true true none [] tgt []) q fun o => { o with excl := all, dst := out }
    let flies := fun (d : State) (out : List (Nat × Nat)) => leaves d .here false out
    let noted := fun (psn : Bool) (d : State) => if psn then raiseQ d q ePoison (8 + c) 0 else d
    let w := f.word
    (headOf s q (8 + c) (fun w => wOpcode w == opValu) = .ok f true → valuStatus w = none →
      let r := (List.range (vLanes w)).foldl (valuStep q c w) (s, stat0)
      exec (.valu q c) s = .next (flies (if vStat w then writeStat r.1 q (bits w 16 0 * 32) r.2 else r.1)
        (statDst q (vStat w) (bits w 16 0 * 32)))) ∧
    (headOf s q (8 + c) (fun w => wOpcode w == opVld) = .ok f true → lStatus true w = none →
      let r := if lBcast w then vldBcast q c w s else (List.range (lN w)).foldl (vldStep q c w) (s, stat0)
      exec (.vld q c) s = .next (flies (if lStat w then writeStat r.1 q (lRec w) r.2 else r.1) (statDst q (lStat w) (lRec w)))) ∧
    (headOf s q (8 + c) (fun w => wOpcode w == opVst) = .ok f true → lStatus false w = none →
      let es := (List.range (lN w)).map (vstElem s q c w)
      let d := noted (es.any fun e => e.1.psn) (writeElems s (lFmt w) (lsBase q + lAddr w) (es.map (·.1)) (lN w))
      exec (.vst q c) s = .next (flies (if lStat w then
        writeStat d q (lRec w) (es.foldl (fun t e => statLane t e.1.psn false [e.2]) stat0) else d)
        ((lsBase q + lAddr w, rowBytes (lFmt w) (lN w)) :: statDst q (lStat w) (lRec w)))) ∧
    (headOf s q (8 + c) (fun w => wOpcode w == opVred && blockOp s q w != 6) = .ok f true →
      readBlock s q (wPb w) vredReserved = .ok b → vredStatus c b = none →
      let a := lsBase q + blk b 4 4
      let r := redBytes (redOf (blk b 0 1)) (reduceAt s (redOf (blk b 0 1)) (fmtByte b 1) a (blk b 8 4) (bit b 17) (bit b 16))
      let d := writeResult s q c (lsBase q + blk b 12 4) r (anyPsn s a (rowBytes (fmtByte b 1) (blk b 8 4)))
      exec (.vred q c) s = .next (leaves d .here (bit b 16) [(lsBase q + blk b 12 4, r.length)])) ∧
    (headOf s q (8 + c) (fun w => wOpcode w == opVred && blockOp s q w == 6) = .ok f true →
      readBlock s q (wPb w) vredReserved = .ok b → vredStatus c b = none →
      let a := lsBase q + blk b 4 4
      let r := momfin (readNat s a 4) (BitVec.ofNat 32 (readNat s (a + 8) 4)) (BitVec.ofNat 32 (blk b 16 4)) (if bit b 18 then 1 else 0)
      exec (.momfin q c) s = .next (flies (writeResult s q c (lsBase q + blk b 12 4)
        (leBytes 4 r.1.toNat ++ leBytes 4 r.2.toNat) (anyPsn s a 16)) [(lsBase q + blk b 12 4, 8)])) ∧
    (headOf s q (8 + c) (fun w => wOpcode w == opVrelay) = .ok f true → readBlock s q (wPb w) vrReserved = .ok b →
      vrStatus s b = none → streamHolds s q (8 + c) (vrTouches q s f) = false →
      let cs := (List.range (blk b 12 4)).flatMap (vrItemOut s b (lsBase q + blk b 4 4) (lsBase q + blk b 8 4))
      let out := blk b 24 8
      exec (.vrelay q c) s = .next (if bit b 19 then
          leaves (noted (cs.any (·.psn)) (circWrite s (blk b 20 2) (ownKey q (nextOpId s q)) out (streamWords (fmtBits (vrSum b)) cs)))
            (.circuit (blk b 20 2)) false []
        else flies (noted (cs.any (·.psn)) (touch (writeElems s (vrSum b) out cs (blk b 12 4 * vrItem (blk b 0 1))) clQtr out
          (vrOutBytes b) true)) [(out, vrOutBytes b)])) ∧
    (headOf s q (8 + c) (fun w => wOpcode w == opTopk) = .ok f true → readBlock s q (wPb w) tkReserved = .ok b →
      tkStatus b = none →
      let r := (List.range (tkN b)).foldl (tkStep q c b) (s, stat0)
      exec (.topk q c) s = .next (flies (if tkStat b then writeStat r.1 q (blk b 20 4) r.2 else r.1)
        ((lsBase q + blk b 16 4, 8 * tkN b * tkK b) :: statDst q (tkStat b) (blk b 20 4)))) ∧
    (headOf s q (8 + c) (fun w => wOpcode w == opVrand && blockOp s q w != 1) = .ok f true →
      readBlock s q (wPb w) vrandReserved = .ok b → vrandStatus b = none →
      let keep := dropKeep s q c (fmtByte b 1) (bits b 55 32)
      let cs := dropCells s b (lsBase q + blk b 8 4) keep (fun _ => false)
      let mk := lsBase q + blk b 16 4
      let p := packElems 1 (8 * (mk % 8)) ((List.range (blk b 20 4)).map fun i => ⟨i, if keep i then 1 else 0, false⟩)
      let m := writeMask (writeElems s (fmtByte b 1) (lsBase q + blk b 12 4) cs (blk b 20 4)) (mk / 8) p.1 p.2.1 0 (blk b 20 4 / 64 + 2)
      exec (.dropout q c) s = .next (flies (noted (cs.any (·.psn)) { m with free := m.free + blk b 20 4 })
        [(lsBase q + blk b 12 4, rowBytes (fmtByte b 1) (blk b 20 4)), (mk, (blk b 20 4 + 7) / 8)])) ∧
    (headOf s q (8 + c) (fun w => wOpcode w == opVrand && blockOp s q w == 1) = .ok f true →
      readBlock s q (wPb w) vrandReserved = .ok b → vrandStatus b = none →
      let mk := lsBase q + blk b 16 4
      let cs := dropCells s b (lsBase q + blk b 8 4) (fun i => (memByte s (mk + i / 8)).toNat.testBit (i % 8))
        (fun i => anyPsn s (mk + i / 8) 1)
      exec (.maskapply q c) s = .next (flies (noted (cs.any (·.psn))
        (writeElems s (fmtByte b 1) (lsBase q + blk b 12 4) cs (blk b 20 4)))
        [(lsBase q + blk b 12 4, rowBytes (fmtByte b 1) (blk b 20 4))]))

/-- The move engine and the gather/scatter unit, where the checks of their blocks pass: COPY moves its rows by its PATH (R137);
an ATOMIC_ADD adds its rows and stops at the first outside every atomic region (R98); GATHER and SCATTER with ROWS copy rows
(R138, R139); COMBINE writes the combined tokens (R76); SCATTER_ADD adds its rows; DISPATCH sends its rows (R74, R75). None of
them waits for an earlier operation of its stream or for a slice (R51; log entry 89). -/
def Obligations.MoveInstructionsAct : Prop :=
  ∀ (s : State) (q : Fin 96) (f : Fetched) (b : W512),
    let flies := fun (i : Nat) (d : State) (tgt : SigTo) (out : List (Nat × Nat)) =>
      amendOp (startOp (popHead d q i) q i f true true none [] tgt []) q fun o => { o with excl := false, dst := out }
    let fails := fun (i : Nat) (d : State) => failHead (orphanReqs d q (nextOpId s q)) q i stAddrRange f
    let free := fun (i : Nat) (x : Touches) => streamHolds s q i x = false
    let ls := lsBase q
    (headOf s q 13 (fun w => wOpcode w == opMove && blockOp s q w != 1) = .ok f true → slotFree s q 13 = true →
      readBlock s q (wPb f.word) mvReserved = .ok b → free 13 (mvTouches q s f) → mvStatus s b = none →
      exec (.moveCopy q) s = .next (flies 13 ((List.range (mvRows b)).foldl (copyRow q (nextOpId s q) b) s) (mvTo s b)
        (if mvPath b = 0 then mvDstRows s b else []))) ∧
    (headOf s q 13 (fun w => wOpcode w == opMove && blockOp s q w == 1) = .ok f true → slotFree s q 13 = true →
      readBlock s q (wPb f.word) mvReserved = .ok b → free 13 (mvTouches q s f) → mvStatus s b = none →
      let r := atomicRows q (nextOpId s q) b (List.range (mvRows b)) s
      exec (.moveAtomicAdd q) s = .next (if r.2 then flies 13 r.1 (mvTo s b) (if mvPath b = 0 then mvDstRows s b else [])
        else fails 13 r.1)) ∧
    (headOf s q 12 (fun w => wOpcode w == opGather && blockOp s q w != 1) = .ok f true → slotFree s q 12 = true →
      readBlock s q (wPb f.word) gaReserved = .ok b → free 12 (gaTouches q s f) → gaStatus b = none → dispOk s q b = true →
      exec (.dispatch q) s = .next (dispatchGo s q f b)) ∧
    (headOf s q 12 (fun w => wOpcode w == opGather && blockOp s q w == 1) = .ok f true → slotFree s q 12 = true →
      readBlock s q (wPb f.word) gaReserved = .ok b → free 12 (gaTouches q s f) → gaStatus b = none → anyPsn s (ls + gaList b) (4 * gaN b) = false →
      let src := fun i => gaSrc b + rowIndex s q (gaList b) i * gaSrcS b
      (∀ i, i < gaN b → inMem s (src i) (gaBytes b) = true) →
      exec (.gatherRows q) s = .next (flies 12 ((List.range (gaN b)).foldl (fun t i =>
        touch (writeMarked t (ls + gaDst b + i * gaRowS b) (readMarked t (src i) (gaBytes b))) clQtr (src i) (gaBytes b) false) s)
        .here (rowRanges (ls + gaDst b) (gaRowS b) (gaN b) (gaBytes b)))) ∧
    (headOf s q 12 (fun w => wOpcode w == opScatter && blockOp s q w != 1 && blockOp s q w != 2) = .ok f true →
      slotFree s q 12 = true → readBlock s q (wPb f.word) scReserved = .ok b → free 12 (scTouches q s f) → scStatus b = none →
      let es := (List.range (scN b)).flatMap (liveEntries s q b)
      let n := rowBytes (scFmt b) (scLen b)
      (∀ i ∈ es, expertAt s q (scList b) i < 256 ∧ inMem s (retAddr s q b i) n = true) →
      let rows := (List.range (scN b)).map fun t => (t, (List.range (scLen b)).map (combineElem s q b t))
      let d := rows.foldl (fun u r => writeElems u .b32 (ls + scDst b + r.1 * scDstS b) r.2 (scLen b))
        (es.foldl (fun u i => touch u clQtr (retAddr s q b i) n false) s)
      exec (.combine q) s = .next (flies 12 (if rows.any fun r => r.2.any (·.psn) then raiseQ d q ePoison 12 0 else d) .here
        (scDstRows s q b))) ∧
    (headOf s q 12 (fun w => wOpcode w == opScatter && blockOp s q w == 1) = .ok f true → slotFree s q 12 = true →
      readBlock s q (wPb f.word) scReserved = .ok b → free 12 (scTouches q s f) → scStatus b = none → anyPsn s (ls + scList b) (4 * scN b) = false →
      let r := scatterAdds q b (List.range (scN b)) s
      exec (.scatterAdd q) s = .next (if r.2 then flies 12 r.1 .here (scDstRows s q b) else fails 12 r.1)) ∧
    (headOf s q 12 (fun w => wOpcode w == opScatter && blockOp s q w == 2) = .ok f true → slotFree s q 12 = true →
      readBlock s q (wPb f.word) scReserved = .ok b → free 12 (scTouches q s f) → scStatus b = none → anyPsn s (ls + scList b) (4 * scN b) = false →
      let n := rowBytes (scFmt b) (scLen b)
      (∀ i, i < scN b → inMem s (scatterDst s q b i) n = true) →
      exec (.scatterRows q) s = .next (flies 12 ((List.range (scN b)).foldl (fun t i =>
        touch (writeMarked t (scatterDst s q b i) (readMarked t (ls + scSrc b + i * scSrcS b) n)) clQtr (scatterDst s q b i) n true) s)
        .here (scDstRows s q b)))

/-- Operations leave flight: the first of a stream that may retire does its last writes, gives its header signal unless it is
dead, and frees its slot (R141); a SQSIG that has become the first of its stream sends its signal (R119). A wait that expires
faults with WAIT_TO (R144), and an operation that waited for credit is abandoned (R71, R75). -/
def Obligations.OperationsEnd : Prop :=
  ∀ (s : State) (q : Fin 96) (i : Fin 14) (o : Op) (f : Fetched) (l : List Fetched),
    ((streamOps s q i).find? (mayRetire s q) = some o →
      exec (.engineOpRetire q i) s = .next (retireOp s q o)) ∧
    ((streamOps s q i).find? (mayRetire s q) = some o → wSigen o.word = false → o.recs = [] → (4 ≤ o.stream ∧ o.stream < 8) →
      ∃ t, exec (.engineOpRetire q i) s = .next t ∧ (quarter t q).ops = (quarter s q).ops.filter (fun p => p.id != o.id) ∧
        t = { s with quarters := t.quarters }) ∧
    ((streamOps s q i).find? (mayRetire s q) = none → (∃ r, streamOps s q i = o :: r) → wOpcode o.word = opSqsig → o.fin = false →
      bit o.word 15 = false → opReqs s q o.id = [] →
      exec (.engineOpRetire q i) s = .next (retireOp (sqAdd s (wPb o.word) (bits o.word 31 16)) q o)) ∧
    ((streamOps s q i).find? (opWaits s q) = some o →
      exec (.waitTo q i) s = .next (waitFault (abandonOp s q o) q i o.off)) ∧
    ((streamOps s q i).find? (opWaits s q) = none → (strm s q i).queue = f :: l → mayStart s q = true →
      (strm s q i).waiting = true ∨ bankWaits s q i f.word = true → (quarter s q).aborted = none →
      ∃ t, exec (.waitTo q i) s = .next t ∧ (quarter t q).aborted = some stWaitTo ∧ (strm t q i).queue = l ∧
        bit (reg t (aQtrErr q)) eWaitTo = true ∧ (∀ a, memByte t a = memByte s a) ∧ (∀ n, square t n = square s n))

/-- Writes of stream registers that reach an in-service quarter: the owner's legal HEAD is taken, with GATE and GATE_EN (R108,
R110); another control core moves only the gate, and QTR_ERR.RANGE is set (R108); a half write moves only the gate (R343);
EN = 0 discards the waiting instructions: FETCH = HEAD, and the engine's queue empties (R107). -/
def Obligations.StreamRegistersTakeWrites : Prop :=
  ∀ (s : State) (q : Fin 96) (i : Fin 14) (v : W64) (src : Src), reaches s src → qtrPresent s q = true →
    let ptr := aQtrStrmPtr q i
    (isOwner s q i src = true → headLegal (reg s (aQtrStrmCfg q i)) (reg s ptr) (bits v 15 0) = true →
      ∃ t, exec (.streamHeadWrite q i v src) s = .next t ∧ fld t ptr 15 0 = bits v 15 0 ∧ fld t ptr 31 16 = fld s ptr 31 16 ∧
        fld t ptr 48 32 = bits v 48 32 ∧ keepsRegs s t [ptr] ∧ t = { s with regs := t.regs }) ∧
    (isOwner s q i src = false →
      ∃ t, exec (.streamHeadWrite q i v src) s = .next t ∧ fld t ptr 31 0 = fld s ptr 31 0 ∧ fld t ptr 48 32 = bits v 48 32 ∧
        bit (reg t (aQtrErr q)) eRange = true ∧ keepsCore s t) ∧
    (isOwner s q i src = true → headLegal (reg s (aQtrStrmCfg q i)) (reg s ptr) (bits v 15 0) = false →
      ∃ t, exec (.streamHeadWrite q i v src) s = .next t ∧ reg t ptr = reg s ptr ∧ bit (reg t (aQtrErr q)) eRange = true ∧
        keepsCore s t) ∧
    (∃ t, exec (.streamGateWrite q i v src) s = .next t ∧ fld t ptr 31 0 = fld s ptr 31 0 ∧ fld t ptr 48 32 = bits v 48 32 ∧
        keepsRegs s t [ptr] ∧ t = { s with regs := t.regs }) ∧
    (cfgLegal (putBits v 31 31 0) = true → strmIdle s q i = true →
      ∃ t, exec (.streamDisable q i v src) s = .next t ∧ bit (reg t (aQtrStrmCfg q i)) 31 = false ∧
        fld t ptr 31 16 = fld s ptr 15 0 ∧ (strm t q i).queue = [] ∧ (quarter t q).ops = (quarter s q).ops ∧
        keepsRegs s t [aQtrStrmCfg q i, ptr] ∧ t = { s with regs := t.regs, quarters := t.quarters })

/-- Quarter programs: LAUNCH writes the mailbox of every quarter of QMASK that runs none and makes it wait in the others (R228);
LDONE notes its code and the operations in flight, once a launch (R229); LAUNCH_END ends the launch in its quarter once those
have retired, and with its last quarter the LAUNCH (R229, R235); CC_START starts a halted core at ENTRY (R147). -/
def Obligations.QuarterProgramsRun : Prop :=
  ∀ (s : State) (q : Fin 96) (a : Adm) (l : Launch) (v : W32) (w : W64) (src : Src),
    (firstAdm s 1 (fun _ => !s.disp.cut) = some a →
      exec .launch s = .next (kLaunch ((dQuarters a.raw).foldl (joinQuarter a.id) (modAdm s a.id fun x => { x with started := true }))
        a.raw)) ∧
    (reaches s src → qtrPresent s q = true → (quarter s q).launch = some l → (quarter s q).ldone = none →
      ∃ t, exec (.ldone q v src) s = .next t ∧
        quarter t q = { quarter s q with ldone := some (bits (v.setWidth 64) 7 0, (quarter s q).ops.map (·.id)) } ∧
        t = { s with quarters := t.quarters }) ∧
    (∀ code ids, (quarter s q).launch = some l → (quarter s q).ldone = some (code, ids) →
      (∀ o ∈ (quarter s q).ops, o.id ∉ ids) →
      exec (.launchEnd q) s = .next (nextLaunch (launchOver (modQuarter s q fun x => { x with launch := none, ldone := none }) q
        code l) q)) ∧
    (reaches s src → qtrPresent s q = true → qtrIdle s q = true → bits w 53 32 % 4 = 0 →
      ∃ t, exec (.ccStart q w src) s = .next t ∧
        (∀ i : Fin 2, ccHalted t q i = bit w i ∧
          (ccHalted s q i = true → bit w i = false → (ccore t q i).pc = BitVec.ofNat 64 (bits w 53 32))) ∧
        keepsRegs s t [aQtrCcCtl q] ∧ t = { s with regs := t.regs, quarters := t.quarters })

/-- PRJSUB: a submission whose checks pass takes its slot and joins the projector, which queues it while PRJ_STATUS.SETTLED is 1
and one of the 64 places is free (R143, R326, R329); until then it waits in flight. PRJ_SUBMISSION_END takes the one in service
that ends first out and finishes its operation, so that it may retire (R329, R330). -/
def Obligations.SubmissionsServe : Prop :=
  ∀ (s : State) (q : Fin 96) (f : Fetched) (b : W512), slotFree s q 13 = true →
    readBlock s q (wPb f.word) pbReserved = .ok b → pbStatus s b = none →
    streamHolds s q 13 (pbTouches q s f) = false →
    let joins := fun (cmd : Instr) =>
      let u : Sub := ⟨q, nextOpId s q, b, false, false, 0, 0⟩
      (∃ d, exec cmd s = .next (prjServe d) ∧ d.prj.subs = s.prj.subs ++ [u] ∧ (strm d q 13).queue = (strm s q 13).queue.drop 1 ∧
        (quarter d q).ops.length = (quarter s q).ops.length + 1 ∧ d = { s with prj := d.prj, quarters := d.quarters }) ∧
      (prjSettled s = false → ∀ t, exec cmd s = .next t → u ∈ t.prj.subs) ∧
      (prjSettled s = true → (waitingSubs s).length < 64 → (∀ x ∈ s.prj.subs, x.queued = true) → ∀ t, exec cmd s = .next t →
        ∃ x ∈ t.prj.subs, x.q = q ∧ x.op = u.op ∧ x.queued = true)
    (headOf s q 13 (fun w => wOpcode w == opPrjsub && blockOp s q w != 1) = .ok f true → joins (.rotate q)) ∧
    (headOf s q 13 (fun w => wOpcode w == opPrjsub && blockOp s q w == 1) = .ok f true → joins (.sketch q)) ∧
    (∀ u, firstEnd (serving (prjNote s)) = some u →
      ∃ t, exec .prjSubmissionEnd s = .next t ∧ (∀ x ∈ t.prj.subs, ¬(x.q = u.q ∧ x.op = u.op)) ∧
        (∀ o ∈ (quarter t u.q).ops, o.id = u.op → o.fin = true) ∧ (∀ n, square t n = square s n))

/-- PROJECT (R325): LOAD reads its table into its slot and ends; SELECT of a loaded slot begins the settle, during which
SETTLED is 0; LOAD_SELECT does both; a slot that is not loaded, or is selected, is refused. SETTLE_END ends the
settle: SETTLED is 1, and what waited for it is served; each reference of TRACKING enters the error over the last 64 in PRJ_TRACK
(R332). A read of a table that waits at its slice is left out here (log entry 89). -/
def Obligations.ProjectsAct : Prop :=
  ∀ (s : State) (a : Adm) (id : Nat),
    let runs := fun (t : State) => modAdm t a.id fun x => { x with started := true }
    let other := prjSel s = false ∨ prjSelSlot s ≠ pjSlot a.raw
    (firstPrj s 0 = some a → other → tableWaits s a = false →
      exec .load s = .next (admEnd (runs (prjLoad s a.raw).1) a.id (if (prjLoad s a.raw).2 then 0 else 0x10) (detail0 a.raw))) ∧
    (firstPrj s 0 = some a → ¬ other → tableWaits s a = false → exec .load s = .next (admEnd (runs s) a.id sIllegalField (detail0 a.raw))) ∧
    (firstPrj s 1 = some a → fld s (aPrjSlot (pjSlot a.raw)) 63 63 = 1 → pjSlot a.raw < 4 →
      ∃ t, exec .select s = .next t ∧ prjSettled t = false ∧ prjSel t = true ∧ prjSelSlot t = pjSlot a.raw ∧
        t.prj = { s.prj with settling := some a.id } ∧ t.disp = (runs s).disp ∧
        keepsRegs s t [aPrjStatus] ∧ t = { s with regs := t.regs, prj := t.prj, disp := t.disp }) ∧
    (firstPrj s 1 = some a → fld s (aPrjSlot (pjSlot a.raw)) 63 63 = 0 →
      exec .select s = .next (prjBeat (admEnd (runs s) a.id sIllegalField (detail0 a.raw)))) ∧
    (firstPrj s 2 = some a → other → tableWaits s a = false → (prjLoad s a.raw).2 = true →
      exec .loadSelect s = .next (prjSelect (prjLoad s a.raw).1 a)) ∧
    (firstPrj s 2 = some a → other → tableWaits s a = false → (prjLoad s a.raw).2 = false →
      exec .loadSelect s = .next (prjBeat (admEnd (runs (prjLoad s a.raw).1) a.id 0x10 (detail0 a.raw)))) ∧
    (firstPrj s 2 = some a → ¬ other → tableWaits s a = false →
      exec .loadSelect s = .next (prjBeat (admEnd (runs s) a.id sIllegalField (detail0 a.raw)))) ∧
    (s.prj.settling = some id →
      ∃ t, exec .settleEnd s = .next t ∧ prjSettled t = true ∧ t.prj.settling = none ∧ prjSelSlot t = prjSelSlot s ∧
        (s.prj.subs = [] → t.prj = { s.prj with settling := none }) ∧ t.prj.table = s.prj.table ∧ (∀ n, square t n = square s n) ∧ (∀ x, memByte t x = memByte s x)) ∧
    (let col := matReal (tabByte s (prjSelSlot s)) ((List.range 64).map fun i => if i = s.prj.refIn then 31 else 0)
      ∃ t, exec (.tracking 1) s = .next t ∧ t.prj.errs = (refError s col :: s.prj.errs).take 64 ∧
        fld t aPrjTrack 15 0 = trackRms t.prj.errs ∧ t.prj.refIn = (s.prj.refIn + 1) % 64 ∧ t.prj.table = s.prj.table ∧
        t.prj.subs.length = s.prj.subs.length ∧ (∀ x, memByte t x = memByte s x)) ∧
    (exec (.tracking 0) s = .next s) ∧
    (∀ n, ∃ t, exec (.tracking n) s = .next t ∧ exec (.tracking (n + 1)) s = exec (.tracking 1) t ∧ t.prj.table = s.prj.table)

/-- Doorbells (R217): a 4-byte write at offset 0 or 8 of a ring's page moves its TAIL, or HEAD, below the ring's size; any other
write to the 16 MiB of BAR2 is ignored and flagged (R341, R342), and a read there returns 0. -/
def Obligations.DoorbellsMovePointers : Prop :=
  ∀ (s : State) (n : Fin 64) (v : W32) (off bytes : Nat) (w : W64), barOpen s = true → devReady s = true →
    let x := v.toNat
    (x < sqSize s n → x < 65536 →
      ∃ t, exec (.sqDoorbell n v) s = .next t ∧ fld t (aHstSqPtr n) 15 0 = x ∧ fld t (aHstSqPtr n) 31 16 = fld s (aHstSqPtr n) 31 16 ∧
        keepsRegs s t [aHstSqPtr n] ∧ t = { s with regs := t.regs }) ∧
    (x < cqSize s n → x < 65536 →
      ∃ t, exec (.cqDoorbell n v) s = .next t ∧ fld t (aHstCqPtr n) 15 0 = x ∧ fld t (aHstCqPtr n) 31 16 = fld s (aHstCqPtr n) 31 16 ∧
        keepsRegs s t [aHstCqPtr n] ∧ t = { s with regs := t.regs }) ∧
    (sqSize s n ≤ x → ∃ t, exec (.sqDoorbell n v) s = .next t ∧ bit (reg t aHstQErr) 3 = true ∧
      (∀ m, reg t (aHstSqPtr m) = reg s (aHstSqPtr m)) ∧ keepsCore s t) ∧
    (off < 262144 → off + bytes ≤ 2 ^ 24 → bytes ≠ 4 → ∃ t, exec (.doorbellIgnored off bytes (some w)) s = .next t ∧ bit (reg t aHstQErr) 3 = true ∧
      (∀ m, reg t (aHstSqPtr m) = reg s (aHstSqPtr m) ∧ reg t (aHstCqPtr m) = reg s (aHstCqPtr m)) ∧ keepsCore s t) ∧
    (262144 ≤ off → off + bytes ≤ 2 ^ 24 → ∃ t, exec (.doorbellIgnored off bytes (some w)) s = .next t ∧ bit (reg t aHstPortErr) 0 = true ∧
      (∀ m, reg t (aHstSqPtr m) = reg s (aHstSqPtr m) ∧ reg t (aHstCqPtr m) = reg s (aHstCqPtr m)) ∧ keepsCore s t) ∧
    (off + bytes ≤ 2 ^ 24 → exec (.doorbellIgnored off bytes none) s = .next (answer s (List.replicate bytes 0) false))

/-- Ring registers: a BASE or a new CFG of an idle ring clears its pointers (R220, R221); a completion ring that is enabled
starts at TAIL 0 with PHASE 1, and one that something needs stays enabled (R222). -/
def Obligations.RingRegistersTakeWrites : Prop :=
  ∀ (s : State) (n : Fin 64) (v : W64) (w : W32),
    let legal := 4 ≤ bits w 4 0 ∧ bits w 4 0 ≤ 16
    (sqIdle s n = true →
      ∃ t, exec (.sqBaseWrite n v) s = .next t ∧ fld t (aHstSqBase n) 63 12 = bits v 63 12 ∧ reg t (aHstSqPtr n) = 0 ∧
        keepsRegs s t [aHstSqBase n, aHstSqPtr n] ∧ t = { s with regs := t.regs }) ∧
    (sqIdle s n = false →
      ∃ t, exec (.sqBaseWrite n v) s = .next t ∧ reg t (aHstSqBase n) = reg s (aHstSqBase n) ∧
        reg t (aHstSqPtr n) = reg s (aHstSqPtr n) ∧ keepsCore s t) ∧
    (sqIdle s n = true → legal → cqEn s (bits w 21 16) = true → (bits w 4 0 ≠ fld s (aHstSqCfg n) 4 0) →
      ∃ t, exec (.sqCfgWrite n w) s = .next t ∧ sqSize t n = 2 ^ bits w 4 0 ∧ sqCq t n = bits w 21 16 ∧ sqEn t n = bit w 31 ∧
        reg t (aHstSqPtr n) = 0 ∧ keepsRegs s t [aHstSqCfg n, aHstSqPtr n] ∧ t = { s with regs := t.regs }) ∧
    (cqEn s n = false → legal →
      ∃ t, exec (.cqEnable n w) s = .next t ∧ cqEn t n = true ∧ cqSize t n = 2 ^ bits w 4 0 ∧
        fld t (aHstCqCfg n) 23 16 = bits w 23 16 ∧ reg t (aHstCqPtr n) = BitVec.ofNat 64 (2 ^ 32) ∧
        keepsRegs s t [aHstCqCfg n, aHstCqPtr n] ∧ t = { s with regs := t.regs }) ∧
    (cqEn s n = true → cqNeeded s n = false → legal → bits w 4 0 = fld s (aHstCqCfg n) 4 0 →
      bits w 23 16 = fld s (aHstCqCfg n) 23 16 →
      ∃ t, exec (.cqDisable n w) s = .next t ∧ cqEn t n = false ∧ keepsRegs s t [aHstCqCfg n] ∧ t = { s with regs := t.regs }) ∧
    (cqEn s n = true → cqNeeded s n = true →
      ∃ t, exec (.cqDisable n w) s = .next t ∧ cqEn t n = true ∧ bit (reg t aHstQErr) 2 = true ∧ keepsCore s t)

/-- DESCRIPTOR_FETCH takes the next ring's descriptor while fetching is open: FETCH advances, and a descriptor that passes its
checks and is placed joins its beat (R218, R226, R245); one that does not is rejected with the status of the first check
(R227, R245), and a failed read with FETCH_ERR (R227, R349). -/
def Obligations.DescriptorFetchAdmits : Prop :=
  ∀ (s : State) (n : Nat) (b : W512) (d : Answer W512), nextRing s = some n → fetchOpen s = true →
    fld s (aHstSqCfg n) 4 0 ≤ 16 →
    let slot := fld s (aHstSqPtr n) 31 16
    let u := count (count (advanceSq s n) 1405 1) 1410 1
    let cq := sqCq s n
    (∀ beat, descStatus u b = none → place u n b = .ok beat → secondSelect u b beat = false →
      ∃ t, exec (.descriptorFetch (.data b)) s = .next t ∧ fld t (aHstSqPtr n) 31 16 = (slot + 1) % sqSize s n ∧
        t.disp.adms = s.disp.adms ++ [⟨s.disp.nextId, n, slot, cq, b, beat, false, (if dType b = 1 then dQuarters b else []), false,
          none, 0, none, 0⟩] ∧ smGet 0 t.disp.lastBeat n = beat ∧ t.disp.nextId = s.disp.nextId + 1 ∧
        t = { s with regs := t.regs, host := t.host, pmc := t.pmc, disp := t.disp }) ∧
    (∀ st, descStatus u b = some st →
      exec (.descriptorFetch (.data b)) s = .next (reject u n slot cq st (if st = sIllegalType then 0 else detail0 b) (dIrq b))) ∧
    (∀ st, descStatus u b = none → place u n b = .error st →
      exec (.descriptorFetch (.data b)) s = .next (reject u n slot cq st (detail0 b) (dIrq b))) ∧
    ((∀ x, d ≠ .data x) → ∃ t, exec (.descriptorFetch d) s = .next t ∧ bit (reg t aHstQErr) 4 = true ∧
      t.disp.adms = s.disp.adms ∧ fld t (aHstSqPtr n) 31 16 = (slot + 1) % sqSize s n)

/-- Descriptors in their beat: COPY moves its next units, and ends with its last (R230); SIGNAL sets or adds to its square and
ends, or sends a REQ SIGNAL (R231); UPDATE joins the sequencer's queue (R171, R173); STOP runs on to the end of its beat (R232).
A COPY whose units wait at a slice changes nothing and comes again (log entry 89). -/
def Obligations.DescriptorsRun : Prop :=
  ∀ (s : State) (a : Adm) (us : List W512) (n : Nat),
    (∀ d, copyNext s = some a → copyWaits s a d n = true → exec (.copy d n) s = .next s) ∧
    let runs := fun (t : State) => modAdm t a.id fun x => { x with started := true }
    let room := cpUnits a.raw - a.moved
    (copyNext s = some a → copyWaits s a (.data us) n = false → cpToHost a.raw = false → s.host.bme = true →
      exec (.copy (.data us) n) s = .next (copyMoved (count (copyIn (runs s) (cpDaddr a.raw + 64 * a.moved) (us.take room)) 1410
        (us.take room).length) a (a.moved + (us.take room).length))) ∧
    (copyNext s = some a → copyWaits s a (.data us) n = false → cpToHost a.raw = true →
      exec (.copy (.data us) n) s = .next (copyMoved (copyOut a a.moved (min n room) (runs s)) a (a.moved + min n room))) ∧
    (∀ d, copyNext s = some a → copyWaits s a d n = false → cpToHost a.raw = false → s.host.bme = false →
      exec (.copy d n) s = .next (admEnd (runs s) a.id sHostErr a.moved)) ∧
    (firstAdm s 3 (fun _ => !s.disp.cut) = some a → sgSet a.raw = true →
      exec .signal s = .next (admEnd (sqPut (runs s) (sgSq a.raw) (sgValue a.raw)) a.id 0 0)) ∧
    (firstAdm s 3 (fun _ => !s.disp.cut) = some a → sgSet a.raw = false → (sgRemote a.raw = false ∨ sgChip a.raw = thisChip s) →
      exec .signal s = .next (admEnd (sqAdd (runs s) (sgSq a.raw) (sgAmount a.raw)) a.id 0 0)) ∧
    (firstAdm s 3 (fun _ => !s.disp.cut) = some a → sgSet a.raw = false → sgRemote a.raw = true → sgChip a.raw ≠ thisChip s →
      exec .signal s = .next (sendSignal (runs s) (sgChip a.raw) 192 (sgSq a.raw) (sgAmount a.raw) 97 a.id none)) ∧
    (firstAdm s 4 (fun _ => !s.disp.cut) = some a →
      exec .update s = .next (updNext (modUpd (runs s) fun u => { u with queue := u.queue ++ [a.id] }))) ∧
    (firstAdm s 7 (fun _ => true) = some a → exec .stop s = .next (runs s))

/-- FABRIC_CFG writes: the entries of WRITE_RT, WRITE_CIRC and WRITE_CAL that the host's data brings are written in order until
one fails or COUNT are done (R297); FLIP exchanges the banks, opens OLD_OPEN, and ends (R278); LOAD_PLAN takes a plan that
passes R288, and refuses any other with the plan in force unchanged. -/
def Obligations.FabricConfigurationWrites : Prop :=
  ∀ (s : State) (a : Adm) (ws : List W64) (d : List Byte),
    let t := modAdm s a.id fun x => { x with started := true }
    let u := count t 1410 ((8 * ws.length + 63) / 64)
    let okToStart := a.started = true ∨ fcStateStatus s (fcOp a.raw) = none
    (fcNext s 0 = some a → okToStart →
      exec (.writeRt (.data ws)) s = .next (cfgEntries 0 a.id (fcFirst a.raw) (fcCount a.raw) ws a.moved u)) ∧
    (fcNext s 1 = some a → okToStart →
      exec (.writeCirc (.data ws)) s = .next (cfgEntries 1 a.id (fcFirst a.raw) (fcCount a.raw) ws a.moved u)) ∧
    (fcNext s 2 = some a → okToStart →
      exec (.writeCal (.data ws)) s = .next (cfgEntries 2 a.id (fcFirst a.raw) (fcCount a.raw) ws a.moved u)) ∧
    (fcNext s 3 = some a → okToStart →
      ∃ t, exec .flip s = .next t ∧ fld t aFabRtCtl 0 0 = 1 - fld s aFabRtCtl 0 0 ∧ fld t aFabRtCtl 2 2 = 1 ∧
        keepsRegs s t [aFabRtCtl] ∧ (∀ x, memByte t x = memByte s x) ∧ (∀ n, square t n = square s n)) ∧
    (fcNext s 5 = some a → okToStart → d.length = 4160 → planOk d = true →
      exec (.loadPlan (.data d)) s = .next (admEnd (planPut (count t 1410 65) d) a.id 0 0)) ∧
    (fcNext s 5 = some a → okToStart → d.length = 4160 → planOk d = false →
      ∃ t, exec (.loadPlan (.data d)) s = .next t ∧ t.fab = s.fab ∧ keepsRegs s t eventRegs)

/-- DISCOVER starts the exchange on every port, while none runs (R289), and ends NO_PARTNER on every port while the entropy
source fails its tests (R371); HELLO_RESEND sends the HELLO of an exchange without an answer again (R289), which on a
recovered port ends NO_PARTNER after 1 ms (R292); DISCOVER_END writes FAB_DISC of every port, sets MATCH where every planned
port matches, and ends the descriptor (R290, R291). -/
def Obligations.DiscoverRuns : Prop :=
  ∀ (s : State) (a : Adm) (id : Nat) (p : Fin 24),
    (firstAdm s 6 (fun a => fcOp a.raw == 4 && s.fab.discoverId.isNone) = some a → (a.started = true ∨ fcStateStatus s (fcOp a.raw) = none) →
      let t := (List.range 32).foldl discoPort (modFab (swapWarned (modAdm s a.id fun x => { x with started := true }))
        fun f => { f with disco := [], discoverId := some a.id })
      exec .discover s = .next (if s.mgt.entropyBad then endDiscover t (some 2) else t)) ∧
    ((disco s p).active = true → (disco s p).sig = none → s.mgt.entropyBad = false →
      (s.fab.discoverId ≠ none ∨ s.now < (disco s p).t0 + 1000000) →
      exec (.helloResend ⟨p, by omega⟩) s = .next (sendHello s p p)) ∧
    (s.fab.discoverId = none → (disco s p).active = true → (disco s p).t0 + 1000000 ≤ s.now →
      exec (.helloResend ⟨p, by omega⟩) s = .next (stopHere (modDisco (putDisc s p 2) p fun _ => disco0) rPort)) ∧
    (s.fab.discoverId = some id → (jobNear s = false ∨ ∀ r : Fin 32, discoResult s r ≠ 3) →
      ∃ t, exec .discoverEnd s = .next t ∧ t.fab = { s.fab with disco := [], discoverId := none } ∧
        (∀ r : Fin 32, fld t (aFabDisc r) 63 60 = discoResult s r) ∧
        (fld t aFabCtl 2 2 = 1 ↔ planLoaded s = true ∧ ∀ r : Fin 32, discoRole s r ≠ 0 → discoResult s r = 1) ∧
        (∀ x, memByte t x = memByte s x) ∧ (∀ n, square t n = square s n))

/-- HELLO and HELLO_SIG on a street port whose exchange runs: the partner's chip, port and plan are noted and the HELLO is
answered; the signature is checked against the planned key (R289). -/
def Obligations.IdentityPacketsTake : Prop :=
  ∀ (s : State) (p : Fin 24) (k : Pkt), WF.pkt k = true → k.cls = 2 → k.words.any (·.psn) = false → helloOpen s p = true →
    let key := p.val
    let t := takePkt s k
    let port : Fin 32 := ⟨p, by omega⟩
    (k.typ = 2 →
      exec (.hello port k) s = .next (rejoin (helloAnswer (modDisco t key fun x =>
        { x with seen := some (bits (pword k 1) 15 0, bits (pword k 1) 20 16, bits (pword k 1) 63 32) }) p key
        ((pword k 2).setWidth 128 ||| (pword k 3).setWidth 128 <<< 64)) p)) ∧
    (k.typ = 3 → exec (.helloSig port k) s = .next (rejoin (modDisco t key fun x => { x with sig := some (sigGood t p key k) }) p))

/-- START on the town-clock chip, fit and matched, with no job near, sets the first tick 100 us ahead (R239); elsewhere it is
flagged (R239). TICK_SEND sends the tick that is due to every child and sets its boundary ALIGN_NS later (R239, R240). -/
def Obligations.JobsStart : Prop :=
  ∀ (s : State) (t : Nat),
    (isRoot s = true → jobNear s = false → stopRuns s = false → unfit s = false → matched s = true →
      exec .start s = .next { s with disp := { s.disp with startAt := some (s.now + 100000), nextTick := 0 } }) ∧
    (isRoot s = false → ∃ u, exec .start s = .next u ∧ bit (reg u aClkErr) 0 = true ∧ u.disp = s.disp ∧ keepsCore s u) ∧
    (s.disp.startAt = some t → (pastStop s s.disp.nextTick && inJob s) = false →
      ∃ u, exec .tickSend s = .next u ∧ u.now = max s.now t ∧
        u.disp = { s.disp with
          startAt := some (t + beatLen s), nextTick := s.disp.nextTick + 1, ticks := s.disp.ticks ++ [(s.disp.nextTick, t + alignNs s)] } ∧
        u.regs = s.regs ∧ (∀ x, memByte u x = memByte s x))

/-- TICK on the parent's port: a tick in time is accepted, its boundary stands and the count of misses is 0 (R240, R241); a tick
of another beat length is refused and flagged (R241). Every quarter is told of a tick that has come, whatever becomes of it
(R147). TICK_MISSED predicts the boundary (R241). -/
def Obligations.TicksKeepTime : Prop :=
  ∀ (s : State) (p : Fin 32) (k : Pkt) (at_ : Nat), isRoot s = false → p.val = fld s aClkTree 4 0 → streetRole s p = true → stopRuns s = false → inJob s = true →
    let resid := bits (pword k 2) 63 32
    let n := (pword k 1).toNat
    let bq := boundaryQ s at_ resid
    (WF.pkt k = true → k.cls = 2 → k.typ = 0 → k.words.any (·.psn) = false → bits (pword k 2) 13 0 = beatLen s / 1000 →
      dlyNs s ≤ alignNs s → tickLate s n bq = false → n ≠ 0 →
      ∃ t, exec (.tick p k at_) s = .next t ∧ t.now = max s.now at_ ∧
        t.disp = { s.disp with miss := 0, ticks := s.disp.ticks ++ [(n, bq / 4)] } ∧ (∀ x, memByte t x = memByte s x) ∧
        (∀ q ∈ quartersIn s, bit (reg t (aQtrCcIrq q)) 3 = true)) ∧
    (WF.pkt k = true → k.cls = 2 → k.typ = 0 → k.words.any (·.psn) = false → bits (pword k 2) 13 0 ≠ beatLen s / 1000 →
      ∃ t, exec (.tick p k at_) s = .next t ∧ bit (reg t aClkErr) 4 = true ∧ t.disp = s.disp ∧
        (∀ q ∈ quartersIn s, bit (reg t (aQtrCcIrq q)) 3 = true)) ∧
    (s.disp.ticks = [] → s.disp.stopBeat ≠ some (beatNum s) →
      ∃ t, exec .tickMissed s = .next t ∧ bit (reg t aClkErr) 1 = true ∧ t.disp.miss = s.disp.miss + 1 ∧
        t.disp.ticks = [(beatNum s + 1, s.disp.beatStart + beatLen s)] ∧ (∀ x, memByte t x = memByte s x))

/-- BEAT_BOUNDARY ends the running beat and opens the next: with nothing left open, its number and time are those of the boundary
that was due, and its cut has not begun (R242, R248). CUT begins the cut, after which no quarter starts an instruction (R250).
-/
def Obligations.BoundariesOpenBeats : Prop :=
  ∀ (s : State) (n t : Nat), devReady s = true → stopRuns s = false →
    (nextBoundary s = some (n, t) → s.disp.endStop = none → s.disp.adms = [] → s.upd.cur = none → s.upd.queue = [] →
      ∃ u, exec .beatBoundary s = .next u ∧ beatNum u = n % 2 ^ 64 ∧ u.disp.beatStart = t ∧ u.disp.cut = false ∧
        u.disp.dRun = fld s aClkDerate 5 0 ∧ u.disp.adms = []) ∧
    (s.disp.cut = false →
      ∃ u, exec .cut s = .next u ∧ u.disp.cut = true ∧ (∀ q, mayStart u q = false))

/-- The update sequencer: PASS1_START reads the plan once its wait is over, refuses one whose chain fields fail, with
UPD_ERR.HDR in the chiplets that take part, and runs pass 1 in them (R171, R172, R174); PASS1_END of the last of them makes
the record ready (R176). A read of the plan that waits at its slice changes nothing (log entry 89). -/
def Obligations.UpdatePassOne : Prop :=
  ∀ (s : State) (c : UpdCur) (a : Adm) (k : Fin 8), s.upd.cur = some c →
    let pa := planAddr a
    let r := touch s clUpd pa 224 false
    let p := readNat r pa 224
    let goes := c.phase = 0 ∧ admOf s c.id = some a ∧ updWaitOver s a = true
    (goes → sliceWaits s pa 224 false = true → exec (.pass1Start []) s = .next s) ∧
    (goes → sliceWaits s pa 224 false = false → anyPsn r pa 224 = false → plChainBad r p = false →
      let u := setFld (modCur r fun x => { x with plan := p, ks := plKs r p }) aUpdSeqStatus 15 0 (plTag p)
      let v := (plKs r p).foldl (pass1 p) (planErr (modCur u fun x => { x with phase := 1, planBad := plBad r p })
        (if plBad r p then plKs r p else []) pa)
      exec (.pass1Start []) s = .next (if (plKs r p).isEmpty then updReady v else v)) ∧
    (goes → sliceWaits s pa 224 false = false → anyPsn r pa 224 = false → plChainBad r p = true →
      ∃ t, exec (.pass1Start []) s = .next t ∧ t.upd.cur.map (fun x => (x.code, x.phase)) = some (some 8, 4) ∧
        (∀ j ∈ plKs r p, bit (reg t (aUpdErr j)) 3 = true) ∧ (∀ x, memByte t x = memByte s x)) ∧
    (c.phase = 1 → k.val ∈ c.ks → (updChip s k).phase = 1 →
      let t := setChip s k { updChip s k with phase := 2 }
      exec (.pass1End k) s = .next (if c.ks.all fun j => (updChip t j).phase == 2 then updReady t else t))

/-- The update sequencer, from the decision on: SEQREC takes a record from its circuit (R176, R178); PASS2_START runs pass 2 over
the blocks given (R180); UPDATE_END ends an UPDATE that is done with its results (R182); CHAIN_TO ends one that waits, with
CODE 7, and starts JOB_STOP (R178). -/
def Obligations.UpdateEnds : Prop :=
  ∀ (s : State) (c : UpdCur) (k : Fin 8) (n : Fin 1024) (cell : List CWord) (blocks : Nat), s.upd.cur = some c →
    (WF.cell cell = true → (sinkCtl s n cell 3).2 = true → cell.any (·.psn) = false →
      exec (.seqrec n cell) s = .next (recIn (sinkFree (modSink (sinkCtl s n cell 3).1 n fun k => { k with skip := false }) n 1)
        (recOfWords cell))) ∧
    (c.phase = 3 → k.val ∈ c.ks → (updChip s k).phase ≠ 4 →
      exec (.pass2Start k blocks []) s = .next (p2Run k (updNovf s c) c.clip blocks
        (setChip (modCur s fun x => { x with ue := x.ue || false }) k { updChip s k with phase := 3 }))) ∧
    (updDone s c = true → c.ue = false → exec .updateEnd s = .next (updEnd s true)) ∧
    (updDone s c = true → c.ue = true → exec .updateEnd s = .next (stopHere (updEnd s true) rUe)) ∧
    (chainWaits c = true →
      exec .chainTo s = .next (stopHere (updEnd (c.ks.foldl (fun t k => raiseU t k 4 0xFFFF 0)
        (modCur s fun x => { x with code := some 7, phase := 4 })) true) rChainTo))

/-- The loss watch (R164, R165): a finite loss within the limit updates N, MEAN and VAR and clears CONSEC; a spike or a
non-finite loss sets its flag and raises CONSEC, and changes nothing else; RESTART clears the statistics and keeps the flags; a
write of GRAD_NF sets it. -/
def Obligations.LossWatchFollows : Prop :=
  ∀ (s : State) (x : W32),
    let n := min (fld s aMgtLwN 31 0 + 1) 0xFFFFFFFF
    let mean := BitVec.ofNat 32 (fld s aMgtLwState 31 0)
    let var := BitVec.ofNat 32 (fld s aMgtLwState 63 32)
    let a := if n ≤ fld s aMgtLwCtl 31 16 then f32Ratio 1 n else f32Ratio 1 (2 ^ fld s aMgtLwCtl 11 8)
    let spikes := fld s aMgtLwCtl 31 16 ≤ fld s aMgtLwN 31 0 ∧
      f32Lt (f32Add mean (f32Mul (BitVec.ofNat 32 (fld s aMgtLwCtl 63 32)) (f32Sqrt var))) x = true
    (fld s aMgtLwCtl 0 0 = 1 → f32IsFinite x = true → ¬ spikes →
      ∃ t, exec (.loss x) s = .next t ∧ fld t aMgtLwN 31 0 = n ∧ fld t aMgtLwStatus 47 32 = 0 ∧
        fld t aMgtLwStatus 2 0 = fld s aMgtLwStatus 2 0 ∧
        fld t aMgtLwState 31 0 = (f32Fma a (f32Sub x mean) mean).toNat ∧
        fld t aMgtLwState 63 32 = (f32Mul (f32Sub f32One a) (f32Fma a (f32Mul (f32Sub x mean) (f32Sub x mean)) var)).toNat ∧
        keepsRegs s t [aMgtLwN, aMgtLwStatus, aMgtLwState] ∧ t = { s with regs := t.regs }) ∧
    (fld s aMgtLwCtl 0 0 = 1 → (f32IsFinite x = false ∨ spikes) →
      ∃ t, exec (.loss x) s = .next t ∧ fld t aMgtLwStatus (if f32IsFinite x then 1 else 2) (if f32IsFinite x then 1 else 2) = 1 ∧
        fld t aMgtLwStatus 47 32 = min (fld s aMgtLwStatus 47 32 + 1) 65535 ∧
        keepsRegs s t [aMgtLwStatus] ∧ t = { s with regs := t.regs }) ∧
    (fld s aMgtLwCtl 0 0 = 0 → exec (.loss x) s = .next s) ∧
    (∃ t, exec .restart s = .next t ∧ fld t aMgtLwN 31 0 = 0 ∧ reg t aMgtLwState = 0 ∧ fld t aMgtLwStatus 47 32 = 0 ∧
      fld t aMgtLwStatus 2 0 = fld s aMgtLwStatus 2 0 ∧ keepsRegs s t [aMgtLwN, aMgtLwStatus, aMgtLwState] ∧
      t = { s with regs := t.regs }) ∧
    (∃ t, exec .gradNfRaise s = .next t ∧ fld t aMgtLwStatus 0 0 = 1 ∧ fld t aMgtLwStatus 47 1 = fld s aMgtLwStatus 47 1 ∧
      keepsRegs s t [aMgtLwStatus] ∧ t = { s with regs := t.regs })

/-- CLOSE (R160, R161): every entry of the gradient format table follows the rule from its own counts, its counts become 0 and
CLOSE_SEQ counts; while a close runs it is ignored, and flagged. CLOSE_END ends the close. -/
def Obligations.GradientTableCloses : Prop :=
  ∀ s : State,
    (fld s aMgtGftCtl 2 2 = 0 →
      ∃ t, exec .close s = .next t ∧ fld t aMgtGftCtl 2 2 = 1 ∧
        fld t aMgtGftCtl 63 32 = min (fld s aMgtGftCtl 63 32 + 1) (2 ^ 32 - 1) ∧
        (∀ n, n < 4096 → reg t (aMgtGftCnta n) = 0 ∧ reg t (aMgtGftCntb n) = 0 ∧
          reg t (aMgtGftState n) = gftStateWord (gftClose (gftSet s) (gftEntry s n)) (reg s (aMgtGftState n))) ∧
        t = { s with regs := t.regs }) ∧
    (fld s aMgtGftCtl 2 2 = 1 →
      ∃ t, exec .close s = .next t ∧ bit (reg t aMgtErr) 1 = true ∧ (∀ n, n < 4096 → reg t (aMgtGftState n) = reg s (aMgtGftState n)) ∧
        keepsCore s t) ∧
    (∃ t, exec .closeEnd s = .next t ∧ fld t aMgtGftCtl 2 2 = 0 ∧ keepsRegs s t [aMgtGftCtl] ∧ t = { s with regs := t.regs })

/-- A level of the gradient format table moves by at most one at a close, stays within MIN_LEVEL and MAX_LEVEL, and does not
move at all while its entry holds (R160). -/
def Obligations.LevelsMoveByOne : Prop :=
  ∀ (g : GftSet) (e : GftEntry), g.minLevel ≤ e.level → e.level ≤ g.maxLevel →
    (gftClose g e).level ≤ e.level + 1 ∧ e.level ≤ (gftClose g e).level + 1 ∧
      g.minLevel ≤ (gftClose g e).level ∧ (gftClose g e).level ≤ g.maxLevel ∧
      (0 < e.hold → (gftClose g e).level = e.level) ∧
      (gftClose g e).elem = 0 ∧ (gftClose g e).sat = 0 ∧ (gftClose g e).flush = 0 ∧ (gftClose g e).nonfin = 0

/-- Stacks (R193, R209, R211): a good sample moves the median and HOT, a bad one is counted and discarded; drift tracking
moves a lane by one tap; a condition of R211 triggers a retrain of its channel, which is IN_SERVICE again with no offset and
no mark at the end, or DOWN. -/
def Obligations.StacksKeepTrained : Prop :=
  ∀ (s : State) (k : Fin 8) (c : Fin 128) (lane : Fin 20) (up : Bool) (x : Int) (bad : List (Fin 20)),
    (sampleOk x = true → smGet false s.stk.failed k = false →
      let m := median ((x :: smGet [] s.stk.temps k).take 5)
      ∃ t, exec (.stackTempSample k x) s = .next t ∧
        fld t (aMemStatus k) 29 29 = (if 85000 < m then 1 else if m ≤ 83000 then 0 else fld s (aMemStatus k) 29 29) ∧
        fld t (aMemStatus k) 15 8 = tempByte (some m) % 256 ∧ keepsRegs s t [aMemStatus k] ∧
        t = { s with regs := t.regs, stk := t.stk }) ∧
    (sampleOk x = false → smGet 0 s.stk.discards k ≠ 4 →
      ∃ t, exec (.stackTempSample k x) s = .next t ∧ fld t (aMemStatus k) 7 0 = min (fld s (aMemStatus k) 7 0 + 1) 255 ∧
        fld t (aMemStatus k) 29 29 = fld s (aMemStatus k) 29 29 ∧ t.stk.temps = s.stk.temps ∧ keepsRegs s t [aMemStatus k]) ∧
    (chanSt s k c = 0 →
      let key := chanKey k c * 32 + lane
      let v := smGet 0 s.stk.drift key + (if up then 1 else -1)
      v.natAbs ≠ 12 → v.natAbs < 16 →
      exec (.driftTracking k c lane up) s = .next (modStk s fun t => { t with drift := smSet 0 t.drift key v })) ∧
    (retrainDue s k c = false → exec (.emergencyRetrain k c) s = .next s) ∧
    (retrainDue s k c = true → chanSt s k c = 0 → retraining s k = false → s.stk.window ≠ some k.val →
      ∃ t, exec (.emergencyRetrain k c) s = .next t ∧ chanSt t k c = 1 ∧ bit (reg t (aMemErr k)) 4 = true ∧
        (∀ a, memByte t a = memByte s a)) ∧
    (chanSt s k c = 1 → smGet [] s.stk.retrainQ k = [] → s.stk.windowQ = [] →
      lanesToMove s k c (bad.map (·.val)) = [] → (∀ b ∈ bad, b.val < 18) →
      ∃ t, exec (.emergencyRetrainEnd k c bad) s = .next t ∧ chanSt t k c = 0 ∧
        (∀ l : Fin 20, smGet 0 t.stk.drift (chanKey k c * 32 + l) = 0) ∧ fld t (aMemChStatus k c) 5 5 = 0 ∧
        t = { s with regs := t.regs, stk := t.stk }) ∧
    (s.stk.window = some k.val → smGet [] s.stk.retrainQ k = [] → s.stk.windowQ = [] →
      ∃ t, exec (.fullRetrainEnd k []) s = .next t ∧ t.stk.window = none ∧ fld t (aMemStatus k) 28 28 = 0 ∧
        (∀ d : Fin 128, chanSt t k d = chanSt s k d) ∧ t = { s with regs := t.regs, stk := t.stk })

/-- Words in error, and requests of a stack that fail (R377, R381, R382): on a fill, good data on the second read only reports and
counts the error, and a bad one sends the line or segment into recovery; a corrected word of a fill sets CE; an uncorrectable
word of a local store is poisoned and stops the job with its beat, one of a square, a bank or another SRAM at once; REQ_TO is
handled as a bad second read (R213). Traffic generators: TG_START of a legal value in diagnostic mode runs one, which overwrites
what it writes, and TG_END reports its errors (R214). -/
def Obligations.StackFaultsReport : Prop :=
  ∀ (s : State) (a : BitVec 40) (rd : Bool) (n : Fin 2049) (k : Fin 8) (c : Fin 128) (v : W64) (errors : W32) (lanes : BitVec 20)
    (first : BitVec 30) (good : Bool), let x := locate s a.toNat
    let seen := count (raiseM s x.1 2 x.2.1 a.toNat) (cMem x.1 3) 1
    (a.toNat < stackEnd → exec (.ueReread a .fill true) s = .next seen) ∧
    (a.toNat < stackEnd →
      exec (.ueReread a .fill false) s = .next ((unitsOf seen a.toNat 1).foldl (fun t u => refetch t u.1 u.2) seen)) ∧
    (a.toNat < stackEnd →
      ∃ t, exec (.ueReread a .corrected good) s = .next t ∧ bit (reg t (aMemErr x.1)) 1 = true ∧ (∀ y, memByte t y = memByte s y)) ∧
    (∀ (q : Fin 96) (off : Nat) (src : Byte), qtrPresent s q = true → off < lsSize → a.toNat = lsBase q + off →
      exec (.ueReread a (.store src) true) s = .next (raiseQ s q eLsCe src.toNat a.toNat) ∧
      exec (.ueReread a (.store src) false) s =
        .next (stopAtEnd (raiseQ (poisonWord s (a.toNat / 8)) q eLsUe src.toNat a.toNat) rUe)) ∧
    (∀ m : W16, exec (.ueReread a (.square m) good) s = .next (stopHere (setSquare s m.toNat { square s m.toNat with psn := true }) rUe)) ∧
    (∀ (q : Fin 96) (d : Fin 4) (b : Fin 2),
      exec (.ueReread a (.bank q d b) good) s = .next (stopHere (setBank s q d b (poisonBank (bank s q d b))) rUe)) ∧
    exec (.ueReread a .sram good) s = .next (stopHere s rUe) ∧
    (a.toNat < stackEnd → 0 < n.val →
      exec (.reqTo a rd n) s = .next ((unitsOf s a.toNat n).foldl (fun t u => refetch t u.1 u.2) (raiseM s x.1 3 x.2.1 a.toNat))) ∧
    (tgLegal v = true → fld s (aMemCtl k) 0 0 = 1 → fld s (aMemChTgCtl k c) 0 0 = 0 → bits v 9 8 = 1 →
      ∃ t, exec (.tgStart k c v) s = .next t ∧ fld t (aMemChTgCtl k c) 0 0 = 1 ∧ fld t (aMemChTgCtl k c) 63 32 = bits v 63 32 ∧
        reg t (aMemChTgRes k c) = 0 ∧ reg t (aMemChTgFirst k c) = 0 ∧
        keepsRegs s t [aMemChTgCtl k c, aMemChTgRes k c, aMemChTgFirst k c] ∧ t = { s with regs := t.regs }) ∧
    (tgLegal v = true → fld s (aMemCtl k) 0 0 = 0 →
      ∃ t, exec (.tgStart k c v) s = .next t ∧ bit (reg t (aMemErr k)) 0 = true ∧ (∀ y, memByte t y = memByte s y)) ∧
    (fld s (aMemChTgCtl k c) 0 0 = 1 →
      ∃ t, exec (.tgEnd k c errors lanes first) s = .next t ∧ fld t (aMemChTgCtl k c) 0 0 = 0 ∧
        fld t (aMemChTgRes k c) 31 0 = errors.toNat ∧ fld t (aMemChTgRes k c) 51 32 = lanes.toNat ∧
        fld t (aMemChTgRes k c) 63 63 = (if errors = 0 then 0 else 1) ∧
        (errors ≠ 0 → (reg t (aMemChTgFirst k c)).toNat = first.toNat) ∧
        keepsRegs s t [aMemChTgCtl k c, aMemChTgRes k c, aMemChTgFirst k c] ∧ t = { s with regs := t.regs })

/-- Memory's tables, outside a job: CHANNEL_RETIRE takes a channel out, and what the stack held is lost (R199); a legal
REGION_WRITE takes effect (R197), and no segment that was not compressed changes (R200); ATOMIC_REGION_ENABLE and DISABLE make
the entry BUSY until SCC_ATOM_BUSY_END (R208); a write out of range leaves the entry (R9). -/
def Obligations.MemoryTablesTakeWrites : Prop :=
  ∀ (s : State) (k : Fin 8) (n : Fin 64) (m : Fin 16) (v : W64) (w : W32), inJob s = false →
    (bit w 31 = true → reg s (aMemRetire k) = 0 →
      ∃ t, exec (.channelRetire k w) s = .next t ∧ fld t (aMemRetire k) 31 31 = 1 ∧ fld t (aMemRetire k) 6 0 = bits w 6 0 ∧
        chanSt t k (bits w 6 0) = 3 ∧ keepsRegs s t [aMemRetire k] ∧ (∀ x, stackEnd ≤ x → memByte t x = memByte s x)) ∧
    (regionLegal s n v = true → stackWindows v = stackWindows (reg s (aMemReg n)) →
      ∃ t, exec (.regionWrite n v) s = .next t ∧ (∀ f ∈ fldsAt (aMemReg n), fld t (aMemReg n) f.hi f.lo = bits v f.hi f.lo) ∧
        keepsRegs s t (aMemReg n :: eventRegs ++ (List.range 1024).map fun i => aMemChCe (i / 128) (i % 128)) ∧
        (∀ x, cmpRegion s (x / 2048 * 2048) = none → memByte t x = memByte s x)) ∧
    (regionLegal s n v = false →
      ∃ t, exec (.regionWrite n v) s = .next t ∧ reg t (aMemReg n) = reg s (aMemReg n) ∧ bit (reg t (aMemErr 0)) 0 = true ∧
        (∀ x, memByte t x = memByte s x)) ∧
    (atomLegal s m (putBits v 63 63 1) = true →
      ∃ t, exec (.atomicRegionEnable m v) s = .next t ∧ fld t (aSccAtom m) 63 63 = 1 ∧ fld t (aSccAtom m) 62 62 = 1 ∧
        atomFirst (reg t (aSccAtom m)) = atomFirst v ∧ atomCount (reg t (aSccAtom m)) = atomCount v ∧
        (∀ x, memByte t x = memByte s x)) ∧
    (atomLegal s m (putBits v 63 63 0) = true → fld s (aSccAtom m) 63 63 = 1 →
      ∃ t, exec (.atomicRegionDisable m v) s = .next t ∧ fld t (aSccAtom m) 63 63 = 0 ∧ fld t (aSccAtom m) 62 62 = 1 ∧
        keepsRegs s t [aSccAtom m] ∧ t = { s with regs := t.regs }) ∧
    (∃ t, exec (.sccAtomBusyEnd m) s = .next t ∧ fld t (aSccAtom m) 62 62 = 0 ∧ fld t (aSccAtom m) 63 63 = fld s (aSccAtom m) 63 63 ∧
      keepsRegs s t [aSccAtom m] ∧ t = { s with regs := t.regs })

/-! ### Fabric -/

/-- Frames (R268): a frame with an uncorrectable word, or one that fails a check, only asks for a resend; a frame that passes
becomes the lane's last accepted, and its NAK request goes; a lane that does not carry traffic takes nothing. A
REPLAY_TIMEOUT sends every held frame again, with the first counted failed once more, and the fifth failure takes the lane
out of service (R269). CTRL_DISPLACE reports itself and displaces a frame of the next round (R267). -/
def Obligations.FramesAreTaken : Prop :=
  ∀ (s : State) (p : Fin 32) (l : Fin 8) (ws : List (W64 × Byte)) (ret : BitVec 24), WF.frame ws = true →
    (laneUp s p l = false → linkUp s p l = false → exec (.frameRx p l ws ret) s = .next s) ∧
    (laneUp s p l = true → rxWords ws = none → exec (.frameRx p l ws ret) s = .next (askAgain s p l)) ∧
    (∀ rs t, laneUp s p l = true → rxWords ws = some rs → rs[64]? = some t →
      let cells := cut8 ((rs.take 64).map (·.1)) 8
      let ok := !t.1.psn && bits t.1.v 63 32 == frameCrc cells (bits t.1.v 31 0) ret.toNat && bits t.1.v 14 13 != 3 &&
        bits ret 23 22 != 3 && bits t.1.v 31 24 == ((lane s p l).rxSeq + 1) % 256
      ∃ u, exec (.frameRx p l ws ret) s = .next u ∧
        (ok = false → (lane u p l).nak = true ∧ (lane u p l).rxSeq = (lane s p l).rxSeq ∧ (lane u p l).held = (lane s p l).held ∧
          (∀ a, memByte u a = memByte s a)) ∧
        (ok = true → bit t.1.v 15 = false → (lane u p l).nak = false ∧ (lane u p l).rxSeq = bits t.1.v 31 24 ∧
          (∀ a, memByte u a = memByte s a))) ∧
    (∀ f fs, laneUp s p l = true → (lane s p l).held = f :: fs → f.fails < 4 →
      ∃ u, exec (.replayTimeout p l) s = .next u ∧
        (lane u p l).held = ({ f with fails := f.fails + 1 } :: fs).map (retag (lane s p l)) ∧ (lane u p l).nak = false ∧
        (∀ a, memByte u a = memByte s a)) ∧
    (∀ f fs, laneUp s p l = true → (lane s p l).held = f :: fs → 4 ≤ f.fails →
      exec (.replayTimeout p l) s = .next (laneFail s p l)) ∧
    (∀ y : Fin 24, smGet [] s.fab.ctrlQ y ≠ [] →
      ∃ u, exec (.ctrlDisplace y) s = .next u ∧ smGet false u.fab.displ y = true ∧ bit (reg u aFabErr) 11 = true ∧
        (∀ a, memByte u a = memByte s a))

/-- A round (R266) is 8 frame times: every lane that carries traffic, or waits for its first frame (R316), sends 8 frames with
consecutive SEQ and holds them until they are acknowledged (R263, R268), but for one whose partner reports TRAINING (R306); no
other lane sends; memory and squares stay. -/
def Obligations.RoundsFillTheirPositions : Prop :=
  ∀ (s : State) (p : Fin 32), ∃ t, exec (.round p) s = .next t ∧
    let sends := fun (l : Nat) => (laneUp s p l || linkUp s p l) && smGet 0 s.opt.peer (lkey p l) != 3
    (∀ l : Fin 8, sends l = true →
      (lane t p l).txSeq = ((lane s p l).txSeq + 8) % 256 ∧ (lane t p l).nak = false ∧
        (lane t p l).rxSeq = (lane s p l).rxSeq ∧ ∃ fs, fs.length = 8 ∧ (lane t p l).held = (lane s p l).held ++ fs ∧
          (∀ j f, fs[j]? = some f → 0 < j → f.seq = ((lane s p l).txSeq + j) % 256) ∧ (fs.map (·.fails) = List.replicate 8 0)) ∧
    (∀ (q : Nat) (l : Fin 8), (q ≠ p.val ∨ sends l = false) → lane t q l = lane s q l) ∧
    t = { s with regs := t.regs, fab := t.fab, opt := t.opt, host := t.host, pmc := t.pmc }

/-- A WRITE packet for this chip whose address word is legal and whose range is memory (R259, R260, R284): its words stand
in the range in order, a poisoned word as data bits 0 with its mark (R378), and every byte outside it is as before. A request
that waits at its slice is left out here (log entry 89). -/
def Obligations.WriteStoresItsWords : Prop :=
  ∀ (s : State) (p : Fin 32) (k : Pkt) (w : CWord) (ws : List CWord), let a := bits w.v 39 0
    let n := 8 * (bits w.v 48 40 + 1)
    WF.pkt k = true → k.cls = 0 → k.typ = 1 → k.dst = thisChip s → stopRuns s = false → k.words = w :: ws →
    w.psn = false → bits w.v 63 60 = 0 → bits w.v 59 49 = 0 → a % 8 = 0 → ws.length = n / 8 → isSquareAddr a = false →
    inMem s a n = true → s.stk.chan = [] → sliceWaits s a n true = false →
      ∃ t, exec (.write p k) s = .next t ∧ keepsMem s t a n ∧
        readWords t a (n / 8) = ws.map (fun x => if x.psn then ⟨0, true⟩ else x) ∧
        keepsQuarters s t ∧
        t = { s with
          regs := t.regs, mem := t.mem, memPsn := t.memPsn, quarters := t.quarters, stk := t.stk, fab := t.fab, opt := t.opt,
          host := t.host, pmc := t.pmc }

/-- Requests at their target (R284, R285): READ answers with the words, or with ERROR cause 4 where one is poisoned; SIGNAL
signals the square (R119), a poisoned square answers ERROR; ATOMIC_ADD adds where R98 allows it; a word that cannot be an
address, another unit's code, or an address outside memory is refused with its cause and changes nothing else; while a
stop runs requests are discarded (R392). One whose access waits at its slice changes nothing and comes again (log entry 89). -/
def Obligations.RequestsAreServed : Prop :=
  ∀ (s : State) (p : Fin 32) (k : Pkt) (w : CWord) (ws : List CWord), let u := takePkt s k
    let a := bits w.v 39 0
    let n := 8 * (bits w.v 48 40 + 1)
    let here := k.cls = 0 ∧ k.dst = thisChip s ∧ WF.pkt k = true ∧ k.words = w :: ws ∧ stopRuns s = false
    let legal := w.psn = false ∧ bits w.v 59 49 = 0 ∧ a % 8 = 0
    let addressed := legal ∧ sliceWaits s a n (k.typ == 1) = false
    (here → legal → sliceWaits s a n (k.typ == 1) = true →
      (k.typ = 1 → exec (.write p k) s = .next s) ∧ (k.typ = 2 → exec (.read p k) s = .next s) ∧
        (k.typ = 4 → exec (.atomicAdd p k) s = .next s)) ∧
    (here → k.typ = 2 → addressed → bits w.v 63 60 = 0 → isSquareAddr a = false → inMem s a n = true →
      exec (.read p k) s = .next
        (if (readWords s a (n / 8)).any (·.psn) then refuse (touch u clFab a n false) p k 4
         else respond (touch u clFab a n false) p k 2 (readWords s a (n / 8)))) ∧
    (here → k.typ = 3 → w.psn = false → bits w.v 31 16 ≠ 0 → (square s (bits w.v 15 0)).psn = false →
      exec (.reqSignal p k) s = .next (acked (sqAdd u (bits w.v 15 0) (bits w.v 31 16)) p k)) ∧
    (here → k.typ = 3 → w.psn = false → bits w.v 31 16 ≠ 0 → (square s (bits w.v 15 0)).psn = true →
      exec (.reqSignal p k) s = .next (refuse u p k 4)) ∧
    (∀ f, here → k.typ = 4 → addressed → atomFmt (bits w.v 63 60) = some f → (isSquareAddr a || inMem s a n) = true →
      atomicRange s a n = true → exec (.atomicAdd p k) s = .next (acked (atomicAdds u f a (ws.take (n / 8))) p k)) ∧
    (∀ f, here → k.typ = 4 → addressed → atomFmt (bits w.v 63 60) = some f → (isSquareAddr a || inMem s a n) = true →
      atomicRange s a n = false → exec (.atomicAdd p k) s = .next (refuse u p k 2)) ∧
    (here → k.typ = 1 → addressed → bits w.v 63 60 = 0 → isSquareAddr a = false → inMem s a n = false →
      exec (.write p k) s = .next (refuse u p k 1)) ∧
    (here → k.typ = 2 → w.psn = true → exec (.read p k) s = .next (refuse u p k 4)) ∧
    (k.cls = 0 → k.typ = 1 → k.dst = thisChip s → WF.pkt k = true → stopRuns s = true → exec (.write p k) s = .next u)

/-- Responses at the requester (R286): each ends the live request that its sender, FLOW and SEQ name: ACK as performed,
READ_DATA with its words written where the READ asked, or added there for an atomic add (R98), unless they wait at a slice,
ERROR with REMOTE and the unit's RANGE set (R285) and a READ's destination poisoned; one that answers none counts as LATE_RSP.
E2E_TIMEOUT expires the request that it names (R389). -/
def Obligations.ResponsesEndRequests : Prop :=
  ∀ (s : State) (p : Fin 32) (k : Pkt) (r : Req), let u := dropReq (takePkt s k) r
    let here := WF.pkt k = true ∧ k.cls = 1 ∧ k.dst = thisChip s ∧ findReq s k = some r
    (here → k.typ = 1 → r.typ ≠ 2 → exec (.ack p k) s = .next (reqOver u r)) ∧
    (here → k.typ = 2 → dataWaits s k = true → exec (.readData p k) s = .next s) ∧
    (∀ fm, here → k.typ = 2 → r.typ = 2 → r.flow ≠ 193 → dataWaits s k = false → r.add = some fm →
      exec (.readData p k) s = .next (reqOver (atomicAdds u (fmtOfCode fm) r.addr (k.words.take (r.len / 8))) r)) ∧
    (here → k.typ = 2 → r.typ = 2 → r.flow ≠ 193 → dataWaits s k = false → r.add = none →
      exec (.readData p k) s =
        .next (reqOver (touch (writeWords u r.addr (k.words.take (r.len / 8))) clQtr r.addr r.len true) r)) ∧
    (here → k.typ = 3 → r.typ = 2 → r.flow ≠ 193 →
      exec (.error p k) s = .next (reqOver (poisonRange (unitRange (raiseF u 7 p r.addr) r) r.addr r.len) r)) ∧
    (here → k.typ = 3 → r.typ ≠ 2 → r.flow ≠ 193 →
      exec (.error p k) s = .next (reqOver (unitRange (raiseF u 7 p r.addr) r) r)) ∧
    (WF.pkt k = true → k.cls = 1 → k.typ = 1 → k.dst = thisChip s → findReq s k = none →
      ∃ t, exec (.ack p k) s = .next t ∧ bit (reg t aFabErr) 5 = true ∧
        fld t aFabE2eStatus 31 0 = min (fld s aFabE2eStatus 31 0 + 1) (2 ^ 32 - 1) ∧ (∀ a, memByte t a = memByte s a) ∧
        t.squares = s.squares ∧ t.disp = s.disp ∧ t.quarters = s.quarters) ∧
    (∀ (f : Fin 512) (n : Fin 4096), (s.fab.reqs.find? fun x => x.flow == f.val && x.seq == n.val) = some r →
      exec (.e2eTimeout f n) s = .next (expire s r)) ∧
    (∀ (f : Fin 512) (n : Fin 4096), (s.fab.reqs.find? fun x => x.flow == f.val && x.seq == n.val) = none →
      exec (.e2eTimeout f n) s = .next s)

/-- Control packets on an enabled street port (R275): the first STOP starts JOB_STOP with what it carries (R295), an ECHO is
answered on its port with its identifier, an ECHO_REPLY sets the delay (R240, R294; which sender's delay is added is the
model's operand, log entry 6); on any other port each is discarded. -/
def Obligations.ControlPacketsTake : Prop :=
  ∀ (s : State) (p : Fin 32) (k : Pkt) (turn rtt dly : Nat), WF.pkt k = true → k.cls = 2 → k.words.any (·.psn) = false →
    (k.typ = 1 → streetOn s p = true →
      exec (.stopCell p k) s =
        .next (startStop (takePkt s k) (bits (pword k 1) 23 16) (bits (pword k 1) 15 0) (pword k 2).toNat)) ∧
    (k.typ = 4 → streetOn s p = true →
      exec (.echo p k turn) s =
        .next (pushCtrl (takePkt s k) p (ctrlPkt (takePkt s k) 5 [pword k 1, BitVec.ofNat 64 turn]))) ∧
    (∀ e, k.typ = 5 → streetOn s p = true → (s.fab.echoes.find? fun x => x.1 == p.val && x.2.1 == (pword k 1).toNat) = some e →
      ∃ t, exec (.echoReply p k rtt dly) s = .next t ∧
        fld t aClkAlign 63 32 = (dly + (rtt - (pword k 2).toNat) / 8) % 2 ^ 32 ∧ t.fab.echoes = s.fab.echoes.erase e ∧
        keepsRegs s t [aClkAlign] ∧ t = { s with regs := t.regs, fab := t.fab, disp := t.disp }) ∧
    (k.typ = 1 → streetOn s p = false → exec (.stopCell p k) s = .next (takePkt s k)) ∧
    (k.typ = 4 → streetOn s p = false → exec (.echo p k turn) s = .next (takePkt s k)) ∧
    (k.typ = 5 → streetOn s p = false → exec (.echoReply p k rtt dly) s = .next (takePkt s k))

/-- Cells at the sink of an enabled circuit (R261, R262, R285): a WRITE_HEAD of a legal range sets where the cells to come
are written and how many there are, any other makes them discarded and sets SINK; a data cell is written at its place; a
SIGNAL signals its square. The cell is the oldest of its circuit that waits (R262); one that comes before its turn, or whose slice
makes it wait (log entry 89), changes nothing. -/
def Obligations.CircuitCellsTake : Prop :=
  ∀ (s : State) (n : Fin 1024) (c : List CWord), let k := smGet sink0 s.fab.sinks n
    let u := takeCirc s n c
    let a := bits (cellWord c 0) 47 8
    let m := bits (cellWord c 1) 31 0
    WF.cell c = true → (circTurn s n c = false →
      exec (.writeHead n c) s = .next s ∧ exec (.circuitSignal n c) s = .next s ∧ exec (.circuitDataCell n c) s = .next s) ∧
    (circTurn s n c = true → bit (circ s n) 63 = true → bit (circ s n) 56 = true → k.dead = false →
    (k.left = 0 → ctrlBad c = false → ctrlKind c = 1 → a % 64 = 0 → inMem s a (64 * m) = true →
      ∃ t, exec (.writeHead n c) s = .next t ∧ (smGet sink0 t.fab.sinks n).addr = a ∧ (smGet sink0 t.fab.sinks n).left = m ∧
        (smGet sink0 t.fab.sinks n).skip = false ∧ t = { s with fab := t.fab }) ∧
    (k.left = 0 → ctrlBad c = false → ctrlKind c = 1 → (a % 64 ≠ 0 ∨ inMem s a (64 * m) = false) →
      ∃ t, exec (.writeHead n c) s = .next t ∧ (smGet sink0 t.fab.sinks n).left = m ∧ (smGet sink0 t.fab.sinks n).skip = true ∧
        bit (reg t aFabErr) 12 = true ∧ (∀ x, memByte t x = memByte s x) ∧ t.squares = s.squares) ∧
    (k.left = 0 → ctrlBad c = false → ctrlKind c = 2 → k.skip = false →
      exec (.circuitSignal n c) s =
        .next (sqAdd (sinkFree (modSink u n fun x => { x with skip := false }) n 1) (bits (cellWord c 0) 63 48)
          (bits (cellWord c 1) 15 0))) ∧
    (k.left = 0 → ctrlBad c = false → ctrlKind c = 2 → k.skip = true →
      exec (.circuitSignal n c) s = .next (sinkFree (modSink u n fun x => { x with skip := false }) n 1)) ∧
    (k.left ≠ 0 → k.skip = false → sliceWaits s k.addr 64 true = true → exec (.circuitDataCell n c) s = .next s) ∧
    (k.left ≠ 0 → k.skip = false → sliceWaits s k.addr 64 true = false →
      ∃ t, exec (.circuitDataCell n c) s = .next t ∧ keepsMem s t k.addr 64 ∧
        (s.stk.chan = [] → k.addr % 8 = 0 → inMem s k.addr 64 = true →
          readWords t k.addr 8 = c.map (fun x => if x.psn then ⟨0, true⟩ else x)) ∧
        (smGet sink0 t.fab.sinks n).addr = k.addr + 64 ∧ (smGet sink0 t.fab.sinks n).left = k.left - 1 ∧
        t.squares = s.squares) ∧
    (k.left ≠ 0 → k.skip = true →
      ∃ t, exec (.circuitDataCell n c) s = .next t ∧ (smGet sink0 t.fab.sinks n).left = k.left - 1 ∧
        t = { s with fab := t.fab }))

/-! ### Photonic links -/

/-- Photonic links: a sample in range becomes the sensor's newest, and a ramp above LANE_RATE takes the lanes DOWN whose rings
use it (R303, R308); feedforward moves each ring, and each phase shifter of the projector, by its gain times the change of its
sensor value (R304, R322); LANE_DOWN takes a live lane out, an error ratio only above DROP_EXP (R305); a relock goes through
SEEK, LOCKED and TRAINING to READY, one that fails counts, and the third in a row fails the lane (R306, R307); a management word
sets the partner's power and state, and one that is lost nothing (R302, R320); a failed laser is reported (R309), its spare takes
its place, an aged one is warned of. Which sensor serves a ring is the model's (log entry 6). -/
def Obligations.PhotonicLinksFollow : Prop :=
  ∀ (s : State) (die : Fin 2) (i : Fin 64) (p : Fin 32) (l : Fin 8) (n : Fin 128) (x : Int) (w : W64) (errs bts : Nat),
    (let key := die.val * 64 + i.val
     let v := modOpt s fun o => { o with sens := smSet sensor0 o.sens key (optSample s.now x (sensor s key)) }
     let u := modMgt v fun m => { m with phBeat := maxOpt m.phBeat (tphMax v) }
     sampleOk x = true → (sensor s key).failed = false →
     exec (.optSensorSample die i x) s = .next (thermal (prjNote
       (if rampAbove u key (fld s aOptCtl 7 0) then ((List.range 8).filter fun l => usesSensor u (sensorPort die i) l (i % 4)).foldl
         (fun t l => dropLane t 5 (sensorPort die i) l) u else u)))) ∧
    (∃ t, exec .ringFeedforward s = .next t ∧ t = { s with opt := t.opt, prj := t.prj } ∧
      (∀ k, k < shifters → (t.prj.heater[k]?).getD 0 = (s.prj.heater[k]?).getD 0 + Config.shifterGain k *
        shiftDelta s (fun j => ringTemp s (sensorPort 1 j) (j % 4)) (Config.shifterSensor k % 64)) ∧
      ∀ k : Fin 1024, match ringTemp s (k / 32) (k % 32 / 8) with
        | none => smGet 0 t.opt.heater k = smGet 0 s.opt.heater k ∧ smGet none t.opt.heatRef k = smGet none s.opt.heatRef k
        | some v => smGet none t.opt.heatRef k = some v ∧ smGet 0 t.opt.heater k = smGet 0 s.opt.heater k +
            Config.ringGain (k / 32) (k % 32) * (v - (smGet none s.opt.heatRef k).getD v)) ∧
    (laneLive s p l = true → exec (.laneDown p l .lock) s = .next (laneOut (raiseO s 3 p l 0) p l 6) ∧
      exec (.laneDown p l .pilot) s = .next (laneOut (raiseO s 2 p l 0) p l 6)) ∧
    (laneLive s p l = false → exec (.laneDown p l .lock) s = .next s ∧ exec (.laneDown p l .pilot) s = .next s) ∧
    (let m := notePrefec s p l errs bts;
      (berAbove errs bts (fld s aOptCtl 15 8) = false → exec (.laneDown p l (.ber errs bts)) s = .next m) ∧
      (laneLive s p l = true → berAbove errs bts (fld s aOptCtl 15 8) = true →
        exec (.laneDown p l (.ber errs bts)) s = .next (laneOut (raiseO m 4 p l 0) p l 6))) ∧
    (let st := laneSt s p l
      let f := smGet 0 s.opt.fails (lkey p l)
      let u := fun k => modOpt s fun o => { o with fails := smSet 0 o.fails (lkey p l) k }
      let stage := fun (t : State) (k : Nat) => setFld t (aOptLanel p l) 63 60 k
      (st = 6 → p.val < 24 → exec (.laneRelockEnd p l .seek) s = .next (stage s 1)) ∧
      (st = 1 → exec (.laneRelockEnd p l .locked) s = .next (stage s 2)) ∧
      (∀ wl : Fin 16, st = 2 → fld s (aOptLanel p l) 59 56 = wl → laserLit s (portBank p) wl = true →
        exec (.laneRelockEnd p l (.pilot wl)) s = .next (stage (ringsGood s p wl) 3)) ∧
      (st = 3 → errs ≤ 100 → exec (.laneRelockEnd p l (.trained errs)) s = .next (laneGood (u 0) p l)) ∧
      (st = 3 → 100 < errs → f < 2 → exec (.laneRelockEnd p l (.trained errs)) s = .next (stage (u (f + 1)) 1)) ∧
      (st = 1 ∨ st = 2 ∨ st = 3 → f < 2 → exec (.laneRelockEnd p l .failed) s = .next (stage (u (f + 1)) 1)) ∧
      (st = 1 ∨ st = 2 ∨ st = 3 → 2 ≤ f → exec (.laneRelockEnd p l .failed) s = .next (laneOut (u 0) p l 7))) ∧
    (∀ chk : Byte, (readWord w chk = .lost → exec (.laneManagementWord p l (w, chk)) s = .next s) ∧
      (readWord w chk = .clean ⟨w, false⟩ → laneLive s p l = true → laneSt s p l ≠ 4 → lowMargin s w = false →
        ∃ t, exec (.laneManagementWord p l (w, chk)) s = .next t ∧ fld t (aOptLanel p l) 47 40 = bits w 55 48 ∧
          smGet 0 t.opt.peer (lkey p l) = bits w 39 36 ∧ keepsRegs s t [aOptLanel p l] ∧
          t = { s with regs := t.regs, opt := t.opt })) ∧
    (-128 ≤ x → x ≤ 127 →
      ∃ t, exec (.rxPowerMeasure p l ⟨x, errs, bts⟩) s = .next t ∧ fld t (aOptLanel p l) 55 48 = (BitVec.ofInt 8 x).toNat ∧
        fld t (aOptLanel p l) 39 32 = prefec errs bts ∧ keepsRegs s t [aOptLanel p l] ∧ t = { s with regs := t.regs }) ∧
    (laserState s n ≠ 0 → laserState s n ≠ 4 → laserActive s n = false → laserState s (laserMate n) ≠ 4 →
      exec (.laserFail n) s = .next (prjNote (setFld (raiseO s 6 0 0 n) (aOptLaser n) 31 29 4))) ∧
    (laserState s n = 4 → laserActive s n = true → laserState s (laserMate n) = 3 →
      ∃ t, exec (.laserSwap n) s = .next t ∧ laserActive t n = false ∧ laserActive t (laserMate n) = true ∧
        laserState t (laserMate n) = 2 ∧ laserState t n = 4 ∧ keepsRegs s t [aOptLaser n, aOptLaser (laserMate n)] ∧
        t = { s with regs := t.regs }) ∧
    (∃ t, exec (.laserAgeWarn n) s = .next t ∧ fld t (aOptLaser n) 27 27 = 1 ∧ 85 ≤ fld t (aOptLaser n) 15 8 ∧
      bit (reg t aOptErr) 7 = true ∧ (∀ a, memByte t a = memByte s a) ∧ t.opt = s.opt)

/-- The roll call (R314, R315): a block that is heard joins it, any other is discarded, one with a lost or poisoned word too;
the assignment ends it, reports the members heard and the beat, and ages every position: 0 where it is carried or has no
demand, else one more, up to 15. -/
def Obligations.RollCallsAssign : Prop :=
  ∀ (s : State) (p l : Fin 8) (xs : List (W64 × Byte)), WF.announce xs = true →
    let r := rollTurn s false
    (rxWords xs = none → exec (.announceBlock p l xs) s = .next r) ∧
    (∀ rs, rxWords xs = some rs →
      let ws := rs.map (·.1.v)
      let u := count r (cPort (24 + p) 3) (rs.filter (·.2)).length
      (r.opt.roll = true → rs.any (·.1.psn) = false → blockOk r ws = true →
        exec (.announceBlock p l xs) s =
          .next (modOpt u fun o => { o with blocks := smSet [] o.blocks (bits ((ws[0]?).getD 0) 47 44) ws })) ∧
      ((r.opt.roll && !rs.any (·.1.psn) && blockOk r ws) = false → exec (.announceBlock p l xs) s = .next u)) ∧
    (s.opt.roll = false → exec .avAssignment s = .next s) ∧
    (s.opt.roll = true →
      ∃ t, exec .avAssignment s = .next t ∧ t.opt.roll = false ∧ fld t aOptAvStatus 31 0 = beatNum s % 2 ^ 32 ∧
        fld t aOptAvStatus 63 48 = posMask (heard s) % 2 ^ 16 ∧
        (∀ y : Fin 16, smGet 0 t.opt.age y =
          if smGet [] t.opt.carried y ≠ [] ∨ smGet 0 s.opt.demand y = 0 then 0 else min (smGet 0 s.opt.age y + 1) 15) ∧
        (∀ a, memByte t a = memByte s a) ∧ t.squares = s.squares)

/-! ### The host interface -/

/-- Accesses of the host: BAR4 reads and writes memory at BASE (R344, R345), a poisoned write leaves poisoned words, an access
outside the BAR is an Unsupported Request (R353), one that waits at its slice changes nothing and comes again (R382, R214, log
entry 89); a base out of range stays out (R344). A write of the whole of a register acts as that register's write from every
source (R355), one of another width or with EP is reported (R343), one before boot has ended is dropped (R354). A read answers
with the register's value and clears its RC fields (R7). Configuration space answers and takes 4 bytes of any register, its
enables and the power state among them (R337, R340; the layout is PCIe's, log entry 11). -/
def Obligations.HostAccessesTake : Prop :=
  ∀ (s : State) (off n : Nat) (bs : List Byte) (v : W64) (src : Src) (ep : Bool), let a := bar4Addr s off
    let p := barPair s (off / 8 * 8)
    (WF.hostLen n = true → barOpen s = true → devReady s = true → off + n ≤ bar4Size s → inMem s a n = true →
      anyPsn s a n = false → sliceWaits s a n false = false →
      ∃ t, exec (.bar4Read off n) s = .next t ∧ t.host.out.getLast? = some (.completion (readBytes s a n) false) ∧
        t = { s with regs := t.regs, stk := t.stk, host := t.host, pmc := t.pmc }) ∧
    (WF.hostLen n = true → (barOpen s = false ∨ bar4Size s < off + n) → exec (.bar4Read off n) s = .next (unsupported s)) ∧
    (WF.hostLen bs.length = true → barOpen s = true → devReady s = true → off + bs.length ≤ bar4Size s →
      inMem s a bs.length = true → s.stk.chan = [] → sliceWaits s a bs.length true = false →
      ∃ t, exec (.bar4Write off bs false) s = .next t ∧ keepsMem s t a bs.length ∧
        (∀ i, i < bs.length → smGet false s.memPsn ((a + i) / 8) = false → memByte t (a + i) = bs.getD i 0) ∧
        keepsQuarters s t ∧
        t = { s with regs := t.regs, mem := t.mem, memPsn := t.memPsn, stk := t.stk, host := t.host, pmc := t.pmc,
                     quarters := t.quarters }) ∧
    (WF.hostLen bs.length = true → barOpen s = true → devReady s = true → off + bs.length ≤ bar4Size s →
      inMem s a bs.length = true → s.stk.chan = [] → sliceWaits s a bs.length true = false →
      ∃ t, exec (.bar4Write off bs true) s = .next t ∧ keepsMem s t a bs.length ∧ bit (reg t aHstPortErr) 1 = true ∧
        (∀ i, i < bs.length → smGet false t.memPsn ((a + i) / 8) = true ∧ memByte t (a + i) = 0)) ∧
    (WF.hostLen bs.length = true → (barOpen s = false ∨ bar4Size s < off + bs.length) →
      exec (.bar4Write off bs false) s = .next (unsupportedWrite s)) ∧
    (WF.hostLen n = true → barOpen s = true → devReady s = true → off + n ≤ bar4Size s → sliceWaits s a n false = true →
      exec (.bar4Read off n) s = .next s) ∧
    (WF.hostLen bs.length = true → barOpen s = true → off + bs.length ≤ bar4Size s →
      (devReady s = false ∨ sliceWaits s a bs.length true = true) → exec (.bar4Write off bs ep) s = .next s) ∧
    (bar4Legal s v = true →
      ∃ t, exec (.bar4BaseWrite v) s = .next t ∧ fld t aHstBar4Ctl 39 30 = bits v 39 30 ∧
        fld t aHstBar4Ctl 5 0 = fld s aHstBar4Ctl 5 0 ∧ keepsRegs s t [aHstBar4Ctl] ∧ t = { s with regs := t.regs }) ∧
    (bar4Legal s v = false →
      ∃ t, exec (.bar4BaseWrite v) s = .next t ∧ reg t aHstBar4Ctl = reg s aHstBar4Ctl ∧ bit (reg t aHstPortErr) 0 = true ∧
        keepsCore s t) ∧
    (∀ d i j, regHere off = some (d, i, j) → (inSqWindow off || inMsix off || inPba off) = false → reaches s src →
      (d.wid = 64 → off % 8 = 0 → exec (.registerWrite (.bar0 off) 8 v src false) s = .next (writeRow s d i j off v src)) ∧
      (d.wid = 32 → off % 4 = 0 → exec (.registerWrite (.bar0 off) 4 v src false) s =
        .next (writeRow s d i j off (BitVec.ofNat 64 (bits v 31 0)) src))) ∧
    (widthOk off n = false → reaches s src → (src = .host → off + n ≤ 2 ^ 26) → exec (.registerWrite (.bar0 off) n v src false) s = .next (raise s .hst 3 off)) ∧
    (barOpen s = true → devReady s = true → off + n ≤ 2 ^ 26 → exec (.registerWrite (.bar0 off) n v .host true) s = .next (poisonRx s 0)) ∧
    (barOpen s = true → devReady s = false → off + n ≤ 2 ^ 26 → exec (.registerWrite (.bar0 off) n v .host ep) s = .next s) ∧
    ((barOpen s = false ∨ 2 ^ 26 < off + n) → exec (.registerWrite (.bar0 off) n v .host ep) s = .next (unsupportedWrite s) ∧
      exec (.registerReadClear (.bar0 off) n .host) s = .next (unsupported s)) ∧
    (barOpen s = true → devReady s = true → widthOk off n = true → off + n ≤ 2 ^ 26 →
      ∃ t, exec (.registerReadClear (.bar0 off) n .host) s = .next t ∧
        t.host = { s.host with
          out := s.host.out ++ [.completion (leBytes n (p.1.toNat >>> (8 * (off % 8)) % 2 ^ (8 * n))) p.2] } ∧
        (∀ o, (∀ f ∈ fldsAt o, f.acc ≠ .rc) → reg t o = reg s o) ∧
        t = { s with regs := t.regs, free := s.free + 1, host := t.host }) ∧
    (widthOk off n = true →
      ∃ t, exec (.registerReadClear (.bar0 off) n .fw) s = .next t ∧ (∀ o, (∀ f ∈ fldsAt o, f.acc ≠ .rc) → reg t o = reg s o) ∧
        t = { s with regs := t.regs, free := s.free + 1 }) ∧
    (off % 4 = 0 → off < 4096 →
      exec (.registerReadClear (.config off) 4 .host) s = .next (hostPush s (.completion (leBytes 4 (cfgWord s off).toNat) false)) ∧
      exec (.registerWrite (.config off) 4 v .host false) s = .next (cfgRegWrite s off (v.setWidth 32))) ∧
    (exec (.registerWrite (.config 4) 4 v .host false) s = .next (modHost s fun h => { h with mse := bit v 1, bme := bit v 2 })) ∧
    (bits v 1 0 = 3 → exec (.registerWrite (.config 0x44) 4 v .host false) s = .next (modHost s fun h => { h with d3 := true })) ∧
    (exec (.registerWrite (.config off) n v .host true) s = .next (poisonRx s 0)) ∧
    (exec (.registerWrite (.config off) n v .fw ep) s = .next s ∧ exec (.registerReadClear (.config off) n .fw) s = .next s)

/-- The link, power states, messages and PCIe errors: an event source that is enabled while its condition holds raises its
vector (R348); the Bus Master and Memory Space bits and D3hot are states of the port (R340, R352, R353), messages held are
sent on the return to D0 or as nothing masks them; the link's width and rate are reported (R339), 64 GT/s as Flit mode; the
size of BAR4 is 2^30 to 2^36 bytes (R341); what the port meets is reported in AER; a timeout of a read ends what asked for it
while Device Control 2 enables it, Surprise Down zeroes the link (R349; the AER bits are PCIe's, log entry 11). -/
def Obligations.HostPortFollows : Prop :=
  ∀ (s : State) (e : Fin 16) (w : W32) (b c f : Bool) (wd : Fin 17) (rt : Fin 7) (n : Nat) (errs : List PcieErr),
    (let x := putBits (w.setWidth 64) 31 31 1
     let u := regPut s .hst (aHstIrqSrc e) (fldsAt (aHstIrqSrc e)) true true x
     e.val < 12 → fld u (aHstIrqSrc e) 31 31 = 1 ∧ fld u (aHstIrqSrc e) 7 0 = bits w 7 0 ∧ keepsRegs s u [aHstIrqSrc e] ∧
       (fld s (aHstIrqSrc e) 31 31 = 0 → eventCond u e = true → exec (.irqSrcEnable e w) s = .next (fireEvent u e)) ∧
       ((fld s (aHstIrqSrc e) 31 31 = 1 ∨ eventCond u e = false) → exec (.irqSrcEnable e w) s = .next u)) ∧
    (12 ≤ e.val → exec (.irqSrcEnable e w) s = .next (raise s .hst 0 (aHstIrqSrc e))) ∧
    (exec (.bmeClear b) s = .next (modHost s fun h => { h with bme := b })) ∧
    (exec (.mseClear b) s = .next (modHost s fun h => { h with mse := b })) ∧
    (exec .d3hot s = .next (modHost s fun h => { h with d3 := true })) ∧
    (exec .d0Return s = .next (sendPending (modHost s fun h => { h with d3 := false }))) ∧
    (s.host.pba = [] → exec .d0Return s = .next (modHost s fun h => { h with d3 := false })) ∧
    (exec (.msixFunctionMaskWrite b c) s = .next (sendPending (modHost s fun h => { h with msixEn := b, fmask := c }))) ∧
    (s.host.pba = [] → exec (.msixFunctionMaskWrite b c) s = .next (modHost s fun h => { h with msixEn := b, fmask := c })) ∧
    ([1, 2, 4, 8, 16].contains wd.val = true → 1 ≤ rt.val →
      ∃ t, exec (.linkChange wd rt f ⟨c, errs⟩) s = .next t ∧ fld t aHstLink 20 16 = wd.val ∧ fld t aHstLink 15 12 = rt.val ∧
        fld t aHstLink 8 8 = (if f = true ∨ rt.val = 6 then 1 else 0) ∧ fld t aHstLink 0 0 = (if c = true then 1 else 0) ∧
        (∀ e, e ∈ errs → (if (pcieBit e).1 then t.host.aerU else t.host.aerC).testBit (pcieBit e).2 = true) ∧
        (errs = [] → t.host = { s.host with link := t.host.link }) ∧
        t.host = { s.host with link := reg t aHstLink, aerU := t.host.aerU, aerC := t.host.aerC } ∧
        keepsRegs s t [aHstLink] ∧ t = { s with regs := t.regs, host := t.host }) ∧
    ([1, 2, 4, 8, 16].contains wd.val = false ∨ rt.val = 0 → exec (.linkChange wd rt f ⟨c, []⟩) s = .next s) ∧
    (30 ≤ n → n ≤ 36 →
      ∃ t, exec (.resizableBarWrite n) s = .next t ∧ bar4Size t = 2 ^ n ∧ fld t aHstBar4Ctl 39 30 = fld s aHstBar4Ctl 39 30 ∧
        keepsRegs s t [aHstBar4Ctl] ∧ t = { s with regs := t.regs }) ∧
    ((n < 30 ∨ 36 < n) → exec (.resizableBarWrite n) s = .next s) ∧
    (bit ((smGet none s.host.cfg cfgDevCtl2).getD 0) 4 = true → ∀ k, exec (.completionTimeout k) s = .next s) ∧
    (bit ((smGet none s.host.cfg cfgDevCtl2).getD 0) 4 = false → ∀ r, nextRing s = some r → fetchOpen s = true →
      exec (.completionTimeout 0) s = .next (reject
        (raise (readTimeout (count (count (advanceSq s r) 1405 1) 1410 1)) .hstQ 4 0) r (fld s (aHstSqPtr r) 31 16) (sqCq s r)
        sFetchErr 0 false)) ∧
    (bit ((smGet none s.host.cfg cfgDevCtl2).getD 0) 4 = false → ∀ d, copyNext s = some d → cpToHost d.raw = false →
      exec (.completionTimeout 1) s =
        .next (admEnd (readTimeout (modAdm s d.id fun x => { x with started := true })) d.id sHostErr d.moved)) ∧
    (bit ((smGet none s.host.cfg cfgDevCtl2).getD 0) 4 = false → ∀ d, fcReading s = some d →
      exec (.completionTimeout 2) s = .next (fcStart s d fun t => admEnd (readTimeout t) d.id sHostErr d.moved)) ∧
    (∃ t, exec .surpriseDown s = .next t ∧ reg t aHstLink = 0 ∧ t.host = { s.host with link := 0, aerU := s.host.aerU ||| 2 ^ 5 } ∧
      keepsRegs s t [aHstLink] ∧ t = { s with regs := t.regs, host := t.host })

/-! ### Reset and boot -/

/-- Reset and boot: FLR, hot reset and a pin held low for 20 us put every register at its reset value and clear memory's
contents, the flash and the queue stay (R362); FLR and hot reset keep the link; a pin below 14 us does nothing. The release
starts boot (R368), each stage steps BOOT_STATUS, stage 8 ends READY (R354, R368), a die whose monitors never pass stops boot
(R410). A clock fault, or a domain whose heartbeat is missing, stops the job (R358, R361), one whose heartbeat came within
100 us does not; a failed entropy source answers no partner (R371). What reset makes of memory is the model's (log entry 2). -/
def Obligations.ResetAndBootProceed : Prop :=
  ∀ (s : State) (us : Nat) (r : BootRes) (d : Fin 25),
    let fresh := fun (t : State) => t.regs = [] ∧ t.mem = [] ∧ t.memPsn = [] ∧ t.squares = [] ∧ t.banks = [] ∧ t.vregs = [] ∧
      t.quarters = [] ∧ t.disp = disp0 ∧ t.fab = fab0 ∧ t.stk = stk0 ∧ t.upd = upd0 ∧ t.prj = prj0 ∧ t.opt = opt0 ∧
      t.pmc = [] ∧ t.dcfg = [] ∧ t.vpsn = [] ∧ t.pending = s.pending ∧ t.mgt.flash = s.mgt.flash ∧ t.mgt.released = false
    (∃ t, exec .flr s = .next t ∧ fresh t ∧ t.host.link = s.host.link ∧ t.host.mse = false ∧ t.mgt.trip = s.mgt.trip) ∧
    (∃ t, exec .hotReset s = .next t ∧ fresh t ∧ t.host.link = s.host.link ∧ t.host.mse = false ∧ t.mgt.trip = s.mgt.trip) ∧
    (20 ≤ us → ∃ t, exec (.perstN us) s = .next t ∧ fresh t ∧ t.host.link = 0 ∧ t.host.mse = false ∧ t.mgt.trip = s.mgt.trip) ∧
    (20 ≤ us → ∃ t, exec (.porN us) s = .next t ∧ fresh t ∧ t.host.link = 0 ∧ t.host.mse = false ∧ t.mgt.trip = false) ∧
    (us < 14 → exec (.perstN us) s = .next s ∧ exec (.porN us) s = .next s) ∧
    (s.mgt.released = false →
      ∃ t, exec .resetRelease s = .next t ∧ t.mgt.released = true ∧ smGet 0 t.mgt.meas 1 = Config.maskRomDigest ∧ fld t aMgtBootStatus 3 0 = 1 ∧
        fld t aMgtPwrStatus 28 24 = 30 ∧ fld t aMgtPwrStatus 20 16 = 30 ∧ reg t aHstLink = s.host.link ∧
        keepsRegs s t [aMgtBootStatus, aMgtPwrStatus, aHstLink] ∧ t = { s with regs := t.regs, mgt := t.mgt }) ∧
    (booting s = true → fld s aMgtBootStatus 3 0 = 1 →
      ∃ t, exec (.bootStageEnd r) s = .next t ∧ fld t aMgtBootStatus 3 0 = 2 ∧
        fld t aMgtBootStatus 31 8 = (s.now - s.mgt.t0) / 1000000 % 2 ^ 24 ∧ keepsRegs s t [aMgtBootStatus] ∧
        t = { s with regs := t.regs }) ∧
    (booting s = true → fld s aMgtBootStatus 3 0 = 5 → (r.vidE.val = 31 ∨ r.vidW.val = 31) →
      ∃ t, exec (.bootStageEnd r) s = .next t ∧ fld t aMgtBootStatus 7 7 = 1 ∧ fld t aMgtBootStatus 47 40 = 6 ∧
        fld t aMgtBootStatus 3 0 = 5) ∧
    (booting s = true → fld s aMgtBootStatus 3 0 = 8 →
      ∃ t, exec (.bootStageEnd r) s = .next t ∧ devReady t = true ∧ fld t aMgtBootStatus 3 0 = 9) ∧
    (booting s = false → exec (.bootStageEnd r) s = .next s) ∧
    (exec (.clockFault d) s = .next (stopHere (raise s .mgt 2 (d * 2 ^ 40)) 0x0B)) ∧
    (exec (.heartbeat d) s = .next (modMgt s fun m => { m with hb := smSet 0 m.hb d (s.now + 1) })) ∧
    (smGet 0 s.mgt.hb d = 0 ∨ smGet 0 s.mgt.hb d + 100000 ≤ s.now + 1 →
      exec (.domainStuck d) s = .next (stopHere (raise (if d.val = 24 then s else setFld s aMgtDomainStatus d d 0) .mgt 3
        (d * 2 ^ 40)) 0x0C)) ∧
    (smGet 0 s.mgt.hb d ≠ 0 → s.now + 1 < smGet 0 s.mgt.hb d + 100000 → exec (.domainStuck d) s = .next s) ∧
    (s.fab.discoverId = none →
      ∃ t, exec .entropyHealthFail s = .next t ∧ t.mgt = { s.mgt with entropyBad := true } ∧ bit (reg t aMgtErr) 6 = true ∧
        t = { s with regs := t.regs, host := t.host, pmc := t.pmc, mgt := t.mgt }) ∧
    (exec .entropyHealthFail s =
      .next (endDiscover (raise (modMgt s fun m => { m with entropyBad := true }) .mgt 6 0) (some 2)))

/-! ### Management, stop, power, counters, control cores -/

/-- The management endpoint, once the device has left reset: a message for it, of an accepted type, is answered on its own
binding, any other is discarded (R350; MCTP's layouts are DSP0236's, log entry 11), as R373 has it: a code that it does not
list is UNSUPPORTED; the boot status, the flash and the part record read; an erased block reads 0xFF, a write clears bits (log
entry 4), both refused while a job runs; RESET answers, also on SMBus, and resets; SET_ENDPOINT_ID. An SPDM request out of
turn or of another code ends as an error, one in turn answers and joins the transcript (R351; its layouts are DSP0274's, log
entry 17), and a part without its key signs nothing (R370). The SMBus timeout and read release ALERT_N (R350, R384); in a job
the TAP holds BYPASS or IDCODE (R385). -/
def Obligations.ManagementAnswers : Prop :=
  ∀ (s : State) (b : MctpIn) (o : W32) (o2 : W16) (n e : Byte) (bs req : List Byte) (ir : Nat), let send := mctpSend s b.smb
    let turn := byteAt req 0 = 0x12
    let ask := fun code : Nat => mctpTakes s b = true ∧ b.typ = 0x7E ∧ b.vendor = 0x1F3A ∧ b.code.toNat = code
    let smb := b.smb
    (ask 1 → exec (.getBootStatus b) s = .next (send (vendor 1 0 (leBytes 8 (reg s aMgtBootStatus).toNat)))) ∧
    (ask 2 →
      (len48 n.toNat = true → inFlash o.toNat n.toNat = true →
        exec (.flashRead b o n) s = .next (send (vendor 2 0 (flashBytes s o.toNat n.toNat)))) ∧
      ((len48 n.toNat && inFlash o.toNat n.toNat) = false → exec (.flashRead b o n) s = .next (send (vendor 2 1 [])))) ∧
    (ask 3 →
      (inJob s = false → o.toNat % 65536 = 0 → inFlash o.toNat 65536 = true →
        ∃ f, exec (.flashErase b o) s = .next (mctpSend (modMgt s fun m => { m with flash := f }) smb (vendor 3 0 [])) ∧
          ∀ x, smGet 0xFF#8 f x = if o.toNat ≤ x ∧ x < o.toNat + 65536 then 0xFF else smGet 0xFF#8 s.mgt.flash x) ∧
      (inJob s = false → (o.toNat % 65536 ≠ 0 ∨ inFlash o.toNat 65536 = false) →
        exec (.flashErase b o) s = .next (send (vendor 3 1 []))) ∧
      (inJob s = true → exec (.flashErase b o) s = .next (send (vendor 3 2 [])))) ∧
    (ask 4 →
      (inJob s = false → len48 bs.length = true → inFlash o.toNat bs.length = true →
        ∃ f, exec (.flashWrite b o bs) s = .next (mctpSend (modMgt s fun m => { m with flash := f }) smb (vendor 4 0 [])) ∧
          ∀ x, smGet 0xFF#8 f x = if o.toNat ≤ x ∧ x < o.toNat + bs.length
            then smGet 0xFF#8 s.mgt.flash x &&& bs.getD (x - o.toNat) 0 else smGet 0xFF#8 s.mgt.flash x) ∧
      (inJob s = false → (len48 bs.length = false ∨ inFlash o.toNat bs.length = false) →
        exec (.flashWrite b o bs) s = .next (send (vendor 4 1 []))) ∧
      (inJob s = true → exec (.flashWrite b o bs) s = .next (send (vendor 4 2 [])))) ∧
    (ask 5 →
      (len48 n.toNat = true → o2.toNat + n.toNat ≤ 65536 →
        exec (.getPartRecord b o2 n) s = .next (send (vendor 5 0 (flashBytes s (0x2000000 + o2.toNat) n.toNat)))) ∧
      ((len48 n.toNat = false ∨ 65536 < o2.toNat + n.toNat) → exec (.getPartRecord b o2 n) s = .next (send (vendor 5 1 [])))) ∧
    (ask 6 → (smb = false → exec (.reset b) s = .next (deviceReset (send (vendor 6 0 [])) false true)) ∧
      (smb = true → exec (.reset b) s = .next (modMgt (deviceReset (send (vendor 6 0 [])) false true) fun m =>
        { m with smb := some (vendor 6 0 []), alert := true }))) ∧
    (mctpTakes s b = true → b.typ = 0x7E → b.vendor = 0x1F3A → (b.code.toNat = 0 ∨ 6 < b.code.toNat) →
      exec (.getBootStatus b) s = .next (send (vendor b.code.toNat 3 []))) ∧
    (mctpTakes s b = true → b.typ = 0x7E → b.vendor ≠ 0x1F3A → exec (.getBootStatus b) s = .next s) ∧
    (mctpTakes s b = true → b.typ = 0 →
      (b.code = 2 → exec (.setEndpointId b e) s = .next (send [0, 0, 2, 0, BitVec.ofNat 8 (eidOf s smb), 0, 0])) ∧
      (5 < b.code.toNat → exec (.setEndpointId b e) s = .next (send [0, 0, b.code, 5])) ∧
      (b.code = 1 → (e = 0 ∨ e = 0xFF) → exec (.setEndpointId b e) s = .next (send [0, 0, 1, 2])) ∧
      (b.code = 1 → e ≠ 0 → e ≠ 0xFF → exec (.setEndpointId b e) s =
        .next (mctpSend (modMgt s fun m => { m with eid := smSet 0 m.eid (if smb then 1 else 0) e.toNat }) smb
          [0, 0, 1, 0, 0, e, 0]))) ∧
    (mctpTakes s b = true → b.typ = 5 →
      (byteAt req 1 ∉ spdmKnown → exec (.getDigests b req) s = .next (spdmError s smb 7)) ∧
      (byteAt req 0 = 0x10 → byteAt req 1 = 0x84 → exec (.getVersion b req) s =
        .next (spdmReply (modMgt s fun m => { m with spdm := [] }) smb 0 req [0x10, 0x04, 0, 0, 0, 1, 0x00, 0x12])) ∧
      (turn → byteAt req 1 = 0xE1 → spdmSteps s = 2 → exec (.getCapabilities b req) s =
        .next (spdmReply s smb 0 req ([0x12, 0x61, 0, 0] ++ capBody req))) ∧
      (turn → byteAt req 1 = 0xE1 → spdmSteps s ≠ 2 → exec (.getCapabilities b req) s = .next (spdmError s smb 4)) ∧
      (turn → byteAt req 1 = 0xE3 → spdmSteps s = 4 → bit (byteAt req 8) 4 = true → bit (byteAt req 12) 0 = true →
        exec (.negotiateAlgorithms b req) s =
        .next (spdmReply s smb 0 req ([0x12, 0x63, 0, 0] ++ algBody))) ∧
      (turn → byteAt req 1 = 0xE3 → spdmSteps s = 4 → (bit (byteAt req 8) 4 = false ∨ bit (byteAt req 12) 0 = false) →
        exec (.negotiateAlgorithms b req) s = .next (spdmError s smb 1)) ∧
      (turn → byteAt req 1 = 0x81 → spdmReady s = true → exec (.getDigests b req) s =
        .next (spdmReply s smb 1 req ([0x12, 0x01, 0, 1] ++ chainHash s))) ∧
      (turn → byteAt req 1 = 0x82 → spdmReady s = true → bits (byteAt req 2) 3 0 = 0 →
        leNat ((req.drop 4).take 2) < (chain s).length →
        ∃ m, exec (.getCertificate b req) s = .next (spdmReply s smb 1 req m) ∧
          m.drop 8 = ((chain s).drop (leNat ((req.drop 4).take 2))).take (leNat ((req.drop 6).take 2))) ∧
      (turn → byteAt req 1 = 0x83 → spdmReady s = true → byteAt req 2 = 0 → 36 ≤ req.length → canSign s = true →
        ∃ m, exec (.challenge b req) s = .next (spdmSend { s with free := s.free + 2 } smb m) ∧
          m.take 2 = [0x12, 0x03] ∧ (m.drop 36).take 32 = beBytes 32 (Config.free256 s.free).toNat) ∧
      (turn → byteAt req 1 = 0x83 → spdmReady s = true → byteAt req 2 = 0 → 36 ≤ req.length → canSign s = false →
        exec (.challenge b req) s = .next (spdmError s smb 5)) ∧
      (turn → byteAt req 1 = 0xE0 → spdmReady s = true → byteAt req 3 = 0 → bit (byteAt req 2) 0 = false →
        s.mgt.entropyBad = false → ∃ m, exec (.getMeasurements b req) s =
          .next (spdmReply { s with free := s.free + 1 } smb 2 req m) ∧ m.take 5 = [0x12, 0x60, BitVec.ofNat 8 (measTaken s).length, 0, 0])) ∧
    (b.typ ≠ 0x7E → exec (.getBootStatus b) s = .next s ∧ exec (.flashWrite b o bs) s = .next s) ∧
    (b.typ ≠ 5 → exec (.getVersion b req) s = .next s ∧ exec (.challenge b req) s = .next s) ∧
    (mctpTakes s b = false → exec (.getBootStatus b) s = .next s ∧ exec (.flashErase b o) s = .next s ∧
      exec (.reset b) s = .next s ∧ exec (.challenge b req) s = .next s ∧
      exec (.setEndpointId b e) s = .next s) ∧
    (b.smb = true → (b.addr ≠ 0x3A ∨ b.pec = false) → mctpTakes s b = false) ∧
    (s.mgt.released = true → b.smb = false → b.eid = 0 → mctpTakes s b = true) ∧
    (exec .smbusTimeout s = .next (modMgt s fun m => { m with smb := none, alert := false })) ∧
    (exec .smbusResponseRead s = .next (modMgt s fun m => { m with smb := none, alert := false })) ∧
    ((inJob s = false ∨ ir < 2) → exec (.tapInstruction ir) s =
      .next (modMgt { s with free := s.free + 1 } fun m => { m with tap := ir, tapDr := tapCapture s ir })) ∧
    (inJob s = true → 2 ≤ ir → exec (.tapInstruction ir) s =
      .next (modMgt { s with free := s.free + 1 } fun m => { m with tap := 0, tapDr := 0 })) ∧
    (bit (tapCapture s 1) 0 = true)

/-- JOB_STOP (R391 to R396): FORCE starts it in a job and is flagged outside one; the stop's completions end every descriptor
and launch; READABLE ends the job, turns every quarter and stream off and empties the fabric; REARM with nothing DOWN clears
the banks, STOPPED and ACTIVE, and is flagged before READABLE. A power sample is summed (R417), a die sample sets its sensor
(R416), THERMTRIP_N stays asserted (R419). CLEAR zeroes the native counters alone (R398); an H1 counter is set (R404). -/
def Obligations.StopsPowerAndCounters : Prop :=
  ∀ (s : State) (die : Fin 2) (i : Fin 52) (x : Int) (n : Nat) (j : Fin 64) (v : W32),
    (inJob s = true → exec .force s = .next (stopHere s 1)) ∧
    (inJob s = false →
      ∃ t, exec .force s = .next t ∧ bit (reg t aMgtErr) 0 = true ∧ reg t aMgtStopStatus = reg s aMgtStopStatus ∧ keepsCore s t) ∧
    (inJob s = true → isStopped s = false →
      ∃ t, exec .force s = .next t ∧ t.disp.ticks = [] ∧ t.disp.startAt = none ∧ t.disp.cut = true) ∧
    (stopRuns s = false → exec .jobStopCompletions s = .next s) ∧
    (stopRuns s = true →
      ∃ t, exec .jobStopCompletions s = .next t ∧ t.disp.adms = [] ∧ fld t aFabRtCtl 1 1 = 0 ∧ t.disp.stopBeat = none ∧
        (∀ q : Fin 96, (quarter t q).launch = none ∧ (quarter t q).waiting = [] ∧ (quarter t q).ldone = none ∧
          (quarter t q).ops = (quarter s q).ops) ∧ (∀ a, memByte t a = memByte s a) ∧ t.squares = s.squares) ∧
    (stopRuns s = true → s.disp.adms = [] →
      ∃ t, exec .readable s = .next t ∧ fld t aMgtStopStatus 2 2 = 1 ∧ inJob t = false ∧ fld t aFabCtl 2 2 = 0 ∧
        (∀ q : Fin 96, qtrPresent s q = true → fld t (aQtrCtl q) 0 0 = 0 ∧
          ∀ k : Fin 14, fld t (aQtrStrmCfg q k) 31 31 = 0 ∧ strm t q k = strm0) ∧
        t.fab.pktQ = [] ∧ t.fab.inbox = [] ∧ t.fab.circQ = [] ∧ t.fab.circRx = [] ∧
        (∀ a, memByte t a = memByte s a) ∧ t.squares = s.squares) ∧
    (fld s aMgtStopStatus 2 2 = 1 → fld s aMgtErr 3 2 = 0 → (s.stk.chan.filter fun p => p.2 == 2) = [] →
      ∃ t, exec .rearm s = .next t ∧ fld t aMgtStopStatus 1 0 = 0 ∧ t.banks = [] ∧
        (∀ q : Fin 96, (quarter t q).ops = [] ∧ (quarter t q).aborted = none ∧ ∀ k : Fin 14, strm t q k = strm0) ∧
        (∀ a, memByte t a = memByte s a) ∧ t.squares = s.squares) ∧
    (fld s aMgtStopStatus 2 2 = 0 →
      ∃ t, exec .rearm s = .next t ∧ bit (reg t aMgtErr) 0 = true ∧ reg t aMgtStopStatus = reg s aMgtStopStatus ∧ keepsCore s t) ∧
    (let y := modMgt s fun m => { m with
        tj := smSet sensor0 m.tj (die * 64 + i) (dieSample s.now x (smGet sensor0 m.tj (die * 64 + i))) }
     sampleOk x = true → (smGet sensor0 s.mgt.tj (die * 64 + i)).failed = false →
     exec (.dieSensorSample die i x) s = .next (thermal (modMgt y fun m => { m with tBeat := maxOpt m.tBeat (tjMax y) }))) ∧
    (exec (.powerSample n) s = .next (modMgt s fun m => { m with pSum := m.pSum + n, pN := m.pN + 1 })) ∧
    (exec .thermtrip s = .next (modMgt s fun m => { m with trip := true })) ∧
    (fld s aMgtPmcCtl 4 2 ≤ 4 →
      ∃ t, exec .clear s = .next t ∧ (∀ k, k < 2048 → smGet 0 t.pmc k = 0) ∧ (∀ k, 2048 ≤ k → smGet 0 t.pmc k = smGet 0 s.pmc k) ∧
        (∀ o, reg t o = reg s o) ∧ t = { s with regs := t.regs, pmc := t.pmc, mgt := t.mgt }) ∧
    (∃ t, exec (.h1CounterWrite j v) s = .next t ∧ smGet 0 t.pmc (2048 + j) = v.toNat ∧
      (∀ k, k ≠ 2048 + j.val → smGet 0 t.pmc k = smGet 0 s.pmc k) ∧ t = { s with pmc := t.pmc })

/-- Control cores (R146, R147): while a core runs, a load of its own local store takes the datum, a store writes it, an address
that reaches nothing traps as an access fault; LR holds a reservation that an SC of the same doubleword takes; an AMO leaves
its result and takes the old value; an access outside the map traps before one that is misaligned; the timer interrupt is
pending once MTIME has come to CMP, and a core that has enabled it takes it; a halted core does nothing. Traps, causes and the
machine-mode registers are RISC-V's (log entry 10). -/
def Obligations.ControlCoresAccess : Prop :=
  ∀ (s : State) (q : Fin 96) (i : Fin 2) (a v : W64) (n : Fin 9) (d : Bool) (op : AmoOp), let c := ccore s q i
    let b := lsBase q + a.toNat
    let own := fun k : Nat => a.toNat + k ≤ 0x300000 ∧ anyPsn s b k = false
    let sz := [1, 2, 4, 8].contains n.val = true
    let w := amoBytes d
    (ccRuns s q i = true → own n → sz → exec (.controlCoreLoadStore q i (.load n) a) s =
      .next (setCcore s q i { c with last := BitVec.ofNat 64 (readNat s b n) })) ∧
    (ccRuns s q i = true → own n → sz → exec (.controlCoreLoadStore q i (.store n v) a) s =
      .next (writeNat s b n v.toNat)) ∧
    (ccRuns s q i = true → ccWaits s q a.toNat n false = true → exec (.controlCoreLoadStore q i (.load n) a) s = .next s) ∧
    (ccRuns s q i = true → ccWaits s q a.toNat n true = true → exec (.controlCoreLoadStore q i (.store n v) a) s = .next s) ∧
    (ccRuns s q i = true → sz → ccPlace q a.toNat n = .none → exec (.controlCoreLoadStore q i (.load n) a) s =
      .next (setCcore s q i (trapTo c 5 a (trapBase c)))) ∧
    (ccRuns s q i = true → sz → ccPlace q a.toNat n = .none → exec (.controlCoreLoadStore q i (.store n v) a) s =
      .next (setCcore s q i (trapTo c 7 a (trapBase c)))) ∧
    (ccRuns s q i = true → ccPending s q i = none → 0x300000 < a.toNat + 2 →
      ∃ t, exec (.controlCoreLoadStore q i .fetch a) s = .next t ∧ (ccore t q i).mcause = 1 ∧ (ccore t q i).mepc = a ∧
        (ccore t q i).pc = trapBase c ∧ (ccore t q i).mie = false) ∧
    (ccRuns s q i = true → ccPending s q i = none → own 4 →
      ∃ t, exec (.controlCoreLoadStore q i .fetch a) s = .next t ∧ (ccore t q i).pc = a ∧
        (ccore t q i).last = BitVec.ofNat 64 (readNat s b (if readNat s b 2 % 4 = 3 then 4 else 2)) ∧
        (ccore t q i).mcause = c.mcause ∧ t = { s with quarters := t.quarters }) ∧
    (∀ k, ccRuns s q i = true → ccPending s q i = some k → exec (.controlCoreLoadStore q i .fetch a) s =
      .next (ccInterrupt s q i k)) ∧
    (ccRuns s q i = true → own w → a.toNat % w = 0 → exec (.controlCoreLoadStore q i (.lr d) a) s =
      .next (setCcore s q i { c with last := BitVec.ofNat 64 (readNat s b w), lr := some (a.toNat / 8 * 8) })) ∧
    (ccRuns s q i = true → own w → a.toNat % w = 0 → c.lr = some (a.toNat / 8 * 8) →
      ∃ t, exec (.controlCoreLoadStore q i (.sc d v) a) s = .next t ∧ (ccore t q i).last = 0 ∧ (ccore t q i).lr = none ∧
        t.mem = (writeNat s b w (v.toNat % 2 ^ (8 * w))).mem ∧ t.regs = (writeNat s b w (v.toNat % 2 ^ (8 * w))).regs) ∧
    (ccRuns s q i = true → own w → a.toNat % w = 0 → c.lr ≠ some (a.toNat / 8 * 8) →
      exec (.controlCoreLoadStore q i (.sc d v) a) s = .next (setCcore s q i { c with last := 1, lr := none })) ∧
    (ccRuns s q i = true → own w → a.toNat % w = 0 →
      ∃ t, exec (.controlCoreLoadStore q i (.amo op d v) a) s = .next t ∧
        (ccore t q i).last = BitVec.ofNat 64 (readNat s b w) ∧
        t.mem = (writeNat s b w (amoVal op w (readNat s b w) (v.toNat % 2 ^ (8 * w)))).mem) ∧
    (∀ acc, ccRuns s q i = false → exec (.controlCoreLoadStore q i acc a) s = .next s) ∧
    (ccRuns s q i = true → 0x300000 < a.toNat + w → exec (.controlCoreLoadStore q i (.amo op d v) a) s =
      .next (setCcore s q i (trapTo c 7 a (trapBase c)))) ∧
    (ccRuns s q i = true → a.toNat + w ≤ 0x300000 → a.toNat % w ≠ 0 → exec (.controlCoreLoadStore q i (.amo op d v) a) s =
      .next (setCcore s q i (trapTo c 6 a (trapBase c)))) ∧
    (ccRuns s q i = true → exec (.controlCoreLoadStore q i (.csr 0x300 v) a) s =
      .next (setCcore s q i { c with mie := bit v 3, mpie := bit v 7, last := pairWord 3 c.mie 7 c.mpie })) ∧
    (ccRuns s q i = true → exec (.controlCoreLoadStore q i (.csr 0x304 v) a) s =
      .next (setCcore s q i { c with mtie := bit v 7, meie := bit v 11, last := pairWord 7 c.mtie 11 c.meie })) ∧
    (∀ k, ccRuns s q i = true → csrRead s q i k.toNat = none → csrFree k.toNat = false →
      exec (.controlCoreLoadStore q i (.csr k v) a) s = .next (setCcore s q i (trapTo c 2 0 (trapBase c)))) ∧
    (ccRuns s q i = true → exec (.controlCoreLoadStore q i .mret a) s =
      .next (setCcore s q i { c with pc := c.mepc, mie := c.mpie, mpie := true })) ∧
    (qtrPresent s q = true → (reg s (aQtrMtimecmp q i)).toNat ≤ mtime s → (ccRuns s q i = false ∨ ccPending s q i ≠ some 7) →
      exec (.machineTimerInterrupt q i) s = .next (setCcore s q i { c with mtip := true })) ∧
    ((reg s (aQtrMtimecmp q i)).toNat ≤ mtime s → ccRuns s q i = true → c.mie = true → c.mtie = true →
      (c.meie && ccExternal s q i) = false →
      ∃ t, exec (.machineTimerInterrupt q i) s = .next t ∧ (ccore t q i).mcause = BitVec.ofNat 64 (2 ^ 63 + 7) ∧
        (ccore t q i).mepc = c.pc ∧ (ccore t q i).mie = false ∧ (ccore t q i).mpie = true ∧ (ccore t q i).mtip = true ∧
        (ccore t q i).pc = (if c.mtvec.toNat % 4 = 1 then trapBase c + 28 else trapBase c) ∧ t = { s with quarters := t.quarters }) ∧
    (mtime s < (reg s (aQtrMtimecmp q i)).toNat → exec (.machineTimerInterrupt q i) s = .next s)

/-! ### Every command -/

/-- Ordinary data never ends a run: a command answers a next state exactly where its operands have the length that the spec
gives them, and the fault illFormed, the only one, where they have not; no command is refused. -/
def Obligations.WellFormedCommandsGoOn : Prop :=
  ∀ (c : Instr) (s : State),
    goesOn (exec c s) = WF.command c ∧ (WF.command c = false → exec c s = .fault .illFormed)
end

