-- ==== Sys2Proof/Laws/SMap.lean ====
section
/-! SUPPORT. Laws of the sparse arrays of State: a read after a write, and the canonical form, which every write
keeps. -/

namespace Sys2Proof

variable {α : Type}

@[simp] theorem smGet_nil (d : α) (i : Nat) : smGet d [] i = d := rfl

theorem smGet_erase (d : α) (m : SMap α) (i j : Nat) :
    smGet d (smErase m i) j = if j = i then d else smGet d m j := by
  induction m with
  | nil => simp [smErase]
  | cons p t ih =>
    obtain ⟨k, v⟩ := p
    simp only [smErase]
    by_cases hk : k = i <;> by_cases hj : j = i <;> by_cases hkj : k = j <;> simp_all [smGet]

theorem smGet_insert (d : α) (m : SMap α) (i j : Nat) (v : α) :
    smGet d (smInsert m i v) j = if j = i then v else smGet d m j := by
  induction m with
  | nil => simp only [smInsert, smGet]; split <;> split <;> simp_all
  | cons p t ih =>
    obtain ⟨k, w⟩ := p
    simp only [smInsert]
    rcases Nat.lt_trichotomy i k with h | h | h
    · simp only [if_pos h, smGet, eq_comm (a := j)]
    · subst h
      simp only [lt_irrefl, if_false, if_true, smGet, eq_comm (a := j)]
      by_cases hj : i = j <;> simp [hj]
    · simp only [if_neg (Nat.lt_asymm h), if_neg (Nat.ne_of_gt h), smGet, ih]
      by_cases hj : k = j
      · subst hj; simp [Nat.ne_of_lt h]
      · simp [hj]

/-- A read after a write: the index written holds the value, every other what it held. -/
theorem smGet_set [DecidableEq α] (d : α) (m : SMap α) (i j : Nat) (v : α) :
    smGet d (smSet d m i v) j = if j = i then v else smGet d m j := by
  unfold smSet
  split
  · subst v; exact smGet_erase d m i j
  · exact smGet_insert d m i j v

@[simp] theorem smGet_set_self [DecidableEq α] (d : α) (m : SMap α) (i : Nat) (v : α) :
    smGet d (smSet d m i v) i = v := by simp [smGet_set]

theorem smGet_set_ne [DecidableEq α] (d : α) (m : SMap α) {i j : Nat} (v : α) (h : j ≠ i) :
    smGet d (smSet d m i v) j = smGet d m j := by simp [smGet_set, h]

/-- A read with another default than the one that a write removes: the index written aside, nothing changes. -/
theorem smGet_set_other [DecidableEq α] (d e : α) (m : SMap α) {i j : Nat} (v : α) (h : j ≠ i) :
    smGet d (smSet e m i v) j = smGet d m j := by
  unfold smSet
  split
  · simp [smGet_erase, h]
  · simp [smGet_insert, h]

/-! ### The canonical form -/

/-- The canonical form as a proposition: strictly rising indices, no pair that holds its default. -/
theorem smWf_iff [DecidableEq α] (d : Nat → α) (m : SMap α) :
    smWf d m = true ↔ m.Pairwise (fun p q => p.1 < q.1) ∧ ∀ p ∈ m, p.2 ≠ d p.1 := by
  induction m with
  | nil => simp [smWf]
  | cons p t ih =>
    obtain ⟨k, v⟩ := p
    cases t with
    | nil => simp [smWf]
    | cons q u =>
      obtain ⟨k', v'⟩ := q
      simp only [smWf, Bool.and_eq_true, decide_eq_true_eq, ih, List.pairwise_cons, List.mem_cons, forall_eq_or_imp]
      constructor
      · rintro ⟨⟨h1, h2⟩, ⟨h3, h4⟩, h5, h6⟩
        exact ⟨⟨⟨h2, fun a ha => lt_trans h2 (h3 a ha)⟩, h3, h4⟩, h1, h5, h6⟩
      · rintro ⟨⟨⟨h2, _⟩, h3, h4⟩, h1, h5, h6⟩
        exact ⟨⟨h1, h2⟩, ⟨h3, h4⟩, h5, h6⟩

@[simp] theorem smWf_nil [DecidableEq α] (d : Nat → α) : smWf d [] = true := rfl

theorem smErase_sublist (m : SMap α) (i : Nat) : (smErase m i).Sublist m := by
  induction m with
  | nil => exact List.Sublist.slnil
  | cons p t ih =>
    obtain ⟨k, v⟩ := p
    simp only [smErase]
    split
    · exact ih.cons _
    · exact ih.cons_cons _

theorem smWf_sublist [DecidableEq α] {d : Nat → α} {m n : SMap α} (hs : n.Sublist m) (h : smWf d m = true) :
    smWf d n = true := by
  rw [smWf_iff] at *
  exact ⟨h.1.sublist hs, fun p hp => h.2 p (hs.subset hp)⟩

theorem smWf_erase [DecidableEq α] {d : Nat → α} {m : SMap α} (h : smWf d m = true) (i : Nat) :
    smWf d (smErase m i) = true := smWf_sublist (smErase_sublist m i) h

theorem smWf_filter [DecidableEq α] {d : Nat → α} {m : SMap α} (h : smWf d m = true) (f : Nat × α → Bool) :
    smWf d (m.filter f) = true := smWf_sublist List.filter_sublist h

theorem mem_smInsert {m : SMap α} {i : Nat} {v : α} {p : Nat × α} (h : p ∈ smInsert m i v) : p = (i, v) ∨ p ∈ m := by
  induction m with
  | nil => simpa [smInsert] using h
  | cons q t ih =>
    obtain ⟨k, w⟩ := q
    simp only [smInsert] at h
    split at h
    · simpa using h
    · split at h
      · rcases List.mem_cons.1 h with h | h
        · exact .inl h
        · exact .inr (List.mem_cons_of_mem _ h)
      · rcases List.mem_cons.1 h with h | h
        · exact .inr (h ▸ List.mem_cons_self)
        · rcases ih h with h | h
          · exact .inl h
          · exact .inr (List.mem_cons_of_mem _ h)

theorem smWf_insert [DecidableEq α] {d : Nat → α} {m : SMap α} (h : smWf d m = true) (i : Nat) {v : α} (hv : v ≠ d i) :
    smWf d (smInsert m i v) = true := by
  rw [smWf_iff] at *
  refine ⟨?_, fun p hp => ?_⟩
  · have h1 := h.1
    clear h
    induction m with
    | nil => simp [smInsert]
    | cons p t ih =>
      obtain ⟨k, w⟩ := p
      have h2 := List.pairwise_cons.1 h1
      simp only [smInsert]
      split
      · rename_i hk
        refine List.pairwise_cons.2 ⟨fun p hp => ?_, h1⟩
        rcases List.mem_cons.1 hp with rfl | hp
        · exact hk
        · exact lt_trans hk (h2.1 p hp)
      · split
        · rename_i hk; subst hk; exact List.pairwise_cons.2 ⟨h2.1, h2.2⟩
        · refine List.pairwise_cons.2 ⟨fun p hp => ?_, ih h2.2⟩
          rcases mem_smInsert hp with rfl | hp
          · show k < i
            omega
          · exact h2.1 p hp
  · rcases mem_smInsert hp with rfl | hp
    · exact hv
    · exact h.2 p hp

/-- Every write keeps the canonical form. -/
theorem smWf_set [DecidableEq α] {d : Nat → α} {m : SMap α} (h : smWf d m = true) (i : Nat) (v : α) :
    smWf d (smSet (d i) m i v) = true := by
  unfold smSet
  split
  · exact smWf_erase h i
  · exact smWf_insert h i ‹_›

theorem smWf_setMany [DecidableEq α] {d : α} {m : SMap α} (h : smWf (fun _ => d) m = true) (l : List (Nat × α)) :
    smWf (fun _ => d) (smSetMany d m l) = true := by
  induction l generalizing m with
  | nil => exact h
  | cons p t ih => exact ih (smWf_set (d := fun _ => d) h p.1 p.2)

/-- Two arrays in canonical form that hold the same everywhere are equal: equal contents are equal data. -/
theorem smWf_ext [DecidableEq α] {d : Nat → α} {m n : SMap α} (hm : smWf d m = true) (hn : smWf d n = true)
    (h : ∀ i, smGet (d i) m i = smGet (d i) n i) : m = n := by
  have low : ∀ {m : SMap α} {i : Nat}, (∀ p ∈ m, i < p.1) → smGet (d i) m i = d i := by
    intro m i hlt
    induction m with
    | nil => rfl
    | cons p t ih =>
      obtain ⟨k, v⟩ := p
      have hk : i < k := hlt _ List.mem_cons_self
      simp only [smGet, if_neg (Nat.ne_of_gt hk)]
      exact ih fun p hp => hlt p (List.mem_cons_of_mem _ hp)
  rw [smWf_iff] at hm hn
  induction m generalizing n with
  | nil =>
    cases n with
    | nil => rfl
    | cons q u =>
      obtain ⟨k, v⟩ := q
      exact absurd (by simpa [smGet] using (h k).symm) (hn.2 _ List.mem_cons_self)
  | cons p t ih =>
    obtain ⟨k, v⟩ := p
    cases n with
    | nil => exact absurd (by simpa [smGet] using h k) (hm.2 _ List.mem_cons_self)
    | cons q u =>
      obtain ⟨k', v'⟩ := q
      have hp := List.pairwise_cons.1 hm.1
      have hq := List.pairwise_cons.1 hn.1
      have hkk : k = k' := by
        rcases Nat.lt_trichotomy k k' with hlt | heq | hlt
        · have h1 := h k
          rw [low (m := (k', v') :: u) fun p hp => ?_] at h1
          · exact absurd (by simpa [smGet] using h1) (hm.2 _ List.mem_cons_self)
          · rcases List.mem_cons.1 hp with rfl | hp
            · exact hlt
            · exact lt_trans hlt (hq.1 p hp)
        · exact heq
        · have h1 := h k'
          rw [low (m := (k, v) :: t) fun p hp' => ?_] at h1
          · exact absurd (by simpa [smGet] using h1.symm) (hn.2 _ List.mem_cons_self)
          · rcases List.mem_cons.1 hp' with rfl | hp'
            · exact hlt
            · exact lt_trans hlt (hp.1 p hp')
      subst hkk
      have hv : v = v' := by simpa [smGet] using h k
      subst hv
      congr 1
      refine ih ⟨hp.2, fun p h' => hm.2 p (List.mem_cons_of_mem _ h')⟩ ⟨hq.2, fun p h' => hn.2 p (List.mem_cons_of_mem _ h')⟩ fun i => ?_
      by_cases hi : k = i
      · subst hi
        rw [low hp.1, low hq.1]
      · have h1 := h i
        simpa only [smGet, if_neg hi] using h1

end Sys2Proof
end

