-- ==== Sys2Proof/Laws/State.lean ====
section
/-! SUPPORT. What the named updates of State leave and write, field by field: each lemma is true by unfolding one record
update, so that no later proof unfolds one. -/

namespace Sys2Proof.Machine

variable (s : State)

@[simp] theorem setReg_now (o : Nat) (v : W64) : (setReg s o v).now = s.now := rfl
@[simp] theorem setReg_free (o : Nat) (v : W64) : (setReg s o v).free = s.free := rfl
@[simp] theorem setReg_regs (o : Nat) (v : W64) : (setReg s o v).regs = smSet (regReset o) s.regs o v := rfl
@[simp] theorem setReg_mem (o : Nat) (v : W64) : (setReg s o v).mem = s.mem := rfl
@[simp] theorem setReg_memPsn (o : Nat) (v : W64) : (setReg s o v).memPsn = s.memPsn := rfl
@[simp] theorem setReg_squares (o : Nat) (v : W64) : (setReg s o v).squares = s.squares := rfl
@[simp] theorem setReg_banks (o : Nat) (v : W64) : (setReg s o v).banks = s.banks := rfl
@[simp] theorem setReg_dcfg (o : Nat) (v : W64) : (setReg s o v).dcfg = s.dcfg := rfl
@[simp] theorem setReg_vregs (o : Nat) (v : W64) : (setReg s o v).vregs = s.vregs := rfl
@[simp] theorem setReg_vpsn (o : Nat) (v : W64) : (setReg s o v).vpsn = s.vpsn := rfl
@[simp] theorem setReg_quarters (o : Nat) (v : W64) : (setReg s o v).quarters = s.quarters := rfl
@[simp] theorem setReg_disp (o : Nat) (v : W64) : (setReg s o v).disp = s.disp := rfl
@[simp] theorem setReg_stk (o : Nat) (v : W64) : (setReg s o v).stk = s.stk := rfl
@[simp] theorem setReg_fab (o : Nat) (v : W64) : (setReg s o v).fab = s.fab := rfl
@[simp] theorem setReg_upd (o : Nat) (v : W64) : (setReg s o v).upd = s.upd := rfl
@[simp] theorem setReg_prj (o : Nat) (v : W64) : (setReg s o v).prj = s.prj := rfl
@[simp] theorem setReg_opt (o : Nat) (v : W64) : (setReg s o v).opt = s.opt := rfl
@[simp] theorem setReg_host (o : Nat) (v : W64) : (setReg s o v).host = s.host := rfl
@[simp] theorem setReg_mgt (o : Nat) (v : W64) : (setReg s o v).mgt = s.mgt := rfl
@[simp] theorem setReg_pmc (o : Nat) (v : W64) : (setReg s o v).pmc = s.pmc := rfl
@[simp] theorem setReg_pending (o : Nat) (v : W64) : (setReg s o v).pending = s.pending := rfl

@[simp] theorem setFld_now (o hi lo v : Nat) : (setFld s o hi lo v).now = s.now := rfl
@[simp] theorem setFld_free (o hi lo v : Nat) : (setFld s o hi lo v).free = s.free := rfl
@[simp] theorem setFld_regs (o hi lo v : Nat) : (setFld s o hi lo v).regs = smSet (regReset o) s.regs o (putBits (reg s o) hi lo v) := rfl
@[simp] theorem setFld_mem (o hi lo v : Nat) : (setFld s o hi lo v).mem = s.mem := rfl
@[simp] theorem setFld_memPsn (o hi lo v : Nat) : (setFld s o hi lo v).memPsn = s.memPsn := rfl
@[simp] theorem setFld_squares (o hi lo v : Nat) : (setFld s o hi lo v).squares = s.squares := rfl
@[simp] theorem setFld_banks (o hi lo v : Nat) : (setFld s o hi lo v).banks = s.banks := rfl
@[simp] theorem setFld_dcfg (o hi lo v : Nat) : (setFld s o hi lo v).dcfg = s.dcfg := rfl
@[simp] theorem setFld_vregs (o hi lo v : Nat) : (setFld s o hi lo v).vregs = s.vregs := rfl
@[simp] theorem setFld_vpsn (o hi lo v : Nat) : (setFld s o hi lo v).vpsn = s.vpsn := rfl
@[simp] theorem setFld_quarters (o hi lo v : Nat) : (setFld s o hi lo v).quarters = s.quarters := rfl
@[simp] theorem setFld_disp (o hi lo v : Nat) : (setFld s o hi lo v).disp = s.disp := rfl
@[simp] theorem setFld_stk (o hi lo v : Nat) : (setFld s o hi lo v).stk = s.stk := rfl
@[simp] theorem setFld_fab (o hi lo v : Nat) : (setFld s o hi lo v).fab = s.fab := rfl
@[simp] theorem setFld_upd (o hi lo v : Nat) : (setFld s o hi lo v).upd = s.upd := rfl
@[simp] theorem setFld_prj (o hi lo v : Nat) : (setFld s o hi lo v).prj = s.prj := rfl
@[simp] theorem setFld_opt (o hi lo v : Nat) : (setFld s o hi lo v).opt = s.opt := rfl
@[simp] theorem setFld_host (o hi lo v : Nat) : (setFld s o hi lo v).host = s.host := rfl
@[simp] theorem setFld_mgt (o hi lo v : Nat) : (setFld s o hi lo v).mgt = s.mgt := rfl
@[simp] theorem setFld_pmc (o hi lo v : Nat) : (setFld s o hi lo v).pmc = s.pmc := rfl
@[simp] theorem setFld_pending (o hi lo v : Nat) : (setFld s o hi lo v).pending = s.pending := rfl

@[simp] theorem addFld_now (o hi lo n : Nat) : (addFld s o hi lo n).now = s.now := rfl
@[simp] theorem addFld_free (o hi lo n : Nat) : (addFld s o hi lo n).free = s.free := rfl
@[simp] theorem addFld_mem (o hi lo n : Nat) : (addFld s o hi lo n).mem = s.mem := rfl
@[simp] theorem addFld_memPsn (o hi lo n : Nat) : (addFld s o hi lo n).memPsn = s.memPsn := rfl
@[simp] theorem addFld_squares (o hi lo n : Nat) : (addFld s o hi lo n).squares = s.squares := rfl
@[simp] theorem addFld_banks (o hi lo n : Nat) : (addFld s o hi lo n).banks = s.banks := rfl
@[simp] theorem addFld_dcfg (o hi lo n : Nat) : (addFld s o hi lo n).dcfg = s.dcfg := rfl
@[simp] theorem addFld_vregs (o hi lo n : Nat) : (addFld s o hi lo n).vregs = s.vregs := rfl
@[simp] theorem addFld_vpsn (o hi lo n : Nat) : (addFld s o hi lo n).vpsn = s.vpsn := rfl
@[simp] theorem addFld_quarters (o hi lo n : Nat) : (addFld s o hi lo n).quarters = s.quarters := rfl
@[simp] theorem addFld_disp (o hi lo n : Nat) : (addFld s o hi lo n).disp = s.disp := rfl
@[simp] theorem addFld_stk (o hi lo n : Nat) : (addFld s o hi lo n).stk = s.stk := rfl
@[simp] theorem addFld_fab (o hi lo n : Nat) : (addFld s o hi lo n).fab = s.fab := rfl
@[simp] theorem addFld_upd (o hi lo n : Nat) : (addFld s o hi lo n).upd = s.upd := rfl
@[simp] theorem addFld_prj (o hi lo n : Nat) : (addFld s o hi lo n).prj = s.prj := rfl
@[simp] theorem addFld_opt (o hi lo n : Nat) : (addFld s o hi lo n).opt = s.opt := rfl
@[simp] theorem addFld_host (o hi lo n : Nat) : (addFld s o hi lo n).host = s.host := rfl
@[simp] theorem addFld_mgt (o hi lo n : Nat) : (addFld s o hi lo n).mgt = s.mgt := rfl
@[simp] theorem addFld_pmc (o hi lo n : Nat) : (addFld s o hi lo n).pmc = s.pmc := rfl
@[simp] theorem addFld_pending (o hi lo n : Nat) : (addFld s o hi lo n).pending = s.pending := rfl

@[simp] theorem setSquare_now (n : Nat) (v : Square) : (setSquare s n v).now = s.now := rfl
@[simp] theorem setSquare_free (n : Nat) (v : Square) : (setSquare s n v).free = s.free := rfl
@[simp] theorem setSquare_regs (n : Nat) (v : Square) : (setSquare s n v).regs = s.regs := rfl
@[simp] theorem setSquare_mem (n : Nat) (v : Square) : (setSquare s n v).mem = s.mem := rfl
@[simp] theorem setSquare_memPsn (n : Nat) (v : Square) : (setSquare s n v).memPsn = s.memPsn := rfl
@[simp] theorem setSquare_squares (n : Nat) (v : Square) : (setSquare s n v).squares = smSet square0 s.squares n v := rfl
@[simp] theorem setSquare_banks (n : Nat) (v : Square) : (setSquare s n v).banks = s.banks := rfl
@[simp] theorem setSquare_dcfg (n : Nat) (v : Square) : (setSquare s n v).dcfg = s.dcfg := rfl
@[simp] theorem setSquare_vregs (n : Nat) (v : Square) : (setSquare s n v).vregs = s.vregs := rfl
@[simp] theorem setSquare_vpsn (n : Nat) (v : Square) : (setSquare s n v).vpsn = s.vpsn := rfl
@[simp] theorem setSquare_quarters (n : Nat) (v : Square) : (setSquare s n v).quarters = s.quarters := rfl
@[simp] theorem setSquare_disp (n : Nat) (v : Square) : (setSquare s n v).disp = s.disp := rfl
@[simp] theorem setSquare_stk (n : Nat) (v : Square) : (setSquare s n v).stk = s.stk := rfl
@[simp] theorem setSquare_fab (n : Nat) (v : Square) : (setSquare s n v).fab = s.fab := rfl
@[simp] theorem setSquare_upd (n : Nat) (v : Square) : (setSquare s n v).upd = s.upd := rfl
@[simp] theorem setSquare_prj (n : Nat) (v : Square) : (setSquare s n v).prj = s.prj := rfl
@[simp] theorem setSquare_opt (n : Nat) (v : Square) : (setSquare s n v).opt = s.opt := rfl
@[simp] theorem setSquare_host (n : Nat) (v : Square) : (setSquare s n v).host = s.host := rfl
@[simp] theorem setSquare_mgt (n : Nat) (v : Square) : (setSquare s n v).mgt = s.mgt := rfl
@[simp] theorem setSquare_pmc (n : Nat) (v : Square) : (setSquare s n v).pmc = s.pmc := rfl
@[simp] theorem setSquare_pending (n : Nat) (v : Square) : (setSquare s n v).pending = s.pending := rfl

@[simp] theorem setQuarter_now (q : Nat) (v : Quarter) : (setQuarter s q v).now = s.now := rfl
@[simp] theorem setQuarter_free (q : Nat) (v : Quarter) : (setQuarter s q v).free = s.free := rfl
@[simp] theorem setQuarter_regs (q : Nat) (v : Quarter) : (setQuarter s q v).regs = s.regs := rfl
@[simp] theorem setQuarter_mem (q : Nat) (v : Quarter) : (setQuarter s q v).mem = s.mem := rfl
@[simp] theorem setQuarter_memPsn (q : Nat) (v : Quarter) : (setQuarter s q v).memPsn = s.memPsn := rfl
@[simp] theorem setQuarter_squares (q : Nat) (v : Quarter) : (setQuarter s q v).squares = s.squares := rfl
@[simp] theorem setQuarter_banks (q : Nat) (v : Quarter) : (setQuarter s q v).banks = s.banks := rfl
@[simp] theorem setQuarter_dcfg (q : Nat) (v : Quarter) : (setQuarter s q v).dcfg = s.dcfg := rfl
@[simp] theorem setQuarter_vregs (q : Nat) (v : Quarter) : (setQuarter s q v).vregs = s.vregs := rfl
@[simp] theorem setQuarter_vpsn (q : Nat) (v : Quarter) : (setQuarter s q v).vpsn = s.vpsn := rfl
@[simp] theorem setQuarter_quarters (q : Nat) (v : Quarter) : (setQuarter s q v).quarters = smSet quarter0 s.quarters q v := rfl
@[simp] theorem setQuarter_disp (q : Nat) (v : Quarter) : (setQuarter s q v).disp = s.disp := rfl
@[simp] theorem setQuarter_stk (q : Nat) (v : Quarter) : (setQuarter s q v).stk = s.stk := rfl
@[simp] theorem setQuarter_fab (q : Nat) (v : Quarter) : (setQuarter s q v).fab = s.fab := rfl
@[simp] theorem setQuarter_upd (q : Nat) (v : Quarter) : (setQuarter s q v).upd = s.upd := rfl
@[simp] theorem setQuarter_prj (q : Nat) (v : Quarter) : (setQuarter s q v).prj = s.prj := rfl
@[simp] theorem setQuarter_opt (q : Nat) (v : Quarter) : (setQuarter s q v).opt = s.opt := rfl
@[simp] theorem setQuarter_host (q : Nat) (v : Quarter) : (setQuarter s q v).host = s.host := rfl
@[simp] theorem setQuarter_mgt (q : Nat) (v : Quarter) : (setQuarter s q v).mgt = s.mgt := rfl
@[simp] theorem setQuarter_pmc (q : Nat) (v : Quarter) : (setQuarter s q v).pmc = s.pmc := rfl
@[simp] theorem setQuarter_pending (q : Nat) (v : Quarter) : (setQuarter s q v).pending = s.pending := rfl

@[simp] theorem modQuarter_now (q : Nat) (f : Quarter → Quarter) : (modQuarter s q f).now = s.now := rfl
@[simp] theorem modQuarter_free (q : Nat) (f : Quarter → Quarter) : (modQuarter s q f).free = s.free := rfl
@[simp] theorem modQuarter_regs (q : Nat) (f : Quarter → Quarter) : (modQuarter s q f).regs = s.regs := rfl
@[simp] theorem modQuarter_mem (q : Nat) (f : Quarter → Quarter) : (modQuarter s q f).mem = s.mem := rfl
@[simp] theorem modQuarter_memPsn (q : Nat) (f : Quarter → Quarter) : (modQuarter s q f).memPsn = s.memPsn := rfl
@[simp] theorem modQuarter_squares (q : Nat) (f : Quarter → Quarter) : (modQuarter s q f).squares = s.squares := rfl
@[simp] theorem modQuarter_banks (q : Nat) (f : Quarter → Quarter) : (modQuarter s q f).banks = s.banks := rfl
@[simp] theorem modQuarter_dcfg (q : Nat) (f : Quarter → Quarter) : (modQuarter s q f).dcfg = s.dcfg := rfl
@[simp] theorem modQuarter_vregs (q : Nat) (f : Quarter → Quarter) : (modQuarter s q f).vregs = s.vregs := rfl
@[simp] theorem modQuarter_vpsn (q : Nat) (f : Quarter → Quarter) : (modQuarter s q f).vpsn = s.vpsn := rfl
@[simp] theorem modQuarter_quarters (q : Nat) (f : Quarter → Quarter) : (modQuarter s q f).quarters = smSet quarter0 s.quarters q (f (quarter s q)) := rfl
@[simp] theorem modQuarter_disp (q : Nat) (f : Quarter → Quarter) : (modQuarter s q f).disp = s.disp := rfl
@[simp] theorem modQuarter_stk (q : Nat) (f : Quarter → Quarter) : (modQuarter s q f).stk = s.stk := rfl
@[simp] theorem modQuarter_fab (q : Nat) (f : Quarter → Quarter) : (modQuarter s q f).fab = s.fab := rfl
@[simp] theorem modQuarter_upd (q : Nat) (f : Quarter → Quarter) : (modQuarter s q f).upd = s.upd := rfl
@[simp] theorem modQuarter_prj (q : Nat) (f : Quarter → Quarter) : (modQuarter s q f).prj = s.prj := rfl
@[simp] theorem modQuarter_opt (q : Nat) (f : Quarter → Quarter) : (modQuarter s q f).opt = s.opt := rfl
@[simp] theorem modQuarter_host (q : Nat) (f : Quarter → Quarter) : (modQuarter s q f).host = s.host := rfl
@[simp] theorem modQuarter_mgt (q : Nat) (f : Quarter → Quarter) : (modQuarter s q f).mgt = s.mgt := rfl
@[simp] theorem modQuarter_pmc (q : Nat) (f : Quarter → Quarter) : (modQuarter s q f).pmc = s.pmc := rfl
@[simp] theorem modQuarter_pending (q : Nat) (f : Quarter → Quarter) : (modQuarter s q f).pending = s.pending := rfl

@[simp] theorem setStrm_now (q i : Nat) (v : Strm) : (setStrm s q i v).now = s.now := rfl
@[simp] theorem setStrm_free (q i : Nat) (v : Strm) : (setStrm s q i v).free = s.free := rfl
@[simp] theorem setStrm_regs (q i : Nat) (v : Strm) : (setStrm s q i v).regs = s.regs := rfl
@[simp] theorem setStrm_mem (q i : Nat) (v : Strm) : (setStrm s q i v).mem = s.mem := rfl
@[simp] theorem setStrm_memPsn (q i : Nat) (v : Strm) : (setStrm s q i v).memPsn = s.memPsn := rfl
@[simp] theorem setStrm_squares (q i : Nat) (v : Strm) : (setStrm s q i v).squares = s.squares := rfl
@[simp] theorem setStrm_banks (q i : Nat) (v : Strm) : (setStrm s q i v).banks = s.banks := rfl
@[simp] theorem setStrm_dcfg (q i : Nat) (v : Strm) : (setStrm s q i v).dcfg = s.dcfg := rfl
@[simp] theorem setStrm_vregs (q i : Nat) (v : Strm) : (setStrm s q i v).vregs = s.vregs := rfl
@[simp] theorem setStrm_vpsn (q i : Nat) (v : Strm) : (setStrm s q i v).vpsn = s.vpsn := rfl
@[simp] theorem setStrm_disp (q i : Nat) (v : Strm) : (setStrm s q i v).disp = s.disp := rfl
@[simp] theorem setStrm_stk (q i : Nat) (v : Strm) : (setStrm s q i v).stk = s.stk := rfl
@[simp] theorem setStrm_fab (q i : Nat) (v : Strm) : (setStrm s q i v).fab = s.fab := rfl
@[simp] theorem setStrm_upd (q i : Nat) (v : Strm) : (setStrm s q i v).upd = s.upd := rfl
@[simp] theorem setStrm_prj (q i : Nat) (v : Strm) : (setStrm s q i v).prj = s.prj := rfl
@[simp] theorem setStrm_opt (q i : Nat) (v : Strm) : (setStrm s q i v).opt = s.opt := rfl
@[simp] theorem setStrm_host (q i : Nat) (v : Strm) : (setStrm s q i v).host = s.host := rfl
@[simp] theorem setStrm_mgt (q i : Nat) (v : Strm) : (setStrm s q i v).mgt = s.mgt := rfl
@[simp] theorem setStrm_pmc (q i : Nat) (v : Strm) : (setStrm s q i v).pmc = s.pmc := rfl
@[simp] theorem setStrm_pending (q i : Nat) (v : Strm) : (setStrm s q i v).pending = s.pending := rfl

@[simp] theorem setCcore_now (q i : Nat) (c : CCore) : (setCcore s q i c).now = s.now := rfl
@[simp] theorem setCcore_free (q i : Nat) (c : CCore) : (setCcore s q i c).free = s.free := rfl
@[simp] theorem setCcore_regs (q i : Nat) (c : CCore) : (setCcore s q i c).regs = s.regs := rfl
@[simp] theorem setCcore_mem (q i : Nat) (c : CCore) : (setCcore s q i c).mem = s.mem := rfl
@[simp] theorem setCcore_memPsn (q i : Nat) (c : CCore) : (setCcore s q i c).memPsn = s.memPsn := rfl
@[simp] theorem setCcore_squares (q i : Nat) (c : CCore) : (setCcore s q i c).squares = s.squares := rfl
@[simp] theorem setCcore_banks (q i : Nat) (c : CCore) : (setCcore s q i c).banks = s.banks := rfl
@[simp] theorem setCcore_dcfg (q i : Nat) (c : CCore) : (setCcore s q i c).dcfg = s.dcfg := rfl
@[simp] theorem setCcore_vregs (q i : Nat) (c : CCore) : (setCcore s q i c).vregs = s.vregs := rfl
@[simp] theorem setCcore_vpsn (q i : Nat) (c : CCore) : (setCcore s q i c).vpsn = s.vpsn := rfl
@[simp] theorem setCcore_disp (q i : Nat) (c : CCore) : (setCcore s q i c).disp = s.disp := rfl
@[simp] theorem setCcore_stk (q i : Nat) (c : CCore) : (setCcore s q i c).stk = s.stk := rfl
@[simp] theorem setCcore_fab (q i : Nat) (c : CCore) : (setCcore s q i c).fab = s.fab := rfl
@[simp] theorem setCcore_upd (q i : Nat) (c : CCore) : (setCcore s q i c).upd = s.upd := rfl
@[simp] theorem setCcore_prj (q i : Nat) (c : CCore) : (setCcore s q i c).prj = s.prj := rfl
@[simp] theorem setCcore_opt (q i : Nat) (c : CCore) : (setCcore s q i c).opt = s.opt := rfl
@[simp] theorem setCcore_host (q i : Nat) (c : CCore) : (setCcore s q i c).host = s.host := rfl
@[simp] theorem setCcore_mgt (q i : Nat) (c : CCore) : (setCcore s q i c).mgt = s.mgt := rfl
@[simp] theorem setCcore_pmc (q i : Nat) (c : CCore) : (setCcore s q i c).pmc = s.pmc := rfl
@[simp] theorem setCcore_pending (q i : Nat) (c : CCore) : (setCcore s q i c).pending = s.pending := rfl

@[simp] theorem setBank_now (q c b : Nat) (v : Bank) : (setBank s q c b v).now = s.now := rfl
@[simp] theorem setBank_free (q c b : Nat) (v : Bank) : (setBank s q c b v).free = s.free := rfl
@[simp] theorem setBank_regs (q c b : Nat) (v : Bank) : (setBank s q c b v).regs = s.regs := rfl
@[simp] theorem setBank_mem (q c b : Nat) (v : Bank) : (setBank s q c b v).mem = s.mem := rfl
@[simp] theorem setBank_memPsn (q c b : Nat) (v : Bank) : (setBank s q c b v).memPsn = s.memPsn := rfl
@[simp] theorem setBank_squares (q c b : Nat) (v : Bank) : (setBank s q c b v).squares = s.squares := rfl
@[simp] theorem setBank_banks (q c b : Nat) (v : Bank) : (setBank s q c b v).banks = smSet bank0 s.banks (bankKey q c b) v := rfl
@[simp] theorem setBank_dcfg (q c b : Nat) (v : Bank) : (setBank s q c b v).dcfg = s.dcfg := rfl
@[simp] theorem setBank_vregs (q c b : Nat) (v : Bank) : (setBank s q c b v).vregs = s.vregs := rfl
@[simp] theorem setBank_vpsn (q c b : Nat) (v : Bank) : (setBank s q c b v).vpsn = s.vpsn := rfl
@[simp] theorem setBank_quarters (q c b : Nat) (v : Bank) : (setBank s q c b v).quarters = s.quarters := rfl
@[simp] theorem setBank_disp (q c b : Nat) (v : Bank) : (setBank s q c b v).disp = s.disp := rfl
@[simp] theorem setBank_stk (q c b : Nat) (v : Bank) : (setBank s q c b v).stk = s.stk := rfl
@[simp] theorem setBank_fab (q c b : Nat) (v : Bank) : (setBank s q c b v).fab = s.fab := rfl
@[simp] theorem setBank_upd (q c b : Nat) (v : Bank) : (setBank s q c b v).upd = s.upd := rfl
@[simp] theorem setBank_prj (q c b : Nat) (v : Bank) : (setBank s q c b v).prj = s.prj := rfl
@[simp] theorem setBank_opt (q c b : Nat) (v : Bank) : (setBank s q c b v).opt = s.opt := rfl
@[simp] theorem setBank_host (q c b : Nat) (v : Bank) : (setBank s q c b v).host = s.host := rfl
@[simp] theorem setBank_mgt (q c b : Nat) (v : Bank) : (setBank s q c b v).mgt = s.mgt := rfl
@[simp] theorem setBank_pmc (q c b : Nat) (v : Bank) : (setBank s q c b v).pmc = s.pmc := rfl
@[simp] theorem setBank_pending (q c b : Nat) (v : Bank) : (setBank s q c b v).pending = s.pending := rfl

@[simp] theorem setVreg_now (q vc r l : Nat) (v : W32) (p : Bool) : (setVreg s q vc r l v p).now = s.now := rfl
@[simp] theorem setVreg_free (q vc r l : Nat) (v : W32) (p : Bool) : (setVreg s q vc r l v p).free = s.free := rfl
@[simp] theorem setVreg_regs (q vc r l : Nat) (v : W32) (p : Bool) : (setVreg s q vc r l v p).regs = s.regs := rfl
@[simp] theorem setVreg_mem (q vc r l : Nat) (v : W32) (p : Bool) : (setVreg s q vc r l v p).mem = s.mem := rfl
@[simp] theorem setVreg_memPsn (q vc r l : Nat) (v : W32) (p : Bool) : (setVreg s q vc r l v p).memPsn = s.memPsn := rfl
@[simp] theorem setVreg_squares (q vc r l : Nat) (v : W32) (p : Bool) : (setVreg s q vc r l v p).squares = s.squares := rfl
@[simp] theorem setVreg_banks (q vc r l : Nat) (v : W32) (p : Bool) : (setVreg s q vc r l v p).banks = s.banks := rfl
@[simp] theorem setVreg_dcfg (q vc r l : Nat) (v : W32) (p : Bool) : (setVreg s q vc r l v p).dcfg = s.dcfg := rfl
@[simp] theorem setVreg_vregs (q vc r l : Nat) (v : W32) (p : Bool) : (setVreg s q vc r l v p).vregs = smSet 0#32 s.vregs (vkey q vc r l) (if p then 0 else v) := rfl
@[simp] theorem setVreg_vpsn (q vc r l : Nat) (v : W32) (p : Bool) : (setVreg s q vc r l v p).vpsn = smSet false s.vpsn (vkey q vc r l) p := rfl
@[simp] theorem setVreg_quarters (q vc r l : Nat) (v : W32) (p : Bool) : (setVreg s q vc r l v p).quarters = s.quarters := rfl
@[simp] theorem setVreg_disp (q vc r l : Nat) (v : W32) (p : Bool) : (setVreg s q vc r l v p).disp = s.disp := rfl
@[simp] theorem setVreg_stk (q vc r l : Nat) (v : W32) (p : Bool) : (setVreg s q vc r l v p).stk = s.stk := rfl
@[simp] theorem setVreg_fab (q vc r l : Nat) (v : W32) (p : Bool) : (setVreg s q vc r l v p).fab = s.fab := rfl
@[simp] theorem setVreg_upd (q vc r l : Nat) (v : W32) (p : Bool) : (setVreg s q vc r l v p).upd = s.upd := rfl
@[simp] theorem setVreg_prj (q vc r l : Nat) (v : W32) (p : Bool) : (setVreg s q vc r l v p).prj = s.prj := rfl
@[simp] theorem setVreg_opt (q vc r l : Nat) (v : W32) (p : Bool) : (setVreg s q vc r l v p).opt = s.opt := rfl
@[simp] theorem setVreg_host (q vc r l : Nat) (v : W32) (p : Bool) : (setVreg s q vc r l v p).host = s.host := rfl
@[simp] theorem setVreg_mgt (q vc r l : Nat) (v : W32) (p : Bool) : (setVreg s q vc r l v p).mgt = s.mgt := rfl
@[simp] theorem setVreg_pmc (q vc r l : Nat) (v : W32) (p : Bool) : (setVreg s q vc r l v p).pmc = s.pmc := rfl
@[simp] theorem setVreg_pending (q vc r l : Nat) (v : W32) (p : Bool) : (setVreg s q vc r l v p).pending = s.pending := rfl

@[simp] theorem hostPush_now (m : HostMsg) : (hostPush s m).now = s.now := rfl
@[simp] theorem hostPush_free (m : HostMsg) : (hostPush s m).free = s.free := rfl
@[simp] theorem hostPush_regs (m : HostMsg) : (hostPush s m).regs = s.regs := rfl
@[simp] theorem hostPush_mem (m : HostMsg) : (hostPush s m).mem = s.mem := rfl
@[simp] theorem hostPush_memPsn (m : HostMsg) : (hostPush s m).memPsn = s.memPsn := rfl
@[simp] theorem hostPush_squares (m : HostMsg) : (hostPush s m).squares = s.squares := rfl
@[simp] theorem hostPush_banks (m : HostMsg) : (hostPush s m).banks = s.banks := rfl
@[simp] theorem hostPush_dcfg (m : HostMsg) : (hostPush s m).dcfg = s.dcfg := rfl
@[simp] theorem hostPush_vregs (m : HostMsg) : (hostPush s m).vregs = s.vregs := rfl
@[simp] theorem hostPush_vpsn (m : HostMsg) : (hostPush s m).vpsn = s.vpsn := rfl
@[simp] theorem hostPush_quarters (m : HostMsg) : (hostPush s m).quarters = s.quarters := rfl
@[simp] theorem hostPush_disp (m : HostMsg) : (hostPush s m).disp = s.disp := rfl
@[simp] theorem hostPush_stk (m : HostMsg) : (hostPush s m).stk = s.stk := rfl
@[simp] theorem hostPush_fab (m : HostMsg) : (hostPush s m).fab = s.fab := rfl
@[simp] theorem hostPush_upd (m : HostMsg) : (hostPush s m).upd = s.upd := rfl
@[simp] theorem hostPush_prj (m : HostMsg) : (hostPush s m).prj = s.prj := rfl
@[simp] theorem hostPush_opt (m : HostMsg) : (hostPush s m).opt = s.opt := rfl
@[simp] theorem hostPush_host (m : HostMsg) : (hostPush s m).host = { s.host with out := s.host.out ++ [m] } := rfl
@[simp] theorem hostPush_mgt (m : HostMsg) : (hostPush s m).mgt = s.mgt := rfl
@[simp] theorem hostPush_pmc (m : HostMsg) : (hostPush s m).pmc = s.pmc := rfl
@[simp] theorem hostPush_pending (m : HostMsg) : (hostPush s m).pending = s.pending := rfl

@[simp] theorem aerSet_now (b : Nat) : (aerSet s b).now = s.now := rfl
@[simp] theorem aerSet_free (b : Nat) : (aerSet s b).free = s.free := rfl
@[simp] theorem aerSet_regs (b : Nat) : (aerSet s b).regs = s.regs := rfl
@[simp] theorem aerSet_mem (b : Nat) : (aerSet s b).mem = s.mem := rfl
@[simp] theorem aerSet_memPsn (b : Nat) : (aerSet s b).memPsn = s.memPsn := rfl
@[simp] theorem aerSet_squares (b : Nat) : (aerSet s b).squares = s.squares := rfl
@[simp] theorem aerSet_banks (b : Nat) : (aerSet s b).banks = s.banks := rfl
@[simp] theorem aerSet_dcfg (b : Nat) : (aerSet s b).dcfg = s.dcfg := rfl
@[simp] theorem aerSet_vregs (b : Nat) : (aerSet s b).vregs = s.vregs := rfl
@[simp] theorem aerSet_vpsn (b : Nat) : (aerSet s b).vpsn = s.vpsn := rfl
@[simp] theorem aerSet_quarters (b : Nat) : (aerSet s b).quarters = s.quarters := rfl
@[simp] theorem aerSet_disp (b : Nat) : (aerSet s b).disp = s.disp := rfl
@[simp] theorem aerSet_stk (b : Nat) : (aerSet s b).stk = s.stk := rfl
@[simp] theorem aerSet_fab (b : Nat) : (aerSet s b).fab = s.fab := rfl
@[simp] theorem aerSet_upd (b : Nat) : (aerSet s b).upd = s.upd := rfl
@[simp] theorem aerSet_prj (b : Nat) : (aerSet s b).prj = s.prj := rfl
@[simp] theorem aerSet_opt (b : Nat) : (aerSet s b).opt = s.opt := rfl
@[simp] theorem aerSet_host (b : Nat) : (aerSet s b).host = { s.host with aerU := s.host.aerU ||| 2 ^ b } := rfl
@[simp] theorem aerSet_mgt (b : Nat) : (aerSet s b).mgt = s.mgt := rfl
@[simp] theorem aerSet_pmc (b : Nat) : (aerSet s b).pmc = s.pmc := rfl
@[simp] theorem aerSet_pending (b : Nat) : (aerSet s b).pending = s.pending := rfl

@[simp] theorem modDisp_now (f : Disp → Disp) : (modDisp s f).now = s.now := rfl
@[simp] theorem modDisp_free (f : Disp → Disp) : (modDisp s f).free = s.free := rfl
@[simp] theorem modDisp_regs (f : Disp → Disp) : (modDisp s f).regs = s.regs := rfl
@[simp] theorem modDisp_mem (f : Disp → Disp) : (modDisp s f).mem = s.mem := rfl
@[simp] theorem modDisp_memPsn (f : Disp → Disp) : (modDisp s f).memPsn = s.memPsn := rfl
@[simp] theorem modDisp_squares (f : Disp → Disp) : (modDisp s f).squares = s.squares := rfl
@[simp] theorem modDisp_banks (f : Disp → Disp) : (modDisp s f).banks = s.banks := rfl
@[simp] theorem modDisp_dcfg (f : Disp → Disp) : (modDisp s f).dcfg = s.dcfg := rfl
@[simp] theorem modDisp_vregs (f : Disp → Disp) : (modDisp s f).vregs = s.vregs := rfl
@[simp] theorem modDisp_vpsn (f : Disp → Disp) : (modDisp s f).vpsn = s.vpsn := rfl
@[simp] theorem modDisp_quarters (f : Disp → Disp) : (modDisp s f).quarters = s.quarters := rfl
@[simp] theorem modDisp_disp (f : Disp → Disp) : (modDisp s f).disp = f s.disp := rfl
@[simp] theorem modDisp_stk (f : Disp → Disp) : (modDisp s f).stk = s.stk := rfl
@[simp] theorem modDisp_fab (f : Disp → Disp) : (modDisp s f).fab = s.fab := rfl
@[simp] theorem modDisp_upd (f : Disp → Disp) : (modDisp s f).upd = s.upd := rfl
@[simp] theorem modDisp_prj (f : Disp → Disp) : (modDisp s f).prj = s.prj := rfl
@[simp] theorem modDisp_opt (f : Disp → Disp) : (modDisp s f).opt = s.opt := rfl
@[simp] theorem modDisp_host (f : Disp → Disp) : (modDisp s f).host = s.host := rfl
@[simp] theorem modDisp_mgt (f : Disp → Disp) : (modDisp s f).mgt = s.mgt := rfl
@[simp] theorem modDisp_pmc (f : Disp → Disp) : (modDisp s f).pmc = s.pmc := rfl
@[simp] theorem modDisp_pending (f : Disp → Disp) : (modDisp s f).pending = s.pending := rfl

@[simp] theorem modStk_now (f : Stk → Stk) : (modStk s f).now = s.now := rfl
@[simp] theorem modStk_free (f : Stk → Stk) : (modStk s f).free = s.free := rfl
@[simp] theorem modStk_regs (f : Stk → Stk) : (modStk s f).regs = s.regs := rfl
@[simp] theorem modStk_mem (f : Stk → Stk) : (modStk s f).mem = s.mem := rfl
@[simp] theorem modStk_memPsn (f : Stk → Stk) : (modStk s f).memPsn = s.memPsn := rfl
@[simp] theorem modStk_squares (f : Stk → Stk) : (modStk s f).squares = s.squares := rfl
@[simp] theorem modStk_banks (f : Stk → Stk) : (modStk s f).banks = s.banks := rfl
@[simp] theorem modStk_dcfg (f : Stk → Stk) : (modStk s f).dcfg = s.dcfg := rfl
@[simp] theorem modStk_vregs (f : Stk → Stk) : (modStk s f).vregs = s.vregs := rfl
@[simp] theorem modStk_vpsn (f : Stk → Stk) : (modStk s f).vpsn = s.vpsn := rfl
@[simp] theorem modStk_quarters (f : Stk → Stk) : (modStk s f).quarters = s.quarters := rfl
@[simp] theorem modStk_disp (f : Stk → Stk) : (modStk s f).disp = s.disp := rfl
@[simp] theorem modStk_stk (f : Stk → Stk) : (modStk s f).stk = f s.stk := rfl
@[simp] theorem modStk_fab (f : Stk → Stk) : (modStk s f).fab = s.fab := rfl
@[simp] theorem modStk_upd (f : Stk → Stk) : (modStk s f).upd = s.upd := rfl
@[simp] theorem modStk_prj (f : Stk → Stk) : (modStk s f).prj = s.prj := rfl
@[simp] theorem modStk_opt (f : Stk → Stk) : (modStk s f).opt = s.opt := rfl
@[simp] theorem modStk_host (f : Stk → Stk) : (modStk s f).host = s.host := rfl
@[simp] theorem modStk_mgt (f : Stk → Stk) : (modStk s f).mgt = s.mgt := rfl
@[simp] theorem modStk_pmc (f : Stk → Stk) : (modStk s f).pmc = s.pmc := rfl
@[simp] theorem modStk_pending (f : Stk → Stk) : (modStk s f).pending = s.pending := rfl

@[simp] theorem modFab_now (f : Fab → Fab) : (modFab s f).now = s.now := rfl
@[simp] theorem modFab_free (f : Fab → Fab) : (modFab s f).free = s.free := rfl
@[simp] theorem modFab_regs (f : Fab → Fab) : (modFab s f).regs = s.regs := rfl
@[simp] theorem modFab_mem (f : Fab → Fab) : (modFab s f).mem = s.mem := rfl
@[simp] theorem modFab_memPsn (f : Fab → Fab) : (modFab s f).memPsn = s.memPsn := rfl
@[simp] theorem modFab_squares (f : Fab → Fab) : (modFab s f).squares = s.squares := rfl
@[simp] theorem modFab_banks (f : Fab → Fab) : (modFab s f).banks = s.banks := rfl
@[simp] theorem modFab_dcfg (f : Fab → Fab) : (modFab s f).dcfg = s.dcfg := rfl
@[simp] theorem modFab_vregs (f : Fab → Fab) : (modFab s f).vregs = s.vregs := rfl
@[simp] theorem modFab_vpsn (f : Fab → Fab) : (modFab s f).vpsn = s.vpsn := rfl
@[simp] theorem modFab_quarters (f : Fab → Fab) : (modFab s f).quarters = s.quarters := rfl
@[simp] theorem modFab_disp (f : Fab → Fab) : (modFab s f).disp = s.disp := rfl
@[simp] theorem modFab_stk (f : Fab → Fab) : (modFab s f).stk = s.stk := rfl
@[simp] theorem modFab_fab (f : Fab → Fab) : (modFab s f).fab = f s.fab := rfl
@[simp] theorem modFab_upd (f : Fab → Fab) : (modFab s f).upd = s.upd := rfl
@[simp] theorem modFab_prj (f : Fab → Fab) : (modFab s f).prj = s.prj := rfl
@[simp] theorem modFab_opt (f : Fab → Fab) : (modFab s f).opt = s.opt := rfl
@[simp] theorem modFab_host (f : Fab → Fab) : (modFab s f).host = s.host := rfl
@[simp] theorem modFab_mgt (f : Fab → Fab) : (modFab s f).mgt = s.mgt := rfl
@[simp] theorem modFab_pmc (f : Fab → Fab) : (modFab s f).pmc = s.pmc := rfl
@[simp] theorem modFab_pending (f : Fab → Fab) : (modFab s f).pending = s.pending := rfl

@[simp] theorem modUpd_now (f : Upd → Upd) : (modUpd s f).now = s.now := rfl
@[simp] theorem modUpd_free (f : Upd → Upd) : (modUpd s f).free = s.free := rfl
@[simp] theorem modUpd_regs (f : Upd → Upd) : (modUpd s f).regs = s.regs := rfl
@[simp] theorem modUpd_mem (f : Upd → Upd) : (modUpd s f).mem = s.mem := rfl
@[simp] theorem modUpd_memPsn (f : Upd → Upd) : (modUpd s f).memPsn = s.memPsn := rfl
@[simp] theorem modUpd_squares (f : Upd → Upd) : (modUpd s f).squares = s.squares := rfl
@[simp] theorem modUpd_banks (f : Upd → Upd) : (modUpd s f).banks = s.banks := rfl
@[simp] theorem modUpd_dcfg (f : Upd → Upd) : (modUpd s f).dcfg = s.dcfg := rfl
@[simp] theorem modUpd_vregs (f : Upd → Upd) : (modUpd s f).vregs = s.vregs := rfl
@[simp] theorem modUpd_vpsn (f : Upd → Upd) : (modUpd s f).vpsn = s.vpsn := rfl
@[simp] theorem modUpd_quarters (f : Upd → Upd) : (modUpd s f).quarters = s.quarters := rfl
@[simp] theorem modUpd_disp (f : Upd → Upd) : (modUpd s f).disp = s.disp := rfl
@[simp] theorem modUpd_stk (f : Upd → Upd) : (modUpd s f).stk = s.stk := rfl
@[simp] theorem modUpd_fab (f : Upd → Upd) : (modUpd s f).fab = s.fab := rfl
@[simp] theorem modUpd_upd (f : Upd → Upd) : (modUpd s f).upd = f s.upd := rfl
@[simp] theorem modUpd_prj (f : Upd → Upd) : (modUpd s f).prj = s.prj := rfl
@[simp] theorem modUpd_opt (f : Upd → Upd) : (modUpd s f).opt = s.opt := rfl
@[simp] theorem modUpd_host (f : Upd → Upd) : (modUpd s f).host = s.host := rfl
@[simp] theorem modUpd_mgt (f : Upd → Upd) : (modUpd s f).mgt = s.mgt := rfl
@[simp] theorem modUpd_pmc (f : Upd → Upd) : (modUpd s f).pmc = s.pmc := rfl
@[simp] theorem modUpd_pending (f : Upd → Upd) : (modUpd s f).pending = s.pending := rfl

@[simp] theorem modPrj_now (f : Prj → Prj) : (modPrj s f).now = s.now := rfl
@[simp] theorem modPrj_free (f : Prj → Prj) : (modPrj s f).free = s.free := rfl
@[simp] theorem modPrj_regs (f : Prj → Prj) : (modPrj s f).regs = s.regs := rfl
@[simp] theorem modPrj_mem (f : Prj → Prj) : (modPrj s f).mem = s.mem := rfl
@[simp] theorem modPrj_memPsn (f : Prj → Prj) : (modPrj s f).memPsn = s.memPsn := rfl
@[simp] theorem modPrj_squares (f : Prj → Prj) : (modPrj s f).squares = s.squares := rfl
@[simp] theorem modPrj_banks (f : Prj → Prj) : (modPrj s f).banks = s.banks := rfl
@[simp] theorem modPrj_dcfg (f : Prj → Prj) : (modPrj s f).dcfg = s.dcfg := rfl
@[simp] theorem modPrj_vregs (f : Prj → Prj) : (modPrj s f).vregs = s.vregs := rfl
@[simp] theorem modPrj_vpsn (f : Prj → Prj) : (modPrj s f).vpsn = s.vpsn := rfl
@[simp] theorem modPrj_quarters (f : Prj → Prj) : (modPrj s f).quarters = s.quarters := rfl
@[simp] theorem modPrj_disp (f : Prj → Prj) : (modPrj s f).disp = s.disp := rfl
@[simp] theorem modPrj_stk (f : Prj → Prj) : (modPrj s f).stk = s.stk := rfl
@[simp] theorem modPrj_fab (f : Prj → Prj) : (modPrj s f).fab = s.fab := rfl
@[simp] theorem modPrj_upd (f : Prj → Prj) : (modPrj s f).upd = s.upd := rfl
@[simp] theorem modPrj_prj (f : Prj → Prj) : (modPrj s f).prj = f s.prj := rfl
@[simp] theorem modPrj_opt (f : Prj → Prj) : (modPrj s f).opt = s.opt := rfl
@[simp] theorem modPrj_host (f : Prj → Prj) : (modPrj s f).host = s.host := rfl
@[simp] theorem modPrj_mgt (f : Prj → Prj) : (modPrj s f).mgt = s.mgt := rfl
@[simp] theorem modPrj_pmc (f : Prj → Prj) : (modPrj s f).pmc = s.pmc := rfl
@[simp] theorem modPrj_pending (f : Prj → Prj) : (modPrj s f).pending = s.pending := rfl

@[simp] theorem modOpt_now (f : Opt → Opt) : (modOpt s f).now = s.now := rfl
@[simp] theorem modOpt_free (f : Opt → Opt) : (modOpt s f).free = s.free := rfl
@[simp] theorem modOpt_regs (f : Opt → Opt) : (modOpt s f).regs = s.regs := rfl
@[simp] theorem modOpt_mem (f : Opt → Opt) : (modOpt s f).mem = s.mem := rfl
@[simp] theorem modOpt_memPsn (f : Opt → Opt) : (modOpt s f).memPsn = s.memPsn := rfl
@[simp] theorem modOpt_squares (f : Opt → Opt) : (modOpt s f).squares = s.squares := rfl
@[simp] theorem modOpt_banks (f : Opt → Opt) : (modOpt s f).banks = s.banks := rfl
@[simp] theorem modOpt_dcfg (f : Opt → Opt) : (modOpt s f).dcfg = s.dcfg := rfl
@[simp] theorem modOpt_vregs (f : Opt → Opt) : (modOpt s f).vregs = s.vregs := rfl
@[simp] theorem modOpt_vpsn (f : Opt → Opt) : (modOpt s f).vpsn = s.vpsn := rfl
@[simp] theorem modOpt_quarters (f : Opt → Opt) : (modOpt s f).quarters = s.quarters := rfl
@[simp] theorem modOpt_disp (f : Opt → Opt) : (modOpt s f).disp = s.disp := rfl
@[simp] theorem modOpt_stk (f : Opt → Opt) : (modOpt s f).stk = s.stk := rfl
@[simp] theorem modOpt_fab (f : Opt → Opt) : (modOpt s f).fab = s.fab := rfl
@[simp] theorem modOpt_upd (f : Opt → Opt) : (modOpt s f).upd = s.upd := rfl
@[simp] theorem modOpt_prj (f : Opt → Opt) : (modOpt s f).prj = s.prj := rfl
@[simp] theorem modOpt_opt (f : Opt → Opt) : (modOpt s f).opt = f s.opt := rfl
@[simp] theorem modOpt_host (f : Opt → Opt) : (modOpt s f).host = s.host := rfl
@[simp] theorem modOpt_mgt (f : Opt → Opt) : (modOpt s f).mgt = s.mgt := rfl
@[simp] theorem modOpt_pmc (f : Opt → Opt) : (modOpt s f).pmc = s.pmc := rfl
@[simp] theorem modOpt_pending (f : Opt → Opt) : (modOpt s f).pending = s.pending := rfl

@[simp] theorem modHost_now (f : HostP → HostP) : (modHost s f).now = s.now := rfl
@[simp] theorem modHost_free (f : HostP → HostP) : (modHost s f).free = s.free := rfl
@[simp] theorem modHost_regs (f : HostP → HostP) : (modHost s f).regs = s.regs := rfl
@[simp] theorem modHost_mem (f : HostP → HostP) : (modHost s f).mem = s.mem := rfl
@[simp] theorem modHost_memPsn (f : HostP → HostP) : (modHost s f).memPsn = s.memPsn := rfl
@[simp] theorem modHost_squares (f : HostP → HostP) : (modHost s f).squares = s.squares := rfl
@[simp] theorem modHost_banks (f : HostP → HostP) : (modHost s f).banks = s.banks := rfl
@[simp] theorem modHost_dcfg (f : HostP → HostP) : (modHost s f).dcfg = s.dcfg := rfl
@[simp] theorem modHost_vregs (f : HostP → HostP) : (modHost s f).vregs = s.vregs := rfl
@[simp] theorem modHost_vpsn (f : HostP → HostP) : (modHost s f).vpsn = s.vpsn := rfl
@[simp] theorem modHost_quarters (f : HostP → HostP) : (modHost s f).quarters = s.quarters := rfl
@[simp] theorem modHost_disp (f : HostP → HostP) : (modHost s f).disp = s.disp := rfl
@[simp] theorem modHost_stk (f : HostP → HostP) : (modHost s f).stk = s.stk := rfl
@[simp] theorem modHost_fab (f : HostP → HostP) : (modHost s f).fab = s.fab := rfl
@[simp] theorem modHost_upd (f : HostP → HostP) : (modHost s f).upd = s.upd := rfl
@[simp] theorem modHost_prj (f : HostP → HostP) : (modHost s f).prj = s.prj := rfl
@[simp] theorem modHost_opt (f : HostP → HostP) : (modHost s f).opt = s.opt := rfl
@[simp] theorem modHost_host (f : HostP → HostP) : (modHost s f).host = f s.host := rfl
@[simp] theorem modHost_mgt (f : HostP → HostP) : (modHost s f).mgt = s.mgt := rfl
@[simp] theorem modHost_pmc (f : HostP → HostP) : (modHost s f).pmc = s.pmc := rfl
@[simp] theorem modHost_pending (f : HostP → HostP) : (modHost s f).pending = s.pending := rfl

@[simp] theorem modMgt_now (f : Mgt → Mgt) : (modMgt s f).now = s.now := rfl
@[simp] theorem modMgt_free (f : Mgt → Mgt) : (modMgt s f).free = s.free := rfl
@[simp] theorem modMgt_regs (f : Mgt → Mgt) : (modMgt s f).regs = s.regs := rfl
@[simp] theorem modMgt_mem (f : Mgt → Mgt) : (modMgt s f).mem = s.mem := rfl
@[simp] theorem modMgt_memPsn (f : Mgt → Mgt) : (modMgt s f).memPsn = s.memPsn := rfl
@[simp] theorem modMgt_squares (f : Mgt → Mgt) : (modMgt s f).squares = s.squares := rfl
@[simp] theorem modMgt_banks (f : Mgt → Mgt) : (modMgt s f).banks = s.banks := rfl
@[simp] theorem modMgt_dcfg (f : Mgt → Mgt) : (modMgt s f).dcfg = s.dcfg := rfl
@[simp] theorem modMgt_vregs (f : Mgt → Mgt) : (modMgt s f).vregs = s.vregs := rfl
@[simp] theorem modMgt_vpsn (f : Mgt → Mgt) : (modMgt s f).vpsn = s.vpsn := rfl
@[simp] theorem modMgt_quarters (f : Mgt → Mgt) : (modMgt s f).quarters = s.quarters := rfl
@[simp] theorem modMgt_disp (f : Mgt → Mgt) : (modMgt s f).disp = s.disp := rfl
@[simp] theorem modMgt_stk (f : Mgt → Mgt) : (modMgt s f).stk = s.stk := rfl
@[simp] theorem modMgt_fab (f : Mgt → Mgt) : (modMgt s f).fab = s.fab := rfl
@[simp] theorem modMgt_upd (f : Mgt → Mgt) : (modMgt s f).upd = s.upd := rfl
@[simp] theorem modMgt_prj (f : Mgt → Mgt) : (modMgt s f).prj = s.prj := rfl
@[simp] theorem modMgt_opt (f : Mgt → Mgt) : (modMgt s f).opt = s.opt := rfl
@[simp] theorem modMgt_host (f : Mgt → Mgt) : (modMgt s f).host = s.host := rfl
@[simp] theorem modMgt_mgt (f : Mgt → Mgt) : (modMgt s f).mgt = f s.mgt := rfl
@[simp] theorem modMgt_pmc (f : Mgt → Mgt) : (modMgt s f).pmc = s.pmc := rfl
@[simp] theorem modMgt_pending (f : Mgt → Mgt) : (modMgt s f).pending = s.pending := rfl

end Sys2Proof.Machine
end

