-- ==== Sys2Proof/Laws/Ops.lean ====
section
/-! SUPPORT. The shared operations over registers, memory, squares, quarters, banks and vector registers: for each, once,
what it can do. -/

namespace Sys2Proof.Machine

/-! ### Fields of a word -/

theorem putNat_split (n lo w : Nat) : w = w % 2 ^ lo + ((w >>> lo) % 2 ^ n + (w >>> (lo + n)) * 2 ^ n) * 2 ^ lo := by
  have h1 := Nat.mod_add_div w (2 ^ lo)
  have h2 := Nat.mod_add_div (w / 2 ^ lo) (2 ^ n)
  rw [Nat.shiftRight_eq_div_pow, Nat.shiftRight_eq_div_pow, Nat.pow_add, ← Nat.div_div_eq_div_mul]
  rw [Nat.mul_comm (w / 2 ^ lo / 2 ^ n), h2, Nat.mul_comm _ (2 ^ lo), h1]

/-- A bit of a word after one of its fields is replaced. -/
theorem testBit_putBits (w : W64) (hi lo v i : Nat) (hl : lo ≤ hi + 1) (hh : hi < 64) :
    (putBits w hi lo v).toNat.testBit i = if lo ≤ i ∧ i ≤ hi then v.testBit (i - lo) else w.toNat.testBit i := by
  have hs := putNat_split (hi + 1 - lo) lo w.toNat
  have hlt := w.isLt
  have h2 : lo + (hi + 1 - lo) = hi + 1 := by omega
  rw [h2] at hs
  have hH : w.toNat >>> (hi + 1) < 2 ^ (63 - hi) := by
    rw [Nat.shiftRight_eq_div_pow, Nat.div_lt_iff_lt_mul (by positivity), ← Nat.pow_add]
    have : 63 - hi + (hi + 1) = 64 := by omega
    rw [this]; exact hlt
  have hR : w.toNat - ((w.toNat >>> lo) % 2 ^ (hi + 1 - lo)) <<< lo + (v % 2 ^ (hi + 1 - lo)) <<< lo =
      w.toNat % 2 ^ lo + (v % 2 ^ (hi + 1 - lo) + (w.toNat >>> (hi + 1)) * 2 ^ (hi + 1 - lo)) * 2 ^ lo := by
    generalize (w.toNat >>> lo) % 2 ^ (hi + 1 - lo) = a at *
    generalize (w.toNat >>> (hi + 1)) * 2 ^ (hi + 1 - lo) = b at *
    rw [Nat.shiftLeft_eq, Nat.shiftLeft_eq, Nat.add_mul]
    rw [Nat.add_mul] at hs
    generalize w.toNat % 2 ^ lo = c at *
    generalize b * 2 ^ lo = b2 at *
    generalize a * 2 ^ lo = a2 at *
    omega
  have hb : w.toNat % 2 ^ lo + (v % 2 ^ (hi + 1 - lo) + (w.toNat >>> (hi + 1)) * 2 ^ (hi + 1 - lo)) * 2 ^ lo < 2 ^ 64 := by
    have e1 : w.toNat % 2 ^ lo < 2 ^ lo := Nat.mod_lt _ (by positivity)
    have e2 : v % 2 ^ (hi + 1 - lo) < 2 ^ (hi + 1 - lo) := Nat.mod_lt _ (by positivity)
    have e3 : v % 2 ^ (hi + 1 - lo) + (w.toNat >>> (hi + 1)) * 2 ^ (hi + 1 - lo) + 1 ≤ 2 ^ (63 - hi) * 2 ^ (hi + 1 - lo) := by
      have : (w.toNat >>> (hi + 1)) + 1 ≤ 2 ^ (63 - hi) := hH
      have := Nat.mul_le_mul_right (2 ^ (hi + 1 - lo)) this
      rw [Nat.add_mul] at this
      omega
    have e4 := Nat.mul_le_mul_right (2 ^ lo) e3
    have e5 : 2 ^ (63 - hi) * 2 ^ (hi + 1 - lo) * 2 ^ lo = 2 ^ 64 := by
      rw [← Nat.pow_add, ← Nat.pow_add]; congr 1; omega
    rw [e5, Nat.add_mul, Nat.one_mul] at e4
    omega
  unfold putBits
  rw [hR, BitVec.toNat_ofNat, Nat.mod_eq_of_lt hb]
  rw [Nat.add_comm, Nat.mul_comm, Nat.testBit_two_pow_mul_add _ (Nat.mod_lt _ (by positivity))]
  by_cases h : i < lo
  · rw [if_pos h, if_neg (by omega), Nat.testBit_mod_two_pow]; simp [h]
  · rw [if_neg h, Nat.add_comm, Nat.mul_comm, Nat.testBit_two_pow_mul_add _ (Nat.mod_lt _ (by positivity))]
    by_cases h3 : i ≤ hi
    · rw [if_pos (by omega), if_pos (by omega), Nat.testBit_mod_two_pow]; simp; omega
    · rw [if_neg (by omega), if_neg (by omega), Nat.testBit_shiftRight]; congr 1; omega

/-- A bit of a field. -/
theorem testBit_bits {n : Nat} (w : BitVec n) (hi lo i : Nat) :
    (bits w hi lo).testBit i = (decide (i + lo ≤ hi) && w.toNat.testBit (lo + i)) := by
  unfold bits
  rw [Nat.testBit_mod_two_pow, Nat.testBit_shiftRight]
  congr 1; apply decide_eq_decide.2; omega

/-- A field that was replaced reads as what replaced it. -/
theorem bits_putBits_self (w : W64) (hi lo v : Nat) (hl : lo ≤ hi) (hh : hi < 64) :
    bits (putBits w hi lo v) hi lo = v % 2 ^ (hi + 1 - lo) := by
  apply Nat.eq_of_testBit_eq; intro i
  rw [testBit_bits, testBit_putBits _ _ _ _ _ (by omega) hh, Nat.testBit_mod_two_pow]
  by_cases h : i + lo ≤ hi
  · rw [if_pos (by omega)]; simp [h]; omega
  · simp [h]; omega

/-- A field apart from the one replaced is as before. -/
theorem bits_putBits_ne (w : W64) (hi lo v h l : Nat) (hl : lo ≤ hi) (hh : hi < 64) (hd : h < lo ∨ hi < l) :
    bits (putBits w hi lo v) h l = bits w h l := by
  apply Nat.eq_of_testBit_eq; intro i
  rw [testBit_bits, testBit_bits, testBit_putBits _ _ _ _ _ (by omega) hh]
  by_cases h' : i + l ≤ h
  · rw [if_neg (by omega)]
  · simp [h']

theorem bit_putBits (w : W64) (hi lo v i : Nat) (hl : lo ≤ hi + 1) (hh : hi < 64) :
    bit (putBits w hi lo v) i = if lo ≤ i ∧ i ≤ hi then v.testBit (i - lo) else bit w i := testBit_putBits w hi lo v i hl hh

/-! ### Registers -/

theorem reg_setReg (s : State) (o : Nat) (v : W64) (p : Nat) : reg (setReg s o v) p = if p = o then v else reg s p := by
  unfold reg setReg
  by_cases h : p = o
  · subst h; simp
  · rw [if_neg h]; exact smGet_set_other _ _ _ _ h

@[simp] theorem reg_setReg_self (s : State) (o : Nat) (v : W64) : reg (setReg s o v) o = v := by simp [reg_setReg]

theorem reg_setReg_ne (s : State) {o p : Nat} (v : W64) (h : p ≠ o) : reg (setReg s o v) p = reg s p := by
  simp [reg_setReg, h]

theorem reg_setFld (s : State) (o hi lo v p : Nat) :
    reg (setFld s o hi lo v) p = if p = o then putBits (reg s o) hi lo v else reg s p := reg_setReg _ _ _ _

theorem reg_setFld_ne (s : State) {o p : Nat} (hi lo v : Nat) (h : p ≠ o) : reg (setFld s o hi lo v) p = reg s p :=
  reg_setReg_ne _ _ h

/-- A field that was written reads as what was written. -/
theorem fld_setFld_self (s : State) (o hi lo v : Nat) (hl : lo ≤ hi) (hh : hi < 64) :
    fld (setFld s o hi lo v) o hi lo = v % 2 ^ (hi + 1 - lo) := by
  unfold fld setFld; rw [reg_setReg_self]; exact bits_putBits_self _ _ _ _ hl hh

/-- A field apart from the one written is as before. -/
theorem fld_setFld_ne (s : State) (o hi lo v p h l : Nat) (hl : lo ≤ hi) (hh : hi < 64) (hd : p ≠ o ∨ h < lo ∨ hi < l) :
    fld (setFld s o hi lo v) p h l = fld s p h l := by
  unfold fld
  by_cases e : p = o
  · subst e; unfold setFld; rw [reg_setReg_self]; exact bits_putBits_ne _ _ _ _ _ _ hl hh (by tauto)
  · rw [reg_setFld_ne _ _ _ _ e]

theorem keepsRegs_setReg (s : State) (o : Nat) (v : W64) : keepsRegs s (setReg s o v) [o] := by
  intro p hp; exact reg_setReg_ne _ _ (by simpa using hp)

theorem keepsRegs_mono {s t : State} {l m : List Nat} (h : keepsRegs s t l) (hs : l ⊆ m) : keepsRegs s t m :=
  fun o ho => h o fun hl => ho (hs hl)

theorem keepsRegs_trans {s t u : State} {l m : List Nat} (h : keepsRegs s t l) (h' : keepsRegs t u m) :
    keepsRegs s u (l ++ m) := by
  intro o ho
  rw [h' o fun hm => ho (List.mem_append_right _ hm), h o fun hl => ho (List.mem_append_left _ hl)]

/-- An error writes the error register and its record, and nothing else (R77). -/
theorem setErr_eq (s : State) (blk : Blk) (b low : Nat) : setErr s blk b low = { s with regs := (setErr s blk b low).regs } := by
  unfold setErr; simp only []; repeat (first | rfl | split)

/-! ### Squares, quarters, streams, banks, vector registers -/

theorem square_setSquare (s : State) (n : Nat) (v : Square) (m : Nat) :
    square (setSquare s n v) m = if m = n then v else square s m := smGet_set _ _ _ _ _ |>.trans (by simp [square, eq_comm])

theorem quarter_setQuarter (s : State) (q : Nat) (v : Quarter) (p : Nat) :
    quarter (setQuarter s q v) p = if p = q then v else quarter s p := smGet_set _ _ _ _ _ |>.trans (by simp [quarter, eq_comm])

@[simp] theorem quarter_modQuarter_self (s : State) (q : Nat) (f : Quarter → Quarter) :
    quarter (modQuarter s q f) q = f (quarter s q) := by simp [modQuarter, quarter_setQuarter]

theorem quarter_modQuarter_ne (s : State) {q p : Nat} (f : Quarter → Quarter) (h : p ≠ q) :
    quarter (modQuarter s q f) p = quarter s p := by simp [modQuarter, quarter_setQuarter, h]

@[simp] theorem strm_setStrm_self (s : State) (q i : Nat) (v : Strm) : strm (setStrm s q i v) q i = v := by
  simp [strm, setStrm]

theorem bank_setBank (s : State) (q c b : Nat) (v : Bank) (q' c' b' : Nat) :
    bank (setBank s q c b v) q' c' b' = if bankKey q' c' b' = bankKey q c b then v else bank s q' c' b' :=
  smGet_set _ _ _ _ _ |>.trans (by simp [bank, eq_comm])

/-! ### The streams -/

/-- A word that leaves the queue of an engine changes nothing beside that stream. -/
theorem popHead_eq (s : State) (q i : Nat) : popHead s q i = { s with quarters := (popHead s q i).quarters } := rfl

theorem strm_popHead_self (s : State) (q i : Nat) : strm (popHead s q i) q i = ⟨(strm s q i).queue.drop 1, none, false, none⟩ :=
  strm_setStrm_self _ _ _ _

/-- An operation that enters flight changes nothing beside its quarter. -/
theorem startOp_eq (s : State) (q i : Nat) (f : Fetched) (a b : Bool) (c : Option Stat) (d : List (Nat × Byte)) (e : SigTo)
    (g : List After) : startOp s q i f a b c d e g = { s with quarters := (startOp s q i f a b c d e g).quarters } := rfl

/-- An instruction that ends at once with no header signal leaves its queue, and does nothing else (R118). -/
theorem endNow_quiet (s : State) (q i : Nat) (f : Fetched) (t : SigTo) (h : wSigen f.word = false) :
    endNow s q i f t = popHead s q i := by simp [endNow, headerSignal, h]

/-- A signal touches only its square (R119). -/
theorem sqAdd_eq (s : State) (n amt : Nat) : sqAdd s n amt = { s with squares := (sqAdd s n amt).squares } := by
  unfold sqAdd; simp only []; split <;> rfl

/-! ### What errors, counts and messages reach -/

theorem keepsCore_refl (s : State) : keepsCore s s := rfl

theorem keepsCore_trans {s t u : State} (h : keepsCore s t) (h' : keepsCore t u) : keepsCore s u := by
  unfold keepsCore at *; rw [h', h]

theorem keepsCore_mk (s : State) (r : SMap W64) (h : HostP) (p : SMap Nat) :
    keepsCore s { s with regs := r, host := h, pmc := p } := rfl

/-- A change of registers, host port and counters first. -/
theorem keepsCore_of {s u : State} (r : SMap W64) (h : HostP) (p : SMap Nat)
    (h' : keepsCore { s with regs := r, host := h, pmc := p } u) : keepsCore s u := h'

theorem keepsCore_setReg (s : State) (o : Nat) (v : W64) : keepsCore s (setReg s o v) := rfl

theorem keepsCore_hostPush (s : State) (m : HostMsg) : keepsCore s (hostPush s m) := rfl

theorem keepsCore_foldl {β : Type} {g : State → β → State} (hg : ∀ s x, keepsCore s (g s x)) (l : List β) (s : State) :
    keepsCore s (l.foldl g s) := by
  induction l generalizing s with
  | nil => exact keepsCore_refl s
  | cons a t ih => exact keepsCore_trans (hg s a) (ih _)

theorem keepsCore_ite {s t u : State} {c : Prop} [Decidable c] (h : keepsCore s t) (h' : keepsCore s u) :
    keepsCore s (if c then t else u) := by split <;> assumption

theorem keepsCore_setErr (s : State) (blk : Blk) (b low : Nat) : keepsCore s (setErr s blk b low) := by
  unfold setErr; simp only []; repeat (first | rfl | split)

theorem keepsCore_countH1 (k : Nat) (s : State) (j : Nat) : keepsCore s (countH1 k s j) := by
  unfold countH1; simp only []; split <;> rfl

theorem keepsCore_countOnly (s : State) (n k : Nat) : keepsCore s (countOnly s n k) := by
  unfold countOnly; simp only []
  split
  · rfl
  · split
    · exact keepsCore_of s.regs s.host _ (keepsCore_foldl (keepsCore_countH1 k) _ _)
    · rfl

theorem keepsCore_msixPut (s : State) (vec : Nat) : keepsCore s (msixPut s vec).1 := by
  unfold msixPut; simp only []
  split
  · rfl
  · split
    · dsimp only; exact keepsCore_trans (keepsCore_hostPush _ _) (keepsCore_countOnly _ _ _)
    · exact keepsCore_setReg _ _ _

theorem keepsCore_msixSend (s : State) (vec : Nat) : keepsCore s (msixSend s vec) := by
  unfold msixSend; simp only []
  split
  · exact keepsCore_msixPut _ _
  · have h := keepsCore_trans (keepsCore_msixPut s vec) (keepsCore_setErr (msixPut s vec).1 .hst 5 0)
    split
    · exact keepsCore_trans h (keepsCore_msixPut _ _)
    · exact h

theorem keepsCore_sourceSend (s : State) (e : Nat) : keepsCore s (sourceSend s e) :=
  keepsCore_ite (keepsCore_msixSend _ _) (keepsCore_refl _)

theorem keepsCore_pmcSource {s old t : State} (h : keepsCore s t) : keepsCore s (pmcSource old t) :=
  keepsCore_ite (keepsCore_trans h (keepsCore_sourceSend _ _)) h

/-- Counting an event changes registers, counters and the host port at most (R398, R404, R405). -/
theorem keepsCore_count (s : State) (n k : Nat) : keepsCore s (count s n k) := keepsCore_pmcSource (keepsCore_countOnly _ _ _)

theorem keepsCore_msixRaise (s : State) (vec : Nat) : keepsCore s (msixRaise s vec) := keepsCore_pmcSource (keepsCore_msixSend _ _)

theorem keepsCore_fireEvent (s : State) (e : Nat) : keepsCore s (fireEvent s e) := keepsCore_pmcSource (keepsCore_sourceSend _ _)

/-- Raising an error changes registers, counters and the host port at most (R77, R348). -/
theorem keepsCore_raise (s : State) (blk : Blk) (b low : Nat) : keepsCore s (raise s blk b low) := by
  have h := keepsCore_setErr s blk b low
  unfold raise; simp only []
  cases blk <;> simp only [] <;> split <;>
    first
      | exact h
      | exact keepsCore_trans h (keepsCore_setReg _ _ _)
      | exact keepsCore_trans h (keepsCore_fireEvent _ _)

/-- A register write changes registers, counters and the host port at most (R7 to R9). -/
theorem keepsCore_regPut (s : State) (blk : Blk) (off : Nat) (fs : List Fld) (idle legal : Bool) (v : W64) :
    keepsCore s (regPut s blk off fs idle legal v) := by
  unfold regPut; simp only []
  split
  · exact keepsCore_raise _ _ _ _
  · split
    · exact keepsCore_trans (keepsCore_setReg _ _ _) (keepsCore_raise _ _ _ _)
    · exact keepsCore_setReg _ _ _

theorem keepsCore_hostWrite (s : State) (addr n : Nat) (v : W512) (ep ro : Bool) : keepsCore s (hostWrite s addr n v ep ro) := by
  unfold hostWrite
  split
  · exact keepsCore_trans (keepsCore_hostPush _ _) (keepsCore_count _ _ _)
  · exact keepsCore_trans (keepsCore_setReg _ _ _) (keepsCore_raise _ _ _ _)

end Sys2Proof.Machine
end

