-- ==== Sys2Proof/Laws/Frames.lean ====
section
/-! SUPPORT. The shared operations that reach several parts of the state: for each, once, which registers and which parts
it can change: counts, messages and errors, the cache, packets that leave their buffers. -/

namespace Sys2Proof.Machine

/-! ### Registers -/

theorem keepsRegs_refl (s : State) (l : List Nat) : keepsRegs s s l := fun _ _ => rfl

theorem keepsRegs_join {s t u : State} {l : List Nat} (h : keepsRegs s t l) (h' : keepsRegs t u l) : keepsRegs s u l :=
  fun o ho => (h' o ho).trans (h o ho)

theorem keepsRegs_ite {s t u : State} {l : List Nat} {c : Prop} [Decidable c] (h : keepsRegs s t l) (h' : keepsRegs s u l) :
    keepsRegs s (if c then t else u) l := by split <;> assumption

theorem keepsRegs_of_regs {s t : State} (h : t.regs = s.regs) (l : List Nat) : keepsRegs s t l :=
  fun o _ => by simp [reg, h]

theorem keepsRegs_setReg_mem (s : State) (o : Nat) (v : W64) {l : List Nat} (h : o ∈ l) : keepsRegs s (setReg s o v) l :=
  keepsRegs_mono (keepsRegs_setReg s o v) (by simpa using h)

theorem keepsRegs_foldl {β : Type} {g : State → β → State} {l : List Nat} (hg : ∀ s x, keepsRegs s (g s x) l) (xs : List β)
    (s : State) : keepsRegs s (xs.foldl g s) l := by
  induction xs generalizing s with
  | nil => exact keepsRegs_refl s l
  | cons a t ih => exact keepsRegs_join (hg s a) (ih _)

theorem keepsRegs_countH1 (k : Nat) (s : State) (j : Nat) : keepsRegs s (countH1 k s j) eventRegs := by
  unfold countH1; simp only []
  exact keepsRegs_ite (keepsRegs_join (keepsRegs_of_regs rfl _) (keepsRegs_setReg_mem _ _ _ (by decide))) (keepsRegs_of_regs rfl _)

theorem keepsRegs_countOnly (s : State) (n k : Nat) : keepsRegs s (countOnly s n k) eventRegs := by
  unfold countOnly; simp only []
  exact keepsRegs_ite (keepsRegs_refl _ _) (keepsRegs_ite (keepsRegs_join (t := { s with pmc := _ }) (keepsRegs_of_regs rfl _)
    (keepsRegs_foldl (keepsRegs_countH1 k) _ _)) (keepsRegs_of_regs rfl _))

theorem keepsRegs_msixPut (s : State) (vec : Nat) : keepsRegs s (msixPut s vec).1 eventRegs := by
  unfold msixPut; simp only []
  split
  · exact keepsRegs_of_regs rfl _
  · split
    · exact keepsRegs_join (t := hostPush s _) (keepsRegs_of_regs rfl _) (keepsRegs_countOnly _ _ _)
    · exact keepsRegs_setReg_mem _ _ _ (by decide)

/-- An error changes its register and its record. -/
theorem keepsRegs_setErr (s : State) (blk : Blk) (b low : Nat) {l : List Nat} (h : errReg blk ∈ l)
    (h' : ∀ r t, errRec blk = some (r, t) → r ∈ l) : keepsRegs s (setErr s blk b low) l := by
  unfold setErr; simp only []
  split
  · rename_i r t e
    exact keepsRegs_ite (keepsRegs_setReg_mem _ _ _ h)
      (keepsRegs_join (keepsRegs_setReg_mem _ _ _ h) (keepsRegs_setReg_mem _ _ _ (h' r t e)))
  · exact keepsRegs_setReg_mem _ _ _ h

theorem keepsRegs_msixSend (s : State) (vec : Nat) : keepsRegs s (msixSend s vec) eventRegs := by
  have he : ∀ t, keepsRegs t (setErr t .hst 5 0) eventRegs := fun t =>
    keepsRegs_setErr _ _ _ _ (by decide) (by intro r x hx; cases hx; decide)
  unfold msixSend; simp only []
  split
  · exact keepsRegs_msixPut _ _
  · have h := keepsRegs_join (keepsRegs_msixPut s vec) (he _)
    exact keepsRegs_ite (keepsRegs_join h (keepsRegs_msixPut _ _)) h

theorem keepsRegs_sourceSend (s : State) (e : Nat) : keepsRegs s (sourceSend s e) eventRegs :=
  keepsRegs_ite (keepsRegs_msixSend _ _) (keepsRegs_refl _ _)

theorem keepsRegs_pmcSource {s old t : State} (h : keepsRegs s t eventRegs) : keepsRegs s (pmcSource old t) eventRegs :=
  keepsRegs_ite (keepsRegs_join h (keepsRegs_sourceSend _ _)) h

/-- Counting an event changes no register but those of events (R398, R404, R405). -/
theorem keepsRegs_count (s : State) (n k : Nat) : keepsRegs s (count s n k) eventRegs := keepsRegs_pmcSource (keepsRegs_countOnly _ _ _)

theorem keepsRegs_msixRaise (s : State) (vec : Nat) : keepsRegs s (msixRaise s vec) eventRegs := keepsRegs_pmcSource (keepsRegs_msixSend _ _)

theorem keepsRegs_fireEvent (s : State) (e : Nat) : keepsRegs s (fireEvent s e) eventRegs := keepsRegs_pmcSource (keepsRegs_sourceSend _ _)

/-- The registers that an error of a block may change (R77, R147). -/
def errRegs (blk : Blk) : List Nat :=
  errReg blk :: ((errRec blk).map (·.1)).toList ++ (match blk with | .qtr q => [aQtrCcIrq q] | _ => []) ++ eventRegs

/-- Raising an error changes the block's error register and record, a quarter's interrupts, and those of events. -/
theorem keepsRegs_raise (s : State) (blk : Blk) (b low : Nat) : keepsRegs s (raise s blk b low) (errRegs blk) := by
  have hs : ∀ t : State, keepsRegs t (fireEvent t (errEvent blk)) (errRegs blk) := fun t =>
    keepsRegs_mono (keepsRegs_fireEvent t _) (by intro x hx; simp [errRegs, hx])
  have h : keepsRegs s (setErr s blk b low) (errRegs blk) := by
    apply keepsRegs_setErr
    · simp [errRegs]
    · intro r t hr; simp [errRegs, hr]
  unfold raise; simp only []
  cases blk with
  | qtr q =>
    have h2 : keepsRegs s _ (errRegs (.qtr q)) := keepsRegs_join h (keepsRegs_setReg_mem (setErr s (.qtr q) b low) (aQtrCcIrq q)
      (reg (setErr s (.qtr q) b low) (aQtrCcIrq q) ||| 0x20#64) (by simp [errRegs]))
    exact keepsRegs_ite h2 (keepsRegs_join h2 (hs _))
  | _ => exact keepsRegs_ite h (keepsRegs_join h (hs _))

/-- Bit b of the error register is set after the error is raised (R77). -/
theorem bit_setErr (s : State) (blk : Blk) (b low : Nat) (hb : b < 64) (hr : ∀ r t, errRec blk = some (r, t) → r ≠ errReg blk) :
    bit (reg (setErr s blk b low) (errReg blk)) b = true := by
  have h0 : bit (reg s (errReg blk) ||| BitVec.ofNat 64 (2 ^ b)) b = true := by
    simp only [bit, BitVec.toNat_or, BitVec.toNat_ofNat]
    rw [Nat.testBit_or, Nat.mod_eq_of_lt (Nat.pow_lt_pow_right (by omega) hb), Nat.testBit_two_pow_self, Bool.or_true]
  unfold setErr; simp only []
  split
  · rename_i r t e
    split
    · simpa using h0
    · rw [reg_setReg_ne _ _ (Ne.symm (hr r t e))]; simpa using h0
  · simpa using h0

/-! ### The cache (R200 to R206) -/

/-- Only registers of events, the cache, counters and the host port may differ, and no channel changes state. -/
def keepsCache (s t : State) : Prop :=
  t = { s with regs := t.regs, stk := t.stk, host := t.host, pmc := t.pmc } ∧ t.stk.chan = s.stk.chan ∧ keepsRegs s t eventRegs

theorem keepsCache_refl (s : State) : keepsCache s s := ⟨rfl, rfl, keepsRegs_refl _ _⟩

theorem keepsCache_trans {s t u : State} (h : keepsCache s t) (h' : keepsCache t u) : keepsCache s u := by
  obtain ⟨a, b, c⟩ := h
  obtain ⟨a', b', c'⟩ := h'
  refine ⟨?_, b'.trans b, keepsRegs_join c c'⟩
  rw [a', a]

theorem keepsCache_ite {s t u : State} {c : Prop} [Decidable c] (h : keepsCache s t) (h' : keepsCache s u) :
    keepsCache s (if c then t else u) := by split <;> assumption

theorem keepsCache_foldl {β : Type} {g : State → β → State} (hg : ∀ s x, keepsCache s (g s x)) (xs : List β) (s : State) :
    keepsCache s (xs.foldl g s) := by
  induction xs generalizing s with
  | nil => exact keepsCache_refl s
  | cons a t ih => exact keepsCache_trans (hg s a) (ih _)

theorem keepsCache_core {s t : State} (h : keepsCore s t) (h' : keepsRegs s t eventRegs) : keepsCache s t := by
  unfold keepsCore at h
  refine ⟨?_, ?_, h'⟩
  · rw [h]
  · rw [h]

theorem keepsCache_count (s : State) (n k : Nat) : keepsCache s (count s n k) :=
  keepsCache_core (keepsCore_count _ _ _) (keepsRegs_count _ _ _)

theorem keepsCache_modStk (s : State) (f : Stk → Stk) (h : (f s.stk).chan = s.stk.chan) : keepsCache s (modStk s f) :=
  ⟨rfl, h, keepsRegs_of_regs rfl _⟩

theorem keepsCache_count2 (s : State) (n k m l : Nat) : keepsCache s (count (count s n k) m l) :=
  keepsCache_trans (keepsCache_count _ _ _) (keepsCache_count _ _ _)

theorem keepsCache_placeLine (s : State) (key la d : Nat) : keepsCache s (placeLine s key la d) := keepsCache_modStk _ _ rfl

theorem keepsCache_dirtyLine (s : State) (key d : Nat) : keepsCache s (dirtyLine s key d) := keepsCache_modStk _ _ rfl

theorem keepsCache_writeBack (s : State) (key : Nat) (c : CLine) : keepsCache s (writeBack s key c) := by
  unfold writeBack
  refine keepsCache_ite (keepsCache_refl _) ?_
  split
  · refine keepsCache_trans (keepsCache_trans ?_ (keepsCache_count2 _ _ _ _ _)) (keepsCache_modStk _ _ rfl)
    exact keepsCache_ite (keepsCache_count2 _ _ _ _ _) (keepsCache_refl _)
  · exact keepsCache_count2 _ _ _ _ _

theorem keepsCache_touchMeta {drop : State → Nat → State} (hd : ∀ t key, keepsCache t (drop t key)) (s : State) (cls a : Nat)
    (wr : Bool) : keepsCache s (touchMeta drop s cls a wr) := by
  unfold touchMeta
  rcases locate s a with ⟨k, c, u⟩
  dsimp only
  generalize (if wr = true then metaPart u else 0) = d
  split
  · exact keepsCache_trans (keepsCache_count _ _ _) (keepsCache_dirtyLine _ _ _)
  · exact keepsCache_trans (keepsCache_trans (keepsCache_count2 _ _ _ _ _) (hd _ _)) (keepsCache_placeLine _ _ _ _)

theorem keepsCache_evictLoop (f : Nat) (s : State) (key : Nat) : keepsCache s (evictLoop f s key) := by
  induction f generalizing s key with
  | zero => exact keepsCache_modStk _ _ rfl
  | succ n ih =>
    unfold evictLoop
    split
    · exact keepsCache_refl _
    · have h := fun p => keepsCache_trans (keepsCache_writeBack s key p)
        (keepsCache_modStk _ (fun t => { t with lines := smErase t.lines key }) rfl)
      exact keepsCache_ite (keepsCache_trans (h _) (keepsCache_touchMeta ih _ _ _ _)) (h _)

theorem keepsCache_evict (s : State) (key : Nat) : keepsCache s (evict s key) := keepsCache_evictLoop _ _ _

/-- Writing lines back and dropping them changes the cache alone (R206). -/
theorem keepsCache_dropLines (s : State) (a n : Nat) : keepsCache s (dropLines s a n) := keepsCache_foldl keepsCache_evict _ _

theorem keepsCache_install (s : State) (k cls la d : Nat) : keepsCache s (install s k cls la d) := by
  exact keepsCache_trans (keepsCache_evict _ _) (keepsCache_placeLine _ _ _ _)

theorem keepsCache_fills (k cls la d : Nat) (s : State) : keepsCache s ((List.range 8).foldl (fun t i =>
    let l := la / 8 * 8 + i
    if (lineAt t l).isSome then t else install t k cls l (if l = la then d else 0)) s) :=
  keepsCache_foldl (fun t _ => keepsCache_ite (keepsCache_refl t) (keepsCache_install t _ _ _ _)) _ _

theorem keepsCache_touchLine (s : State) (cls la parts : Nat) (wr whole : Bool) :
    keepsCache s (touchLine s cls la parts wr whole) := by
  unfold touchLine
  rcases locate s (la * 256) with ⟨k, c, u⟩
  dsimp only
  split
  · exact keepsCache_trans (keepsCache_count _ _ _) (keepsCache_dirtyLine _ _ _)
  · refine keepsCache_ite (keepsCache_install _ _ _ _ _) ?_
    split
    · refine keepsCache_trans ?_ (keepsCache_fills _ _ _ _ _)
      exact keepsCache_trans (keepsCache_touchMeta keepsCache_evict _ _ _ _)
        (keepsCache_trans (keepsCache_count2 _ _ _ _ _) (keepsCache_count _ _ _))
    · exact keepsCache_trans (keepsCache_count2 _ _ _ _ _) (keepsCache_install _ _ _ _ _)

theorem keepsCache_endRecov (s : State) (la : Nat) : keepsCache s (endRecov s la) :=
  keepsCache_ite (keepsCache_refl _) (keepsCache_modStk _ _ rfl)

/-- An access to stacked memory changes the cache, counters and what events reach: no byte of memory, no other register. -/
theorem keepsCache_touch (s : State) (cls a n : Nat) (wr : Bool) : keepsCache s (touch s cls a n wr) := by
  unfold touch
  refine keepsCache_ite (keepsCache_refl _) (keepsCache_foldl (fun t i => ?_) _ _)
  simp only []
  have h : keepsCache t (if (wr && decide (a ≤ (a / 256 + i) * 256) && decide ((a / 256 + i) * 256 + 256 ≤ a + n)) = true then
      endRecov t (a / 256 + i) else t) := keepsCache_ite (keepsCache_endRecov _ _) (keepsCache_refl _)
  exact keepsCache_ite h (keepsCache_trans h (keepsCache_touchLine _ _ _ _ _ _))

/-! ### Packets -/

/-- A packet that leaves its buffer changes the fabric alone (R264). -/
theorem freeBuf_eq (s : State) (x : QPkt) : freeBuf s x = { s with fab := (freeBuf s x).fab } := by
  unfold freeBuf
  split
  · rfl
  · unfold addRet; split <;> rfl

/-- A packet that its unit takes changes the fabric alone. -/
theorem takePkt_eq (s : State) (k : Pkt) : takePkt s k = { s with fab := (takePkt s k).fab } := by
  unfold takePkt; split
  · rfl
  · exact (freeBuf_eq _ _).trans rfl

/-- A cell that its sink takes changes the fabric alone. -/
theorem takeCirc_eq (s : State) (n : Nat) (c : List CWord) : takeCirc s n c = { s with fab := (takeCirc s n c).fab } := rfl

end Sys2Proof.Machine
end

