-- ==== Sys2Proof/Laws/Kept.lean ====
section
/-! SUPPORT. Kept: a state in canonical form with a given queue of waiting commands; what keeps it so: a change of a field
outside the arrays, a write of an array that keeps its form, a choice, a fold. The files Kept<…> say it of every
operation of the model. -/

namespace Sys2Proof.Machine

theorem canon_iff (s : State) : s.canon = true ↔
    (Memory.wf s.mem = true ∧ smWf (fun _ => false) s.memPsn = true) ∧ smWf regReset s.regs = true ∧
    smWf (fun _ => square0) s.squares = true ∧ smWf (fun _ => bank0) s.banks = true ∧
    smWf (fun _ => (0 : W512)) s.dcfg = true ∧ smWf (fun _ => (0#32)) s.vregs = true ∧ smWf (fun _ => false) s.vpsn = true ∧
    smWf (fun _ => quarter0) s.quarters = true ∧ smWf (fun _ => 0) s.pmc = true := by
  simp only [State.canon, State.memOk, Bool.and_eq_true, and_assoc]

theorem foldl_keep {σ β : Type} {P : σ → Prop} {g : σ → β → σ} (l : List β) (hg : ∀ s x, P s → P (g s x)) {s : σ} (h : P s) :
    P (l.foldl g s) := by
  induction l generalizing s with
  | nil => exact h
  | cons a t ih => exact ih (hg _ _ h)

def Kept (pend : List Instr) (s : State) : Prop := s.canon = true ∧ s.pending = pend
variable {pend : List Instr}
theorem kept_mk_eq {s : State} {a b c d e f g i j k} : Kept pend (State.mk a b s.regs s.mem s.memPsn s.squares s.banks s.dcfg s.vregs s.vpsn s.quarters c d e f g i j k s.pmc s.pending) = Kept pend s := rfl
theorem kept_ite {c : Prop} [Decidable c] {s t : State} (h1 : c → Kept pend s) (h2 : ¬ c → Kept pend t) : Kept pend (if c then s else t) := by
  split <;> simp_all
theorem kept_ite1 {β : Type} {c : Prop} [Decidable c] {s t : State × β} (h1 : c → Kept pend s.1) (h2 : ¬ c → Kept pend t.1) : Kept pend (if c then s else t).1 := by
  split <;> simp_all
theorem kept_ite2 {β : Type} {c : Prop} [Decidable c] {s t : β × State} (h1 : c → Kept pend s.2) (h2 : ¬ c → Kept pend t.2) : Kept pend (if c then s else t).2 := by
  split <;> simp_all
theorem kept_regs {s : State} {m} (h : Kept pend s) (hm : smWf regReset m = true) : Kept pend { s with regs := m } := by
  unfold Kept at *; rw [canon_iff] at *; simp_all
theorem kept_mem {s : State} {m} (h : Kept pend s) (hm : Memory.wf m = true) : Kept pend { s with mem := m } := by
  unfold Kept at *; rw [canon_iff] at *; simp_all
theorem kept_psn {s : State} {m} (h : Kept pend s) (hm : smWf (fun _ => false) m = true) : Kept pend { s with memPsn := m } := by
  unfold Kept at *; rw [canon_iff] at *; simp_all
theorem kept_pmc {s : State} {m} (h : Kept pend s) (hm : smWf (fun _ => 0) m = true) : Kept pend { s with pmc := m } := by
  unfold Kept at *; rw [canon_iff] at *; simp_all
theorem kept_quarters {s : State} {m} (h : Kept pend s) (hm : smWf (fun _ => quarter0) m = true) : Kept pend { s with quarters := m } := by
  unfold Kept at *; rw [canon_iff] at *; simp_all
theorem kept_banks {s : State} {m} (h : Kept pend s) (hm : smWf (fun _ => bank0) m = true) : Kept pend { s with banks := m } := by
  unfold Kept at *; rw [canon_iff] at *; simp_all
theorem kept_dcfg {s : State} {m} (h : Kept pend s) (hm : smWf (fun _ => (0 : W512)) m = true) : Kept pend { s with dcfg := m } := by
  unfold Kept at *; rw [canon_iff] at *; simp_all
theorem kept_squares {s : State} {m} (h : Kept pend s) (hm : smWf (fun _ => square0) m = true) : Kept pend { s with squares := m } := by
  unfold Kept at *; rw [canon_iff] at *; simp_all
theorem kept_mp {s : State} {m q} (h : Kept pend s) (hm : Memory.wf m = true) (hq : smWf (fun _ => false) q = true) : Kept pend { s with mem := m, memPsn := q } := by
  unfold Kept at *; rw [canon_iff] at *; simp_all
theorem kept_vp {s : State} {m q} (h : Kept pend s) (hm : smWf (fun _ => (0#32)) m = true) (hq : smWf (fun _ => false) q = true) : Kept pend { s with vregs := m, vpsn := q } := by
  unfold Kept at *; rw [canon_iff] at *; simp_all
theorem kept_parts {s : State} (h : Kept pend s) : (Memory.wf s.mem = true ∧ smWf (fun _ => false) s.memPsn = true) ∧ smWf regReset s.regs = true ∧
    smWf (fun _ => square0) s.squares = true ∧ smWf (fun _ => bank0) s.banks = true ∧
    smWf (fun _ => (0 : W512)) s.dcfg = true ∧ smWf (fun _ => (0#32)) s.vregs = true ∧ smWf (fun _ => false) s.vpsn = true ∧
    smWf (fun _ => quarter0) s.quarters = true ∧ smWf (fun _ => 0) s.pmc = true := (canon_iff s).1 h.1
theorem kept_setReg (s : State) (o : Nat) (v : W64) (h : Kept pend s) : Kept pend (setReg s o v) := kept_regs h (smWf_set (d := regReset) (kept_parts h).2.1 o v)
theorem kept_setSquare (s : State) (n : Nat) (v : Square) (h : Kept pend s) : Kept pend (setSquare s n v) :=
  kept_squares h (smWf_set (d := fun _ => square0) (kept_parts h).2.2.1 n v)
theorem kept_setBank (s : State) (q c b : Nat) (v : Bank) (h : Kept pend s) : Kept pend (setBank s q c b v) :=
  kept_banks h (smWf_set (d := fun _ => bank0) (kept_parts h).2.2.2.1 _ v)
theorem kept_setVreg (s : State) (q c r l : Nat) (v : W32) (x : Bool) (h : Kept pend s) : Kept pend (setVreg s q c r l v x) :=
  kept_vp h (smWf_set (d := fun _ => (0#32)) (kept_parts h).2.2.2.2.2.1 _ _) (smWf_set (d := fun _ => false) (kept_parts h).2.2.2.2.2.2.1 _ _)
theorem kept_setQuarter (s : State) (q : Nat) (v : Quarter) (h : Kept pend s) : Kept pend (setQuarter s q v) :=
  kept_quarters h (smWf_set (d := fun _ => quarter0) (kept_parts h).2.2.2.2.2.2.2.1 q v)
theorem wf_putBytes {m : SMap Byte} (h : Memory.wf m = true) (a : Nat) (l : List Byte) : Memory.wf (putBytes m a l) = true := by
  induction l generalizing m a with
  | nil => exact h
  | cons b t ih => exact ih (smWf_set (d := fun _ => (0#8)) h a b) _

end Sys2Proof.Machine
end

