-- ==== Sys2Proof/Laws/KeptOps.lean ====
section
/-! SUPPORT. Canonical form and queue are kept (Kept) by the shared operations, the cache, the fabric queues, the streams and the operand forms: one lemma for each operation. -/

namespace Sys2Proof.Machine

variable {pend : List Instr}

/-! Ops -/

theorem kept_setFld (s : State) (o hi lo v : Nat) (hs : Kept pend s) : Kept pend (setFld s o hi lo v) := by
  unfold setFld
  try dsimp only
  repeat first
    | with_reducible first
      | assumption | apply kept_setReg | refine kept_ite (fun _ => ?_) (fun _ => ?_)
    | intro _ | dsimp only | split

theorem kept_addFld (s : State) (o hi lo n : Nat) (hs : Kept pend s) : Kept pend (addFld s o hi lo n) := by
  unfold addFld
  try dsimp only
  repeat first
    | with_reducible first
      | assumption | apply kept_setFld | refine kept_ite (fun _ => ?_) (fun _ => ?_)
    | intro _ | dsimp only | split

theorem kept_draw32 (s : State) (hs : Kept pend s) : Kept pend ((draw32 s).2) := by
  unfold draw32
  try dsimp only
  repeat first
    | with_reducible first
      | assumption | refine kept_ite (fun _ => ?_) (fun _ => ?_) | refine kept_ite2 (fun _ => ?_) (fun _ => ?_)
    | simp only [kept_mk_eq] | intro _ | dsimp only | split

theorem kept_draw256 (s : State) (hs : Kept pend s) : Kept pend ((draw256 s).2) := by
  unfold draw256
  try dsimp only
  repeat first
    | with_reducible first
      | assumption | refine kept_ite (fun _ => ?_) (fun _ => ?_) | refine kept_ite2 (fun _ => ?_) (fun _ => ?_)
    | simp only [kept_mk_eq] | intro _ | dsimp only | split

theorem kept_setErr (s : State) (blk : Blk) (b : Nat) (low : RecLow) (hs : Kept pend s) : Kept pend (setErr s blk b low) := by
  unfold setErr
  try dsimp only
  repeat first
    | with_reducible first
      | assumption | apply kept_setReg | refine kept_ite (fun _ => ?_) (fun _ => ?_)
    | simp only [kept_mk_eq] | intro _ | dsimp only | split

theorem kept_countH1 (k : Nat) (s : State) (j : Nat) (hs : Kept pend s) : Kept pend (countH1 k s j) := by
  have h1 : Kept pend { s with pmc := smSet 0 s.pmc (2048 + j) ((smGet 0 s.pmc (2048 + j) + k) % 2 ^ 32) } :=
    kept_pmc hs (smWf_set (d := fun _ => 0) (kept_parts hs).2.2.2.2.2.2.2.2 _ _)
  unfold countH1
  exact kept_ite (fun _ => kept_setReg _ _ _ h1) (fun _ => h1)

theorem kept_countOnly (s : State) (n k : Nat) (hs : Kept pend s) : Kept pend (countOnly s n k) := by
  have h1 : Kept pend { s with pmc := smSet 0 s.pmc n (min (smGet 0 s.pmc n + k) (2 ^ 48 - 1)) } :=
    kept_pmc hs (smWf_set (d := fun _ => 0) (kept_parts hs).2.2.2.2.2.2.2.2 _ _)
  unfold countOnly
  exact kept_ite (fun _ => hs) (fun _ => kept_ite (fun _ => foldl_keep _ (fun _ _ h => kept_countH1 _ _ _ h) h1) (fun _ => h1))

theorem kept_hostPush (s : State) (m : HostMsg) (hs : Kept pend s) : Kept pend (hostPush s m) := by
  unfold hostPush
  try dsimp only
  repeat first
    | with_reducible first
      | assumption | refine kept_ite (fun _ => ?_) (fun _ => ?_)
    | simp only [kept_mk_eq] | intro _ | dsimp only | split

theorem kept_msixPut (s : State) (vec : Nat) (hs : Kept pend s) : Kept pend ((msixPut s vec).1) := by
  unfold msixPut
  try dsimp only
  repeat first
    | with_reducible first
      | assumption | apply kept_addFld | apply kept_countOnly | apply kept_hostPush
      | refine kept_ite (fun _ => ?_) (fun _ => ?_) | refine kept_ite1 (fun _ => ?_) (fun _ => ?_)
    | simp only [kept_mk_eq] | intro _ | dsimp only | split

theorem kept_msixSend (s : State) (vec : Nat) (hs : Kept pend s) : Kept pend (msixSend s vec) := by
  unfold msixSend
  try dsimp only
  repeat first
    | with_reducible first
      | assumption | apply kept_setErr | apply kept_msixPut | refine kept_ite (fun _ => ?_) (fun _ => ?_)
    | intro _ | dsimp only | split

theorem kept_sourceSend (s : State) (e : Nat) (hs : Kept pend s) : Kept pend (sourceSend s e) := by
  unfold sourceSend
  try dsimp only
  repeat first
    | with_reducible first
      | assumption | apply kept_msixSend | refine kept_ite (fun _ => ?_) (fun _ => ?_)
    | intro _ | dsimp only | split

theorem kept_pmcSource (old s : State) (_hold : Kept pend old) (hs : Kept pend s) : Kept pend (pmcSource old s) := by
  unfold pmcSource
  try dsimp only
  repeat first
    | with_reducible first
      | assumption | apply kept_sourceSend | refine kept_ite (fun _ => ?_) (fun _ => ?_)
    | intro _ | dsimp only | split

theorem kept_count (s : State) (n k : Nat) (hs : Kept pend s) : Kept pend (count s n k) := by
  unfold count
  try dsimp only
  repeat first
    | with_reducible first
      | assumption | apply kept_countOnly | apply kept_pmcSource | refine kept_ite (fun _ => ?_) (fun _ => ?_)
    | intro _ | dsimp only | split

theorem kept_msixRaise (s : State) (vec : Nat) (hs : Kept pend s) : Kept pend (msixRaise s vec) := by
  unfold msixRaise
  try dsimp only
  repeat first
    | with_reducible first
      | assumption | apply kept_msixSend | apply kept_pmcSource | refine kept_ite (fun _ => ?_) (fun _ => ?_)
    | intro _ | dsimp only | split

theorem kept_fireEvent (s : State) (e : Nat) (hs : Kept pend s) : Kept pend (fireEvent s e) := by
  unfold fireEvent
  try dsimp only
  repeat first
    | with_reducible first
      | assumption | apply kept_sourceSend | apply kept_pmcSource | refine kept_ite (fun _ => ?_) (fun _ => ?_)
    | intro _ | dsimp only | split

theorem kept_raise (s : State) (blk : Blk) (b : Nat) (low : RecLow) (hs : Kept pend s) : Kept pend (raise s blk b low) := by
  unfold raise
  try dsimp only
  repeat first
    | with_reducible first
      | assumption | apply kept_setReg | apply kept_setErr | apply kept_fireEvent
      | refine kept_ite (fun _ => ?_) (fun _ => ?_)
    | simp only [kept_mk_eq] | intro _ | dsimp only | split

theorem kept_recClear (s : State) (blk : Blk) (hs : Kept pend s) : Kept pend (recClear s blk) := by
  unfold recClear
  try dsimp only
  repeat first
    | with_reducible first
      | assumption | apply kept_setReg | refine kept_ite (fun _ => ?_) (fun _ => ?_)
    | simp only [kept_mk_eq] | intro _ | dsimp only | split

theorem kept_raiseQ (s : State) (q b src addr : Nat) (hs : Kept pend s) : Kept pend (raiseQ s q b src addr) := by
  unfold raiseQ
  try dsimp only
  repeat first
    | with_reducible first
      | assumption | apply kept_raise | refine kept_ite (fun _ => ?_) (fun _ => ?_)
    | intro _ | dsimp only | split

theorem kept_hostWrite (s : State) (addr n : Nat) (v : W512) (ep ro : Bool) (hs : Kept pend s) : Kept pend (hostWrite s addr n v ep ro) := by
  unfold hostWrite
  try dsimp only
  repeat first
    | with_reducible first
      | assumption | apply kept_addFld | apply kept_hostPush | apply kept_count | apply kept_raise
      | refine kept_ite (fun _ => ?_) (fun _ => ?_)
    | intro _ | dsimp only | split

theorem kept_rangeErr (s : State) (blk : Blk) (off : Nat) (hs : Kept pend s) : Kept pend (rangeErr s blk off) := by
  unfold rangeErr
  try dsimp only
  repeat first
    | with_reducible first
      | assumption | apply kept_raise | refine kept_ite (fun _ => ?_) (fun _ => ?_)
    | intro _ | dsimp only | split

theorem kept_rwiErr (s : State) (blk : Blk) (off : Nat) (hs : Kept pend s) : Kept pend (rwiErr s blk off) := by
  unfold rwiErr
  try dsimp only
  repeat first
    | with_reducible first
      | assumption | apply kept_raise | refine kept_ite (fun _ => ?_) (fun _ => ?_)
    | intro _ | dsimp only | split

theorem kept_regPut (s : State) (blk : Blk) (off : Nat) (fs : List Fld) (idle legal : Bool) (v : W64) (hs : Kept pend s) : Kept pend (regPut s blk off fs idle legal v) := by
  unfold regPut
  try dsimp only
  repeat first
    | with_reducible first
      | assumption | apply kept_setReg | apply kept_rangeErr | apply kept_rwiErr
      | refine kept_ite (fun _ => ?_) (fun _ => ?_)
    | intro _ | dsimp only | split

theorem kept_breakRes (s : State) (w : Nat) (hs : Kept pend s) : Kept pend (breakRes s w) := by
  unfold breakRes
  exact kept_ite (fun _ => kept_quarters hs (smWf_set (d := fun _ => quarter0) (kept_parts hs).2.2.2.2.2.2.2.1 _ _)) (fun _ => hs)

theorem kept_noteDropped (s : State) (a n : Nat) (hs : Kept pend s) : Kept pend (noteDropped s a n) := by
  unfold noteDropped
  try dsimp only
  repeat first
    | with_reducible first
      | assumption | apply kept_addFld | refine kept_ite (fun _ => ?_) (fun _ => ?_)
      | refine foldl_keep _ (fun _ _ _ => ?_) ?_
    | intro _ | dsimp only | split

theorem kept_writePart (s : State) (w lo : Nat) (bs : List Byte) (hs : Kept pend s) : Kept pend (writePart s w lo bs) := by
  have hb := kept_breakRes s w hs
  have hm := (kept_parts hb).1
  unfold writePart
  exact kept_ite (fun _ => hs) (fun _ => kept_ite (fun _ => kept_mp hb (wf_putBytes hm.1 _ _) (smWf_set (d := fun _ => false) hm.2 _ _))
    (fun _ => kept_ite (fun _ => hb) (fun _ => kept_mem hb (wf_putBytes hm.1 _ _))))

theorem kept_writeLoop (f : Nat) (s : State) (a : Nat) (bs : List Byte) (hs : Kept pend s) : Kept pend (writeLoop s a bs f) := by
  induction f generalizing s a bs with
  | zero => exact hs
  | succ n ih =>
    unfold writeLoop
    split
    · exact hs
    · exact ih _ _ _ (kept_writePart _ _ _ _ hs)

theorem kept_writeBytes (s : State) (a : Nat) (bs : List Byte) (hs : Kept pend s) : Kept pend (writeBytes s a bs) := by
  unfold writeBytes
  try dsimp only
  repeat first
    | with_reducible first
      | assumption | apply kept_noteDropped | apply kept_writeLoop | refine kept_ite (fun _ => ?_) (fun _ => ?_)
    | intro _ | dsimp only | split

theorem kept_writeNat (s : State) (a n v : Nat) (hs : Kept pend s) : Kept pend (writeNat s a n v) := by
  unfold writeNat
  try dsimp only
  repeat first
    | with_reducible first
      | assumption | apply kept_writeBytes | refine kept_ite (fun _ => ?_) (fun _ => ?_)
    | intro _ | dsimp only | split

theorem kept_poisonPart (s : State) (w : Nat) (hs : Kept pend s) : Kept pend (poisonPart s w) := by
  have hb := kept_breakRes s w hs
  have hm := (kept_parts hb).1
  unfold poisonPart
  exact kept_ite (fun _ => hs) (fun _ => kept_mp hb (wf_putBytes hm.1 _ _) (smWf_set (d := fun _ => false) hm.2 _ _))

theorem kept_poisonWord (s : State) (w : Nat) (hs : Kept pend s) : Kept pend (poisonWord s w) := by
  unfold poisonWord
  try dsimp only
  repeat first
    | with_reducible first
      | assumption | apply kept_noteDropped | apply kept_poisonPart | refine kept_ite (fun _ => ?_) (fun _ => ?_)
    | intro _ | dsimp only | split

theorem kept_poisonRange (s : State) (a n : Nat) (hs : Kept pend s) : Kept pend (poisonRange s a n) := by
  unfold poisonRange
  try dsimp only
  repeat first
    | with_reducible first
      | assumption | apply kept_noteDropped | apply kept_poisonPart | refine kept_ite (fun _ => ?_) (fun _ => ?_)
      | refine foldl_keep _ (fun _ _ _ => ?_) ?_
    | intro _ | dsimp only | split

theorem kept_writeMarked (s : State) (a : Nat) (bs : List (Byte × Bool)) (hs : Kept pend s) : Kept pend (writeMarked s a bs) := by
  unfold writeMarked
  try dsimp only
  repeat first
    | with_reducible first
      | assumption | apply kept_writeBytes | apply kept_poisonPart | refine kept_ite (fun _ => ?_) (fun _ => ?_)
      | refine foldl_keep _ (fun _ _ _ => ?_) ?_
    | intro _ | dsimp only | split

theorem kept_putWords (l : List CWord) (s : State) (a : Nat) (hs : Kept pend s) : Kept pend (putWords s a l) := by
  induction l generalizing s a with
  | nil => exact hs
  | cons w t ih =>
    unfold putWords
    exact ih _ _ (kept_ite (fun _ => kept_poisonPart _ _ hs) (fun _ => kept_writePart _ _ _ _ hs))

theorem kept_writeWords (s : State) (a : Nat) (l : List CWord) (hs : Kept pend s) : Kept pend (writeWords s a l) := by
  unfold writeWords
  exact kept_putWords _ _ _ (kept_noteDropped _ _ _ hs)

theorem kept_sqAdd (s : State) (n amt : Nat) (hs : Kept pend s) : Kept pend (sqAdd s n amt) := by
  unfold sqAdd
  try dsimp only
  repeat first
    | with_reducible first
      | assumption | apply kept_setSquare | refine kept_ite (fun _ => ?_) (fun _ => ?_)
    | intro _ | dsimp only | split

theorem kept_sqPut (s : State) (n : Nat) (v : W32) (hs : Kept pend s) : Kept pend (sqPut s n v) := by
  unfold sqPut
  try dsimp only
  repeat first
    | with_reducible first
      | assumption | apply kept_setSquare | refine kept_ite (fun _ => ?_) (fun _ => ?_)
    | intro _ | dsimp only | split

theorem kept_modQuarter (s : State) (q : Nat) (f : Quarter → Quarter) (hs : Kept pend s) : Kept pend (modQuarter s q f) := by
  unfold modQuarter
  try dsimp only
  repeat first
    | with_reducible first
      | assumption | apply kept_setQuarter | refine kept_ite (fun _ => ?_) (fun _ => ?_)
    | intro _ | dsimp only | split

theorem kept_setStrm (s : State) (q i : Nat) (v : Strm) (hs : Kept pend s) : Kept pend (setStrm s q i v) := by
  unfold setStrm
  try dsimp only
  repeat first
    | with_reducible first
      | assumption | apply kept_modQuarter | refine kept_ite (fun _ => ?_) (fun _ => ?_)
    | simp only [kept_mk_eq] | intro _ | dsimp only | split

theorem kept_ccIrq (s : State) (q b : Nat) (hs : Kept pend s) : Kept pend (ccIrq s q b) := by
  unfold ccIrq
  try dsimp only
  repeat first
    | with_reducible first
      | assumption | apply kept_setReg | refine kept_ite (fun _ => ?_) (fun _ => ?_)
    | intro _ | dsimp only | split

theorem kept_countSlots (s : State) (q c i n : Nat) (hs : Kept pend s) : Kept pend (countSlots s q c i n) := by
  unfold countSlots
  try dsimp only
  repeat first
    | with_reducible first
      | assumption | apply kept_count | refine kept_ite (fun _ => ?_) (fun _ => ?_)
    | intro _ | dsimp only | split

theorem kept_modAdm (s : State) (id : Nat) (f : Adm → Adm) (hs : Kept pend s) : Kept pend (modAdm s id f) := by
  unfold modAdm
  try dsimp only
  repeat first
    | with_reducible first
      | assumption | refine kept_ite (fun _ => ?_) (fun _ => ?_)
    | simp only [kept_mk_eq] | intro _ | dsimp only | split

theorem kept_noteOverrun (s : State) (id code : Nat) (hs : Kept pend s) : Kept pend (noteOverrun s id code) := by
  unfold noteOverrun
  try dsimp only
  repeat first
    | with_reducible first
      | assumption | refine kept_ite (fun _ => ?_) (fun _ => ?_)
    | simp only [kept_mk_eq] | intro _ | dsimp only | split

theorem kept_admEnd (s : State) (id code detail : Nat) (hs : Kept pend s) : Kept pend (admEnd s id code detail) := by
  unfold admEnd
  try dsimp only
  repeat first
    | with_reducible first
      | assumption | apply kept_modAdm | apply kept_noteOverrun | refine kept_ite (fun _ => ?_) (fun _ => ?_)
    | simp only [kept_mk_eq] | intro _ | dsimp only | split

theorem kept_launchFault (s : State) (q status : Nat) (hs : Kept pend s) : Kept pend (launchFault s q status) := by
  unfold launchFault
  try dsimp only
  repeat first
    | with_reducible first
      | assumption | apply kept_admEnd | refine kept_ite (fun _ => ?_) (fun _ => ?_)
    | simp only [kept_mk_eq] | intro _ | dsimp only | split

theorem kept_engFault (s : State) (q i status off : Nat) (hs : Kept pend s) : Kept pend (engFault s q i status off) := by
  unfold engFault
  try dsimp only
  repeat first
    | with_reducible first
      | assumption | apply kept_setReg | apply kept_modQuarter | apply kept_ccIrq | apply kept_launchFault
      | refine kept_ite (fun _ => ?_) (fun _ => ?_)
    | simp only [kept_mk_eq] | intro _ | dsimp only | split

theorem kept_aerSet (s : State) (b : Nat) (hs : Kept pend s) : Kept pend (aerSet s b) := by
  unfold aerSet
  try dsimp only
  repeat first
    | with_reducible first
      | assumption | refine kept_ite (fun _ => ?_) (fun _ => ?_)
    | simp only [kept_mk_eq] | intro _ | dsimp only | split

theorem kept_pcieReport (s : State) (e : PcieErr) (hs : Kept pend s) : Kept pend (pcieReport s e) := by
  unfold pcieReport
  try dsimp only
  repeat first
    | with_reducible first
      | assumption | apply kept_aerSet | refine kept_ite (fun _ => ?_) (fun _ => ?_)
    | simp only [kept_mk_eq] | intro _ | dsimp only | split

theorem kept_poisonRx (s : State) (a : Nat) (hs : Kept pend s) : Kept pend (poisonRx s a) := by
  unfold poisonRx
  try dsimp only
  repeat first
    | with_reducible first
      | assumption | apply kept_raise | apply kept_aerSet | refine kept_ite (fun _ => ?_) (fun _ => ?_)
    | intro _ | dsimp only | split

theorem kept_readTimeout (s : State) (hs : Kept pend s) : Kept pend (readTimeout s) := by
  unfold readTimeout
  try dsimp only
  repeat first
    | with_reducible first
      | assumption | apply kept_raise | apply kept_aerSet | refine kept_ite (fun _ => ?_) (fun _ => ?_)
    | intro _ | dsimp only | split

theorem kept_unsupported (s : State) (hs : Kept pend s) : Kept pend (unsupported s) := by
  unfold unsupported
  try dsimp only
  repeat first
    | with_reducible first
      | assumption | refine kept_ite (fun _ => ?_) (fun _ => ?_)
    | simp only [kept_mk_eq] | intro _ | dsimp only | split

theorem kept_unsupportedWrite (s : State) (hs : Kept pend s) : Kept pend (unsupportedWrite s) := by
  unfold unsupportedWrite
  try dsimp only
  repeat first
    | with_reducible first
      | assumption | apply kept_aerSet | refine kept_ite (fun _ => ?_) (fun _ => ?_)
    | intro _ | dsimp only | split

theorem kept_fromSrc (s : State) (src : Src) (act : State → State) (hs : Kept pend s) (hact : ∀ s, Kept pend s → Kept pend (act s)) : Kept pend (fromSrc s src act) := by
  unfold fromSrc
  try dsimp only
  repeat first
    | with_reducible first
      | assumption | apply hact | apply kept_unsupportedWrite | refine kept_ite (fun _ => ?_) (fun _ => ?_)
    | simp only [kept_mk_eq] | intro _ | dsimp only | split

/-! Cache -/

theorem kept_modStk (s : State) (f : Stk → Stk) (hs : Kept pend s) : Kept pend (modStk s f) := by
  unfold modStk
  try dsimp only
  repeat first
    | with_reducible first
      | assumption | refine kept_ite (fun _ => ?_) (fun _ => ?_)
    | simp only [kept_mk_eq] | intro _ | dsimp only | split

theorem kept_dirtyLine (s : State) (key dirty : Nat) (hs : Kept pend s) : Kept pend (dirtyLine s key dirty) := by
  unfold dirtyLine
  try dsimp only
  repeat first
    | with_reducible first
      | assumption | apply kept_modStk | refine kept_ite (fun _ => ?_) (fun _ => ?_)
    | simp only [kept_mk_eq] | intro _ | dsimp only | split

theorem kept_writeBack (s : State) (key : Nat) (c : CLine) (hs : Kept pend s) : Kept pend (writeBack s key c) := by
  unfold writeBack
  try dsimp only
  repeat first
    | with_reducible first
      | assumption | apply kept_count | apply kept_modStk | refine kept_ite (fun _ => ?_) (fun _ => ?_)
    | simp only [kept_mk_eq] | intro _ | dsimp only | split

theorem kept_placeLine (s : State) (key la dirty : Nat) (hs : Kept pend s) : Kept pend (placeLine s key la dirty) := by
  unfold placeLine
  try dsimp only
  repeat first
    | with_reducible first
      | assumption | apply kept_modStk | refine kept_ite (fun _ => ?_) (fun _ => ?_)
    | simp only [kept_mk_eq] | intro _ | dsimp only | split

theorem kept_touchMeta (drop : State → Nat → State) (s : State) (cls a : Nat) (wr : Bool)
    (hd : ∀ t n, Kept pend t → Kept pend (drop t n)) (hs : Kept pend s) : Kept pend (touchMeta drop s cls a wr) := by
  unfold touchMeta
  dsimp only
  split
  · exact kept_dirtyLine _ _ _ (kept_count _ _ _ hs)
  · exact kept_placeLine _ _ _ _ (hd _ _ (kept_count _ _ _ (kept_count _ _ _ hs)))

theorem kept_evictLoop (f : Nat) (s : State) (key : Nat) (hs : Kept pend s) : Kept pend (evictLoop f s key) := by
  induction f generalizing s key with
  | zero => exact hs
  | succ n ih =>
    unfold evictLoop
    split
    · exact hs
    · have h1 := fun p => kept_writeBack s key p hs
      dsimp only
      exact kept_ite (fun _ => kept_touchMeta _ _ _ _ _ ih (h1 _)) (fun _ => h1 _)

theorem kept_evict (s : State) (key : Nat) (hs : Kept pend s) : Kept pend (evict s key) := kept_evictLoop _ _ _ hs

theorem kept_install (s : State) (k cls la dirty : Nat) (hs : Kept pend s) : Kept pend (install s k cls la dirty) := by
  unfold install
  try dsimp only
  repeat first
    | with_reducible first
      | assumption | apply kept_placeLine | apply kept_evict | refine kept_ite (fun _ => ?_) (fun _ => ?_)
    | intro _ | dsimp only | split

theorem kept_dropLines (s : State) (a n : Nat) (hs : Kept pend s) : Kept pend (dropLines s a n) := by
  unfold dropLines
  try dsimp only
  repeat first
    | with_reducible first
      | assumption | apply kept_evict | refine kept_ite (fun _ => ?_) (fun _ => ?_)
      | refine foldl_keep _ (fun _ _ _ => ?_) ?_
    | intro _ | dsimp only | split

theorem kept_touchLine (s : State) (cls la parts : Nat) (wr whole : Bool) (hs : Kept pend s) :
    Kept pend (touchLine s cls la parts wr whole) := by
  unfold touchLine
  dsimp only
  split
  · exact kept_dirtyLine _ _ _ (kept_count _ _ _ hs)
  · refine kept_ite (fun _ => kept_install _ _ _ _ _ hs) (fun _ => ?_)
    split
    · refine foldl_keep _ (fun t _ h => kept_ite (fun _ => h) (fun _ => kept_install _ _ _ _ _ h)) ?_
      exact kept_count _ _ _ (kept_count _ _ _ (kept_count _ _ _ (kept_touchMeta _ _ _ _ _ (fun _ _ h => kept_evict _ _ h) hs)))
    · exact kept_install _ _ _ _ _ (kept_count _ _ _ (kept_count _ _ _ hs))

theorem kept_endRecov (s : State) (la : Nat) (hs : Kept pend s) : Kept pend (endRecov s la) := by
  unfold endRecov
  try dsimp only
  repeat first
    | with_reducible first
      | assumption | apply kept_modStk | refine kept_ite (fun _ => ?_) (fun _ => ?_)
    | simp only [kept_mk_eq] | intro _ | dsimp only | split

theorem kept_touch (s : State) (cls a n : Nat) (wr : Bool) (hs : Kept pend s) : Kept pend (touch s cls a n wr) := by
  unfold touch
  try dsimp only
  repeat first
    | with_reducible first
      | assumption | apply kept_touchLine | apply kept_endRecov | refine kept_ite (fun _ => ?_) (fun _ => ?_)
      | refine foldl_keep _ (fun _ _ _ => ?_) ?_
    | intro _ | dsimp only | split

/-! FabOps -/

theorem kept_modFab (s : State) (f : Fab → Fab) (hs : Kept pend s) : Kept pend (modFab s f) := by
  unfold modFab
  try dsimp only
  repeat first
    | with_reducible first
      | assumption | refine kept_ite (fun _ => ?_) (fun _ => ?_)
    | simp only [kept_mk_eq] | intro _ | dsimp only | split

theorem kept_raiseF (s : State) (b port addr : Nat) (hs : Kept pend s) : Kept pend (raiseF s b port addr) := by
  unfold raiseF
  try dsimp only
  repeat first
    | with_reducible first
      | assumption | apply kept_count | apply kept_raise | refine kept_ite (fun _ => ?_) (fun _ => ?_)
    | simp only [kept_mk_eq] | intro _ | dsimp only | split

theorem kept_offer (s : State) (p n : Nat) (hs : Kept pend s) : Kept pend (offer s p n) := by
  unfold offer
  try dsimp only
  repeat first
    | with_reducible first
      | assumption | refine kept_ite (fun _ => ?_) (fun _ => ?_)
    | simp only [kept_mk_eq] | intro _ | dsimp only | split

theorem kept_pushQ (s : State) (p : Nat) (x : QPkt) (hs : Kept pend s) : Kept pend (pushQ s p x) := by
  unfold pushQ
  try dsimp only
  repeat first
    | with_reducible first
      | assumption | apply kept_modFab | apply kept_offer | refine kept_ite (fun _ => ?_) (fun _ => ?_)
    | simp only [kept_mk_eq] | intro _ | dsimp only | split

theorem kept_pushPkt (s : State) (p : Nat) (k : Pkt) (hs : Kept pend s) : Kept pend (pushPkt s p k) := by
  unfold pushPkt
  try dsimp only
  repeat first
    | with_reducible first
      | assumption | apply kept_pushQ | refine kept_ite (fun _ => ?_) (fun _ => ?_)
    | intro _ | dsimp only | split

theorem kept_deliver (s : State) (k : Pkt) (hs : Kept pend s) : Kept pend (deliver s k) := by
  unfold deliver
  try dsimp only
  repeat first
    | with_reducible first
      | assumption | apply kept_modFab | refine kept_ite (fun _ => ?_) (fun _ => ?_)
    | simp only [kept_mk_eq] | intro _ | dsimp only | split

theorem kept_pushCtrl (s : State) (p : Nat) (k : Pkt) (hs : Kept pend s) : Kept pend (pushCtrl s p k) := by
  unfold pushCtrl
  try dsimp only
  repeat first
    | with_reducible first
      | assumption | apply kept_modFab | refine kept_ite (fun _ => ?_) (fun _ => ?_)
    | simp only [kept_mk_eq] | intro _ | dsimp only | split

theorem kept_inject (s : State) (k : Pkt) (hs : Kept pend s) : Kept pend (inject s k) := by
  unfold inject
  try dsimp only
  repeat first
    | with_reducible first
      | assumption | apply kept_raiseF | apply kept_pushPkt | apply kept_deliver
      | refine kept_ite (fun _ => ?_) (fun _ => ?_)
    | simp only [kept_mk_eq] | intro _ | dsimp only | split

theorem kept_sendReq (s : State) (dst flow typ : Nat) (ws : List CWord) (addr len q op : Nat) (port : Option Nat) (hs : Kept pend s) : Kept pend (sendReq s dst flow typ ws addr len q op port) := by
  unfold sendReq
  try dsimp only
  repeat first
    | with_reducible first
      | assumption | apply kept_modFab | apply kept_pushPkt | apply kept_inject
      | refine kept_ite (fun _ => ?_) (fun _ => ?_)
    | simp only [kept_mk_eq] | intro _ | dsimp only | split

theorem kept_sendWrite (s : State) (dst flow typ afmt a : Nat) (ws : List CWord) (q op : Nat) (port : Option Nat) (hs : Kept pend s) : Kept pend (sendWrite s dst flow typ afmt a ws q op port) := by
  unfold sendWrite
  try dsimp only
  repeat first
    | with_reducible first
      | assumption | apply kept_sendReq | refine kept_ite (fun _ => ?_) (fun _ => ?_)
      | refine foldl_keep _ (fun _ _ _ => ?_) ?_
    | intro _ | dsimp only | split

theorem kept_sendRead (s : State) (dst flow a n d q op : Nat) (hs : Kept pend s) : Kept pend (sendRead s dst flow a n d q op) := by
  unfold sendRead
  try dsimp only
  repeat first
    | with_reducible first
      | assumption | apply kept_sendReq | refine kept_ite (fun _ => ?_) (fun _ => ?_)
      | refine foldl_keep _ (fun _ _ _ => ?_) ?_
    | intro _ | dsimp only | split

theorem kept_sendSignal (s : State) (dst flow sq amt q op : Nat) (port : Option Nat) (hs : Kept pend s) : Kept pend (sendSignal s dst flow sq amt q op port) := by
  unfold sendSignal
  try dsimp only
  repeat first
    | with_reducible first
      | assumption | apply kept_sendReq | refine kept_ite (fun _ => ?_) (fun _ => ?_)
    | intro _ | dsimp only | split

theorem kept_circPut (s : State) (n : Nat) (c : List CWord) (hs : Kept pend s) : Kept pend (circPut s n c) := by
  unfold circPut
  try dsimp only
  repeat first
    | with_reducible first
      | assumption | apply kept_modFab | refine kept_ite (fun _ => ?_) (fun _ => ?_)
      | refine foldl_keep _ (fun _ _ _ => ?_) ?_
    | simp only [kept_mk_eq] | intro _ | dsimp only | split

theorem kept_circPumpLoop (l : List (Nat × List CWord)) (s : State) (n : Nat) (hs : Kept pend s) : Kept pend (circPumpLoop s n l) := by
  induction l generalizing s with
  | nil => exact kept_modFab _ _ hs
  | cons c t ih =>
    unfold circPumpLoop
    exact kept_ite (fun _ => kept_modFab _ _ hs) (fun _ => ih _ (kept_circPut _ _ _ (kept_modFab _ _ hs)))

theorem kept_circPump (s : State) (n : Nat) (hs : Kept pend s) : Kept pend (circPump s n) := by
  unfold circPump
  try dsimp only
  repeat first
    | with_reducible first
      | assumption | apply kept_circPumpLoop | refine kept_ite (fun _ => ?_) (fun _ => ?_)
    | intro _ | dsimp only | split

theorem kept_circSend (s : State) (n own : Nat) (cells : List (List CWord)) (hs : Kept pend s) : Kept pend (circSend s n own cells) := by
  unfold circSend
  try dsimp only
  repeat first
    | with_reducible first
      | assumption | apply kept_modFab | apply kept_circPump | refine kept_ite (fun _ => ?_) (fun _ => ?_)
    | simp only [kept_mk_eq] | intro _ | dsimp only | split

theorem kept_circDrop (s : State) (n own : Nat) (hs : Kept pend s) : Kept pend (circDrop s n own) := by
  unfold circDrop
  try dsimp only
  repeat first
    | with_reducible first
      | assumption | apply kept_modFab | refine kept_ite (fun _ => ?_) (fun _ => ?_)
    | simp only [kept_mk_eq] | intro _ | dsimp only | split

theorem kept_circWrite (s : State) (n own a : Nat) (ws : List CWord) (hs : Kept pend s) : Kept pend (circWrite s n own a ws) := by
  unfold circWrite
  try dsimp only
  repeat first
    | with_reducible first
      | assumption | apply kept_circSend | refine kept_ite (fun _ => ?_) (fun _ => ?_)
    | intro _ | dsimp only | split

theorem kept_circSignalSend (s : State) (n sq amt : Nat) (hs : Kept pend s) : Kept pend (circSignalSend s n sq amt) := by
  unfold circSignalSend
  try dsimp only
  repeat first
    | with_reducible first
      | assumption | apply kept_circSend | refine kept_ite (fun _ => ?_) (fun _ => ?_)
    | intro _ | dsimp only | split

theorem kept_addRet (s : State) (p key u : Nat) (hs : Kept pend s) : Kept pend (addRet s p key u) := by
  unfold addRet
  try dsimp only
  repeat first
    | with_reducible first
      | assumption | apply kept_modFab | refine kept_ite (fun _ => ?_) (fun _ => ?_)
    | simp only [kept_mk_eq] | intro _ | dsimp only | split

theorem kept_circUp (s : State) (n u : Nat) (hs : Kept pend s) : Kept pend (circUp s n u) := by
  unfold circUp
  try dsimp only
  repeat first
    | with_reducible first
      | assumption | apply kept_modFab | apply kept_circPump | apply kept_addRet
      | refine kept_ite (fun _ => ?_) (fun _ => ?_)
    | simp only [kept_mk_eq] | intro _ | dsimp only | split

theorem kept_circReturn (s : State) (n branch u : Nat) (hs : Kept pend s) : Kept pend (circReturn s n branch u) := by
  unfold circReturn
  try dsimp only
  repeat first
    | with_reducible first
      | assumption | apply kept_modFab | apply kept_circUp | refine kept_ite (fun _ => ?_) (fun _ => ?_)
      | refine foldl_keep _ (fun _ _ _ => ?_) ?_
    | simp only [kept_mk_eq] | intro _ | dsimp only | split

theorem kept_sinkFree (s : State) (n k : Nat) (hs : Kept pend s) : Kept pend (sinkFree s n k) := by
  unfold sinkFree
  try dsimp only
  repeat first
    | with_reducible first
      | assumption | apply kept_modFab | apply kept_circReturn | refine kept_ite (fun _ => ?_) (fun _ => ?_)
    | simp only [kept_mk_eq] | intro _ | dsimp only | split

theorem kept_takeCirc (s : State) (n : Nat) (cell : List CWord) (hs : Kept pend s) : Kept pend (takeCirc s n cell) := by
  unfold takeCirc
  try dsimp only
  repeat first
    | with_reducible first
      | assumption | apply kept_modFab | refine kept_ite (fun _ => ?_) (fun _ => ?_)
    | simp only [kept_mk_eq] | intro _ | dsimp only | split

theorem kept_modSink (s : State) (n : Nat) (f : Sink → Sink) (hs : Kept pend s) : Kept pend (modSink s n f) := by
  unfold modSink
  try dsimp only
  repeat first
    | with_reducible first
      | assumption | apply kept_modFab | refine kept_ite (fun _ => ?_) (fun _ => ?_)
    | simp only [kept_mk_eq] | intro _ | dsimp only | split

theorem kept_raiseSink (s : State) (n addr : Nat) (hs : Kept pend s) : Kept pend (raiseSink s n addr) := by
  unfold raiseSink
  try dsimp only
  repeat first
    | with_reducible first
      | assumption | apply kept_raiseF | refine kept_ite (fun _ => ?_) (fun _ => ?_)
    | intro _ | dsimp only | split

theorem kept_sinkCtl (s : State) (n : Nat) (c : List CWord) (kind : Nat) (hs : Kept pend s) : Kept pend ((sinkCtl s n c kind).1) := by
  unfold sinkCtl
  try dsimp only
  repeat first
    | with_reducible first
      | assumption | apply kept_sinkFree | apply kept_takeCirc | apply kept_modSink | apply kept_raiseSink
      | refine kept_ite (fun _ => ?_) (fun _ => ?_) | refine kept_ite1 (fun _ => ?_) (fun _ => ?_)
    | simp only [kept_mk_eq] | intro _ | dsimp only | split

/-! Stream -/

theorem kept_advanceFetch (s : State) (q i : Nat) (hs : Kept pend s) : Kept pend (advanceFetch s q i) := by
  unfold advanceFetch
  try dsimp only
  repeat first
    | with_reducible first
      | assumption | apply kept_setFld | apply kept_ccIrq | refine kept_ite (fun _ => ?_) (fun _ => ?_)
    | intro _ | dsimp only | split

theorem kept_doFetch (s : State) (q i : Nat) (hs : Kept pend s) : Kept pend (doFetch s q i) := by
  have h1 := kept_advanceFetch s q i hs
  unfold doFetch
  refine kept_ite (fun _ => hs) fun _ => ?_
  generalize nextWord s q i = x
  obtain ⟨f, psn⟩ := x
  dsimp only
  split
  · exact kept_engFault _ _ _ _ _ h1
  · exact kept_setStrm _ _ _ _ h1

theorem kept_popHead (s : State) (q i : Nat) (hs : Kept pend s) : Kept pend (popHead s q i) := by
  unfold popHead
  try dsimp only
  repeat first
    | with_reducible first
      | assumption | apply kept_setStrm | refine kept_ite (fun _ => ?_) (fun _ => ?_)
    | intro _ | dsimp only | split

theorem kept_failHead (s : State) (q i st : Nat) (f : Fetched) (hs : Kept pend s) : Kept pend (failHead s q i st f) := by
  unfold failHead
  try dsimp only
  repeat first
    | with_reducible first
      | assumption | apply kept_engFault | apply kept_popHead | refine kept_ite (fun _ => ?_) (fun _ => ?_)
    | intro _ | dsimp only | split

theorem kept_keepPred (s : State) (q i : Nat) (b : Bool) (hs : Kept pend s) : Kept pend (keepPred s q i b) := by
  unfold keepPred
  try dsimp only
  repeat first
    | with_reducible first
      | assumption | apply kept_setStrm | refine kept_ite (fun _ => ?_) (fun _ => ?_)
    | simp only [kept_mk_eq] | intro _ | dsimp only | split

theorem kept_slotWait (s : State) (q i : Nat) (hs : Kept pend s) : Kept pend (slotWait s q i) := by
  unfold slotWait
  try dsimp only
  repeat first
    | with_reducible first
      | assumption | apply kept_setStrm | refine kept_ite (fun _ => ?_) (fun _ => ?_)
    | simp only [kept_mk_eq] | intro _ | dsimp only | split

theorem kept_startOp (s : State) (q i : Nat) (f : Fetched) (slot fin : Bool) (stat : Option Stat) (recs : List (Nat × Byte)) (tgt : SigTo) (after : List After) (hs : Kept pend s) : Kept pend (startOp s q i f slot fin stat recs tgt after) := by
  unfold startOp
  try dsimp only
  repeat first
    | with_reducible first
      | assumption | apply kept_modQuarter | refine kept_ite (fun _ => ?_) (fun _ => ?_)
    | simp only [kept_mk_eq] | intro _ | dsimp only | split

theorem kept_amendOp (s : State) (q : Nat) (g : Op → Op) (hs : Kept pend s) : Kept pend (amendOp s q g) := by
  unfold amendOp
  try dsimp only
  repeat first
    | with_reducible first
      | assumption | apply kept_modQuarter | refine kept_ite (fun _ => ?_) (fun _ => ?_)
    | simp only [kept_mk_eq] | intro _ | dsimp only | split

theorem kept_headerSignal (s : State) (q i : Nat) (w : W128) (tgt : SigTo) (hs : Kept pend s) : Kept pend (headerSignal s q i w tgt) := by
  unfold headerSignal
  try dsimp only
  repeat first
    | with_reducible first
      | assumption | apply kept_sqAdd | apply kept_sendSignal | apply kept_circSignalSend
      | refine kept_ite (fun _ => ?_) (fun _ => ?_)
    | simp only [kept_mk_eq] | intro _ | dsimp only | split

theorem kept_endNow (s : State) (q i : Nat) (f : Fetched) (tgt : SigTo) (hs : Kept pend s) : Kept pend (endNow s q i f tgt) := by
  unfold endNow
  try dsimp only
  repeat first
    | with_reducible first
      | assumption | apply kept_popHead | apply kept_headerSignal | refine kept_ite (fun _ => ?_) (fun _ => ?_)
    | intro _ | dsimp only | split

theorem kept_skipNow (s : State) (q i : Nat) (f : Fetched) (tgt : SigTo) (hs : Kept pend s) : Kept pend (skipNow s q i f tgt) := by
  unfold skipNow
  try dsimp only
  repeat first
    | with_reducible first
      | assumption | apply kept_count | apply kept_endNow | refine kept_ite (fun _ => ?_) (fun _ => ?_)
    | intro _ | dsimp only | split

theorem kept_doNop (s : State) (q i : Nat) (hs : Kept pend s) : Kept pend (doNop s q i) := by
  unfold doNop
  try dsimp only
  repeat first
    | with_reducible first
      | assumption | apply kept_failHead | apply kept_endNow | apply kept_skipNow
      | refine kept_ite (fun _ => ?_) (fun _ => ?_)
    | simp only [kept_mk_eq] | intro _ | dsimp only | split

theorem kept_sqsigSend (s : State) (q op : Nat) (w : W128) (hs : Kept pend s) : Kept pend (sqsigSend s q op w) := by
  unfold sqsigSend
  try dsimp only
  repeat first
    | with_reducible first
      | assumption | apply kept_sqAdd | apply kept_sendSignal | refine kept_ite (fun _ => ?_) (fun _ => ?_)
    | intro _ | dsimp only | split

theorem kept_doSqsig (s : State) (q i : Nat) (hs : Kept pend s) : Kept pend (doSqsig s q i) := by
  unfold doSqsig
  try dsimp only
  repeat first
    | with_reducible first
      | assumption | apply kept_popHead | apply kept_failHead | apply kept_startOp | apply kept_headerSignal
      | apply kept_skipNow | apply kept_sqsigSend | refine kept_ite (fun _ => ?_) (fun _ => ?_)
    | simp only [kept_mk_eq] | intro _ | dsimp only | split

theorem kept_doSqwait (s : State) (q i : Nat) (hs : Kept pend s) : Kept pend (doSqwait s q i) := by
  unfold doSqwait
  try dsimp only
  repeat first
    | with_reducible first
      | assumption | apply kept_setStrm | apply kept_failHead | apply kept_endNow | apply kept_skipNow
      | refine kept_ite (fun _ => ?_) (fun _ => ?_)
    | simp only [kept_mk_eq] | intro _ | dsimp only | split

theorem kept_doSqwaitResume (s : State) (q i : Nat) (hs : Kept pend s) : Kept pend (doSqwaitResume s q i) := by
  unfold doSqwaitResume
  try dsimp only
  repeat first
    | with_reducible first
      | assumption | apply kept_failHead | apply kept_endNow | refine kept_ite (fun _ => ?_) (fun _ => ?_)
    | simp only [kept_mk_eq] | intro _ | dsimp only | split

theorem kept_doSqset (s : State) (q i : Nat) (hs : Kept pend s) : Kept pend (doSqset s q i) := by
  unfold doSqset
  try dsimp only
  repeat first
    | with_reducible first
      | assumption | apply kept_sqPut | apply kept_failHead | apply kept_endNow | apply kept_skipNow
      | refine kept_ite (fun _ => ?_) (fun _ => ?_)
    | simp only [kept_mk_eq] | intro _ | dsimp only | split

theorem kept_writeRecs (l : List (Nat × Byte)) (s : State) (hs : Kept pend s) : Kept pend (writeRecs s l) := by
  induction l generalizing s with
  | nil => exact hs
  | cons c t ih => exact ih _ (kept_writeBytes _ _ _ hs)

theorem kept_dropOp (s : State) (q id : Nat) (hs : Kept pend s) : Kept pend (dropOp s q id) := by
  unfold dropOp
  try dsimp only
  repeat first
    | with_reducible first
      | assumption | apply kept_modQuarter | refine kept_ite (fun _ => ?_) (fun _ => ?_)
    | simp only [kept_mk_eq] | intro _ | dsimp only | split

theorem kept_retireCounts (s : State) (q : Nat) (o : Op) (hs : Kept pend s) : Kept pend (retireCounts s q o) := by
  unfold retireCounts
  try dsimp only
  repeat first
    | with_reducible first
      | assumption | apply kept_count | apply kept_countSlots | refine kept_ite (fun _ => ?_) (fun _ => ?_)
    | intro _ | dsimp only | split

theorem kept_retireOp (s : State) (q : Nat) (o : Op) (hs : Kept pend s) : Kept pend (retireOp s q o) := by
  unfold retireOp
  try dsimp only
  repeat first
    | with_reducible first
      | assumption | apply kept_headerSignal | apply kept_writeRecs | apply kept_dropOp | apply kept_retireCounts
      | refine kept_ite (fun _ => ?_) (fun _ => ?_)
    | intro _ | dsimp only | split

theorem kept_doRetire (s : State) (q i : Nat) (hs : Kept pend s) : Kept pend (doRetire s q i) := by
  unfold doRetire
  try dsimp only
  repeat first
    | with_reducible first
      | assumption | apply kept_modQuarter | apply kept_sqsigSend | apply kept_retireOp
      | refine kept_ite (fun _ => ?_) (fun _ => ?_)
    | simp only [kept_mk_eq] | intro _ | dsimp only | split

theorem kept_waitFault (s : State) (q i off : Nat) (hs : Kept pend s) : Kept pend (waitFault s q i off) := by
  unfold waitFault
  try dsimp only
  repeat first
    | with_reducible first
      | assumption | apply kept_raiseQ | apply kept_engFault | refine kept_ite (fun _ => ?_) (fun _ => ?_)
    | intro _ | dsimp only | split

theorem kept_freeDrainBank (s : State) (q : Nat) (o : Op) (hs : Kept pend s) : Kept pend (freeDrainBank s q o) := by
  unfold freeDrainBank
  try dsimp only
  repeat first
    | with_reducible first
      | assumption | apply kept_setBank | refine kept_ite (fun _ => ?_) (fun _ => ?_)
    | simp only [kept_mk_eq] | intro _ | dsimp only | split

theorem kept_orphanReqs (s : State) (q op : Nat) (hs : Kept pend s) : Kept pend (orphanReqs s q op) := by
  unfold orphanReqs
  try dsimp only
  repeat first
    | with_reducible first
      | assumption | apply kept_modFab | refine kept_ite (fun _ => ?_) (fun _ => ?_)
    | simp only [kept_mk_eq] | intro _ | dsimp only | split

theorem kept_abandonOp (s : State) (q : Nat) (o : Op) (hs : Kept pend s) : Kept pend (abandonOp s q o) := by
  unfold abandonOp
  try dsimp only
  repeat first
    | with_reducible first
      | assumption | apply kept_circDrop | apply kept_dropOp | apply kept_freeDrainBank | apply kept_orphanReqs
      | refine kept_ite (fun _ => ?_) (fun _ => ?_)
    | simp only [kept_mk_eq] | intro _ | dsimp only | split

theorem kept_doWaitTo (s : State) (q i : Nat) (hs : Kept pend s) : Kept pend (doWaitTo s q i) := by
  unfold doWaitTo
  try dsimp only
  repeat first
    | with_reducible first
      | assumption | apply kept_popHead | apply kept_waitFault | apply kept_abandonOp
      | refine kept_ite (fun _ => ?_) (fun _ => ?_)
    | simp only [kept_mk_eq] | intro _ | dsimp only | split

theorem kept_raiseQReg (s : State) (q b : Nat) (src : Src) (off : Nat) (hs : Kept pend s) : Kept pend (raiseQReg s q b src off) := by
  unfold raiseQReg
  try dsimp only
  repeat first
    | with_reducible first
      | assumption | apply kept_raise | refine kept_ite (fun _ => ?_) (fun _ => ?_)
    | intro _ | dsimp only | split

theorem kept_ptrWrite (s : State) (q i : Nat) (v : W64) (src : Src) (hs : Kept pend s) : Kept pend (ptrWrite s q i v src) := by
  unfold ptrWrite
  try dsimp only
  repeat first
    | with_reducible first
      | assumption | apply kept_setReg | apply kept_raiseQReg | refine kept_ite (fun _ => ?_) (fun _ => ?_)
    | intro _ | dsimp only | split

theorem kept_gateWrite (s : State) (q i : Nat) (v : W64) (hs : Kept pend s) : Kept pend (gateWrite s q i v) := by
  unfold gateWrite
  try dsimp only
  repeat first
    | with_reducible first
      | assumption | apply kept_setReg | refine kept_ite (fun _ => ?_) (fun _ => ?_)
    | intro _ | dsimp only | split

theorem kept_flushStrm (s : State) (q i : Nat) (hs : Kept pend s) : Kept pend (flushStrm s q i) := by
  unfold flushStrm
  try dsimp only
  repeat first
    | with_reducible first
      | assumption | apply kept_setFld | apply kept_setStrm | refine kept_ite (fun _ => ?_) (fun _ => ?_)
    | intro _ | dsimp only | split

theorem kept_cfgWrite (s : State) (q i : Nat) (v : W64) (src : Src) (hs : Kept pend s) : Kept pend (cfgWrite s q i v src) := by
  unfold cfgWrite
  try dsimp only
  repeat first
    | with_reducible first
      | assumption | apply kept_setReg | apply kept_raiseQReg | apply kept_flushStrm
      | refine kept_ite (fun _ => ?_) (fun _ => ?_)
    | intro _ | dsimp only | split

/-! Operands -/

theorem kept_writeMask (n : Nat) (s : State) (w val mask pm : Nat) (hs : Kept pend s) : Kept pend (writeMask s w val mask pm n) := by
  induction n generalizing s w val mask pm with
  | zero => exact hs
  | succ n ih =>
    exact ih _ _ _ _ _ (kept_ite (fun _ => hs) fun _ => kept_ite (fun _ => kept_poisonWord _ _ hs) fun _ =>
      kept_ite (fun _ => kept_writeNat _ _ _ _ hs) fun _ => kept_ite (fun _ => hs) fun _ => kept_writeNat _ _ _ _ hs)

theorem kept_writeElems (s : State) (f : Fmt) (a : Nat) (cs : List Cell1) (n : Nat) (hs : Kept pend s) : Kept pend (writeElems s f a cs n) := by
  unfold writeElems
  try dsimp only
  repeat first
    | with_reducible first
      | assumption | apply kept_writeMask | refine kept_ite (fun _ => ?_) (fun _ => ?_)
    | simp only [kept_mk_eq] | intro _ | dsimp only | split

theorem kept_writeStat (s : State) (q off : Nat) (t : Stat) (hs : Kept pend s) : Kept pend (writeStat s q off t) := by
  unfold writeStat
  try dsimp only
  repeat first
    | with_reducible first
      | assumption | apply kept_writeBytes | refine kept_ite (fun _ => ?_) (fun _ => ?_)
    | intro _ | dsimp only | split

theorem kept_mergeStat (s : State) (q off src : Nat) (t : Stat) (hs : Kept pend s) : Kept pend (mergeStat s q off src t) := by
  unfold mergeStat
  try dsimp only
  repeat first
    | with_reducible first
      | assumption | apply kept_raiseQ | apply kept_poisonRange | apply kept_writeStat
      | refine kept_ite (fun _ => ?_) (fun _ => ?_)
    | intro _ | dsimp only | split

end Sys2Proof.Machine
end

