-- ==== Sys2Proof/Laws/KeptEngine.lean ====
section
/-! SUPPORT. Canonical form and queue are kept (Kept) by the matrix, vector and projector engines, the update chiplets and the rings: one lemma for each operation. -/

namespace Sys2Proof.Machine

variable {pend : List Instr}

/-! Matrix -/

theorem kept_mmaStart (s : State) (q c : Nat) (f : Fetched) (hs : Kept pend s) : Kept pend (mmaStart s q c f) := by
  unfold mmaStart
  try dsimp only
  repeat first
    | with_reducible first
      | assumption | apply kept_raiseQ | apply kept_setBank | apply kept_popHead | apply kept_failHead | apply kept_startOp
      | apply kept_amendOp | refine kept_ite (fun _ => ?_) (fun _ => ?_)
    | simp only [kept_mk_eq] | intro _ | dsimp only | split

theorem kept_doMma (s : State) (q c : Nat) (hs : Kept pend s) : Kept pend (doMma s q c) := by
  unfold doMma
  try dsimp only
  repeat first
    | with_reducible first
      | assumption | apply kept_setBank | apply kept_countSlots | apply kept_failHead | apply kept_keepPred
      | apply kept_slotWait | apply kept_skipNow | apply kept_mmaStart | refine kept_ite (fun _ => ?_) (fun _ => ?_)
    | simp only [kept_mk_eq] | intro _ | dsimp only | split

theorem kept_finishOp (s : State) (q id : Nat) (hs : Kept pend s) : Kept pend (finishOp s q id) := by
  unfold finishOp
  try dsimp only
  repeat first
    | with_reducible first
      | assumption | apply kept_modQuarter | refine kept_ite (fun _ => ?_) (fun _ => ?_)
    | simp only [kept_mk_eq] | intro _ | dsimp only | split

theorem kept_doMmaEnd (s : State) (q c : Nat) (hs : Kept pend s) : Kept pend (doMmaEnd s q c) := by
  unfold doMmaEnd
  try dsimp only
  repeat first
    | with_reducible first
      | assumption | apply kept_setBank | apply kept_finishOp | refine kept_ite (fun _ => ?_) (fun _ => ?_)
    | simp only [kept_mk_eq] | intro _ | dsimp only | split

theorem kept_doDcfg (s : State) (q d : Nat) (hs : Kept pend s) : Kept pend (doDcfg s q d) := by
  unfold doDcfg
  dsimp only
  split
  · exact hs
  · exact kept_failHead _ _ _ _ _ hs
  · exact kept_skipNow _ _ _ _ _ hs
  · refine kept_ite (fun _ => kept_keepPred _ _ _ _ hs) fun _ => ?_
    split
    · exact kept_failHead _ _ _ _ _ hs
    · split
      · exact kept_failHead _ _ _ _ _ hs
      · exact kept_endNow _ _ _ _ _ (kept_dcfg hs (smWf_set (d := fun _ => (0 : W512)) (kept_parts hs).2.2.2.2.1 _ _))

theorem kept_drainWrite (s : State) (own : Nat) (b : W512) (x : Bank) (w : W128) (rows : List (List (Cell1 × W32 × Cnt))) (hs : Kept pend s) : Kept pend (drainWrite s own b x w rows) := by
  unfold drainWrite
  try dsimp only
  repeat first
    | with_reducible first
      | assumption | apply kept_circWrite | apply kept_writeElems | refine kept_ite (fun _ => ?_) (fun _ => ?_)
      | refine foldl_keep _ (fun _ _ _ => ?_) ?_
    | simp only [kept_mk_eq] | intro _ | dsimp only | split

theorem kept_drainStart (s : State) (q d : Nat) (f : Fetched) (hs : Kept pend s) : Kept pend (drainStart s q d f) := by
  unfold drainStart
  try dsimp only
  repeat first
    | with_reducible first
      | assumption | apply kept_raiseQ | apply kept_setBank | apply kept_popHead | apply kept_failHead | apply kept_startOp
      | apply kept_amendOp | apply kept_drainWrite | refine kept_ite (fun _ => ?_) (fun _ => ?_)
    | simp only [kept_mk_eq] | intro _ | dsimp only | split

theorem kept_doDrain (s : State) (q d : Nat) (hs : Kept pend s) : Kept pend (doDrain s q d) := by
  unfold doDrain
  try dsimp only
  repeat first
    | with_reducible first
      | assumption | apply kept_setBank | apply kept_failHead | apply kept_keepPred | apply kept_slotWait | apply kept_skipNow
      | apply kept_drainStart | refine kept_ite (fun _ => ?_) (fun _ => ?_)
    | simp only [kept_mk_eq] | intro _ | dsimp only | split

theorem kept_setGradNf (s : State) (hs : Kept pend s) : Kept pend (setGradNf s) := by
  unfold setGradNf
  try dsimp only
  repeat first
    | with_reducible first
      | assumption | apply kept_setReg | refine kept_ite (fun _ => ?_) (fun _ => ?_)
    | intro _ | dsimp only | split

theorem kept_gradReport (s : State) (n : Nat) (t : Stat) (hs : Kept pend s) : Kept pend (gradReport s n t) := by
  unfold gradReport
  try dsimp only
  repeat first
    | with_reducible first
      | assumption | apply kept_addFld | apply kept_setGradNf | refine kept_ite (fun _ => ?_) (fun _ => ?_)
    | intro _ | dsimp only | split

theorem kept_doDrainEnd (s : State) (q d : Nat) (hs : Kept pend s) : Kept pend (doDrainEnd s q d) := by
  unfold doDrainEnd
  try dsimp only
  repeat first
    | with_reducible first
      | assumption | apply kept_setBank | apply kept_writeStat | apply kept_mergeStat | apply kept_finishOp
      | apply kept_gradReport | refine kept_ite (fun _ => ?_) (fun _ => ?_)
    | simp only [kept_mk_eq] | intro _ | dsimp only | split

/-! OptOps -/

theorem kept_modOpt (s : State) (f : Opt → Opt) (hs : Kept pend s) : Kept pend (modOpt s f) := by
  unfold modOpt
  try dsimp only
  repeat first
    | with_reducible first
      | assumption | refine kept_ite (fun _ => ?_) (fun _ => ?_)
    | simp only [kept_mk_eq] | intro _ | dsimp only | split

theorem kept_raiseO (s : State) (b port lane laser : Nat) (hs : Kept pend s) : Kept pend (raiseO s b port lane laser) := by
  unfold raiseO
  try dsimp only
  repeat first
    | with_reducible first
      | assumption | apply kept_raise | refine kept_ite (fun _ => ?_) (fun _ => ?_)
    | intro _ | dsimp only | split

/-! Vector -/

theorem kept_runInstr (s : State) (q i : Nat) (isOp : W128 → Bool) (touches : State → Fetched → Touches)
    (body : State → Fetched → Except Nat Done) (hs : Kept pend s)
    (hb : ∀ f d, body s f = .ok d → Kept pend d.s) : Kept pend (runInstr s q i isOp touches body) := by
  unfold runInstr
  split
  · exact hs
  · exact kept_failHead _ _ _ _ _ hs
  · exact kept_skipNow _ _ _ _ _ hs
  · refine kept_ite (fun _ => kept_slotWait _ _ _ hs) fun _ => kept_ite (fun _ => kept_keepPred _ _ _ _ hs) fun _ => ?_
    split
    · exact kept_failHead _ _ _ _ _ hs
    · rename_i d hd
      have h1 := kept_popHead _ q i (hb _ _ hd)
      refine kept_amendOp _ _ _ ?_
      with_reducible exact kept_startOp _ _ _ _ _ _ _ _ _ _ h1

theorem kept_valuStep (q c : Nat) (w : W128) (x : State × Stat) (l : Nat) (hs : Kept pend x.1) : Kept pend (valuStep q c w x l).1 :=
  foldl_keep _ (fun _ _ h => kept_setVreg _ _ _ _ _ _ _ h) hs

theorem kept_valuBody (q c : Nat) (s : State) (f : Fetched) (d : Done) (h : valuBody q c s f = .ok d) (hs : Kept pend s) : Kept pend d.s := by
  have h1 : Kept pend ((List.range (vLanes f.word)).foldl (valuStep q c f.word) (s, stat0)).1 :=
    foldl_keep (P := fun x : State × Stat => Kept pend x.1) _ (fun _ _ h => kept_valuStep _ _ _ _ _ h) hs
  unfold valuBody at h
  split at h
  · cases h
  · cases h
    exact kept_ite (fun _ => kept_writeStat _ _ _ _ h1) (fun _ => h1)

theorem kept_vldStep (q c : Nat) (w : W128) (x : State × Stat) (i : Nat) (hs : Kept pend x.1) : Kept pend (vldStep q c w x i).1 :=
  kept_setVreg _ _ _ _ _ _ _ hs

theorem kept_vldBcast (q c : Nat) (w : W128) (s : State) (hs : Kept pend s) : Kept pend ((vldBcast q c w s).1) := by
  unfold vldBcast
  try dsimp only
  repeat first
    | with_reducible first
      | assumption | apply kept_setVreg | refine kept_ite (fun _ => ?_) (fun _ => ?_)
      | refine kept_ite1 (fun _ => ?_) (fun _ => ?_) | refine foldl_keep _ (fun _ _ _ => ?_) ?_
    | intro _ | dsimp only | split

theorem kept_vldBody (q c : Nat) (s : State) (f : Fetched) (d : Done) (h : vldBody q c s f = .ok d) (hs : Kept pend s) : Kept pend d.s := by
  have h1 : Kept pend (if lBcast f.word then vldBcast q c f.word s
      else (List.range (lN f.word)).foldl (vldStep q c f.word) (s, stat0)).1 :=
    kept_ite1 (fun _ => kept_vldBcast _ _ _ _ hs) (fun _ =>
      foldl_keep (P := fun x : State × Stat => Kept pend x.1) _ (fun _ _ h => kept_vldStep _ _ _ _ _ h) hs)
  unfold vldBody at h
  split at h
  · cases h
  · cases h
    exact kept_ite (fun _ => kept_writeStat _ _ _ _ h1) (fun _ => h1)

theorem kept_vstBody (q c : Nat) (s : State) (f : Fetched) (d : Done) (h : vstBody q c s f = .ok d) (hs : Kept pend s) : Kept pend d.s := by
  unfold vstBody at h
  split at h
  · cases h
  · cases h
    dsimp only
    have h1 := fun f a cs n => kept_writeElems s f a cs n hs
    refine kept_ite (fun _ => kept_writeStat _ _ _ _ ?_) (fun _ => ?_) <;>
      exact kept_ite (fun _ => kept_raiseQ _ _ _ _ _ (h1 _ _ _ _)) (fun _ => h1 _ _ _ _)

theorem kept_writeResult (s : State) (q c a : Nat) (bs : List Byte) (psn : Bool) (hs : Kept pend s) : Kept pend (writeResult s q c a bs psn) := by
  unfold writeResult
  try dsimp only
  repeat first
    | with_reducible first
      | assumption | apply kept_raiseQ | apply kept_writeBytes | apply kept_poisonRange
      | refine kept_ite (fun _ => ?_) (fun _ => ?_)
    | intro _ | dsimp only | split

theorem kept_vredBody (q c : Nat) (s : State) (f : Fetched) (d : Done) (h : vredBody q c s f = .ok d) (hs : Kept pend s) : Kept pend d.s := by
  unfold vredBody at h
  simp only [bind, Except.bind] at h
  split at h
  · cases h
  · split at h
    · cases h
    · cases h; exact kept_writeResult _ _ _ _ _ _ hs

theorem kept_momfinBody (q c : Nat) (s : State) (f : Fetched) (d : Done) (h : momfinBody q c s f = .ok d) (hs : Kept pend s) : Kept pend d.s := by
  unfold momfinBody at h
  simp only [bind, Except.bind] at h
  split at h
  · cases h
  · split at h
    · cases h
    · cases h; exact kept_writeResult _ _ _ _ _ _ hs

theorem kept_vrelayBody (q c : Nat) (s : State) (f : Fetched) (d : Done) (h : vrelayBody q c s f = .ok d) (hs : Kept pend s) : Kept pend d.s := by
  unfold vrelayBody at h
  simp only [bind, Except.bind] at h
  split at h
  · cases h
  · split at h
    · cases h
    · cases h
      have h1 : ∀ (n o a : Nat) ws f b cs m k x y (c : Bool), Kept pend (if c = true then circWrite s n o a ws else touch (writeElems s f b cs m) k x y true) :=
        fun _ _ _ _ _ _ _ _ _ _ _ _ => kept_ite (fun _ => kept_circWrite _ _ _ _ _ hs) (fun _ => kept_touch _ _ _ _ _ (kept_writeElems _ _ _ _ _ hs))
      exact kept_ite (fun _ => kept_raiseQ _ _ _ _ _ (h1 _ _ _ _ _ _ _ _ _ _ _ _)) (fun _ => h1 _ _ _ _ _ _ _ _ _ _ _ _)


theorem kept_tkStep (q c : Nat) (b : W512) (x : State × Stat) (t : Nat) (hs : Kept pend x.1) : Kept pend (tkStep q c b x t).1 := by
  exact kept_ite1 (fun _ => kept_raiseQ _ _ _ _ _ (kept_poisonRange _ _ _ hs)) fun _ =>
    foldl_keep _ (fun _ _ h => kept_writeNat _ _ _ _ h) hs

theorem kept_topkBody (q c : Nat) (s : State) (f : Fetched) (d : Done) (h : topkBody q c s f = .ok d) (hs : Kept pend s) : Kept pend d.s := by
  unfold topkBody at h
  simp only [bind, Except.bind] at h
  split at h
  · cases h
  · split at h
    · cases h
    · cases h
      have h1 : ∀ b n, Kept pend ((List.range n).foldl (tkStep q c b) (s, stat0)).1 := fun b _ =>
        foldl_keep (P := fun x : State × Stat => Kept pend x.1) _ (kept_tkStep q c b) hs
      have h2 : ∀ (x : State × Stat) (c : Bool) a, Kept pend x.1 → Kept pend (if c = true then writeStat x.1 q a x.2 else x.1) :=
        fun _ _ _ h => kept_ite (fun _ => kept_writeStat _ _ _ _ h) (fun _ => h)
      exact h2 _ _ _ (h1 _ _)

theorem kept_dropoutBody (q c : Nat) (s : State) (f : Fetched) (d : Done) (h : dropoutBody q c s f = .ok d) (hs : Kept pend s) : Kept pend d.s := by
  unfold dropoutBody at h
  simp only [bind, Except.bind] at h
  split at h
  · cases h
  · split at h
    · cases h
    · cases h
      have h1 : ∀ f a cs n w v m p k, Kept pend { writeMask (writeElems s f a cs n) w v m p k with free := (writeMask (writeElems s f a cs n) w v m p k).free + blk (by assumption) 20 4 } :=
        fun _ _ _ _ _ _ _ _ _ => kept_writeMask _ _ _ _ _ _ (kept_writeElems _ _ _ _ _ hs)
      exact kept_ite (fun _ => kept_raiseQ _ _ _ _ _ (h1 _ _ _ _ _ _ _ _ _)) (fun _ => h1 _ _ _ _ _ _ _ _ _)

theorem kept_maskapplyBody (q c : Nat) (s : State) (f : Fetched) (d : Done) (h : maskapplyBody q c s f = .ok d) (hs : Kept pend s) : Kept pend d.s := by
  unfold maskapplyBody at h
  simp only [bind, Except.bind] at h
  split at h
  · cases h
  · split at h
    · cases h
    · cases h
      exact kept_ite (fun _ => kept_raiseQ _ _ _ _ _ (kept_writeElems _ _ _ _ _ hs)) (fun _ => kept_writeElems _ _ _ _ _ hs)

/-! Krefresh -/

theorem kept_kPut (psn : Bool) (a n : Nat) (s : State) (rows : List (List W32)) (hs : Kept pend s) : Kept pend (kPut psn a n s rows) := by
  unfold kPut
  try dsimp only
  repeat first
    | with_reducible first
      | assumption | apply kept_writeBytes | apply kept_poisonRange | refine kept_ite (fun _ => ?_) (fun _ => ?_)
      | refine foldl_keep _ (fun _ _ _ => ?_) ?_
    | intro _ | dsimp only | split

theorem kept_kNote (s : State) (r : KRec) (stale state stage : Nat) (hs : Kept pend s) : Kept pend (kNote s r stale state stage) := by
  unfold kNote
  try dsimp only
  repeat first
    | with_reducible first
      | assumption | apply kept_writeBytes | refine kept_ite (fun _ => ?_) (fun _ => ?_)
    | intro _ | dsimp only | split

theorem kept_kWork (s : State) (r : KRec) (hs : Kept pend s) : Kept pend (kWork s r) := by
  unfold kWork
  try dsimp only
  repeat first
    | with_reducible first
      | assumption | apply kept_kPut | refine kept_ite (fun _ => ?_) (fun _ => ?_)
    | simp only [kept_mk_eq] | intro _ | dsimp only | split

theorem kept_kStale (s : State) (r : KRec) (state : Nat) (lam : W32) (hs : Kept pend s) : Kept pend (kStale s r state lam) := by
  unfold kStale
  try dsimp only
  repeat first
    | with_reducible first
      | assumption | apply kept_kPut | apply kept_kNote | refine kept_ite (fun _ => ?_) (fun _ => ?_)
    | intro _ | dsimp only | split

theorem kept_kDecay (s : State) (r : KRec) (hs : Kept pend s) : Kept pend (kDecay s r) := by
  unfold kDecay
  try dsimp only
  repeat first
    | with_reducible first
      | assumption | apply kept_kPut | apply kept_kNote | apply kept_kStale | refine kept_ite (fun _ => ?_) (fun _ => ?_)
    | intro _ | dsimp only | split

theorem kept_kTry (s : State) (r : KRec) (k : Nat) (hs : Kept pend s) : Kept pend (kTry s r k) := by
  unfold kTry
  try dsimp only
  repeat first
    | with_reducible first
      | assumption | apply kept_kNote | apply kept_kWork | apply kept_kStale | refine kept_ite (fun _ => ?_) (fun _ => ?_)
    | intro _ | dsimp only | split

theorem kept_kGroup (s : State) (r : KRec) (g : Nat) (hs : Kept pend s) : Kept pend (kGroup s r g) := by
  unfold kGroup
  try dsimp only
  repeat first
    | with_reducible first
      | assumption | apply kept_kPut | apply kept_kNote | apply kept_kWork | apply kept_kStale
      | refine kept_ite (fun _ => ?_) (fun _ => ?_)
    | intro _ | dsimp only | split

theorem kept_kStage (s : State) (r : KRec) (hs : Kept pend s) : Kept pend (kStage s r) := by
  unfold kStage
  try dsimp only
  repeat first
    | with_reducible first
      | assumption | apply kept_kDecay | apply kept_kTry | apply kept_kGroup | refine kept_ite (fun _ => ?_) (fun _ => ?_)
    | intro _ | dsimp only | split

theorem kept_kLaunch (s : State) (b : W512) (hs : Kept pend s) : Kept pend (kLaunch s b) := by
  unfold kLaunch
  try dsimp only
  repeat first
    | with_reducible first
      | assumption | apply kept_kStage | refine kept_ite (fun _ => ?_) (fun _ => ?_)
    | simp only [kept_mk_eq] | intro _ | dsimp only | split

/-! Update -/

theorem kept_modUpd (s : State) (f : Upd → Upd) (hs : Kept pend s) : Kept pend (modUpd s f) := by
  unfold modUpd
  try dsimp only
  repeat first
    | with_reducible first
      | assumption | refine kept_ite (fun _ => ?_) (fun _ => ?_)
    | simp only [kept_mk_eq] | intro _ | dsimp only | split

theorem kept_modCur (s : State) (f : UpdCur → UpdCur) (hs : Kept pend s) : Kept pend (modCur s f) := by
  unfold modCur
  try dsimp only
  repeat first
    | with_reducible first
      | assumption | apply kept_modUpd | refine kept_ite (fun _ => ?_) (fun _ => ?_)
    | simp only [kept_mk_eq] | intro _ | dsimp only | split

theorem kept_setChip (s : State) (k : Nat) (c : UpdChip) (hs : Kept pend s) : Kept pend (setChip s k c) := by
  unfold setChip
  try dsimp only
  repeat first
    | with_reducible first
      | assumption | apply kept_modUpd | refine kept_ite (fun _ => ?_) (fun _ => ?_)
    | simp only [kept_mk_eq] | intro _ | dsimp only | split

theorem kept_raiseU (s : State) (k b group addr : Nat) (hs : Kept pend s) : Kept pend (raiseU s k b group addr) := by
  unfold raiseU
  try dsimp only
  repeat first
    | with_reducible first
      | assumption | apply kept_raise | refine kept_ite (fun _ => ?_) (fun _ => ?_)
    | intro _ | dsimp only | split

theorem kept_p1Bad (k bit flag j addr : Nat) (x : P1) (hs : Kept pend x.s) : Kept pend (p1Bad k bit flag j addr x).s :=
  kept_raiseU _ _ _ _ _ hs

theorem kept_p1Elem (h : Hdr) (x : P1) (i : Nat) (hs : Kept pend x.s) : Kept pend (p1Elem h x i).s := by
  unfold p1Elem
  dsimp only
  split
  · exact hs
  · split <;> exact hs

theorem kept_p1Count (s : State) (k n : Nat) (hs : Kept pend s) : Kept pend (p1Count s k n) := by
  unfold p1Count
  try dsimp only
  repeat first
    | with_reducible first
      | assumption | apply kept_count | refine kept_ite (fun _ => ?_) (fun _ => ?_)
    | intro _ | dsimp only | split

theorem kept_p1Block (k j : Nat) (h : Hdr) (x : P1) (b : Nat) (hs : Kept pend x.s) : Kept pend (p1Block k j h x b).s := by
  have h1 : Kept pend (p1Count (dropLines x.s (h.g + b * arrBytes h.gfmt 64) (arrBytes h.gfmt 64)) k (arrBytes h.gfmt 64 / 64)) :=
    kept_p1Count _ _ _ (kept_dropLines _ _ _ hs)
  unfold p1Block
  dsimp only
  split
  · exact kept_p1Bad _ _ _ _ _ _ hs
  · split
    · exact kept_count _ _ _ hs
    · split
      · exact kept_p1Bad _ _ _ _ _ _ h1
      · exact foldl_keep (P := fun x : P1 => Kept pend x.s) _ (fun _ _ h => kept_p1Elem _ _ _ h) h1

theorem kept_p1Group (k gtab : Nat) (x : P1) (j : Nat) (hs : Kept pend x.s) : Kept pend (p1Group k gtab x j).s := by
  unfold p1Group
  dsimp only
  split
  · exact kept_p1Bad _ _ _ _ _ _ hs
  · split
    · exact kept_p1Bad _ _ _ _ _ _ hs
    · have h0 := kept_dropLines x.s (gtab + 8 * j) 8 hs
      generalize dropLines x.s (gtab + 8 * j) 8 = y at *
      split
      · exact kept_p1Bad _ _ _ _ _ _ h0
      · generalize readNat y (gtab + 8 * j) 8 = a
        have h1 := kept_p1Count _ k 2 (kept_dropLines y a 128 h0)
        generalize p1Count (dropLines y a 128) k 2 = z at *
        split
        · exact kept_p1Bad _ _ _ _ _ _ h1
        · generalize hdrOf (readNat z a 128) = h
          split
          · exact kept_p1Bad _ _ _ _ _ _ h1
          · exact foldl_keep (P := fun x : P1 => Kept pend x.s) _ (fun _ _ h => kept_p1Block _ _ _ _ _ h)
              (kept_p1Count _ _ _ (kept_dropLines _ _ _ h1))

theorem kept_pass1 (q : Nat) (s : State) (k : Nat) (hs : Kept pend s) : Kept pend (pass1 q s k) := by
  have h1 : ∀ (c : Bool) (x0 : P1) g l, Kept pend x0.s → Kept pend (if c = true then x0 else List.foldl (p1Group k g) x0 l).s := by
    intro c x0 g l h0
    split
    · exact h0
    · exact foldl_keep (P := fun x : P1 => Kept pend x.s) _ (fun _ _ h => kept_p1Group _ _ _ _ h) h0
  exact kept_setChip _ _ _ (h1 _ _ _ _ hs)

theorem kept_updNext (s : State) (hs : Kept pend s) : Kept pend (updNext s) := by
  unfold updNext
  try dsimp only
  repeat first
    | with_reducible first
      | assumption | apply kept_modUpd | refine kept_ite (fun _ => ?_) (fun _ => ?_)
    | simp only [kept_mk_eq] | intro _ | dsimp only | split

theorem kept_updEnd (s : State) (read : Bool) (hs : Kept pend s) : Kept pend (updEnd s read) := by
  unfold updEnd
  try dsimp only
  repeat first
    | with_reducible first
      | assumption | apply kept_count | apply kept_writeNat | apply kept_sqAdd | apply kept_admEnd | apply kept_touch
      | apply kept_modUpd | apply kept_updNext | refine kept_ite (fun _ => ?_) (fun _ => ?_)
      | refine foldl_keep _ (fun _ _ _ => ?_) ?_
    | simp only [kept_mk_eq] | intro _ | dsimp only | split

theorem kept_updDecide (s : State) (r : UpdRec) (hs : Kept pend s) : Kept pend (updDecide s r) := by
  unfold updDecide
  try dsimp only
  repeat first
    | with_reducible first
      | assumption | apply kept_setReg | apply kept_modCur | refine kept_ite (fun _ => ?_) (fun _ => ?_)
      | refine foldl_keep _ (fun _ _ _ => ?_) ?_
    | simp only [kept_mk_eq] | intro _ | dsimp only | split

theorem kept_updArrive (s : State) (c : UpdCur) (r : UpdRec) (hs : Kept pend s) : Kept pend (updArrive s c r) := by
  unfold updArrive
  try dsimp only
  repeat first
    | with_reducible first
      | assumption | apply kept_circSend | apply kept_modCur | apply kept_updDecide
      | refine kept_ite (fun _ => ?_) (fun _ => ?_)
    | simp only [kept_mk_eq] | intro _ | dsimp only | split

theorem kept_updReady (s : State) (hs : Kept pend s) : Kept pend (updReady s) := by
  unfold updReady
  try dsimp only
  repeat first
    | with_reducible first
      | assumption | apply kept_setFld | apply kept_circSend | apply kept_modUpd | apply kept_modCur | apply kept_updDecide
      | apply kept_updArrive | refine kept_ite (fun _ => ?_) (fun _ => ?_) | refine foldl_keep _ (fun _ _ _ => ?_) ?_
    | simp only [kept_mk_eq] | intro _ | dsimp only | split

theorem kept_recIn (s : State) (r : UpdRec) (hs : Kept pend s) : Kept pend (recIn s r) := by
  unfold recIn
  try dsimp only
  repeat first
    | with_reducible first
      | assumption | apply kept_setFld | apply kept_addFld | apply kept_modUpd | apply kept_updArrive
      | refine kept_ite (fun _ => ?_) (fun _ => ?_)
    | simp only [kept_mk_eq] | intro _ | dsimp only | split

theorem kept_loseWords (s : State) (ue : List (BitVec 40)) (hs : Kept pend s) : Kept pend (loseWords s ue) := by
  unfold loseWords
  try dsimp only
  repeat first
    | with_reducible first
      | assumption | apply kept_poisonWord | refine kept_ite (fun _ => ?_) (fun _ => ?_)
      | refine foldl_keep _ (fun _ _ _ => ?_) ?_
    | intro _ | dsimp only | split

theorem kept_planErr (s : State) (ks : List Nat) (pa : Nat) (hs : Kept pend s) : Kept pend (planErr s ks pa) := by
  unfold planErr
  try dsimp only
  repeat first
    | with_reducible first
      | assumption | apply kept_raiseU | refine kept_ite (fun _ => ?_) (fun _ => ?_)
      | refine foldl_keep _ (fun _ _ _ => ?_) ?_
    | intro _ | dsimp only | split

theorem kept_doPass1Start (s0 : State) (ue : List (BitVec 40)) (hs0 : Kept pend s0) : Kept pend (doPass1Start s0 ue) := by
  unfold doPass1Start
  try dsimp only
  repeat first
    | with_reducible first
      | assumption | apply kept_setFld | apply kept_touch | apply kept_modCur | apply kept_pass1 | apply kept_updReady
      | apply kept_loseWords | apply kept_planErr | refine kept_ite (fun _ => ?_) (fun _ => ?_)
      | refine foldl_keep _ (fun _ _ _ => ?_) ?_
    | simp only [kept_mk_eq] | intro _ | dsimp only | split

theorem kept_doPass1End (s : State) (k : Nat) (hs : Kept pend s) : Kept pend (doPass1End s k) := by
  unfold doPass1End
  try dsimp only
  repeat first
    | with_reducible first
      | assumption | apply kept_setChip | apply kept_updReady | refine kept_ite (fun _ => ?_) (fun _ => ?_)
    | simp only [kept_mk_eq] | intro _ | dsimp only | split

theorem kept_putCodes (s : State) (f : Fmt) (a : Nat) (cs : List Nat) (hs : Kept pend s) : Kept pend (putCodes s f a cs) := by
  unfold putCodes
  try dsimp only
  repeat first
    | with_reducible first
      | assumption | apply kept_writeBytes | refine kept_ite (fun _ => ?_) (fun _ => ?_)
    | intro _ | dsimp only | split

theorem kept_p2Write (s : State) (k j b : Nat) (novf : Bool) (h : Hdr) (c : Coef) (hs : Kept pend s) : Kept pend (p2Write s k j b novf h c) := by
  unfold p2Write
  try dsimp only
  repeat first
    | with_reducible first
      | assumption | apply kept_count | apply kept_writeNat | apply kept_setChip | apply kept_raiseU | apply kept_putCodes
      | refine kept_ite (fun _ => ?_) (fun _ => ?_) | refine foldl_keep _ (fun _ _ _ => ?_) ?_
    | simp only [kept_mk_eq] | intro _ | dsimp only | split

theorem kept_p2Poison (s : State) (k j addr : Nat) (hs : Kept pend s) : Kept pend (p2Poison s k j addr) := by
  unfold p2Poison
  try dsimp only
  repeat first
    | with_reducible first
      | assumption | apply kept_setChip | apply kept_raiseU | refine kept_ite (fun _ => ?_) (fun _ => ?_)
    | simp only [kept_mk_eq] | intro _ | dsimp only | split

theorem kept_p2Block (s : State) (k j b : Nat) (novf : Bool) (clip : W32) (h : Hdr) (hs : Kept pend s) : Kept pend (p2Block s k j b novf clip h) := by
  unfold p2Block
  try dsimp only
  repeat first
    | with_reducible first
      | assumption | apply kept_count | apply kept_dropLines | apply kept_p2Write | apply kept_p2Poison
      | refine kept_ite (fun _ => ?_) (fun _ => ?_) | refine foldl_keep _ (fun _ _ _ => ?_) ?_
    | simp only [kept_mk_eq] | intro _ | dsimp only | split

theorem kept_p2GroupEnd (s : State) (k a : Nat) (h : Hdr) (hs : Kept pend s) : Kept pend (p2GroupEnd s k a h) := by
  unfold p2GroupEnd
  try dsimp only
  repeat first
    | with_reducible first
      | assumption | apply kept_count | apply kept_writeNat | apply kept_dropLines | apply kept_setChip
      | refine kept_ite (fun _ => ?_) (fun _ => ?_)
    | simp only [kept_mk_eq] | intro _ | dsimp only | split

theorem kept_p2Run (k : Nat) (novf : Bool) (clip : W32) (f : Nat) (s : State) (hs : Kept pend s) : Kept pend (p2Run k novf clip f s) := by
  induction f generalizing s with
  | zero => exact kept_ite (fun _ => kept_setChip _ _ _ hs) (fun _ => hs)
  | succ n ih =>
    have h0 : ∀ (c : Prop) [Decidable c] a b m n, Kept pend (if c then dropLines (dropLines s a b) m n else s) :=
      fun c _ a b m n => kept_ite (fun _ => kept_dropLines _ _ _ (kept_dropLines _ _ _ hs)) (fun _ => hs)
    unfold p2Run
    split
    · exact kept_setChip _ _ _ hs
    · refine kept_ite (fun _ => ih _ (kept_setChip _ _ _ (kept_p2Poison _ _ _ _ hs))) fun _ => ih _ ?_
      have h2 : ∀ x j b h c, Kept pend x → Kept pend (setChip (p2Block x k j b novf clip h) k c) :=
        fun x j b h c hx => kept_setChip _ _ _ (kept_p2Block _ _ _ _ _ _ _ hx)
      exact kept_ite (fun _ => h2 _ _ _ _ _ (h0 _ _ _ _ _)) (fun _ => kept_p2GroupEnd _ _ _ _ (h2 _ _ _ _ _ (h0 _ _ _ _ _)))

theorem kept_doPass2Start (s : State) (k blocks : Nat) (ue : List (BitVec 40)) (hs : Kept pend s) : Kept pend (doPass2Start s k blocks ue) := by
  unfold doPass2Start
  try dsimp only
  repeat first
    | with_reducible first
      | assumption | apply kept_modCur | apply kept_setChip | apply kept_loseWords | apply kept_p2Run
      | refine kept_ite (fun _ => ?_) (fun _ => ?_)
    | simp only [kept_mk_eq] | intro _ | dsimp only | split

theorem kept_spoilGroups (s : State) (k : Nat) (hs : Kept pend s) : Kept pend (spoilGroups s k) := by
  unfold spoilGroups
  try dsimp only
  repeat first
    | with_reducible first
      | assumption | apply kept_poisonWord | apply kept_dropLines | refine kept_ite (fun _ => ?_) (fun _ => ?_)
      | refine foldl_keep _ (fun _ _ _ => ?_) ?_
    | intro _ | dsimp only | split

theorem kept_cutCur (s : State) (hs : Kept pend s) : Kept pend (cutCur s) := by
  unfold cutCur
  try dsimp only
  repeat first
    | with_reducible first
      | assumption | apply kept_modCur | apply kept_updEnd | apply kept_spoilGroups
      | refine kept_ite (fun _ => ?_) (fun _ => ?_) | refine foldl_keep _ (fun _ _ _ => ?_) ?_
    | simp only [kept_mk_eq] | intro _ | dsimp only | split

theorem kept_cutUpdate (s : State) (hs : Kept pend s) : Kept pend (cutUpdate s) := by
  unfold cutUpdate
  try dsimp only
  repeat first
    | with_reducible first
      | assumption | apply kept_admEnd | apply kept_modUpd | apply kept_cutCur | refine kept_ite (fun _ => ?_) (fun _ => ?_)
      | refine foldl_keep _ (fun _ _ _ => ?_) ?_
    | simp only [kept_mk_eq] | intro _ | dsimp only | split

theorem kept_updStart (s : State) (a : Adm) (hs : Kept pend s) : Kept pend (updStart s a) := by
  unfold updStart
  try dsimp only
  repeat first
    | with_reducible first
      | assumption | apply kept_modAdm | apply kept_modUpd | apply kept_updNext
      | refine kept_ite (fun _ => ?_) (fun _ => ?_)
    | simp only [kept_mk_eq] | intro _ | dsimp only | split

theorem kept_doSeqrec (s : State) (n : Nat) (cell : List CWord) (hs : Kept pend s) : Kept pend (doSeqrec s n cell) := by
  unfold doSeqrec
  try dsimp only
  repeat first
    | with_reducible first
      | assumption | apply kept_sinkFree | apply kept_modSink | apply kept_sinkCtl | apply kept_recIn
      | refine kept_ite (fun _ => ?_) (fun _ => ?_)
    | simp only [kept_mk_eq] | intro _ | dsimp only | split

/-! Rings -/

theorem kept_cqPut (s : State) (cq time beat detail status sq idx : Nat) (hs : Kept pend s) : Kept pend (cqPut s cq time beat detail status sq idx) := by
  unfold cqPut
  try dsimp only
  repeat first
    | with_reducible first
      | assumption | apply kept_setFld | apply kept_count | apply kept_hostWrite
      | refine kept_ite (fun _ => ?_) (fun _ => ?_)
    | intro _ | dsimp only | split

theorem kept_raiseBatch (s : State) (cqs : List Nat) (hs : Kept pend s) : Kept pend (raiseBatch s cqs) := by
  unfold raiseBatch
  try dsimp only
  repeat first
    | with_reducible first
      | assumption | apply kept_msixRaise | refine kept_ite (fun _ => ?_) (fun _ => ?_)
      | refine foldl_keep _ (fun _ _ _ => ?_) ?_
    | intro _ | dsimp only | split

theorem kept_bar2Write (s : State) (off bytes : Nat) (v : W64) (hs : Kept pend s) : Kept pend (bar2Write s off bytes v) := by
  unfold bar2Write
  try dsimp only
  repeat first
    | with_reducible first
      | assumption | apply kept_setFld | apply kept_raise | refine kept_ite (fun _ => ?_) (fun _ => ?_)
    | intro _ | dsimp only | split

theorem kept_hostBar2 (s : State) (off bytes : Nat) (v : W64) (hs : Kept pend s) : Kept pend (hostBar2 s off bytes v) := by
  unfold hostBar2
  try dsimp only
  repeat first
    | with_reducible first
      | assumption | apply kept_unsupportedWrite | apply kept_bar2Write | refine kept_ite (fun _ => ?_) (fun _ => ?_)
    | intro _ | dsimp only | split

theorem kept_sqBaseWrite (s : State) (n : Nat) (v : W64) (hs : Kept pend s) : Kept pend (sqBaseWrite s n v) := by
  unfold sqBaseWrite
  try dsimp only
  repeat first
    | with_reducible first
      | assumption | apply kept_setReg | apply kept_regPut | refine kept_ite (fun _ => ?_) (fun _ => ?_)
    | intro _ | dsimp only | split

theorem kept_sqCfgWrite (s : State) (n : Nat) (v : W64) (hs : Kept pend s) : Kept pend (sqCfgWrite s n v) := by
  unfold sqCfgWrite
  try dsimp only
  repeat first
    | with_reducible first
      | assumption | apply kept_setReg | apply kept_raise | apply kept_regPut | refine kept_ite (fun _ => ?_) (fun _ => ?_)
    | intro _ | dsimp only | split

theorem kept_cqCfgWrite (s : State) (n : Nat) (v : W64) (hs : Kept pend s) : Kept pend (cqCfgWrite s n v) := by
  unfold cqCfgWrite
  try dsimp only
  repeat first
    | with_reducible first
      | assumption | apply kept_setReg | apply kept_rwiErr | apply kept_regPut | refine kept_ite (fun _ => ?_) (fun _ => ?_)
    | intro _ | dsimp only | split

theorem kept_reject (s : State) (ring slot cq status detail : Nat) (irq : Bool) (hs : Kept pend s) : Kept pend (reject s ring slot cq status detail irq) := by
  unfold reject
  try dsimp only
  repeat first
    | with_reducible first
      | assumption | apply kept_count | apply kept_cqPut | apply kept_raiseBatch
      | refine kept_ite (fun _ => ?_) (fun _ => ?_)
    | intro _ | dsimp only | split

theorem kept_admitDesc (s : State) (ring slot cq : Nat) (b : W512) (beat : Nat) (hs : Kept pend s) : Kept pend (admitDesc s ring slot cq b beat) := by
  unfold admitDesc
  try dsimp only
  repeat first
    | with_reducible first
      | assumption | apply kept_setFld | apply kept_count | refine kept_ite (fun _ => ?_) (fun _ => ?_)
    | simp only [kept_mk_eq] | intro _ | dsimp only | split

theorem kept_take (s : State) (ring slot cq : Nat) (b : W512) (hs : Kept pend s) : Kept pend (take s ring slot cq b) := by
  unfold take
  try dsimp only
  repeat first
    | with_reducible first
      | assumption | apply kept_reject | apply kept_admitDesc | refine kept_ite (fun _ => ?_) (fun _ => ?_)
    | simp only [kept_mk_eq] | intro _ | dsimp only | split

theorem kept_advanceSq (s : State) (n : Nat) (hs : Kept pend s) : Kept pend (advanceSq s n) := by
  unfold advanceSq
  try dsimp only
  repeat first
    | with_reducible first
      | assumption | apply kept_setFld | refine kept_ite (fun _ => ?_) (fun _ => ?_)
    | simp only [kept_mk_eq] | intro _ | dsimp only | split

theorem kept_fetchOne (s : State) (a : Except (State → State) W512) (hs : Kept pend s)
    (ha : ∀ r, a = .error r → ∀ s, Kept pend s → Kept pend (r s)) : Kept pend (fetchOne s a) := by
  unfold fetchOne
  split
  · exact hs
  · rename_i n _
    refine kept_ite (fun _ => hs) fun _ => ?_
    have h1 := kept_count _ 1410 1 (kept_count _ 1405 1 (kept_advanceSq s n hs))
    dsimp only
    split
    · exact kept_take _ _ _ _ _ h1
    · exact kept_reject _ _ _ _ _ _ _ (kept_raise _ _ _ _ (ha _ rfl _ h1))

/-! Projector -/

theorem kept_modPrj (s : State) (f : Prj → Prj) (hs : Kept pend s) : Kept pend (modPrj s f) := by
  unfold modPrj
  try dsimp only
  repeat first
    | with_reducible first
      | assumption | refine kept_ite (fun _ => ?_) (fun _ => ?_)
    | simp only [kept_mk_eq] | intro _ | dsimp only | split

theorem kept_raiseP (s : State) (b slot addr : Nat) (hs : Kept pend s) : Kept pend (raiseP s b slot addr) := by
  unfold raiseP
  try dsimp only
  repeat first
    | with_reducible first
      | assumption | apply kept_raise | refine kept_ite (fun _ => ?_) (fun _ => ?_)
    | intro _ | dsimp only | split

theorem kept_prjCounts (s : State) (hs : Kept pend s) : Kept pend (prjCounts s) := by
  unfold prjCounts
  try dsimp only
  repeat first
    | with_reducible first
      | assumption | apply kept_setFld | refine kept_ite (fun _ => ?_) (fun _ => ?_)
    | intro _ | dsimp only | split

theorem kept_prjNote (s : State) (hs : Kept pend s) : Kept pend (prjNote s) := by
  unfold prjNote
  try dsimp only
  repeat first
    | with_reducible first
      | assumption | apply kept_modPrj | apply kept_raiseP | refine kept_ite (fun _ => ?_) (fun _ => ?_)
    | simp only [kept_mk_eq] | intro _ | dsimp only | split

theorem kept_prjEnqueue (s : State) (hs : Kept pend s) : Kept pend (prjEnqueue s) := by
  unfold prjEnqueue
  try dsimp only
  repeat first
    | with_reducible first
      | assumption | apply kept_modPrj | refine kept_ite (fun _ => ?_) (fun _ => ?_)
    | simp only [kept_mk_eq] | intro _ | dsimp only | split

theorem kept_prjServe (s : State) (hs : Kept pend s) : Kept pend (prjServe s) := by
  unfold prjServe
  try dsimp only
  repeat first
    | with_reducible first
      | assumption | apply kept_modPrj | apply kept_prjCounts | apply kept_prjNote | apply kept_prjEnqueue
      | refine kept_ite (fun _ => ?_) (fun _ => ?_)
    | simp only [kept_mk_eq] | intro _ | dsimp only | split

theorem kept_doPrjsub (s : State) (q : Nat) (isOp : W128 → Bool) (hs : Kept pend s) : Kept pend (doPrjsub s q isOp) := by
  unfold doPrjsub
  try dsimp only
  repeat first
    | with_reducible first
      | assumption | apply kept_popHead | apply kept_failHead | apply kept_keepPred | apply kept_slotWait | apply kept_startOp
      | apply kept_amendOp | apply kept_skipNow | apply kept_modPrj | apply kept_prjServe
      | refine kept_ite (fun _ => ?_) (fun _ => ?_)
    | simp only [kept_mk_eq] | intro _ | dsimp only | split

theorem kept_prjElem (sc a : W32) (base : Nat) (x : PrjAcc) (p : Nat × Int) (hs : Kept pend x.s) : Kept pend (prjElem sc a base x p).s :=
  kept_writeNat _ _ _ _ (show Kept pend { x.s with free := x.s.free + 1 } from hs)

theorem kept_prjFill (s : State) (base rows c : Nat) (hs : Kept pend s) : Kept pend (prjFill s base rows c) := by
  unfold prjFill
  try dsimp only
  repeat first
    | with_reducible first
      | assumption | apply kept_writeNat | refine kept_ite (fun _ => ?_) (fun _ => ?_)
      | refine foldl_keep _ (fun _ _ _ => ?_) ?_
    | intro _ | dsimp only | split

theorem kept_prjVec (q rows : Nat) (b : W512) (sc : W32) (x : PrjAcc) (v : Nat) (hs : Kept pend x.s) : Kept pend (prjVec q rows b sc x v).s := by
  have h1 : ∀ (a : W32) d l, Kept pend (List.foldl (prjElem sc a d) x l).s := fun a d l =>
    foldl_keep (P := fun x : PrjAcc => Kept pend x.s) _ (fun _ _ h => kept_prjElem _ _ _ _ _ h) hs
  unfold prjVec
  dsimp only
  split
  · exact kept_poisonRange _ _ _ hs
  · split
    · exact kept_prjFill _ _ _ _ hs
    · split
      · exact kept_prjFill _ _ _ _ hs
      · exact h1 _ _ _

theorem kept_doPrjEnd (s : State) (hs : Kept pend s) : Kept pend (doPrjEnd s) := by
  have hn := kept_prjNote s hs
  have h1 : ∀ q rows b sc l, Kept pend (List.foldl (prjVec q rows b sc) ⟨prjNote s, 0, 0, 0, false⟩ l).s := fun q rows b sc l =>
    foldl_keep (P := fun x : PrjAcc => Kept pend x.s) _ (fun _ _ h => kept_prjVec _ _ _ _ _ _ h) hn
  unfold doPrjEnd
  generalize prjNote s = t at *
  dsimp only
  split
  · exact hn
  · refine kept_prjServe _ (kept_modPrj _ _ ?_)
    have h2 := fun q rows b sc l u g n m k => kept_count _ 1402 m (kept_count _ 1401 n (kept_count _ 1398 k (kept_modQuarter _ u g (h1 q rows b sc l))))
    exact kept_ite (fun _ => h2 _ _ _ _ _ _ _ _ _ _) (fun _ => kept_count _ _ _ (h2 _ _ _ _ _ _ _ _ _ _))

theorem kept_prjCut (s : State) (hs : Kept pend s) : Kept pend (prjCut s) := by
  unfold prjCut
  try dsimp only
  repeat first
    | with_reducible first
      | assumption | apply kept_poisonRange | apply kept_modQuarter | apply kept_modPrj | apply kept_prjCounts
      | refine kept_ite (fun _ => ?_) (fun _ => ?_) | refine foldl_keep _ (fun _ _ _ => ?_) ?_
    | simp only [kept_mk_eq] | intro _ | dsimp only | split

theorem kept_prjBeat (s : State) (hs : Kept pend s) : Kept pend (prjBeat s) := by
  unfold prjBeat
  try dsimp only
  repeat first
    | with_reducible first
      | assumption | apply kept_setFld | apply kept_prjServe | refine kept_ite (fun _ => ?_) (fun _ => ?_)
    | intro _ | dsimp only | split

theorem kept_prjLoad (s : State) (b : W512) (hs : Kept pend s) : Kept pend ((prjLoad s b).1) := by
  unfold prjLoad
  try dsimp only
  repeat first
    | with_reducible first
      | assumption | apply kept_setReg | apply kept_setFld | apply kept_touch | apply kept_modPrj | apply kept_raiseP
      | refine kept_ite (fun _ => ?_) (fun _ => ?_) | refine kept_ite1 (fun _ => ?_) (fun _ => ?_)
    | simp only [kept_mk_eq] | intro _ | dsimp only | split

theorem kept_prjLoadStep (s : State) (a : Adm) (hs : Kept pend s) : Kept pend ((prjLoadStep s a).1) := by
  unfold prjLoadStep
  try dsimp only
  repeat first
    | with_reducible first
      | assumption | apply kept_prjLoad | refine kept_ite (fun _ => ?_) (fun _ => ?_)
      | refine kept_ite1 (fun _ => ?_) (fun _ => ?_)
    | intro _ | dsimp only | split

theorem kept_prjStays (s : State) (a : Adm) (st : Nat) (hs : Kept pend s) : Kept pend (prjStays s a st) := by
  unfold prjStays
  try dsimp only
  repeat first
    | with_reducible first
      | assumption | apply kept_modAdm | apply kept_admEnd | apply kept_prjBeat
      | refine kept_ite (fun _ => ?_) (fun _ => ?_)
    | simp only [kept_mk_eq] | intro _ | dsimp only | split

theorem kept_prjSelect (s : State) (a : Adm) (hs : Kept pend s) : Kept pend (prjSelect s a) := by
  unfold prjSelect
  try dsimp only
  repeat first
    | with_reducible first
      | assumption | apply kept_setFld | apply kept_modAdm | apply kept_modPrj | apply kept_prjStays
      | refine kept_ite (fun _ => ?_) (fun _ => ?_)
    | simp only [kept_mk_eq] | intro _ | dsimp only | split

theorem kept_doLoad (s : State) (a : Adm) (hs : Kept pend s) : Kept pend (doLoad s a) := by
  unfold doLoad
  try dsimp only
  repeat first
    | with_reducible first
      | assumption | apply kept_modAdm | apply kept_admEnd | apply kept_prjLoadStep
      | refine kept_ite (fun _ => ?_) (fun _ => ?_)
    | simp only [kept_mk_eq] | intro _ | dsimp only | split

theorem kept_doLoadSelect (s : State) (a : Adm) (hs : Kept pend s) : Kept pend (doLoadSelect s a) := by
  unfold doLoadSelect
  try dsimp only
  repeat first
    | with_reducible first
      | assumption | apply kept_prjLoadStep | apply kept_prjStays | apply kept_prjSelect
      | refine kept_ite (fun _ => ?_) (fun _ => ?_)
    | simp only [kept_mk_eq] | intro _ | dsimp only | split

theorem kept_doSettleEnd (s : State) (hs : Kept pend s) : Kept pend (doSettleEnd s) := by
  unfold doSettleEnd
  try dsimp only
  repeat first
    | with_reducible first
      | assumption | apply kept_setFld | apply kept_admEnd | apply kept_modPrj | apply kept_raiseP | apply kept_prjServe
      | refine kept_ite (fun _ => ?_) (fun _ => ?_)
    | simp only [kept_mk_eq] | intro _ | dsimp only | split

theorem kept_trackOut (s : State) (j : Nat) (hs : Kept pend s) : Kept pend (trackOut s j) := by
  unfold trackOut
  try dsimp only
  repeat first
    | with_reducible first
      | assumption | apply kept_modPrj | refine kept_ite (fun _ => ?_) (fun _ => ?_)
    | simp only [kept_mk_eq] | intro _ | dsimp only | split

theorem kept_doTracking (s : State) (hs : Kept pend s) : Kept pend (doTracking s) := by
  unfold doTracking
  try dsimp only
  repeat first
    | with_reducible first
      | assumption | apply kept_setFld | apply kept_count | apply kept_take | apply kept_modPrj | apply kept_prjNote
      | apply kept_trackOut | refine kept_ite (fun _ => ?_) (fun _ => ?_) | refine foldl_keep _ (fun _ _ _ => ?_) ?_
    | simp only [kept_mk_eq] | intro _ | dsimp only | split

theorem kept_doReferences (s : State) (n : Nat) (hs : Kept pend s) : Kept pend (doReferences s n) :=
  foldl_keep _ (fun _ _ ht => kept_doTracking _ ht) hs

theorem kept_prjFeed (s : State) (temp : Nat → Option Int) (hs : Kept pend s) : Kept pend (prjFeed s temp) := by
  unfold prjFeed
  try dsimp only
  repeat first
    | with_reducible first
      | assumption | apply kept_modPrj | refine kept_ite (fun _ => ?_) (fun _ => ?_)
    | simp only [kept_mk_eq] | intro _ | dsimp only | split

end Sys2Proof.Machine
end

