-- ==== Sys2Proof/Laws/KeptFabric.lean ====
section
/-! SUPPORT. Canonical form and queue are kept (Kept) by JOB_STOP, the links, the move engine, the packets, HELLO and power: one lemma for each operation. -/

namespace Sys2Proof.Machine

variable {pend : List Instr}

/-! Stop -/

theorem kept_modDisp (s : State) (f : Disp → Disp) (hs : Kept pend s) : Kept pend (modDisp s f) := by
  unfold modDisp
  try dsimp only
  repeat first
    | with_reducible first
      | assumption | refine kept_ite (fun _ => ?_) (fun _ => ?_)
    | simp only [kept_mk_eq] | intro _ | dsimp only | split

theorem kept_cutCircuits (s : State) (hs : Kept pend s) : Kept pend (cutCircuits s) := by
  unfold cutCircuits
  try dsimp only
  repeat first
    | with_reducible first
      | assumption | apply kept_modFab | refine kept_ite (fun _ => ?_) (fun _ => ?_)
    | simp only [kept_mk_eq] | intro _ | dsimp only | split

theorem kept_cutBank (q : Nat) (s : State) (o : Op) (hs : Kept pend s) : Kept pend (cutBank q s o) := by
  unfold cutBank
  try dsimp only
  repeat first
    | with_reducible first
      | assumption | apply kept_setBank | refine kept_ite (fun _ => ?_) (fun _ => ?_)
    | simp only [kept_mk_eq] | intro _ | dsimp only | split

theorem kept_cutRecs (s : State) (o : Op) (hs : Kept pend s) : Kept pend (cutRecs s o) := by
  unfold cutRecs
  try dsimp only
  repeat first
    | with_reducible first
      | assumption | apply kept_poisonWord | refine kept_ite (fun _ => ?_) (fun _ => ?_)
      | refine foldl_keep _ (fun _ _ _ => ?_) ?_
    | intro _ | dsimp only | split

theorem kept_cutDst (s : State) (o : Op) (hs : Kept pend s) : Kept pend (cutDst s o) := by
  unfold cutDst
  try dsimp only
  repeat first
    | with_reducible first
      | assumption | apply kept_poisonWord | refine kept_ite (fun _ => ?_) (fun _ => ?_)
      | refine foldl_keep _ (fun _ _ _ => ?_) ?_
    | simp only [kept_mk_eq] | intro _ | dsimp only | split

theorem kept_cutQuarter (s : State) (q : Nat) (hs : Kept pend s) : Kept pend (cutQuarter s q) := by
  unfold cutQuarter
  try dsimp only
  repeat first
    | with_reducible first
      | assumption | apply kept_modQuarter | apply kept_cutBank | apply kept_cutRecs | apply kept_cutDst
      | refine kept_ite (fun _ => ?_) (fun _ => ?_) | refine foldl_keep _ (fun _ _ _ => ?_) ?_
    | simp only [kept_mk_eq] | intro _ | dsimp only | split

theorem kept_cutReqs (s : State) (hs : Kept pend s) : Kept pend (cutReqs s) := by
  unfold cutReqs
  try dsimp only
  repeat first
    | with_reducible first
      | assumption | apply kept_poisonRange | apply kept_modFab | refine kept_ite (fun _ => ?_) (fun _ => ?_)
      | refine foldl_keep _ (fun _ _ _ => ?_) ?_
    | simp only [kept_mk_eq] | intro _ | dsimp only | split

theorem kept_cutPkts (s : State) (hs : Kept pend s) : Kept pend (cutPkts s) := by
  unfold cutPkts
  try dsimp only
  repeat first
    | with_reducible first
      | assumption | apply kept_modFab | refine kept_ite (fun _ => ?_) (fun _ => ?_)
    | simp only [kept_mk_eq] | intro _ | dsimp only | split

theorem kept_cutCopies (s : State) (hs : Kept pend s) : Kept pend (cutCopies s) := by
  unfold cutCopies
  try dsimp only
  repeat first
    | with_reducible first
      | assumption | apply kept_admEnd | refine kept_ite (fun _ => ?_) (fun _ => ?_)
      | refine foldl_keep _ (fun _ _ _ => ?_) ?_
    | intro _ | dsimp only | split

theorem kept_cut (s : State) (hs : Kept pend s) : Kept pend (cut s) := by
  unfold cut
  try dsimp only
  repeat first
    | with_reducible first
      | assumption | apply kept_cutUpdate | apply kept_prjCut | apply kept_modDisp | apply kept_cutCircuits
      | apply kept_cutQuarter | apply kept_cutReqs | apply kept_cutPkts | apply kept_cutCopies
      | refine kept_ite (fun _ => ?_) (fun _ => ?_) | refine foldl_keep _ (fun _ _ _ => ?_) ?_
    | simp only [kept_mk_eq] | intro _ | dsimp only | split

theorem kept_pushStop (k : Pkt) (s : State) (p : Nat) (hs : Kept pend s) : Kept pend (pushStop k s p) := by
  unfold pushStop
  try dsimp only
  repeat first
    | with_reducible first
      | assumption | apply kept_modFab | refine kept_ite (fun _ => ?_) (fun _ => ?_)
    | simp only [kept_mk_eq] | intro _ | dsimp only | split

theorem kept_sendStops (s : State) (origin reason beat : Nat) (hs : Kept pend s) : Kept pend (sendStops s origin reason beat) := by
  unfold sendStops
  try dsimp only
  repeat first
    | with_reducible first
      | assumption | apply kept_pushStop | refine kept_ite (fun _ => ?_) (fun _ => ?_)
      | refine foldl_keep _ (fun _ _ _ => ?_) ?_
    | intro _ | dsimp only | split

theorem kept_startStop (s : State) (reason origin beat : Nat) (hs : Kept pend s) : Kept pend (startStop s reason origin beat) := by
  unfold startStop
  try dsimp only
  repeat first
    | with_reducible first
      | assumption | apply kept_setReg | apply kept_count | apply kept_fireEvent | apply kept_ccIrq | apply kept_modDisp
      | apply kept_cut | apply kept_sendStops | refine kept_ite (fun _ => ?_) (fun _ => ?_)
      | refine foldl_keep _ (fun _ _ _ => ?_) ?_
    | simp only [kept_mk_eq] | intro _ | dsimp only | split

theorem kept_stopHere (s : State) (reason : Nat) (hs : Kept pend s) : Kept pend (stopHere s reason) := by
  unfold stopHere
  try dsimp only
  repeat first
    | with_reducible first
      | assumption | apply kept_startStop | refine kept_ite (fun _ => ?_) (fun _ => ?_)
    | intro _ | dsimp only | split

theorem kept_stopAtEnd (s : State) (reason : Nat) (hs : Kept pend s) : Kept pend (stopAtEnd s reason) := by
  unfold stopAtEnd
  try dsimp only
  repeat first
    | with_reducible first
      | assumption | apply kept_modDisp | refine kept_ite (fun _ => ?_) (fun _ => ?_)
    | simp only [kept_mk_eq] | intro _ | dsimp only | split

theorem kept_closeDisco (s : State) (a : Adm) (hs : Kept pend s) : Kept pend (closeDisco s a) := by
  unfold closeDisco
  try dsimp only
  repeat first
    | with_reducible first
      | assumption | apply kept_modFab | refine kept_ite (fun _ => ?_) (fun _ => ?_)
    | simp only [kept_mk_eq] | intro _ | dsimp only | split

theorem kept_endOpen (code : Nat) (s : State) (a : Adm) (hs : Kept pend s) : Kept pend (endOpen code s a) := by
  unfold endOpen
  try dsimp only
  repeat first
    | with_reducible first
      | assumption | apply kept_admEnd | apply kept_closeDisco | refine kept_ite (fun _ => ?_) (fun _ => ?_)
    | intro _ | dsimp only | split

theorem kept_complete (s : State) (a : Adm) (hs : Kept pend s) : Kept pend (complete s a) := by
  unfold complete
  try dsimp only
  repeat first
    | with_reducible first
      | assumption | apply kept_count | apply kept_cqPut | refine kept_ite (fun _ => ?_) (fun _ => ?_)
    | simp only [kept_mk_eq] | intro _ | dsimp only | split

theorem kept_completeAll (s : State) (as_ : List Adm) (hs : Kept pend s) : Kept pend (completeAll s as_) := by
  unfold completeAll
  try dsimp only
  repeat first
    | with_reducible first
      | assumption | apply kept_raiseBatch | apply kept_modDisp | apply kept_complete
      | refine kept_ite (fun _ => ?_) (fun _ => ?_) | refine foldl_keep _ (fun _ _ _ => ?_) ?_
    | simp only [kept_mk_eq] | intro _ | dsimp only | split

theorem kept_dropLaunches (s : State) (hs : Kept pend s) : Kept pend (dropLaunches s) :=
  kept_quarters hs (foldl_keep (P := fun m : SMap Quarter => smWf (fun _ => quarter0) m = true) _
    (fun _ _ h => smWf_set (d := fun _ => quarter0) h _ _) (kept_parts hs).2.2.2.2.2.2.2.1)

theorem kept_doStopCompletions (s : State) (hs : Kept pend s) : Kept pend (doStopCompletions s) := by
  unfold doStopCompletions
  try dsimp only
  repeat first
    | with_reducible first
      | assumption | apply kept_setFld | apply kept_modDisp | apply kept_endOpen | apply kept_completeAll
      | apply kept_dropLaunches | refine kept_ite (fun _ => ?_) (fun _ => ?_) | refine foldl_keep _ (fun _ _ _ => ?_) ?_
    | simp only [kept_mk_eq] | intro _ | dsimp only | split

theorem kept_setFwQuota (s : State) (on : Nat) (hs : Kept pend s) : Kept pend (setFwQuota s on) := by
  unfold setFwQuota
  try dsimp only
  repeat first
    | with_reducible first
      | assumption | apply kept_setFld | refine kept_ite (fun _ => ?_) (fun _ => ?_)
      | refine foldl_keep _ (fun _ _ _ => ?_) ?_
    | intro _ | dsimp only | split

theorem kept_atomOff (s : State) (n : Nat) (hs : Kept pend s) : Kept pend (atomOff s n) := by
  unfold atomOff
  try dsimp only
  repeat first
    | with_reducible first
      | assumption | apply kept_setFld | refine kept_ite (fun _ => ?_) (fun _ => ?_)
    | intro _ | dsimp only | split

theorem kept_quarterOff (s : State) (q : Nat) (hs : Kept pend s) : Kept pend (quarterOff s q) := by
  unfold quarterOff
  try dsimp only
  repeat first
    | with_reducible first
      | assumption | apply kept_setFld | apply kept_flushStrm | refine kept_ite (fun _ => ?_) (fun _ => ?_)
      | refine foldl_keep _ (fun _ _ _ => ?_) ?_
    | intro _ | dsimp only | split

theorem kept_discardCells (s : State) (hs : Kept pend s) : Kept pend (discardCells s) := by
  unfold discardCells
  try dsimp only
  repeat first
    | with_reducible first
      | assumption | apply kept_modFab | refine kept_ite (fun _ => ?_) (fun _ => ?_)
    | simp only [kept_mk_eq] | intro _ | dsimp only | split

theorem kept_localBeat (s : State) (hs : Kept pend s) : Kept pend (localBeat s) := by
  unfold localBeat
  try dsimp only
  repeat first
    | with_reducible first
      | assumption | apply kept_setReg | apply kept_count | apply kept_modDisp | apply kept_cut
      | refine kept_ite (fun _ => ?_) (fun _ => ?_)
    | simp only [kept_mk_eq] | intro _ | dsimp only | split

theorem kept_doReadable (s : State) (hs : Kept pend s) : Kept pend (doReadable s) := by
  unfold doReadable
  try dsimp only
  repeat first
    | with_reducible first
      | assumption | apply kept_setFld | apply kept_setFwQuota | apply kept_atomOff | apply kept_quarterOff
      | apply kept_discardCells | apply kept_localBeat | refine kept_ite (fun _ => ?_) (fun _ => ?_)
      | refine foldl_keep _ (fun _ _ _ => ?_) ?_
    | intro _ | dsimp only | split

theorem kept_loseStack (s : State) (k : Nat) (hs : Kept pend s) : Kept pend (loseStack s k) :=
  kept_modStk _ _ (kept_mp hs (smWf_filter (kept_parts hs).1.1 _) (smWf_filter (kept_parts hs).1.2 _))

theorem kept_retireChan (s : State) (k c : Nat) (hs : Kept pend s) : Kept pend ((retireChan s k c).1) := by
  unfold retireChan
  try dsimp only
  repeat first
    | with_reducible first
      | assumption | apply kept_setReg | apply kept_modStk | apply kept_loseStack
      | refine kept_ite (fun _ => ?_) (fun _ => ?_) | refine kept_ite1 (fun _ => ?_) (fun _ => ?_)
    | simp only [kept_mk_eq] | intro _ | dsimp only | split

theorem kept_retireDown (s : State) (hs : Kept pend s) : Kept pend (retireDown s).1 := by
  unfold retireDown
  refine foldl_keep (P := fun x : State × Bool => Kept pend x.1) _ (fun x c h => ?_) ?_
  · exact kept_retireChan _ _ _ h
  · exact hs

theorem kept_clearQuarters (s : State) (hs : Kept pend s) : Kept pend (clearQuarters s) :=
  foldl_keep _ (fun _ _ h => foldl_keep _ (fun _ _ h => kept_flushStrm _ _ _ h) (kept_modQuarter _ _ _ h))
    (kept_banks hs (smWf_nil _))

theorem kept_doRearm (s : State) (hs : Kept pend s) : Kept pend (doRearm s) := by
  unfold doRearm
  try dsimp only
  repeat first
    | with_reducible first
      | assumption | apply kept_setFld | apply kept_rangeErr | apply kept_retireDown | apply kept_clearQuarters
      | refine kept_ite (fun _ => ?_) (fun _ => ?_)
    | intro _ | dsimp only | split

theorem kept_doForce (s : State) (hs : Kept pend s) : Kept pend (doForce s) := by
  unfold doForce
  try dsimp only
  repeat first
    | with_reducible first
      | assumption | apply kept_rangeErr | apply kept_stopHere | refine kept_ite (fun _ => ?_) (fun _ => ?_)
    | intro _ | dsimp only | split

theorem kept_doCut (s : State) (hs : Kept pend s) : Kept pend (doCut s) := by
  unfold doCut
  try dsimp only
  repeat first
    | with_reducible first
      | assumption | apply kept_cut | apply kept_stopHere | refine kept_ite (fun _ => ?_) (fun _ => ?_)
    | intro _ | dsimp only | split

/-! Link -/

theorem kept_setLane (s : State) (p l : Nat) (x : Lane) (hs : Kept pend s) : Kept pend (setLane s p l x) := by
  unfold setLane
  try dsimp only
  repeat first
    | with_reducible first
      | assumption | apply kept_modFab | refine kept_ite (fun _ => ?_) (fun _ => ?_)
    | simp only [kept_mk_eq] | intro _ | dsimp only | split

theorem kept_inService (s : State) (p l : Nat) (hs : Kept pend s) : Kept pend (inService s p l) := by
  unfold inService
  try dsimp only
  repeat first
    | with_reducible first
      | assumption | apply kept_setFld | refine kept_ite (fun _ => ?_) (fun _ => ?_)
    | intro _ | dsimp only | split

theorem kept_freeBuf (s : State) (x : QPkt) (hs : Kept pend s) : Kept pend (freeBuf s x) := by
  unfold freeBuf
  try dsimp only
  repeat first
    | with_reducible first
      | assumption | apply kept_addRet | refine kept_ite (fun _ => ?_) (fun _ => ?_)
    | intro _ | dsimp only | split

theorem kept_toInbox (s : State) (x : QPkt) (hs : Kept pend s) : Kept pend (toInbox s x) := by
  unfold toInbox
  try dsimp only
  repeat first
    | with_reducible first
      | assumption | apply kept_modFab | refine kept_ite (fun _ => ?_) (fun _ => ?_)
    | simp only [kept_mk_eq] | intro _ | dsimp only | split

theorem kept_noteOld (s : State) (k : Pkt) (hs : Kept pend s) : Kept pend (noteOld s k) := by
  unfold noteOld
  try dsimp only
  repeat first
    | with_reducible first
      | assumption | apply kept_modFab | refine kept_ite (fun _ => ?_) (fun _ => ?_)
    | simp only [kept_mk_eq] | intro _ | dsimp only | split

theorem kept_noteCell (s : State) (k : Pkt) (hs : Kept pend s) : Kept pend (noteCell s k) := by
  unfold noteCell
  try dsimp only
  repeat first
    | with_reducible first
      | assumption | apply kept_noteOld | refine kept_ite (fun _ => ?_) (fun _ => ?_)
    | intro _ | dsimp only | split

theorem kept_routeIn (s : State) (p l : Nat) (k : Pkt) (hs : Kept pend s) : Kept pend (routeIn s p l k) := by
  unfold routeIn
  try dsimp only
  repeat first
    | with_reducible first
      | assumption | apply kept_raiseF | apply kept_pushQ | apply kept_freeBuf | apply kept_toInbox | apply kept_noteOld
      | refine kept_ite (fun _ => ?_) (fun _ => ?_)
    | simp only [kept_mk_eq] | intro _ | dsimp only | split

theorem kept_arrive (s : State) (p l : Nat) (k : Pkt) (hs : Kept pend s) : Kept pend (arrive s p l k) := by
  unfold arrive
  try dsimp only
  repeat first
    | with_reducible first
      | assumption | apply kept_toInbox | apply kept_routeIn | refine kept_ite (fun _ => ?_) (fun _ => ?_)
    | intro _ | dsimp only | split

theorem kept_malformed (s : State) (p : Nat) (hs : Kept pend s) : Kept pend (malformed s p) := by
  unfold malformed
  try dsimp only
  repeat first
    | with_reducible first
      | assumption | apply kept_count | refine kept_ite (fun _ => ?_) (fun _ => ?_)
    | intro _ | dsimp only | split

theorem kept_setAsm (s : State) (p l : Nat) (ctrl : Bool) (a : Option Pkt) (hs : Kept pend s) : Kept pend (setAsm s p l ctrl a) := by
  unfold setAsm
  try dsimp only
  repeat first
    | with_reducible first
      | assumption | apply kept_setLane | refine kept_ite (fun _ => ?_) (fun _ => ?_)
    | simp only [kept_mk_eq] | intro _ | dsimp only | split

theorem kept_contCell (s : State) (p l : Nat) (last : Bool) (k : Pkt) (hs : Kept pend s) : Kept pend (contCell s p l last k) := by
  unfold contCell
  try dsimp only
  repeat first
    | with_reducible first
      | assumption | apply kept_arrive | apply kept_malformed | apply kept_setAsm
      | refine kept_ite (fun _ => ?_) (fun _ => ?_)
    | simp only [kept_mk_eq] | intro _ | dsimp only | split

theorem kept_packetCell (p l : Nat) (s : State) (c : List CWord) (hs : Kept pend s) : Kept pend (packetCell p l s c) := by
  unfold packetCell
  try dsimp only
  repeat first
    | with_reducible first
      | assumption | apply kept_noteCell | apply kept_arrive | apply kept_malformed | apply kept_setAsm | apply kept_contCell
      | refine kept_ite (fun _ => ?_) (fun _ => ?_)
    | simp only [kept_mk_eq] | intro _ | dsimp only | split

theorem kept_circuitCell (n : Nat) (s : State) (c : List CWord) (hs : Kept pend s) : Kept pend (circuitCell n s c) := by
  unfold circuitCell
  try dsimp only
  repeat first
    | with_reducible first
      | assumption | apply kept_modFab | apply kept_circPut | apply kept_raiseSink
      | refine kept_ite (fun _ => ?_) (fun _ => ?_)
    | simp only [kept_mk_eq] | intro _ | dsimp only | split

theorem kept_circuitFrame (s : State) (p n : Nat) (cells : List (List CWord)) (hs : Kept pend s) : Kept pend (circuitFrame s p n cells) := by
  unfold circuitFrame
  try dsimp only
  repeat first
    | with_reducible first
      | assumption | apply kept_raiseF | apply kept_circuitCell | refine kept_ite (fun _ => ?_) (fun _ => ?_)
      | refine foldl_keep _ (fun _ _ _ => ?_) ?_
    | intro _ | dsimp only | split

theorem kept_takeRet (s : State) (p l : Nat) (hs : Kept pend s) : Kept pend ((takeRet s p l).2) := by
  unfold takeRet
  try dsimp only
  repeat first
    | with_reducible first
      | assumption | apply kept_modFab | refine kept_ite (fun _ => ?_) (fun _ => ?_)
      | refine kept_ite2 (fun _ => ?_) (fun _ => ?_)
    | simp only [kept_mk_eq] | intro _ | dsimp only | split

theorem kept_countCells (s : State) (p kind n : Nat) (hs : Kept pend s) : Kept pend (countCells s p kind n) := by
  unfold countCells
  try dsimp only
  repeat first
    | with_reducible first
      | assumption | apply kept_count | refine kept_ite (fun _ => ?_) (fun _ => ?_)
    | intro _ | dsimp only | split

theorem kept_sendFrame (s : State) (p l kind circuit : Nat) (cells : List (List CWord)) (hs : Kept pend s) : Kept pend (sendFrame s p l kind circuit cells) := by
  unfold sendFrame
  try dsimp only
  repeat first
    | with_reducible first
      | assumption | apply kept_count | apply kept_setLane | apply kept_takeRet | apply kept_countCells
      | refine kept_ite (fun _ => ?_) (fun _ => ?_)
    | simp only [kept_mk_eq] | intro _ | dsimp only | split

theorem kept_reRet (p : Nat) (s : State) (f : TxFrame) (hs : Kept pend s) : Kept pend (reRet p s f) := by
  unfold reRet
  try dsimp only
  repeat first
    | with_reducible first
      | assumption | apply kept_addRet | refine kept_ite (fun _ => ?_) (fun _ => ?_)
    | intro _ | dsimp only | split

theorem kept_moveHeld (s : State) (p l : Nat) (hs : Kept pend s) : Kept pend (moveHeld s p l) := by
  unfold moveHeld
  try dsimp only
  repeat first
    | with_reducible first
      | assumption | apply kept_modFab | apply kept_setLane | apply kept_reRet | refine kept_ite (fun _ => ?_) (fun _ => ?_)
      | refine foldl_keep _ (fun _ _ _ => ?_) ?_
    | simp only [kept_mk_eq] | intro _ | dsimp only | split

theorem kept_portLanes (s : State) (p : Nat) (hs : Kept pend s) : Kept pend (portLanes s p) := by
  unfold portLanes
  try dsimp only
  repeat first
    | with_reducible first
      | assumption | apply kept_setFld | apply kept_raiseF | apply kept_stopHere
      | refine kept_ite (fun _ => ?_) (fun _ => ?_)
    | intro _ | dsimp only | split

theorem kept_setRings (s : State) (p l v : Nat) (hs : Kept pend s) : Kept pend (setRings s p l v) := by
  unfold setRings
  try dsimp only
  repeat first
    | with_reducible first
      | assumption | apply kept_setFld | refine kept_ite (fun _ => ?_) (fun _ => ?_)
    | intro _ | dsimp only | split

theorem kept_forgetPeer (s : State) (p l : Nat) (hs : Kept pend s) : Kept pend (forgetPeer s p l) := by
  unfold forgetPeer
  try dsimp only
  repeat first
    | with_reducible first
      | assumption | apply kept_modOpt | refine kept_ite (fun _ => ?_) (fun _ => ?_)
    | simp only [kept_mk_eq] | intro _ | dsimp only | split

theorem kept_laneOut (s0 : State) (p l st : Nat) (hs0 : Kept pend s0) : Kept pend (laneOut s0 p l st) := by
  unfold laneOut
  try dsimp only
  repeat first
    | with_reducible first
      | assumption | apply kept_setFld | apply kept_addFld | apply kept_moveHeld | apply kept_portLanes | apply kept_setRings
      | apply kept_forgetPeer | refine kept_ite (fun _ => ?_) (fun _ => ?_)
    | intro _ | dsimp only | split

theorem kept_laneFail (s : State) (p l : Nat) (hs : Kept pend s) : Kept pend (laneFail s p l) := by
  unfold laneFail
  try dsimp only
  repeat first
    | with_reducible first
      | assumption | apply kept_raiseF | apply kept_raiseO | apply kept_laneOut
      | refine kept_ite (fun _ => ?_) (fun _ => ?_)
    | intro _ | dsimp only | split

theorem kept_resend (s : State) (p l : Nat) (hs : Kept pend s) : Kept pend (resend s p l) := by
  unfold resend
  try dsimp only
  repeat first
    | with_reducible first
      | assumption | apply kept_count | apply kept_setLane | apply kept_laneFail
      | refine kept_ite (fun _ => ?_) (fun _ => ?_)
    | simp only [kept_mk_eq] | intro _ | dsimp only | split

theorem kept_askAgain (s : State) (p l : Nat) (hs : Kept pend s) : Kept pend (askAgain s p l) := by
  unfold askAgain
  try dsimp only
  repeat first
    | with_reducible first
      | assumption | apply kept_setLane | refine kept_ite (fun _ => ?_) (fun _ => ?_)
    | simp only [kept_mk_eq] | intro _ | dsimp only | split

theorem kept_ackHeld (s : State) (p l ack : Nat) (hs : Kept pend s) : Kept pend (ackHeld s p l ack) := by
  unfold ackHeld
  try dsimp only
  repeat first
    | with_reducible first
      | assumption | apply kept_setLane | refine kept_ite (fun _ => ?_) (fun _ => ?_)
    | simp only [kept_mk_eq] | intro _ | dsimp only | split

theorem kept_takeReturn (s : State) (p l : Nat) (ret : W32) (hs : Kept pend s) : Kept pend (takeReturn s p l ret) := by
  unfold takeReturn
  try dsimp only
  repeat first
    | with_reducible first
      | assumption | apply kept_modFab | apply kept_circReturn | refine kept_ite (fun _ => ?_) (fun _ => ?_)
    | simp only [kept_mk_eq] | intro _ | dsimp only | split

theorem kept_acceptFrame (s : State) (p l : Nat) (tag : W64) (cells : List (List CWord)) (ret : W32) (hs : Kept pend s) : Kept pend (acceptFrame s p l tag cells ret) := by
  unfold acceptFrame
  try dsimp only
  repeat first
    | with_reducible first
      | assumption | apply kept_count | apply kept_setLane | apply kept_inService | apply kept_packetCell
      | apply kept_circuitFrame | apply kept_resend | apply kept_ackHeld | apply kept_takeReturn
      | refine kept_ite (fun _ => ?_) (fun _ => ?_) | refine foldl_keep _ (fun _ _ _ => ?_) ?_
    | simp only [kept_mk_eq] | intro _ | dsimp only | split

theorem kept_doFrameRx (s : State) (p l : Nat) (ws : List (W64 × Byte)) (ret : BitVec 24) (hs : Kept pend s) : Kept pend (doFrameRx s p l ws ret) := by
  unfold doFrameRx
  try dsimp only
  repeat first
    | with_reducible first
      | assumption | apply kept_count | apply kept_askAgain | apply kept_acceptFrame
      | refine kept_ite (fun _ => ?_) (fun _ => ?_)
    | simp only [kept_mk_eq] | intro _ | dsimp only | split

theorem kept_calFrames (p : Nat) (l : List Nat) (s : State) (room : Nat) (hs : Kept pend s) : Kept pend (calFrames p s l room).1 := by
  induction l generalizing s room with
  | nil => cases room <;> exact hs
  | cons i t ih =>
    cases room with
    | zero => exact hs
    | succ room =>
      unfold calFrames
      split
      · exact ih _ _ hs
      · split
        · exact ih _ _ hs
        · exact ih _ _ (kept_modFab _ _ hs)

theorem kept_displace (s : State) (p : Nat) (fs : List MovedFrame) (hs : Kept pend s) : Kept pend ((displace s p fs).1) := by
  unfold displace
  try dsimp only
  repeat first
    | with_reducible first
      | assumption | apply kept_modFab | refine kept_ite (fun _ => ?_) (fun _ => ?_)
      | refine kept_ite1 (fun _ => ?_) (fun _ => ?_)
    | simp only [kept_mk_eq] | intro _ | dsimp only | split

theorem kept_ctrlTake (l : List Pkt) (s : State) (q v room : Nat) (cs : List (List CWord)) (hs : Kept pend s) : Kept pend (ctrlTake s q v l room cs).1 := by
  induction l generalizing s room cs with
  | nil => exact kept_modFab _ _ hs
  | cons k t ih =>
    unfold ctrlTake
    exact kept_ite1 (fun _ => ih _ _ _ (kept_modFab _ _ hs)) (fun _ => kept_modFab _ _ hs)

theorem kept_ctrlFrame (s : State) (q v : Nat) (hs : Kept pend s) : Kept pend (ctrlFrame s q v).1 := by
  unfold ctrlFrame
  split
  · exact hs
  · exact kept_ite1 (fun _ => hs) (fun _ => kept_ctrlTake _ _ _ _ _ _ hs)

theorem kept_ctrlFrames (p : Nat) (s : State) (room : Nat) (hs : Kept pend s) : Kept pend (ctrlFrames p s room).1 := by
  induction room generalizing s with
  | zero => exact hs
  | succ n ih =>
    unfold ctrlFrames
    have h1 := kept_ctrlFrame s p (vkeyOf p 0 4) hs
    exact kept_ite1 (fun _ => h1) (fun _ => ih _ h1)

theorem kept_startPkt (s : State) (p l : Nat) (hs : Kept pend s) : Kept pend (startPkt s p l) := by
  unfold startPkt
  try dsimp only
  repeat first
    | with_reducible first
      | assumption | apply kept_modFab | apply kept_setLane | apply kept_freeBuf
      | refine kept_ite (fun _ => ?_) (fun _ => ?_)
    | simp only [kept_mk_eq] | intro _ | dsimp only | split

theorem kept_packetCells (p l : Nat) (fresh : Bool) (f : Nat) (s : State) (cs : List (List CWord)) (hs : Kept pend s) :
    Kept pend (packetCells p l fresh s f cs).1 := by
  induction f generalizing s cs with
  | zero => exact hs
  | succ n ih =>
    have h1 : Kept pend (if fresh && (lane s p l).out.isEmpty && laneUp s p l && !stopRuns s then startPkt s p l else s) :=
      kept_ite (fun _ => kept_startPkt _ _ _ hs) (fun _ => hs)
    unfold packetCells
    dsimp only
    split
    · exact h1
    · exact ih _ _ (kept_setLane _ _ _ _ h1)

theorem kept_packetFrame (p first : Nat) (s : State) (l : Nat) (hs : Kept pend s) : Kept pend (packetFrame p first s l) := by
  have hc : Kept pend (match laneQueue s p l with
      | some q => if 24 ≤ p then ctrlFrame s q (vkeyOf p l 4) else (s, [])
      | none => (s, [])).1 := by
    split
    · exact kept_ite1 (fun _ => kept_ctrlFrame _ _ _ hs) (fun _ => hs)
    · exact hs
  have hm : ∀ x t, nextMoved s p = some (x, t) → Kept pend t := by
    intro x t h
    unfold nextMoved at h
    split at h
    · cases h
    · cases h; exact kept_modFab _ _ hs
  unfold packetFrame
  refine kept_ite (fun _ => kept_sendFrame _ _ _ _ _ _ hc) fun _ => ?_
  split
  · rename_i x t h
    have ht : Kept pend t := by
      by_cases hl : l = first
      · rw [if_pos hl] at h; exact hm _ _ h
      · rw [if_neg hl] at h; cases h
    exact kept_ite (fun _ => kept_sendFrame _ _ _ _ _ _ ht) (fun _ => kept_sendFrame _ _ _ _ _ _ (kept_packetCells _ _ _ _ _ _ hs))
  · exact kept_sendFrame _ _ _ _ _ _ (kept_packetCells _ _ _ _ _ _ hs)

theorem kept_deal (p first : Nat) (ls : List Nat) (s : State) (xs : List MovedFrame) (hs : Kept pend s) : Kept pend (deal p first s ls xs) := by
  induction ls generalizing s xs with
  | nil => cases xs <;> exact hs
  | cons l ls ih =>
    cases xs with
    | nil => exact ih _ _ (kept_packetFrame _ _ _ _ hs)
    | cons x xs => exact ih _ _ (kept_sendFrame _ _ _ _ _ _ hs)

theorem kept_movedFrames (s : State) (p room : Nat) (hs : Kept pend s) : Kept pend ((movedFrames s p room).1) := by
  unfold movedFrames
  try dsimp only
  repeat first
    | with_reducible first
      | assumption | apply kept_modFab | apply kept_take | refine kept_ite (fun _ => ?_) (fun _ => ?_)
      | refine kept_ite1 (fun _ => ?_) (fun _ => ?_) | refine foldl_keep _ (fun _ _ _ => ?_) ?_
    | simp only [kept_mk_eq] | intro _ | dsimp only | split

theorem kept_sendWords (s : State) (p : Nat) (hs : Kept pend s) : Kept pend (sendWords s p) := by
  unfold sendWords
  try dsimp only
  repeat first
    | with_reducible first
      | assumption | apply kept_modOpt | refine kept_ite (fun _ => ?_) (fun _ => ?_)
    | simp only [kept_mk_eq] | intro _ | dsimp only | split

theorem kept_roundFrames (s : State) (p : Nat) (hs : Kept pend s) : Kept pend (roundFrames s p) := by
  unfold roundFrames
  try dsimp only
  repeat first
    | with_reducible first
      | assumption | apply kept_calFrames | apply kept_displace | apply kept_ctrlFrames | apply kept_deal
      | apply kept_movedFrames | refine kept_ite (fun _ => ?_) (fun _ => ?_)
    | intro _ | dsimp only | split

theorem kept_doRound (s : State) (p : Nat) (hs : Kept pend s) : Kept pend (doRound s p) := by
  unfold doRound
  try dsimp only
  repeat first
    | with_reducible first
      | assumption | apply kept_sendWords | apply kept_roundFrames | refine kept_ite (fun _ => ?_) (fun _ => ?_)
    | intro _ | dsimp only | split

theorem kept_doCtrlDisplace (s : State) (p : Nat) (hs : Kept pend s) : Kept pend (doCtrlDisplace s p) := by
  unfold doCtrlDisplace
  try dsimp only
  repeat first
    | with_reducible first
      | assumption | apply kept_modFab | apply kept_raiseF | refine kept_ite (fun _ => ?_) (fun _ => ?_)
    | simp only [kept_mk_eq] | intro _ | dsimp only | split

/-! Move -/

theorem kept_atomicCount (s : State) (f : Fmt) (a : Nat) (x : CWord) (hs : Kept pend s) : Kept pend (atomicCount s f a x) := by
  unfold atomicCount
  try dsimp only
  repeat first
    | with_reducible first
      | assumption | apply kept_count | refine kept_ite (fun _ => ?_) (fun _ => ?_)
    | intro _ | dsimp only | split

theorem kept_atomicAdd (s0 : State) (f : Fmt) (a : Nat) (x : CWord) (hs0 : Kept pend s0) : Kept pend (atomicAdd s0 f a x) := by
  unfold atomicAdd
  try dsimp only
  repeat first
    | with_reducible first
      | assumption | apply kept_writeNat | apply kept_poisonWord | apply kept_atomicCount
      | refine kept_ite (fun _ => ?_) (fun _ => ?_)
    | intro _ | dsimp only | split

theorem kept_atomicAdds (l : List CWord) (s : State) (f : Fmt) (a : Nat) (hs : Kept pend s) : Kept pend (atomicAdds s f a l) := by
  induction l generalizing s a with
  | nil => exact hs
  | cons w t ih => exact ih _ _ (kept_atomicAdd _ _ _ _ hs)

theorem kept_copyRow (q op : Nat) (b : W512) (s : State) (r : Nat) (hs : Kept pend s) : Kept pend (copyRow q op b s r) := by
  unfold copyRow
  try dsimp only
  repeat first
    | with_reducible first
      | assumption | apply kept_writeMarked | apply kept_touch | apply kept_sendWrite | apply kept_sendRead
      | apply kept_circWrite | refine kept_ite (fun _ => ?_) (fun _ => ?_)
    | simp only [kept_mk_eq] | intro _ | dsimp only | split

theorem kept_moveCopyBody (q : Nat) (s : State) (f : Fetched) (d : Done) (h : moveCopyBody q s f = .ok d) (hs : Kept pend s) : Kept pend d.s := by
  unfold moveCopyBody at h
  simp only [bind, Except.bind] at h
  split at h
  · cases h
  · split at h
    · cases h
    · cases h; exact foldl_keep _ (fun _ _ h => kept_copyRow _ _ _ _ _ h) hs

theorem kept_readAdd (s : State) (chip a n da q op fmt : Nat) (hs : Kept pend s) : Kept pend (readAdd s chip a n da q op fmt) := by
  unfold readAdd
  try dsimp only
  repeat first
    | with_reducible first
      | assumption | apply kept_modFab | apply kept_sendRead | refine kept_ite (fun _ => ?_) (fun _ => ?_)
    | simp only [kept_mk_eq] | intro _ | dsimp only | split

theorem kept_atomicRows (q op : Nat) (b : W512) (l : List Nat) (s : State) (hs : Kept pend s) : Kept pend (atomicRows q op b l s).1 := by
  induction l generalizing s with
  | nil => exact hs
  | cons r t ih =>
    unfold atomicRows
    exact kept_ite1 (fun _ => ih _ (kept_sendWrite _ _ _ _ _ _ _ _ _ _ hs)) fun _ =>
      kept_ite1 (fun _ => ih _ (kept_ite (fun _ => kept_atomicAdds _ _ _ _ hs) (fun _ => kept_readAdd _ _ _ _ _ _ _ _ hs)))
        (fun _ => kept_raiseQ _ _ _ _ _ hs)

theorem kept_runPartial (s : State) (q i : Nat) (isOp : W128 → Bool) (touches : State → Fetched → Touches)
    (body : State → Fetched → Except Nat (Done × Option Nat)) (hs : Kept pend s)
    (hb : ∀ f d, body s f = .ok d → Kept pend d.1.s) : Kept pend (runPartial s q i isOp touches body) := by
  unfold runPartial
  split
  · exact hs
  · exact kept_failHead _ _ _ _ _ hs
  · exact kept_skipNow _ _ _ _ _ hs
  · refine kept_ite (fun _ => kept_slotWait _ _ _ hs) fun _ => kept_ite (fun _ => kept_keepPred _ _ _ _ hs) fun _ => ?_
    split
    · exact kept_failHead _ _ _ _ _ hs
    · rename_i hd
      have h1 := hb _ _ hd
      dsimp only at h1
      have h2 := kept_popHead _ q i h1
      refine kept_amendOp _ _ _ ?_
      with_reducible exact kept_startOp _ _ _ _ _ _ _ _ _ _ h2
    · rename_i hd
      have h1 := hb _ _ hd
      dsimp only at h1
      exact kept_failHead _ _ _ _ _ (kept_orphanReqs _ _ _ h1)

theorem kept_moveAtomicBody (q : Nat) (s : State) (f : Fetched) (d) (h : moveAtomicBody q s f = .ok d) (hs : Kept pend s) : Kept pend d.1.s := by
  unfold moveAtomicBody at h
  simp only [bind, Except.bind] at h
  split at h
  · cases h
  · split at h
    · cases h
    · cases h; exact kept_atomicRows _ _ _ _ _ hs

theorem kept_dispRow (q op : Nat) (b : W512) (s : State) (p : Place) (slot t : Nat) (hs : Kept pend s) : Kept pend (dispRow q op b s p slot t) := by
  unfold dispRow
  try dsimp only
  repeat first
    | with_reducible first
      | assumption | apply kept_writeMarked | apply kept_touch | apply kept_sendWrite
      | refine kept_ite (fun _ => ?_) (fun _ => ?_)
    | simp only [kept_mk_eq] | intro _ | dsimp only | split

theorem kept_dispEntry (q op : Nat) (b : W512) (x : DispAcc) (i : Nat) (hs : Kept pend x.s) : Kept pend (dispEntry q op b x i).s := by
  unfold dispEntry
  dsimp only
  split
  · exact hs
  · split
    · exact kept_writeNat x.s _ 2 65535 hs
    · have h1 := kept_writeNat x.s (lsBase q + gaList b + 8 * i + 2) 2 (smGet 0 x.cnt (expertAt x.s q (gaList b) i)) hs
      dsimp only
      exact kept_dispRow _ _ _ _ _ _ _ h1

theorem kept_dispLocalEnd (q : Nat) (b : W512) (s : State) (e c : Nat) (hs : Kept pend s) : Kept pend (dispLocalEnd q b s e c) := by
  unfold dispLocalEnd
  try dsimp only
  repeat first
    | with_reducible first
      | assumption | apply kept_writeNat | apply kept_sqAdd | apply kept_touch | refine kept_ite (fun _ => ?_) (fun _ => ?_)
    | intro _ | dsimp only | split

theorem kept_afterOne (q : Nat) (o : Op) (s : State) (a : After) (hs : Kept pend s) : Kept pend ((afterOne q o s a).1) := by
  unfold afterOne
  try dsimp only
  repeat first
    | with_reducible first
      | assumption | apply kept_sendWrite | apply kept_sendSignal | refine kept_ite (fun _ => ?_) (fun _ => ?_)
      | refine kept_ite1 (fun _ => ?_) (fun _ => ?_)
    | simp only [kept_mk_eq] | intro _ | dsimp only | split

theorem kept_afterAll (q : Nat) (o : Op) (l : List After) (s : State) (hs : Kept pend s) : Kept pend (afterAll q o l s).1 := by
  induction l generalizing s with
  | nil => exact hs
  | cons a t ih => exact ih _ (kept_afterOne _ _ _ _ hs)

theorem kept_afterStep (s : State) (q : Nat) (hs : Kept pend s) : Kept pend (afterStep s q) := by
  unfold afterStep
  try dsimp only
  repeat first
    | with_reducible first
      | assumption | apply kept_modQuarter | apply kept_afterAll | refine kept_ite (fun _ => ?_) (fun _ => ?_)
      | refine foldl_keep _ (fun _ _ _ => ?_) ?_
    | simp only [kept_mk_eq] | intro _ | dsimp only | split

theorem kept_dispEntries (s : State) (q : Nat) (b : W512) (hs : Kept pend s) : Kept pend (dispEntries s q b).s := by
  unfold dispEntries
  exact foldl_keep (P := fun x : DispAcc => Kept pend x.s) _ (fun _ _ h => kept_dispEntry _ _ _ _ _ h) hs

theorem kept_dispatchGo (s : State) (q : Nat) (f : Fetched) (b : W512) (hs : Kept pend s) : Kept pend (dispatchGo s q f b) := by
  have h1 := kept_dispEntries s q b hs
  have h2 : ∀ (l : SMap Nat) x, Kept pend x → Kept pend (l.foldl (fun t p => dispLocalEnd q b t p.1 p.2) x) :=
    fun _ _ h => foldl_keep _ (fun _ _ h => kept_dispLocalEnd _ _ _ _ _ h) h
  unfold dispatchGo
  dsimp only
  refine kept_afterStep _ _ (kept_amendOp _ _ _ ?_)
  with_reducible refine kept_startOp _ _ _ _ _ _ _ _ _ _ (kept_popHead _ _ _ ?_)
  exact kept_ite (fun _ => h2 _ _ h1) (fun _ => kept_count _ _ _ (h2 _ _ h1))

theorem kept_doDispatch (s : State) (q : Nat) (hs : Kept pend s) : Kept pend (doDispatch s q) := by
  unfold doDispatch
  try dsimp only
  repeat first
    | with_reducible first
      | assumption | apply kept_raiseQ | apply kept_failHead | apply kept_keepPred | apply kept_slotWait | apply kept_skipNow
      | apply kept_dispatchGo | refine kept_ite (fun _ => ?_) (fun _ => ?_)
    | simp only [kept_mk_eq] | intro _ | dsimp only | split

theorem kept_gatherRowsBody (q : Nat) (s : State) (f : Fetched) (d : Done) (h : gatherRowsBody q s f = .ok d) (hs : Kept pend s) : Kept pend d.s := by
  unfold gatherRowsBody at h
  simp only [bind, Except.bind] at h
  split at h
  · cases h
  · split at h
    · cases h
    · split at h
      · cases h
      · split at h
        · cases h
        · cases h
          exact foldl_keep _ (fun _ _ h => kept_touch _ _ _ _ _ (kept_writeMarked _ _ _ h)) hs

theorem kept_combineBody (q : Nat) (s : State) (f : Fetched) (d : Done) (h : combineBody q s f = .ok d) (hs : Kept pend s) : Kept pend d.s := by
  unfold combineBody at h
  simp only [bind, Except.bind] at h
  split at h
  · cases h
  · split at h
    · cases h
    · split at h
      · cases h
      · split at h
        · cases h
        · cases h
          dsimp only
          refine kept_ite (fun _ => kept_raiseQ _ _ _ _ _ ?_) (fun _ => ?_) <;>
            exact foldl_keep _ (fun _ _ h => kept_writeElems _ _ _ _ _ h) (foldl_keep _ (fun _ _ h => kept_touch _ _ _ _ _ h) hs)

theorem kept_scatterAdds (q : Nat) (b : W512) (l : List Nat) (s : State) (hs : Kept pend s) : Kept pend (scatterAdds q b l s).1 := by
  induction l generalizing s with
  | nil => exact hs
  | cons r t ih =>
    unfold scatterAdds
    exact kept_ite1 (fun _ => ih _ (kept_atomicAdds _ _ _ _ hs)) (fun _ => kept_raiseQ _ _ _ _ _ hs)

theorem kept_scatterAddBody (q : Nat) (s : State) (f : Fetched) (d) (h : scatterAddBody q s f = .ok d) (hs : Kept pend s) : Kept pend d.1.s := by
  unfold scatterAddBody at h
  simp only [bind, Except.bind] at h
  split at h
  · cases h
  · split at h
    · cases h
    · split at h
      · cases h
      · cases h; exact kept_scatterAdds _ _ _ _ hs

theorem kept_scatterRowsBody (q : Nat) (s : State) (f : Fetched) (d : Done) (h : scatterRowsBody q s f = .ok d) (hs : Kept pend s) : Kept pend d.s := by
  unfold scatterRowsBody at h
  simp only [bind, Except.bind] at h
  split at h
  · cases h
  · split at h
    · cases h
    · split at h
      · cases h
      · split at h
        · cases h
        · cases h
          exact foldl_keep _ (fun _ _ h => kept_touch _ _ _ _ _ (kept_writeMarked _ _ _ h)) hs

/-! Fabric -/

theorem kept_takePkt (s : State) (k : Pkt) (hs : Kept pend s) : Kept pend (takePkt s k) := by
  unfold takePkt
  try dsimp only
  repeat first
    | with_reducible first
      | assumption | apply kept_modFab | apply kept_freeBuf | refine kept_ite (fun _ => ?_) (fun _ => ?_)
    | simp only [kept_mk_eq] | intro _ | dsimp only | split

theorem kept_respond (s : State) (p : Nat) (k : Pkt) (typ : Nat) (ws : List CWord) (hs : Kept pend s) : Kept pend (respond s p k typ ws) := by
  unfold respond
  try dsimp only
  repeat first
    | with_reducible first
      | assumption | apply kept_pushPkt | apply kept_inject | refine kept_ite (fun _ => ?_) (fun _ => ?_)
    | simp only [kept_mk_eq] | intro _ | dsimp only | split

theorem kept_refuse (s : State) (p : Nat) (k : Pkt) (cause : Nat) (hs : Kept pend s) : Kept pend (refuse s p k cause) := by
  unfold refuse
  try dsimp only
  repeat first
    | with_reducible first
      | assumption | apply kept_respond | refine kept_ite (fun _ => ?_) (fun _ => ?_)
    | intro _ | dsimp only | split

theorem kept_acked (s : State) (p : Nat) (k : Pkt) (hs : Kept pend s) : Kept pend (acked s p k) := by
  unfold acked
  try dsimp only
  repeat first
    | with_reducible first
      | assumption | apply kept_respond | refine kept_ite (fun _ => ?_) (fun _ => ?_)
    | intro _ | dsimp only | split

theorem kept_reqIn (s : State) (p : Nat) (k : Pkt) (typ : Nat) (act : State → State) (hs : Kept pend s) (hact : ∀ s, Kept pend s → Kept pend (act s)) : Kept pend (reqIn s p k typ act) := by
  unfold reqIn
  try dsimp only
  repeat first
    | with_reducible first
      | assumption | apply hact | apply kept_raiseF | apply kept_takePkt | refine kept_ite (fun _ => ?_) (fun _ => ?_)
    | intro _ | dsimp only | split

theorem kept_doWrite (p : Nat) (k : Pkt) (s : State) (hs : Kept pend s) : Kept pend (doWrite p k s) := by
  unfold doWrite
  try dsimp only
  repeat first
    | with_reducible first
      | assumption | apply kept_writeWords | apply kept_touch | apply kept_take | apply kept_refuse | apply kept_acked
      | refine kept_ite (fun _ => ?_) (fun _ => ?_)
    | simp only [kept_mk_eq] | intro _ | dsimp only | split

theorem kept_doRead (p : Nat) (k : Pkt) (s : State) (hs : Kept pend s) : Kept pend (doRead p k s) := by
  unfold doRead
  try dsimp only
  repeat first
    | with_reducible first
      | assumption | apply kept_touch | apply kept_respond | apply kept_refuse | refine kept_ite (fun _ => ?_) (fun _ => ?_)
    | simp only [kept_mk_eq] | intro _ | dsimp only | split

theorem kept_doReqSignal (p : Nat) (k : Pkt) (s : State) (hs : Kept pend s) : Kept pend (doReqSignal p k s) := by
  unfold doReqSignal
  try dsimp only
  repeat first
    | with_reducible first
      | assumption | apply kept_sqAdd | apply kept_refuse | apply kept_acked | refine kept_ite (fun _ => ?_) (fun _ => ?_)
    | simp only [kept_mk_eq] | intro _ | dsimp only | split

theorem kept_doAtomicAdd (p : Nat) (k : Pkt) (s : State) (hs : Kept pend s) : Kept pend (doAtomicAdd p k s) := by
  unfold doAtomicAdd
  try dsimp only
  repeat first
    | with_reducible first
      | assumption | apply kept_atomicAdds | apply kept_take | apply kept_refuse | apply kept_acked
      | refine kept_ite (fun _ => ?_) (fun _ => ?_)
    | simp only [kept_mk_eq] | intro _ | dsimp only | split

theorem kept_recovOver (s : State) (a : Nat) (hs : Kept pend s) : Kept pend (recovOver s a) := by
  unfold recovOver
  try dsimp only
  repeat first
    | with_reducible first
      | assumption | apply kept_modStk | refine kept_ite (fun _ => ?_) (fun _ => ?_)
    | simp only [kept_mk_eq] | intro _ | dsimp only | split

theorem kept_recovFail (s : State) (a : Nat) (hs : Kept pend s) : Kept pend (recovFail s a) := by
  unfold recovFail
  try dsimp only
  repeat first
    | with_reducible first
      | assumption | apply kept_poisonRange | apply kept_touch | apply kept_stopHere | apply kept_recovOver
      | refine kept_ite (fun _ => ?_) (fun _ => ?_) | refine foldl_keep _ (fun _ _ _ => ?_) ?_
    | intro _ | dsimp only | split

theorem kept_recovData (s : State) (a : Nat) (ws : List CWord) (hs : Kept pend s) : Kept pend (recovData s a ws) := by
  unfold recovData
  try dsimp only
  repeat first
    | with_reducible first
      | assumption | apply kept_writeWords | apply kept_touch | apply kept_take | apply kept_recovOver | apply kept_recovFail
      | refine kept_ite (fun _ => ?_) (fun _ => ?_) | refine foldl_keep _ (fun _ _ _ => ?_) ?_
    | intro _ | dsimp only | split

theorem kept_dropReq (s : State) (r : Req) (hs : Kept pend s) : Kept pend (dropReq s r) := by
  unfold dropReq
  try dsimp only
  repeat first
    | with_reducible first
      | assumption | apply kept_modFab | refine kept_ite (fun _ => ?_) (fun _ => ?_)
    | simp only [kept_mk_eq] | intro _ | dsimp only | split

theorem kept_lateRsp (s : State) (p : Nat) (hs : Kept pend s) : Kept pend (lateRsp s p) := by
  unfold lateRsp
  try dsimp only
  repeat first
    | with_reducible first
      | assumption | apply kept_addFld | apply kept_raiseF | refine kept_ite (fun _ => ?_) (fun _ => ?_)
    | intro _ | dsimp only | split

theorem kept_reqOver (s : State) (r : Req) (hs : Kept pend s) : Kept pend (reqOver s r) := by
  unfold reqOver
  try dsimp only
  repeat first
    | with_reducible first
      | assumption | apply kept_admEnd | apply kept_afterStep | refine kept_ite (fun _ => ?_) (fun _ => ?_)
    | intro _ | dsimp only | split

theorem kept_rspIn (s : State) (p : Nat) (k : Pkt) (typ : Nat) (fits : Req → Bool) (act : Req → State → State) (hs : Kept pend s)
    (hact : ∀ r s, Kept pend s → Kept pend (act r s)) : Kept pend (rspIn s p k typ fits act) := by
  have h1 := kept_takePkt s k hs
  unfold rspIn
  refine kept_ite (fun _ => hs) fun _ => kept_ite (fun _ => kept_ite (fun _ => kept_raiseF _ _ _ _ h1) (fun _ => hs)) fun _ => ?_
  dsimp only
  split
  · exact kept_ite (fun _ => hact _ _ (kept_dropReq _ _ h1)) (fun _ => kept_lateRsp _ _ h1)
  · exact kept_lateRsp _ _ h1

theorem kept_takeData (k : Pkt) (r : Req) (s : State) (hs : Kept pend s) : Kept pend (takeData k r s) := by
  unfold takeData
  try dsimp only
  repeat first
    | with_reducible first
      | assumption | apply kept_writeWords | apply kept_touch | apply kept_atomicAdds | apply kept_recovData
      | apply kept_reqOver | refine kept_ite (fun _ => ?_) (fun _ => ?_)
    | simp only [kept_mk_eq] | intro _ | dsimp only | split

theorem kept_unitRange (s : State) (r : Req) (hs : Kept pend s) : Kept pend (unitRange s r) := by
  unfold unitRange
  try dsimp only
  repeat first
    | with_reducible first
      | assumption | apply kept_raise | apply kept_raiseQ | refine kept_ite (fun _ => ?_) (fun _ => ?_)
    | intro _ | dsimp only | split

theorem kept_takeError (p : Nat) (r : Req) (s : State) (hs : Kept pend s) : Kept pend (takeError p r s) := by
  unfold takeError
  try dsimp only
  repeat first
    | with_reducible first
      | assumption | apply kept_poisonRange | apply kept_raiseF | apply kept_recovFail | apply kept_reqOver
      | apply kept_unitRange | refine kept_ite (fun _ => ?_) (fun _ => ?_)
    | intro _ | dsimp only | split

theorem kept_deadOp (s : State) (q id : Nat) (hs : Kept pend s) : Kept pend (deadOp s q id) := by
  unfold deadOp
  try dsimp only
  repeat first
    | with_reducible first
      | assumption | apply kept_modQuarter | refine kept_ite (fun _ => ?_) (fun _ => ?_)
    | simp only [kept_mk_eq] | intro _ | dsimp only | split

theorem kept_overrunOf (s : State) (r : Req) (hs : Kept pend s) : Kept pend (overrunOf s r) := by
  unfold overrunOf
  try dsimp only
  repeat first
    | with_reducible first
      | assumption | apply kept_admEnd | refine kept_ite (fun _ => ?_) (fun _ => ?_)
    | simp only [kept_mk_eq] | intro _ | dsimp only | split

theorem kept_expire (s : State) (r : Req) (hs : Kept pend s) : Kept pend (expire s r) := by
  unfold expire
  try dsimp only
  repeat first
    | with_reducible first
      | assumption | apply kept_addFld | apply kept_poisonRange | apply kept_stopAtEnd | apply kept_recovFail
      | apply kept_dropReq | apply kept_deadOp | apply kept_overrunOf | refine kept_ite (fun _ => ?_) (fun _ => ?_)
    | intro _ | dsimp only | split

theorem kept_doE2eTimeout (s : State) (flow seq : Nat) (hs : Kept pend s) : Kept pend (doE2eTimeout s flow seq) := by
  unfold doE2eTimeout
  try dsimp only
  repeat first
    | with_reducible first
      | assumption | apply kept_expire | refine kept_ite (fun _ => ?_) (fun _ => ?_)
    | simp only [kept_mk_eq] | intro _ | dsimp only | split

theorem kept_ctrlIn (s : State) (k : Pkt) (typ : Nat) (acts : Bool) (act : State → State) (hs : Kept pend s) (hact : ∀ s, Kept pend s → Kept pend (act s)) : Kept pend (ctrlIn s k typ acts act) := by
  unfold ctrlIn
  try dsimp only
  repeat first
    | with_reducible first
      | assumption | apply hact | apply kept_takePkt | refine kept_ite (fun _ => ?_) (fun _ => ?_)
    | intro _ | dsimp only | split

theorem kept_doStopCell (s : State) (p : Nat) (k : Pkt) (hs : Kept pend s) : Kept pend (doStopCell s p k) := by
  unfold doStopCell
  try dsimp only
  repeat first
    | with_reducible first
      | assumption | apply kept_startStop | apply kept_ctrlIn | refine kept_ite (fun _ => ?_) (fun _ => ?_)
    | intro _ | dsimp only | split

theorem kept_doEcho (s : State) (p : Nat) (k : Pkt) (turn : Nat) (hs : Kept pend s) : Kept pend (doEcho s p k turn) := by
  unfold doEcho
  try dsimp only
  repeat first
    | with_reducible first
      | assumption | apply kept_pushCtrl | apply kept_ctrlIn | refine kept_ite (fun _ => ?_) (fun _ => ?_)
    | intro _ | dsimp only | split

theorem kept_moveBoundary (s : State) (old new : Nat) (hs : Kept pend s) : Kept pend (moveBoundary s old new) := by
  unfold moveBoundary
  try dsimp only
  repeat first
    | with_reducible first
      | assumption | apply kept_modDisp | refine kept_ite (fun _ => ?_) (fun _ => ?_)
    | simp only [kept_mk_eq] | intro _ | dsimp only | split

theorem kept_doEchoReply (s : State) (p : Nat) (k : Pkt) (rtt parentDly : Nat) (hs : Kept pend s) : Kept pend (doEchoReply s p k rtt parentDly) := by
  unfold doEchoReply
  try dsimp only
  repeat first
    | with_reducible first
      | assumption | apply kept_setFld | apply kept_modFab | apply kept_ctrlIn | apply kept_moveBoundary
      | refine kept_ite (fun _ => ?_) (fun _ => ?_)
    | simp only [kept_mk_eq] | intro _ | dsimp only | split

theorem kept_doWriteHead (s : State) (n : Nat) (c : List CWord) (hs : Kept pend s) : Kept pend (doWriteHead s n c) := by
  unfold doWriteHead
  try dsimp only
  repeat first
    | with_reducible first
      | assumption | apply kept_sinkFree | apply kept_modSink | apply kept_raiseSink | apply kept_sinkCtl
      | refine kept_ite (fun _ => ?_) (fun _ => ?_)
    | simp only [kept_mk_eq] | intro _ | dsimp only | split

theorem kept_doDataCell (s : State) (n : Nat) (c : List CWord) (hs : Kept pend s) : Kept pend (doDataCell s n c) := by
  unfold doDataCell
  try dsimp only
  repeat first
    | with_reducible first
      | assumption | apply kept_writeWords | apply kept_touch | apply kept_sinkFree | apply kept_takeCirc | apply kept_modSink
      | apply kept_raiseSink | refine kept_ite (fun _ => ?_) (fun _ => ?_)
    | simp only [kept_mk_eq] | intro _ | dsimp only | split

theorem kept_doCircSignal (s : State) (n : Nat) (c : List CWord) (hs : Kept pend s) : Kept pend (doCircSignal s n c) := by
  unfold doCircSignal
  try dsimp only
  repeat first
    | with_reducible first
      | assumption | apply kept_sqAdd | apply kept_sinkFree | apply kept_modSink | apply kept_sinkCtl
      | refine kept_ite (fun _ => ?_) (fun _ => ?_)
    | simp only [kept_mk_eq] | intro _ | dsimp only | split

/-! Hello -/

theorem kept_modDisco (s : State) (key : Nat) (f : Disco → Disco) (hs : Kept pend s) : Kept pend (modDisco s key f) := by
  unfold modDisco
  try dsimp only
  repeat first
    | with_reducible first
      | assumption | apply kept_modFab | refine kept_ite (fun _ => ?_) (fun _ => ?_)
    | simp only [kept_mk_eq] | intro _ | dsimp only | split

theorem kept_helloOut (s : State) (p key : Nat) (k : Pkt) (hs : Kept pend s) : Kept pend (helloOut s p key k) := by
  unfold helloOut
  try dsimp only
  repeat first
    | with_reducible first
      | assumption | apply kept_pushCtrl | refine kept_ite (fun _ => ?_) (fun _ => ?_)
    | intro _ | dsimp only | split

theorem kept_sendHello (s : State) (p key : Nat) (hs : Kept pend s) : Kept pend (sendHello s p key) := by
  unfold sendHello
  try dsimp only
  repeat first
    | with_reducible first
      | assumption | apply kept_helloOut | refine kept_ite (fun _ => ?_) (fun _ => ?_)
    | intro _ | dsimp only | split

theorem kept_openHello (s : State) (p key : Nat) (hs : Kept pend s) : Kept pend (openHello s p key) := by
  unfold openHello
  try dsimp only
  repeat first
    | with_reducible first
      | assumption | apply kept_draw256 | apply kept_modDisco | apply kept_sendHello
      | refine kept_ite (fun _ => ?_) (fun _ => ?_)
    | intro _ | dsimp only | split

theorem kept_helloAnswer (s : State) (p key : Nat) (nonce : W128) (hs : Kept pend s) : Kept pend (helloAnswer s p key nonce) := by
  unfold helloAnswer
  try dsimp only
  repeat first
    | with_reducible first
      | assumption | apply kept_draw256 | apply kept_helloOut | refine kept_ite (fun _ => ?_) (fun _ => ?_)
    | intro _ | dsimp only | split

theorem kept_putDisc (s : State) (p r : Nat) (hs : Kept pend s) : Kept pend (putDisc s p r) := by
  unfold putDisc
  try dsimp only
  repeat first
    | with_reducible first
      | assumption | apply kept_setReg | refine kept_ite (fun _ => ?_) (fun _ => ?_)
    | intro _ | dsimp only | split

theorem kept_rejoin (s : State) (p : Nat) (hs : Kept pend s) : Kept pend (rejoin s p) := by
  unfold rejoin
  try dsimp only
  repeat first
    | with_reducible first
      | assumption | apply kept_setFld | apply kept_stopHere | apply kept_modDisco | apply kept_putDisc
      | refine kept_ite (fun _ => ?_) (fun _ => ?_)
    | intro _ | dsimp only | split

theorem kept_doHello (s : State) (p : Nat) (k : Pkt) (hs : Kept pend s) : Kept pend (doHello s p k) := by
  unfold doHello
  try dsimp only
  repeat first
    | with_reducible first
      | assumption | apply kept_ctrlIn | apply kept_modDisco | apply kept_helloAnswer | apply kept_rejoin
      | refine kept_ite (fun _ => ?_) (fun _ => ?_)
    | simp only [kept_mk_eq] | intro _ | dsimp only | split

theorem kept_doHelloSig (s : State) (p : Nat) (k : Pkt) (hs : Kept pend s) : Kept pend (doHelloSig s p k) := by
  unfold doHelloSig
  try dsimp only
  repeat first
    | with_reducible first
      | assumption | apply kept_ctrlIn | apply kept_modDisco | apply kept_rejoin
      | refine kept_ite (fun _ => ?_) (fun _ => ?_)
    | simp only [kept_mk_eq] | intro _ | dsimp only | split

theorem kept_bindLane (s : State) (p l k st : Nat) (hs : Kept pend s) : Kept pend (bindLane s p l k st) := by
  unfold bindLane
  try dsimp only
  repeat first
    | with_reducible first
      | assumption | apply kept_setReg | apply kept_setLane | refine kept_ite (fun _ => ?_) (fun _ => ?_)
    | simp only [kept_mk_eq] | intro _ | dsimp only | split

theorem kept_unbindPort (s : State) (p : Nat) (hs : Kept pend s) : Kept pend (unbindPort s p) := by
  unfold unbindPort
  try dsimp only
  repeat first
    | with_reducible first
      | assumption | apply kept_setFld | apply kept_setLane | refine kept_ite (fun _ => ?_) (fun _ => ?_)
      | refine foldl_keep _ (fun _ _ _ => ?_) ?_
    | simp only [kept_mk_eq] | intro _ | dsimp only | split

theorem kept_bindSet (s : State) (p : Nat) (b : Bool) (hs : Kept pend s) : Kept pend (bindSet s p b) := by
  unfold bindSet
  try dsimp only
  repeat first
    | with_reducible first
      | assumption | apply kept_bindLane | apply kept_unbindPort | refine kept_ite (fun _ => ?_) (fun _ => ?_)
      | refine foldl_keep _ (fun _ _ _ => ?_) ?_
    | intro _ | dsimp only | split

theorem kept_turnSet (s : State) (p : Nat) (hs : Kept pend s) : Kept pend (turnSet s p) := by
  unfold turnSet
  try dsimp only
  repeat first
    | with_reducible first
      | assumption | apply kept_bindSet | refine kept_ite (fun _ => ?_) (fun _ => ?_)
    | simp only [kept_mk_eq] | intro _ | dsimp only | split

theorem kept_lostPartner (s : State) (p : Nat) (hs : Kept pend s) : Kept pend (lostPartner s p) := by
  unfold lostPartner
  try dsimp only
  repeat first
    | with_reducible first
      | assumption | apply kept_stopHere | apply kept_modDisco | apply kept_putDisc
      | refine kept_ite (fun _ => ?_) (fun _ => ?_)
    | intro _ | dsimp only | split

theorem kept_doHelloResend (s0 : State) (p : Nat) (hs0 : Kept pend s0) : Kept pend (doHelloResend s0 p) := by
  unfold doHelloResend
  try dsimp only
  repeat first
    | with_reducible first
      | assumption | apply kept_sendHello | apply kept_turnSet | apply kept_lostPartner
      | refine kept_ite (fun _ => ?_) (fun _ => ?_) | refine foldl_keep _ (fun _ _ _ => ?_) ?_
    | intro _ | dsimp only | split

/-! Power -/

theorem kept_modMgt (s : State) (f : Mgt → Mgt) (hs : Kept pend s) : Kept pend (modMgt s f) := by
  unfold modMgt
  try dsimp only
  repeat first
    | with_reducible first
      | assumption | refine kept_ite (fun _ => ?_) (fun _ => ?_)
    | simp only [kept_mk_eq] | intro _ | dsimp only | split

theorem kept_thermal (s : State) (hs : Kept pend s) : Kept pend (thermal s) := by
  unfold thermal
  try dsimp only
  repeat first
    | with_reducible first
      | assumption | apply kept_setFld | apply kept_stopHere | apply kept_modMgt
      | refine kept_ite (fun _ => ?_) (fun _ => ?_)
    | simp only [kept_mk_eq] | intro _ | dsimp only | split

theorem kept_doDieSample (s : State) (key : Nat) (t : Int) (hs : Kept pend s) : Kept pend (doDieSample s key t) := by
  unfold doDieSample
  try dsimp only
  repeat first
    | with_reducible first
      | assumption | apply kept_modMgt | apply kept_thermal | refine kept_ite (fun _ => ?_) (fun _ => ?_)
    | simp only [kept_mk_eq] | intro _ | dsimp only | split

theorem kept_doPowerSample (s : State) (w : Nat) (hs : Kept pend s) : Kept pend (doPowerSample s w) := by
  unfold doPowerSample
  try dsimp only
  repeat first
    | with_reducible first
      | assumption | apply kept_modMgt | refine kept_ite (fun _ => ?_) (fun _ => ?_)
    | simp only [kept_mk_eq] | intro _ | dsimp only | split

theorem kept_beatPower (s : State) (hs : Kept pend s) : Kept pend (beatPower s) := by
  unfold beatPower
  try dsimp only
  repeat first
    | with_reducible first
      | assumption | apply kept_setFld | apply kept_modMgt | refine kept_ite (fun _ => ?_) (fun _ => ?_)
    | simp only [kept_mk_eq] | intro _ | dsimp only | split

end Sys2Proof.Machine
end

