-- ==== Sys2Proof/Laws/KeptBeat.lean ====
section
/-! SUPPORT. Canonical form and queue are kept (Kept) by the photonic links, FABRIC_CFG, the stacks, the beats and the host port: one lemma for each operation. -/

namespace Sys2Proof.Machine

variable {pend : List Instr}

/-! Photonic -/

theorem kept_dropLane (s : State) (b p l : Nat) (hs : Kept pend s) : Kept pend (dropLane s b p l) := by
  unfold dropLane
  try dsimp only
  repeat first
    | with_reducible first
      | assumption | apply kept_raiseO | apply kept_laneOut | refine kept_ite (fun _ => ?_) (fun _ => ?_)
    | intro _ | dsimp only | split

theorem kept_doOptSample (s : State) (die i : Nat) (t : Int) (hs : Kept pend s) : Kept pend (doOptSample s die i t) := by
  unfold doOptSample
  try dsimp only
  repeat first
    | with_reducible first
      | assumption | apply kept_modOpt | apply kept_raiseO | apply kept_prjNote | apply kept_modMgt | apply kept_thermal
      | apply kept_dropLane | refine kept_ite (fun _ => ?_) (fun _ => ?_) | refine foldl_keep _ (fun _ _ _ => ?_) ?_
    | simp only [kept_mk_eq] | intro _ | dsimp only | split

theorem kept_feedRing (s : State) (k : Nat) (hs : Kept pend s) : Kept pend (feedRing s k) := by
  unfold feedRing
  try dsimp only
  repeat first
    | with_reducible first
      | assumption | apply kept_modOpt | refine kept_ite (fun _ => ?_) (fun _ => ?_)
    | simp only [kept_mk_eq] | intro _ | dsimp only | split

theorem kept_doFeedforward (s : State) (hs : Kept pend s) : Kept pend (doFeedforward s) := by
  unfold doFeedforward
  try dsimp only
  repeat first
    | with_reducible first
      | assumption | apply kept_prjFeed | apply kept_feedRing | refine kept_ite (fun _ => ?_) (fun _ => ?_)
      | refine foldl_keep _ (fun _ _ _ => ?_) ?_
    | intro _ | dsimp only | split

theorem kept_notePrefec (s : State) (p l errs bits : Nat) (hs : Kept pend s) : Kept pend (notePrefec s p l errs bits) := by
  unfold notePrefec
  try dsimp only
  repeat first
    | with_reducible first
      | assumption | apply kept_setFld | refine kept_ite (fun _ => ?_) (fun _ => ?_)
    | intro _ | dsimp only | split

theorem kept_doLaneDown (s : State) (p l : Nat) (c : LaneCause) (hs : Kept pend s) : Kept pend (doLaneDown s p l c) := by
  unfold doLaneDown
  try dsimp only
  repeat first
    | with_reducible first
      | assumption | apply kept_dropLane | apply kept_notePrefec | refine kept_ite (fun _ => ?_) (fun _ => ?_)
    | simp only [kept_mk_eq] | intro _ | dsimp only | split

theorem kept_laneJoins (s : State) (p l : Nat) (hs : Kept pend s) : Kept pend (laneJoins s p l) := by
  unfold laneJoins
  try dsimp only
  repeat first
    | with_reducible first
      | assumption | apply kept_setLane | apply kept_inService | apply kept_portLanes | apply kept_openHello
      | refine kept_ite (fun _ => ?_) (fun _ => ?_)
    | simp only [kept_mk_eq] | intro _ | dsimp only | split

theorem kept_laneGood (s : State) (p l : Nat) (hs : Kept pend s) : Kept pend (laneGood s p l) := by
  unfold laneGood
  try dsimp only
  repeat first
    | with_reducible first
      | assumption | apply kept_setFld | apply kept_modDisco | apply kept_laneJoins
      | refine kept_ite (fun _ => ?_) (fun _ => ?_)
    | simp only [kept_mk_eq] | intro _ | dsimp only | split

theorem kept_relockFailed (s : State) (p l : Nat) (hs : Kept pend s) : Kept pend (relockFailed s p l) := by
  unfold relockFailed
  try dsimp only
  repeat first
    | with_reducible first
      | assumption | apply kept_setFld | apply kept_modOpt | apply kept_laneOut
      | refine kept_ite (fun _ => ?_) (fun _ => ?_)
    | simp only [kept_mk_eq] | intro _ | dsimp only | split

theorem kept_ringsGood (s : State) (p wl : Nat) (hs : Kept pend s) : Kept pend (ringsGood s p wl) := by
  unfold ringsGood
  try dsimp only
  repeat first
    | with_reducible first
      | assumption | apply kept_setFld | refine kept_ite (fun _ => ?_) (fun _ => ?_)
    | intro _ | dsimp only | split

theorem kept_pilotGood (s : State) (p l wl : Nat) (hs : Kept pend s) : Kept pend (pilotGood s p l wl) := by
  unfold pilotGood
  try dsimp only
  repeat first
    | with_reducible first
      | assumption | apply kept_setFld | apply kept_ringsGood | refine kept_ite (fun _ => ?_) (fun _ => ?_)
    | intro _ | dsimp only | split

theorem kept_doRelockEnd (s : State) (p l : Nat) (r : RelockStage) (hs : Kept pend s) : Kept pend (doRelockEnd s p l r) := by
  unfold doRelockEnd
  try dsimp only
  repeat first
    | with_reducible first
      | assumption | apply kept_setFld | apply kept_modOpt | apply kept_laneGood | apply kept_relockFailed
      | apply kept_pilotGood | refine kept_ite (fun _ => ?_) (fun _ => ?_)
    | simp only [kept_mk_eq] | intro _ | dsimp only | split

theorem kept_doManagementWord (s : State) (p l : Nat) (w0 : W64) (c : Byte) (hs : Kept pend s) : Kept pend (doManagementWord s p l w0 c) := by
  unfold doManagementWord
  try dsimp only
  repeat first
    | with_reducible first
      | assumption | apply kept_setFld | apply kept_count | apply kept_modOpt | apply kept_raiseO | apply kept_laneJoins
      | refine kept_ite (fun _ => ?_) (fun _ => ?_)
    | simp only [kept_mk_eq] | intro _ | dsimp only | split

theorem kept_doRxPower (s : State) (p l : Nat) (v : Int) (errs bits : Nat) (hs : Kept pend s) : Kept pend (doRxPower s p l v errs bits) := by
  unfold doRxPower
  try dsimp only
  repeat first
    | with_reducible first
      | assumption | apply kept_setFld | apply kept_notePrefec | refine kept_ite (fun _ => ?_) (fun _ => ?_)
    | intro _ | dsimp only | split

theorem kept_darken (s : State) (b wl : Nat) (hs : Kept pend s) : Kept pend (darken s b wl) := by
  unfold darken
  try dsimp only
  repeat first
    | with_reducible first
      | assumption | apply kept_setFld | apply kept_laneOut | refine kept_ite (fun _ => ?_) (fun _ => ?_)
      | refine foldl_keep _ (fun _ _ _ => ?_) ?_
    | intro _ | dsimp only | split

theorem kept_doLaserFail (s : State) (n : Nat) (hs : Kept pend s) : Kept pend (doLaserFail s n) := by
  unfold doLaserFail
  try dsimp only
  repeat first
    | with_reducible first
      | assumption | apply kept_setFld | apply kept_raiseO | apply kept_prjNote | apply kept_laneOut | apply kept_darken
      | refine kept_ite (fun _ => ?_) (fun _ => ?_) | refine foldl_keep _ (fun _ _ _ => ?_) ?_
    | intro _ | dsimp only | split

theorem kept_swapLaser (s : State) (n : Nat) (hs : Kept pend s) : Kept pend (swapLaser s n) := by
  unfold swapLaser
  try dsimp only
  repeat first
    | with_reducible first
      | assumption | apply kept_setFld | refine kept_ite (fun _ => ?_) (fun _ => ?_)
    | intro _ | dsimp only | split

theorem kept_doLaserSwap (s : State) (n : Nat) (hs : Kept pend s) : Kept pend (doLaserSwap s n) := by
  unfold doLaserSwap
  try dsimp only
  repeat first
    | with_reducible first
      | assumption | apply kept_swapLaser | refine kept_ite (fun _ => ?_) (fun _ => ?_)
    | intro _ | dsimp only | split

theorem kept_doLaserAge (s : State) (n : Nat) (hs : Kept pend s) : Kept pend (doLaserAge s n) := by
  unfold doLaserAge
  try dsimp only
  repeat first
    | with_reducible first
      | assumption | apply kept_setFld | apply kept_raiseO | refine kept_ite (fun _ => ?_) (fun _ => ?_)
    | intro _ | dsimp only | split

theorem kept_swapWarned (s : State) (hs : Kept pend s) : Kept pend (swapWarned s) := by
  unfold swapWarned
  try dsimp only
  repeat first
    | with_reducible first
      | assumption | apply kept_setFld | apply kept_swapLaser | refine kept_ite (fun _ => ?_) (fun _ => ?_)
      | refine foldl_keep _ (fun _ _ _ => ?_) ?_
    | intro _ | dsimp only | split

theorem kept_sendBlocks (s : State) (p : Nat) (hs : Kept pend s) : Kept pend (sendBlocks s p) := by
  unfold sendBlocks
  try dsimp only
  repeat first
    | with_reducible first
      | assumption | apply kept_modOpt | refine kept_ite (fun _ => ?_) (fun _ => ?_)
    | simp only [kept_mk_eq] | intro _ | dsimp only | split

theorem kept_rollSet (s : State) (b : Bool) (hs : Kept pend s) : Kept pend (rollSet s b) := by
  unfold rollSet
  try dsimp only
  repeat first
    | with_reducible first
      | assumption | apply kept_bindSet | apply kept_sendBlocks | refine kept_ite (fun _ => ?_) (fun _ => ?_)
      | refine foldl_keep _ (fun _ _ _ => ?_) ?_
    | intro _ | dsimp only | split

theorem kept_rollTurn (s : State) (due : Bool) (hs : Kept pend s) : Kept pend (rollTurn s due) := by
  unfold rollTurn
  try dsimp only
  repeat first
    | with_reducible first
      | assumption | apply kept_modOpt | apply kept_rollSet | refine kept_ite (fun _ => ?_) (fun _ => ?_)
    | simp only [kept_mk_eq] | intro _ | dsimp only | split

theorem kept_doAnnounce (s0 : State) (p : Nat) (xs : List (W64 × Byte)) (hs0 : Kept pend s0) : Kept pend (doAnnounce s0 p xs) := by
  unfold doAnnounce
  try dsimp only
  repeat first
    | with_reducible first
      | assumption | apply kept_count | apply kept_modOpt | apply kept_rollTurn
      | refine kept_ite (fun _ => ?_) (fun _ => ?_)
    | simp only [kept_mk_eq] | intro _ | dsimp only | split

theorem kept_dropFrames (p : Nat) (s : State) (l : Nat) (hs : Kept pend s) : Kept pend (dropFrames p s l) := by
  unfold dropFrames
  try dsimp only
  repeat first
    | with_reducible first
      | assumption | apply kept_count | apply kept_raiseO | apply kept_setLane | refine kept_ite (fun _ => ?_) (fun _ => ?_)
    | intro _ | dsimp only | split

theorem kept_dropQueue (s : State) (k : Nat) (hs : Kept pend s) : Kept pend (dropQueue s k) := by
  unfold dropQueue
  try dsimp only
  repeat first
    | with_reducible first
      | assumption | apply kept_count | apply kept_modFab | refine kept_ite (fun _ => ?_) (fun _ => ?_)
    | simp only [kept_mk_eq] | intro _ | dsimp only | split

theorem kept_avenueDrop (s : State) (hs : Kept pend s) : Kept pend (avenueDrop s) := by
  unfold avenueDrop
  try dsimp only
  repeat first
    | with_reducible first
      | assumption | apply kept_modFab | apply kept_dropFrames | apply kept_dropQueue
      | refine kept_ite (fun _ => ?_) (fun _ => ?_) | refine foldl_keep _ (fun _ _ _ => ?_) ?_
    | simp only [kept_mk_eq] | intro _ | dsimp only | split

theorem kept_rollCall (s : State) (hs : Kept pend s) : Kept pend (rollCall s) := by
  unfold rollCall
  try dsimp only
  repeat first
    | with_reducible first
      | assumption | apply kept_modOpt | apply kept_rollSet | refine kept_ite (fun _ => ?_) (fun _ => ?_)
    | simp only [kept_mk_eq] | intro _ | dsimp only | split

theorem kept_bindPair (s : State) (x : Nat × Nat) (hs : Kept pend s) : Kept pend (bindPair s x) := by
  unfold bindPair
  try dsimp only
  repeat first
    | with_reducible first
      | assumption | apply kept_setFld | apply kept_modOpt | apply kept_bindLane
      | refine kept_ite (fun _ => ?_) (fun _ => ?_)
    | simp only [kept_mk_eq] | intro _ | dsimp only | split

theorem kept_steerWaiting (s : State) (y : Nat) (hs : Kept pend s) : Kept pend (steerWaiting s y) := by
  unfold steerWaiting
  try dsimp only
  repeat first
    | with_reducible first
      | assumption | apply kept_modFab | refine kept_ite (fun _ => ?_) (fun _ => ?_)
      | refine foldl_keep _ (fun _ _ _ => ?_) ?_
    | simp only [kept_mk_eq] | intro _ | dsimp only | split

theorem kept_doAssignment (s0 : State) (hs0 : Kept pend s0) : Kept pend (doAssignment s0) := by
  unfold doAssignment
  try dsimp only
  repeat first
    | with_reducible first
      | assumption | apply kept_setReg | apply kept_count | apply kept_modOpt | apply kept_raiseO | apply kept_unbindPort
      | apply kept_rollTurn | apply kept_bindPair | apply kept_steerWaiting | refine kept_ite (fun _ => ?_) (fun _ => ?_)
      | refine foldl_keep _ (fun _ _ _ => ?_) ?_
    | simp only [kept_mk_eq] | intro _ | dsimp only | split

/-! FabricCfg -/

theorem kept_rteWrite (s : State) (b e : Nat) (v : W64) (hs : Kept pend s) : Kept pend ((rteWrite s b e v).1) := by
  unfold rteWrite
  try dsimp only
  repeat first
    | with_reducible first
      | assumption | apply kept_setReg | apply kept_rangeErr | apply kept_raiseF
      | refine kept_ite (fun _ => ?_) (fun _ => ?_) | refine kept_ite1 (fun _ => ?_) (fun _ => ?_)
    | intro _ | dsimp only | split

theorem kept_circFresh (s : State) (n : Nat) (hs : Kept pend s) : Kept pend (circFresh s n) := by
  unfold circFresh
  try dsimp only
  repeat first
    | with_reducible first
      | assumption | refine kept_ite (fun _ => ?_) (fun _ => ?_)
    | simp only [kept_mk_eq] | intro _ | dsimp only | split

theorem kept_circWr (s : State) (n : Nat) (v : W64) (hs : Kept pend s) : Kept pend ((circWr s n v).1) := by
  unfold circWr
  try dsimp only
  repeat first
    | with_reducible first
      | assumption | apply kept_regPut | apply kept_circFresh | refine kept_ite (fun _ => ?_) (fun _ => ?_)
      | refine kept_ite1 (fun _ => ?_) (fun _ => ?_)
    | intro _ | dsimp only | split

theorem kept_calWr (s : State) (p r : Nat) (v : W64) (hs : Kept pend s) : Kept pend ((calWr s p r v).1) := by
  unfold calWr
  try dsimp only
  repeat first
    | with_reducible first
      | assumption | apply kept_regPut | refine kept_ite (fun _ => ?_) (fun _ => ?_)
      | refine kept_ite1 (fun _ => ?_) (fun _ => ?_)
    | intro _ | dsimp only | split

theorem kept_cfgEntry (op : Nat) (s : State) (i : Nat) (v : W64) (hs : Kept pend s) : Kept pend ((cfgEntry op s i v).1) := by
  unfold cfgEntry
  try dsimp only
  repeat first
    | with_reducible first
      | assumption | apply kept_rteWrite | apply kept_circWr | apply kept_calWr
      | refine kept_ite (fun _ => ?_) (fun _ => ?_) | refine kept_ite1 (fun _ => ?_) (fun _ => ?_)
    | simp only [kept_mk_eq] | intro _ | dsimp only | split

theorem kept_fcStart (s : State) (a : Adm) (act : State → State) (hs : Kept pend s) (hact : ∀ s, Kept pend s → Kept pend (act s)) : Kept pend (fcStart s a act) := by
  unfold fcStart
  try dsimp only
  repeat first
    | with_reducible first
      | assumption | apply hact | apply kept_modAdm | apply kept_admEnd | refine kept_ite (fun _ => ?_) (fun _ => ?_)
    | simp only [kept_mk_eq] | intro _ | dsimp only | split

theorem kept_cfgEntries (op id first cnt : Nat) (l : List W64) (i : Nat) (s : State) (hs : Kept pend s) : Kept pend (cfgEntries op id first cnt l i s) := by
  induction l generalizing s i with
  | nil => exact kept_ite (fun _ => kept_admEnd _ _ _ _ hs) (fun _ => hs)
  | cons w t ih =>
    unfold cfgEntries
    have h1 := kept_cfgEntry op s (first + i) w hs
    exact kept_ite (fun _ => kept_admEnd _ _ _ _ hs) fun _ =>
      kept_ite (fun _ => ih _ _ (kept_modAdm _ _ _ h1)) (fun _ => kept_admEnd _ _ _ _ h1)

theorem kept_fcWrite (s : State) (op : Nat) (d : Answer (List W64)) (hs : Kept pend s) : Kept pend (fcWrite s op d) := by
  unfold fcWrite
  try dsimp only
  repeat first
    | with_reducible first
      | assumption | apply kept_count | apply kept_admEnd | apply kept_pcieReport | apply kept_poisonRx | apply kept_fcStart
      | apply kept_cfgEntries | refine kept_ite (fun _ => ?_) (fun _ => ?_)
    | simp only [kept_mk_eq] | intro _ | dsimp only | split

theorem kept_flipBanks (s : State) (hs : Kept pend s) : Kept pend (flipBanks s) := by
  unfold flipBanks
  try dsimp only
  repeat first
    | with_reducible first
      | assumption | apply kept_setFld | apply kept_modFab | refine kept_ite (fun _ => ?_) (fun _ => ?_)
    | simp only [kept_mk_eq] | intro _ | dsimp only | split

theorem kept_doFlip (s : State) (hs : Kept pend s) : Kept pend (doFlip s) := by
  unfold doFlip
  try dsimp only
  repeat first
    | with_reducible first
      | assumption | apply kept_setFld | apply kept_admEnd | apply kept_fcStart | apply kept_flipBanks
      | refine kept_ite (fun _ => ?_) (fun _ => ?_)
    | simp only [kept_mk_eq] | intro _ | dsimp only | split

theorem kept_closeOld (s : State) (hs : Kept pend s) : Kept pend (closeOld s) := by
  unfold closeOld
  try dsimp only
  repeat first
    | with_reducible first
      | assumption | apply kept_setFld | apply kept_modFab | refine kept_ite (fun _ => ?_) (fun _ => ?_)
    | simp only [kept_mk_eq] | intro _ | dsimp only | split

theorem kept_seekLane (p : Nat) (s : State) (l : Nat) (hs : Kept pend s) : Kept pend (seekLane p s l) := by
  unfold seekLane
  try dsimp only
  repeat first
    | with_reducible first
      | assumption | apply kept_setFld | apply kept_modOpt | refine kept_ite (fun _ => ?_) (fun _ => ?_)
    | simp only [kept_mk_eq] | intro _ | dsimp only | split

theorem kept_offLane (p : Nat) (s : State) (l : Nat) (hs : Kept pend s) : Kept pend (offLane p s l) := by
  unfold offLane
  try dsimp only
  repeat first
    | with_reducible first
      | assumption | apply kept_setFld | apply kept_setLane | refine kept_ite (fun _ => ?_) (fun _ => ?_)
    | intro _ | dsimp only | split

theorem kept_portChanged (s : State) (p : Nat) (hs : Kept pend s) : Kept pend (portChanged s p) := by
  unfold portChanged
  try dsimp only
  repeat first
    | with_reducible first
      | assumption | apply kept_setFld | apply kept_seekLane | apply kept_offLane
      | refine kept_ite (fun _ => ?_) (fun _ => ?_) | refine foldl_keep _ (fun _ _ _ => ?_) ?_
    | intro _ | dsimp only | split

theorem kept_planPort (d : List Byte) (s : State) (p : Nat) (hs : Kept pend s) : Kept pend (planPort d s p) := by
  unfold planPort
  try dsimp only
  repeat first
    | with_reducible first
      | assumption | apply kept_setReg | apply kept_modFab | apply kept_take | apply kept_portChanged
      | refine kept_ite (fun _ => ?_) (fun _ => ?_)
    | simp only [kept_mk_eq] | intro _ | dsimp only | split

theorem kept_planPut (s : State) (d : List Byte) (hs : Kept pend s) : Kept pend (planPut s d) := by
  unfold planPut
  try dsimp only
  repeat first
    | with_reducible first
      | assumption | apply kept_setReg | apply kept_modFab | apply kept_planPort
      | refine kept_ite (fun _ => ?_) (fun _ => ?_) | refine foldl_keep _ (fun _ _ _ => ?_) ?_
    | simp only [kept_mk_eq] | intro _ | dsimp only | split

theorem kept_doLoadPlan (s : State) (d : Answer (List Byte)) (hs : Kept pend s) : Kept pend (doLoadPlan s d) := by
  unfold doLoadPlan
  try dsimp only
  repeat first
    | with_reducible first
      | assumption | apply kept_count | apply kept_admEnd | apply kept_pcieReport | apply kept_poisonRx | apply kept_fcStart
      | apply kept_planPut | refine kept_ite (fun _ => ?_) (fun _ => ?_)
    | simp only [kept_mk_eq] | intro _ | dsimp only | split

theorem kept_discoLanes (s : State) (p : Nat) (hs : Kept pend s) : Kept pend (discoLanes s p) := by
  unfold discoLanes
  try dsimp only
  repeat first
    | with_reducible first
      | assumption | apply kept_bindSet | apply kept_seekLane | refine kept_ite (fun _ => ?_) (fun _ => ?_)
      | refine foldl_keep _ (fun _ _ _ => ?_) ?_
    | intro _ | dsimp only | split

theorem kept_discoPort (s : State) (p : Nat) (hs : Kept pend s) : Kept pend (discoPort s p) := by
  unfold discoPort
  try dsimp only
  repeat first
    | with_reducible first
      | assumption | apply kept_openHello | apply kept_discoLanes | refine kept_ite (fun _ => ?_) (fun _ => ?_)
      | refine foldl_keep _ (fun _ _ _ => ?_) ?_
    | intro _ | dsimp only | split

theorem kept_endPort (forced : Option Nat) (s : State) (p : Nat) (hs : Kept pend s) : Kept pend (endPort forced s p) := by
  unfold endPort
  try dsimp only
  repeat first
    | with_reducible first
      | assumption | apply kept_setFld | apply kept_raiseF | apply kept_stopHere | apply kept_putDisc
      | refine kept_ite (fun _ => ?_) (fun _ => ?_)
    | simp only [kept_mk_eq] | intro _ | dsimp only | split

theorem kept_endDiscover (s : State) (forced : Option Nat) (hs : Kept pend s) : Kept pend (endDiscover s forced) := by
  unfold endDiscover
  try dsimp only
  repeat first
    | with_reducible first
      | assumption | apply kept_setFld | apply kept_admEnd | apply kept_modFab | apply kept_endPort
      | refine kept_ite (fun _ => ?_) (fun _ => ?_) | refine foldl_keep _ (fun _ _ _ => ?_) ?_
    | simp only [kept_mk_eq] | intro _ | dsimp only | split

theorem kept_doDiscover (s : State) (hs : Kept pend s) : Kept pend (doDiscover s) := by
  unfold doDiscover
  try dsimp only
  repeat first
    | with_reducible first
      | assumption | apply kept_modFab | apply kept_swapWarned | apply kept_fcStart | apply kept_discoPort
      | apply kept_endDiscover | refine kept_ite (fun _ => ?_) (fun _ => ?_) | refine foldl_keep _ (fun _ _ _ => ?_) ?_
    | simp only [kept_mk_eq] | intro _ | dsimp only | split

theorem kept_doEntropyFail (s : State) (hs : Kept pend s) : Kept pend (doEntropyFail s) := by
  unfold doEntropyFail
  try dsimp only
  repeat first
    | with_reducible first
      | assumption | apply kept_raise | apply kept_modMgt | apply kept_endDiscover
      | refine kept_ite (fun _ => ?_) (fun _ => ?_)
    | simp only [kept_mk_eq] | intro _ | dsimp only | split

/-! Memory -/

theorem kept_raiseM (s : State) (k b c addr : Nat) (hs : Kept pend s) : Kept pend (raiseM s k b c addr) := by
  unfold raiseM
  try dsimp only
  repeat first
    | with_reducible first
      | assumption | apply kept_raise | refine kept_ite (fun _ => ?_) (fun _ => ?_)
    | intro _ | dsimp only | split

theorem kept_stackBad (s : State) (k : Nat) (hs : Kept pend s) : Kept pend (stackBad s k) := by
  unfold stackBad
  try dsimp only
  repeat first
    | with_reducible first
      | assumption | apply kept_setFld | apply kept_addFld | apply kept_modStk | apply kept_raiseM
      | refine kept_ite (fun _ => ?_) (fun _ => ?_)
    | simp only [kept_mk_eq] | intro _ | dsimp only | split

theorem kept_stackGood (s : State) (k : Nat) (t : Int) (hs : Kept pend s) : Kept pend (stackGood s k t) := by
  unfold stackGood
  try dsimp only
  repeat first
    | with_reducible first
      | assumption | apply kept_setFld | apply kept_modStk | apply kept_take | refine kept_ite (fun _ => ?_) (fun _ => ?_)
    | simp only [kept_mk_eq] | intro _ | dsimp only | split

theorem kept_setChan (s : State) (k c v : Nat) (hs : Kept pend s) : Kept pend (setChan s k c v) := by
  unfold setChan
  try dsimp only
  repeat first
    | with_reducible first
      | assumption | apply kept_modStk | refine kept_ite (fun _ => ?_) (fun _ => ?_)
    | simp only [kept_mk_eq] | intro _ | dsimp only | split

theorem kept_startRetrain (s : State) (k c : Nat) (hs : Kept pend s) : Kept pend (startRetrain s k c) := by
  unfold startRetrain
  try dsimp only
  repeat first
    | with_reducible first
      | assumption | apply kept_raiseM | apply kept_setChan | refine kept_ite (fun _ => ?_) (fun _ => ?_)
    | intro _ | dsimp only | split

theorem kept_trigger (s : State) (k c : Nat) (hs : Kept pend s) : Kept pend (trigger s k c) := by
  unfold trigger
  try dsimp only
  repeat first
    | with_reducible first
      | assumption | apply kept_modStk | apply kept_startRetrain | refine kept_ite (fun _ => ?_) (fun _ => ?_)
    | simp only [kept_mk_eq] | intro _ | dsimp only | split

theorem kept_doDrift (s : State) (k c lane : Nat) (up : Bool) (hs : Kept pend s) : Kept pend (doDrift s k c lane up) := by
  unfold doDrift
  try dsimp only
  repeat first
    | with_reducible first
      | assumption | apply kept_setFld | apply kept_modStk | apply kept_raiseM | apply kept_trigger
      | refine kept_ite (fun _ => ?_) (fun _ => ?_)
    | simp only [kept_mk_eq] | intro _ | dsimp only | split

theorem kept_chanTrained (s : State) (k c : Nat) (hs : Kept pend s) : Kept pend (chanTrained s k c) := by
  unfold chanTrained
  try dsimp only
  repeat first
    | with_reducible first
      | assumption | apply kept_setFld | apply kept_modStk | refine kept_ite (fun _ => ?_) (fun _ => ?_)
    | simp only [kept_mk_eq] | intro _ | dsimp only | split

theorem kept_chanDown (s : State) (k c : Nat) (hs : Kept pend s) : Kept pend (chanDown s k c) := by
  unfold chanDown
  try dsimp only
  repeat first
    | with_reducible first
      | assumption | apply kept_stopHere | apply kept_raiseM | apply kept_setChan
      | refine kept_ite (fun _ => ?_) (fun _ => ?_)
    | intro _ | dsimp only | split

theorem kept_switchSpares (s : State) (k c : Nat) (bad : List Nat) (t : State) (h : switchSpares s k c bad = some t) (hs : Kept pend s) : Kept pend t := by
  unfold switchSpares at h
  dsimp only at h
  split at h
  · cases h
  · cases h
    exact foldl_keep _ (fun _ _ h => kept_setFld _ _ _ _ _ h)
      (foldl_keep _ (fun _ _ h => kept_ite (fun _ => kept_setFld _ _ _ _ _ h) (fun _ => h)) hs)

theorem kept_windowOn (s : State) (k : Nat) (hs : Kept pend s) : Kept pend (windowOn s k) := by
  unfold windowOn
  try dsimp only
  repeat first
    | with_reducible first
      | assumption | apply kept_setFld | apply kept_modStk | refine kept_ite (fun _ => ?_) (fun _ => ?_)
    | simp only [kept_mk_eq] | intro _ | dsimp only | split

theorem kept_nextWindow (s : State) (hs : Kept pend s) : Kept pend (nextWindow s) := by
  unfold nextWindow
  try dsimp only
  repeat first
    | with_reducible first
      | assumption | apply kept_modStk | apply kept_windowOn | refine kept_ite (fun _ => ?_) (fun _ => ?_)
    | simp only [kept_mk_eq] | intro _ | dsimp only | split

theorem kept_nextRetrain (s : State) (k : Nat) (hs : Kept pend s) : Kept pend (nextRetrain s k) := by
  unfold nextRetrain
  try dsimp only
  repeat first
    | with_reducible first
      | assumption | apply kept_modStk | apply kept_startRetrain | refine kept_ite (fun _ => ?_) (fun _ => ?_)
    | simp only [kept_mk_eq] | intro _ | dsimp only | split

theorem kept_stackNext (s : State) (k : Nat) (hs : Kept pend s) : Kept pend (stackNext s k) := by
  unfold stackNext
  try dsimp only
  repeat first
    | with_reducible first
      | assumption | apply kept_nextWindow | apply kept_nextRetrain | refine kept_ite (fun _ => ?_) (fun _ => ?_)
    | intro _ | dsimp only | split

theorem kept_doRetrainEnd (s : State) (k c : Nat) (bad : List Nat) (hs : Kept pend s) : Kept pend (doRetrainEnd s k c bad) := by
  have h1 := kept_setChan s k c 0 hs
  unfold doRetrainEnd
  refine kept_ite (fun _ => hs) fun _ => kept_stackNext _ _ ?_
  split
  · exact kept_chanTrained _ _ _ (kept_switchSpares _ _ _ _ _ (by assumption) h1)
  · exact kept_chanDown _ _ _ h1

theorem kept_fullChan (k : Nat) (bad : List (Nat × List Nat)) (s : State) (c : Nat) (hs : Kept pend s) : Kept pend (fullChan k bad s c) := by
  unfold fullChan
  split
  · rename_i t h
    exact kept_chanTrained _ _ _ (kept_switchSpares _ _ _ _ _ h hs)
  · exact kept_chanDown _ _ _ hs

theorem kept_doFullEnd (s : State) (k : Nat) (bad : List (Nat × List Nat)) (hs : Kept pend s) : Kept pend (doFullEnd s k bad) := by
  unfold doFullEnd
  try dsimp only
  repeat first
    | with_reducible first
      | assumption | apply kept_setFld | apply kept_modStk | apply kept_stackNext | apply kept_fullChan
      | refine kept_ite (fun _ => ?_) (fun _ => ?_) | refine foldl_keep _ (fun _ _ _ => ?_) ?_
    | simp only [kept_mk_eq] | intro _ | dsimp only | split

theorem kept_openWindow (s : State) (hs : Kept pend s) : Kept pend (openWindow s) := by
  unfold openWindow
  try dsimp only
  repeat first
    | with_reducible first
      | assumption | apply kept_setFld | apply kept_modStk | apply kept_nextWindow
      | refine kept_ite (fun _ => ?_) (fun _ => ?_)
    | simp only [kept_mk_eq] | intro _ | dsimp only | split

theorem kept_recovStart (s : State) (a n : Nat) (hs : Kept pend s) : Kept pend (recovStart s a n) := by
  unfold recovStart
  try dsimp only
  repeat first
    | with_reducible first
      | assumption | apply kept_modStk | refine kept_ite (fun _ => ?_) (fun _ => ?_)
    | simp only [kept_mk_eq] | intro _ | dsimp only | split

theorem kept_refetch (s0 : State) (a n : Nat) (hs0 : Kept pend s0) : Kept pend (refetch s0 a n) := by
  unfold refetch
  try dsimp only
  repeat first
    | with_reducible first
      | assumption | apply kept_sendRead | apply kept_recovFail | apply kept_recovStart
      | refine kept_ite (fun _ => ?_) (fun _ => ?_)
    | simp only [kept_mk_eq] | intro _ | dsimp only | split

theorem kept_doReqTo (s : State) (a n : Nat) (hs : Kept pend s) : Kept pend (doReqTo s a n) := by
  unfold doReqTo
  try dsimp only
  repeat first
    | with_reducible first
      | assumption | apply kept_raiseM | apply kept_refetch | refine kept_ite (fun _ => ?_) (fun _ => ?_)
      | refine foldl_keep _ (fun _ _ _ => ?_) ?_
    | intro _ | dsimp only | split

theorem kept_fillError (s : State) (a : Nat) (good : Bool) (hs : Kept pend s) : Kept pend (fillError s a good) := by
  unfold fillError
  try dsimp only
  repeat first
    | with_reducible first
      | assumption | apply kept_count | apply kept_raiseM | apply kept_refetch | refine kept_ite (fun _ => ?_) (fun _ => ?_)
      | refine foldl_keep _ (fun _ _ _ => ?_) ?_
    | intro _ | dsimp only | split

theorem kept_fixedWord (s : State) (a : Nat) (hs : Kept pend s) : Kept pend (fixedWord s a) := by
  unfold fixedWord
  try dsimp only
  repeat first
    | with_reducible first
      | assumption | apply kept_addFld | apply kept_count | apply kept_modStk | apply kept_touchLine | apply kept_raiseM
      | apply kept_trigger | refine kept_ite (fun _ => ?_) (fun _ => ?_)
    | simp only [kept_mk_eq] | intro _ | dsimp only | split

theorem kept_storeError (s : State) (a src : Nat) (fixed : Bool) (hs : Kept pend s) : Kept pend (storeError s a src fixed) := by
  unfold storeError
  try dsimp only
  repeat first
    | with_reducible first
      | assumption | apply kept_raiseQ | apply kept_poisonWord | apply kept_stopAtEnd
      | refine kept_ite (fun _ => ?_) (fun _ => ?_)
    | intro _ | dsimp only | split

theorem kept_doReread (s : State) (a : Nat) (w : WordErr) (good : Bool) (hs : Kept pend s) : Kept pend (doReread s a w good) := by
  unfold doReread
  try dsimp only
  repeat first
    | with_reducible first
      | assumption | apply kept_setSquare | apply kept_setBank | apply kept_stopHere | apply kept_fillError
      | apply kept_fixedWord | apply kept_storeError | refine kept_ite (fun _ => ?_) (fun _ => ?_)
    | simp only [kept_mk_eq] | intro _ | dsimp only | split

theorem kept_tgBurst (k c : Nat) (v : W64) (s : State) (i : Nat) (hs : Kept pend s) : Kept pend (tgBurst k c v s i) := by
  unfold tgBurst
  try dsimp only
  repeat first
    | with_reducible first
      | assumption | apply kept_writePart | refine kept_ite (fun _ => ?_) (fun _ => ?_)
      | refine foldl_keep _ (fun _ _ _ => ?_) ?_
    | simp only [kept_mk_eq] | intro _ | dsimp only | split

theorem kept_tgWrite (s : State) (k c : Nat) (v : W64) (hs : Kept pend s) : Kept pend (tgWrite s k c v) := by
  unfold tgWrite
  try dsimp only
  repeat first
    | with_reducible first
      | assumption | apply kept_setReg | apply kept_setFld | apply kept_rangeErr | apply kept_regPut | apply kept_tgBurst
      | refine kept_ite (fun _ => ?_) (fun _ => ?_) | refine foldl_keep _ (fun _ _ _ => ?_) ?_
    | intro _ | dsimp only | split

theorem kept_doTgEnd (s : State) (k c : Nat) (errors : W32) (lanes : BitVec 20) (first : BitVec 30) (hs : Kept pend s) : Kept pend (doTgEnd s k c errors lanes first) := by
  unfold doTgEnd
  try dsimp only
  repeat first
    | with_reducible first
      | assumption | apply kept_setReg | apply kept_setFld | refine kept_ite (fun _ => ?_) (fun _ => ?_)
    | intro _ | dsimp only | split

theorem kept_retireWrite (s : State) (k : Nat) (v : W64) (hs : Kept pend s) : Kept pend (retireWrite s k v) := by
  unfold retireWrite
  try dsimp only
  repeat first
    | with_reducible first
      | assumption | apply kept_regPut | apply kept_modStk | apply kept_loseStack | apply kept_setChan
      | refine kept_ite (fun _ => ?_) (fun _ => ?_)
    | simp only [kept_mk_eq] | intro _ | dsimp only | split

theorem kept_rehome (s : State) (toStack : Bool) (ws : List Nat) (hs : Kept pend s) : Kept pend (rehome s toStack ws) := by
  have h1 : Kept pend (ws.foldl (fun t w => dropLines t (w * 2 ^ 30) (2 ^ 30)) s) := foldl_keep _ (fun _ _ h => kept_dropLines _ _ _ h) hs
  exact kept_ite (fun _ => hs) fun _ => kept_mp h1 (smWf_setMany (smWf_filter (kept_parts h1).1.1 _) _) (smWf_setMany (smWf_filter (kept_parts h1).1.2 _) _)

theorem kept_recode (old : State) (s : State) (x : Nat × Nat) (_hold : Kept pend old) (hs : Kept pend s) : Kept pend (recode old s x) := by
  unfold recode
  try dsimp only
  repeat first
    | with_reducible first
      | assumption | apply kept_writeBytes | apply kept_modStk | refine kept_ite (fun _ => ?_) (fun _ => ?_)
    | simp only [kept_mk_eq] | intro _ | dsimp only | split

theorem kept_recodeAll (old s : State) (_hold : Kept pend old) (hs : Kept pend s) : Kept pend (recodeAll old s) := by
  unfold recodeAll
  try dsimp only
  repeat first
    | with_reducible first
      | assumption | apply kept_recode | refine kept_ite (fun _ => ?_) (fun _ => ?_)
      | refine foldl_keep _ (fun _ _ _ => ?_) ?_
    | intro _ | dsimp only | split

theorem kept_flushCompressed (s : State) (hs : Kept pend s) : Kept pend (flushCompressed s) := by
  unfold flushCompressed
  try dsimp only
  repeat first
    | with_reducible first
      | assumption | apply kept_evict | refine kept_ite (fun _ => ?_) (fun _ => ?_)
      | refine foldl_keep _ (fun _ _ _ => ?_) ?_
    | intro _ | dsimp only | split

theorem kept_regionWr (s : State) (n : Nat) (v : W64) (hs : Kept pend s) : Kept pend (regionWr s n v) := by
  unfold regionWr
  try dsimp only
  repeat first
    | with_reducible first
      | assumption | apply kept_regPut | apply kept_rehome | apply kept_recodeAll | apply kept_flushCompressed
      | refine kept_ite (fun _ => ?_) (fun _ => ?_)
    | intro _ | dsimp only | split

theorem kept_atomWrite (s : State) (n : Nat) (v : W64) (hs : Kept pend s) : Kept pend (atomWrite s n v) := by
  unfold atomWrite
  try dsimp only
  repeat first
    | with_reducible first
      | assumption | apply kept_setFld | apply kept_regPut | apply kept_dropLines
      | refine kept_ite (fun _ => ?_) (fun _ => ?_)
    | intro _ | dsimp only | split

/-! Beats -/

theorem kept_startLaunch (s : State) (q : Nat) (a : Adm) (hs : Kept pend s) : Kept pend (startLaunch s q a) := by
  unfold startLaunch
  try dsimp only
  repeat first
    | with_reducible first
      | assumption | apply kept_setReg | apply kept_modQuarter | apply kept_ccIrq
      | refine kept_ite (fun _ => ?_) (fun _ => ?_) | refine foldl_keep _ (fun _ _ _ => ?_) ?_
    | simp only [kept_mk_eq] | intro _ | dsimp only | split

theorem kept_nextLaunch (s : State) (q : Nat) (hs : Kept pend s) : Kept pend (nextLaunch s q) := by
  unfold nextLaunch
  try dsimp only
  repeat first
    | with_reducible first
      | assumption | apply kept_modQuarter | apply kept_startLaunch | refine kept_ite (fun _ => ?_) (fun _ => ?_)
    | simp only [kept_mk_eq] | intro _ | dsimp only | split

theorem kept_joinQuarter (id : Nat) (s : State) (q : Nat) (hs : Kept pend s) : Kept pend (joinQuarter id s q) := by
  unfold joinQuarter
  try dsimp only
  repeat first
    | with_reducible first
      | assumption | apply kept_modQuarter | apply kept_nextLaunch | refine kept_ite (fun _ => ?_) (fun _ => ?_)
    | simp only [kept_mk_eq] | intro _ | dsimp only | split

theorem kept_doLaunch (s : State) (hs : Kept pend s) : Kept pend (doLaunch s) := by
  unfold doLaunch
  try dsimp only
  repeat first
    | with_reducible first
      | assumption | apply kept_modAdm | apply kept_kLaunch | apply kept_joinQuarter
      | refine kept_ite (fun _ => ?_) (fun _ => ?_) | refine foldl_keep _ (fun _ _ _ => ?_) ?_
    | simp only [kept_mk_eq] | intro _ | dsimp only | split

theorem kept_ldoneWrite (s : State) (q : Nat) (v : W64) (src : Src) (hs : Kept pend s) : Kept pend (ldoneWrite s q v src) := by
  unfold ldoneWrite
  try dsimp only
  repeat first
    | with_reducible first
      | assumption | apply kept_modQuarter | apply kept_raiseQReg | refine kept_ite (fun _ => ?_) (fun _ => ?_)
    | simp only [kept_mk_eq] | intro _ | dsimp only | split

theorem kept_launchOver (s : State) (q code : Nat) (l : Launch) (hs : Kept pend s) : Kept pend (launchOver s q code l) := by
  unfold launchOver
  try dsimp only
  repeat first
    | with_reducible first
      | assumption | apply kept_modAdm | apply kept_admEnd | refine kept_ite (fun _ => ?_) (fun _ => ?_)
    | simp only [kept_mk_eq] | intro _ | dsimp only | split

theorem kept_doLaunchEnd (s : State) (q : Nat) (hs : Kept pend s) : Kept pend (doLaunchEnd s q) := by
  unfold doLaunchEnd
  try dsimp only
  repeat first
    | with_reducible first
      | assumption | apply kept_modQuarter | apply kept_nextLaunch | apply kept_launchOver
      | refine kept_ite (fun _ => ?_) (fun _ => ?_)
    | simp only [kept_mk_eq] | intro _ | dsimp only | split

theorem kept_copyMoved (s : State) (a : Adm) (moved : Nat) (hs : Kept pend s) : Kept pend (copyMoved s a moved) := by
  unfold copyMoved
  try dsimp only
  repeat first
    | with_reducible first
      | assumption | apply kept_modAdm | apply kept_admEnd | refine kept_ite (fun _ => ?_) (fun _ => ?_)
    | simp only [kept_mk_eq] | intro _ | dsimp only | split

theorem kept_copyIn (l : List W512) (s : State) (d : Nat) (hs : Kept pend s) : Kept pend (copyIn s d l) := by
  induction l generalizing s d with
  | nil => exact hs
  | cons w t ih => exact ih _ _ (kept_touch _ _ _ _ _ (kept_writeNat _ _ _ _ hs))

theorem kept_copyOut (a : Adm) (n i : Nat) (s : State) (hs : Kept pend s) : Kept pend (copyOut a i n s) := by
  induction n generalizing s i with
  | zero => exact hs
  | succ n ih =>
    have h1 := fun b c d e f => kept_hostWrite _ b c d e f (kept_touch s clHost (cpDaddr a.raw + 64 * i) 64 false hs)
    exact ih _ _ (kept_ite (fun _ => kept_modAdm _ _ _ (kept_raise _ _ _ _ (h1 _ _ _ _ _))) (fun _ => h1 _ _ _ _ _))

theorem kept_doCopy (s : State) (d : Answer (List W512)) (n : Nat) (hs : Kept pend s) : Kept pend (doCopy s d n) := by
  unfold doCopy
  try dsimp only
  repeat first
    | with_reducible first
      | assumption | apply kept_count | apply kept_modAdm | apply kept_admEnd | apply kept_pcieReport | apply kept_poisonRx
      | apply kept_copyMoved | apply kept_copyIn | apply kept_copyOut | refine kept_ite (fun _ => ?_) (fun _ => ?_)
    | simp only [kept_mk_eq] | intro _ | dsimp only | split

theorem kept_doSignal (s : State) (hs : Kept pend s) : Kept pend (doSignal s) := by
  unfold doSignal
  try dsimp only
  repeat first
    | with_reducible first
      | assumption | apply kept_sqAdd | apply kept_sqPut | apply kept_modAdm | apply kept_admEnd | apply kept_sendSignal
      | refine kept_ite (fun _ => ?_) (fun _ => ?_)
    | simp only [kept_mk_eq] | intro _ | dsimp only | split

theorem kept_doStop (s : State) (hs : Kept pend s) : Kept pend (doStop s) := by
  unfold doStop
  try dsimp only
  repeat first
    | with_reducible first
      | assumption | apply kept_modAdm | refine kept_ite (fun _ => ?_) (fun _ => ?_)
    | simp only [kept_mk_eq] | intro _ | dsimp only | split

theorem kept_refuseJob (s : State) (hs : Kept pend s) : Kept pend (refuseJob s) := by
  unfold refuseJob
  try dsimp only
  repeat first
    | with_reducible first
      | assumption | apply kept_setFld | apply kept_raiseF | refine kept_ite (fun _ => ?_) (fun _ => ?_)
    | intro _ | dsimp only | split

theorem kept_doStart (s : State) (hs : Kept pend s) : Kept pend (doStart s) := by
  unfold doStart
  try dsimp only
  repeat first
    | with_reducible first
      | assumption | apply kept_raise | apply kept_modDisp | apply kept_refuseJob
      | refine kept_ite (fun _ => ?_) (fun _ => ?_)
    | simp only [kept_mk_eq] | intro _ | dsimp only | split

theorem kept_forwardTick (s : State) (k : Pkt) (hs : Kept pend s) : Kept pend (forwardTick s k) := by
  unfold forwardTick
  try dsimp only
  repeat first
    | with_reducible first
      | assumption | apply kept_pushCtrl | refine kept_ite (fun _ => ?_) (fun _ => ?_)
      | refine foldl_keep _ (fun _ _ _ => ?_) ?_
    | intro _ | dsimp only | split

theorem kept_doTickSend (s0 : State) (hs0 : Kept pend s0) : Kept pend (doTickSend s0) := by
  unfold doTickSend
  try dsimp only
  repeat first
    | with_reducible first
      | assumption | apply kept_modDisp | apply kept_forwardTick | refine kept_ite (fun _ => ?_) (fun _ => ?_)
    | simp only [kept_mk_eq] | intro _ | dsimp only | split

theorem kept_stopParent (s : State) (reason : Nat) (hs : Kept pend s) : Kept pend (stopParent s reason) := by
  unfold stopParent
  try dsimp only
  repeat first
    | with_reducible first
      | assumption | apply kept_pushStop | refine kept_ite (fun _ => ?_) (fun _ => ?_)
    | intro _ | dsimp only | split

theorem kept_acceptTick (s : State) (n bq resid at_ chip : Nat) (hs : Kept pend s) : Kept pend (acceptTick s n bq resid at_ chip) := by
  unfold acceptTick
  try dsimp only
  repeat first
    | with_reducible first
      | assumption | apply kept_modFab | apply kept_pushCtrl | apply kept_modDisp | apply kept_forwardTick
      | refine kept_ite (fun _ => ?_) (fun _ => ?_)
    | simp only [kept_mk_eq] | intro _ | dsimp only | split

theorem kept_takeTick (s : State) (k : Pkt) (at_ : Nat) (hs : Kept pend s) : Kept pend (takeTick s k at_) := by
  unfold takeTick
  try dsimp only
  repeat first
    | with_reducible first
      | assumption | apply kept_raise | apply kept_refuseJob | apply kept_stopParent | apply kept_acceptTick
      | refine kept_ite (fun _ => ?_) (fun _ => ?_)
    | intro _ | dsimp only | split

theorem kept_tellTick (s : State) (hs : Kept pend s) : Kept pend (tellTick s) := by
  unfold tellTick
  try dsimp only
  repeat first
    | with_reducible first
      | assumption | apply kept_ccIrq | refine kept_ite (fun _ => ?_) (fun _ => ?_)
      | refine foldl_keep _ (fun _ _ _ => ?_) ?_
    | intro _ | dsimp only | split

theorem kept_doTick (s0 : State) (p : Nat) (k : Pkt) (at_ : Nat) (hs0 : Kept pend s0) : Kept pend (doTick s0 p k at_) := by
  unfold doTick
  try dsimp only
  repeat first
    | with_reducible first
      | assumption | apply kept_ctrlIn | apply kept_takeTick | apply kept_tellTick
      | refine kept_ite (fun _ => ?_) (fun _ => ?_)
    | simp only [kept_mk_eq] | intro _ | dsimp only | split

theorem kept_doTickMissed (s : State) (hs : Kept pend s) : Kept pend (doTickMissed s) := by
  unfold doTickMissed
  try dsimp only
  repeat first
    | with_reducible first
      | assumption | apply kept_count | apply kept_raise | apply kept_modDisp | apply kept_stopAtEnd
      | refine kept_ite (fun _ => ?_) (fun _ => ?_)
    | simp only [kept_mk_eq] | intro _ | dsimp only | split

theorem kept_endWithBeat (s : State) (a : Adm) (hs : Kept pend s) : Kept pend (endWithBeat s a) := by
  unfold endWithBeat
  try dsimp only
  repeat first
    | with_reducible first
      | assumption | apply kept_endOpen | refine kept_ite (fun _ => ?_) (fun _ => ?_)
    | intro _ | dsimp only | split

theorem kept_endBeat (s : State) (hs : Kept pend s) : Kept pend (endBeat s) := by
  unfold endBeat
  try dsimp only
  repeat first
    | with_reducible first
      | assumption | apply kept_cut | apply kept_stopAtEnd | apply kept_completeAll | apply kept_dropLaunches
      | apply kept_beatPower | apply kept_avenueDrop | apply kept_endWithBeat | refine kept_ite (fun _ => ?_) (fun _ => ?_)
      | refine foldl_keep _ (fun _ _ _ => ?_) ?_
    | intro _ | dsimp only | split

theorem kept_leaveJob (s : State) (hs : Kept pend s) : Kept pend (leaveJob s) := by
  unfold leaveJob
  try dsimp only
  repeat first
    | with_reducible first
      | assumption | apply kept_setFld | apply kept_modFab | apply kept_modDisp | apply kept_endOpen | apply kept_completeAll
      | refine kept_ite (fun _ => ?_) (fun _ => ?_) | refine foldl_keep _ (fun _ _ _ => ?_) ?_
    | simp only [kept_mk_eq] | intro _ | dsimp only | split

theorem kept_enterJob (s : State) (hs : Kept pend s) : Kept pend (enterJob s) := by
  unfold enterJob
  try dsimp only
  repeat first
    | with_reducible first
      | assumption | apply kept_setFld | apply kept_modDisp | apply kept_setFwQuota
      | refine kept_ite (fun _ => ?_) (fun _ => ?_) | refine foldl_keep _ (fun _ _ _ => ?_) ?_
    | simp only [kept_mk_eq] | intro _ | dsimp only | split

theorem kept_openBeat (s : State) (n t dr : Nat) (hs : Kept pend s) : Kept pend (openBeat s n t dr) := by
  unfold openBeat
  try dsimp only
  repeat first
    | with_reducible first
      | assumption | apply kept_setReg | apply kept_setFld | apply kept_count | apply kept_modOpt | apply kept_prjBeat
      | apply kept_modDisp | apply kept_cut | apply kept_rollCall | apply kept_closeOld | apply kept_openWindow
      | refine kept_ite (fun _ => ?_) (fun _ => ?_)
    | simp only [kept_mk_eq] | intro _ | dsimp only | split

theorem kept_doBoundary (s0 : State) (hs0 : Kept pend s0) : Kept pend (doBoundary s0) := by
  unfold doBoundary
  try dsimp only
  repeat first
    | with_reducible first
      | assumption | apply kept_modDisp | apply kept_stopHere | apply kept_endBeat | apply kept_leaveJob | apply kept_enterJob
      | apply kept_openBeat | refine kept_ite (fun _ => ?_) (fun _ => ?_)
    | simp only [kept_mk_eq] | intro _ | dsimp only | split

theorem kept_doUpdateEnd (s : State) (hs : Kept pend s) : Kept pend (doUpdateEnd s) := by
  unfold doUpdateEnd
  try dsimp only
  repeat first
    | with_reducible first
      | assumption | apply kept_updEnd | apply kept_stopHere | refine kept_ite (fun _ => ?_) (fun _ => ?_)
    | simp only [kept_mk_eq] | intro _ | dsimp only | split

theorem kept_doChainTo (s : State) (hs : Kept pend s) : Kept pend (doChainTo s) := by
  unfold doChainTo
  try dsimp only
  repeat first
    | with_reducible first
      | assumption | apply kept_modCur | apply kept_raiseU | apply kept_updEnd | apply kept_stopHere
      | refine kept_ite (fun _ => ?_) (fun _ => ?_) | refine foldl_keep _ (fun _ _ _ => ?_) ?_
    | simp only [kept_mk_eq] | intro _ | dsimp only | split

/-! HostIf -/

theorem kept_apReport (s : State) (w : Nat) (hs : Kept pend s) : Kept pend (apReport s w) := by
  unfold apReport
  try dsimp only
  repeat first
    | with_reducible first
      | assumption | apply kept_raise | apply kept_raiseQ | refine kept_ite (fun _ => ?_) (fun _ => ?_)
    | simp only [kept_mk_eq] | intro _ | dsimp only | split

theorem kept_touchHost (s : State) (a n : Nat) (wr : Bool) (hs : Kept pend s) : Kept pend (touchHost s a n wr) := by
  unfold touchHost
  try dsimp only
  repeat first
    | with_reducible first
      | assumption | apply kept_touch | refine kept_ite (fun _ => ?_) (fun _ => ?_)
    | intro _ | dsimp only | split

theorem kept_answer (s : State) (v : List Byte) (ep : Bool) (hs : Kept pend s) : Kept pend (answer s v ep) := by
  unfold answer
  try dsimp only
  repeat first
    | with_reducible first
      | assumption | apply kept_hostPush | refine kept_ite (fun _ => ?_) (fun _ => ?_)
    | intro _ | dsimp only | split

theorem kept_bar4Read (s : State) (a n : Nat) (hs : Kept pend s) : Kept pend (bar4Read s a n) := by
  unfold bar4Read
  try dsimp only
  repeat first
    | with_reducible first
      | assumption | apply kept_apReport | apply kept_touchHost | apply kept_answer
      | refine kept_ite (fun _ => ?_) (fun _ => ?_) | refine foldl_keep _ (fun _ _ _ => ?_) ?_
    | intro _ | dsimp only | split

theorem kept_bar4Early (s : State) (n : Nat) (hs : Kept pend s) : Kept pend (bar4Early s n) := by
  unfold bar4Early
  try dsimp only
  repeat first
    | with_reducible first
      | assumption | apply kept_answer | refine kept_ite (fun _ => ?_) (fun _ => ?_)
    | simp only [kept_mk_eq] | intro _ | dsimp only | split

theorem kept_apWrite (ep : Bool) (s : State) (w lo : Nat) (bs : List Byte) (hs : Kept pend s) : Kept pend (apWrite ep s w lo bs) := by
  unfold apWrite
  try dsimp only
  repeat first
    | with_reducible first
      | assumption | apply kept_raise | apply kept_writePart | apply kept_poisonWord | apply kept_apReport
      | refine kept_ite (fun _ => ?_) (fun _ => ?_)
    | simp only [kept_mk_eq] | intro _ | dsimp only | split

theorem kept_apLoop (ep : Bool) (f a : Nat) (bs : List Byte) (s : State) (hs : Kept pend s) : Kept pend (apLoop ep a bs f s) := by
  induction f generalizing s a bs with
  | zero => exact hs
  | succ n ih =>
    unfold apLoop
    split
    · exact hs
    · exact ih _ _ _ (kept_apWrite _ _ _ _ _ hs)

theorem kept_bar4Write (s : State) (a : Nat) (bs : List Byte) (ep : Bool) (hs : Kept pend s) : Kept pend (bar4Write s a bs ep) := by
  unfold bar4Write
  try dsimp only
  repeat first
    | with_reducible first
      | assumption | apply kept_poisonRx | apply kept_touchHost | apply kept_apLoop
      | refine kept_ite (fun _ => ?_) (fun _ => ?_)
    | intro _ | dsimp only | split

theorem kept_bar4BaseWrite (s : State) (v : W64) (hs : Kept pend s) : Kept pend (bar4BaseWrite s v) := by
  unfold bar4BaseWrite
  try dsimp only
  repeat first
    | with_reducible first
      | assumption | apply kept_regPut | refine kept_ite (fun _ => ?_) (fun _ => ?_)
    | intro _ | dsimp only | split

theorem kept_sendPending (s : State) (hs : Kept pend s) : Kept pend (sendPending s) := by
  unfold sendPending
  try dsimp only
  repeat first
    | with_reducible first
      | assumption | apply kept_msixRaise | refine kept_ite (fun _ => ?_) (fun _ => ?_)
      | refine foldl_keep _ (fun _ _ _ => ?_) ?_
    | simp only [kept_mk_eq] | intro _ | dsimp only | split

theorem kept_vecWrite (s : State) (i : Nat) (v : W64) (hs : Kept pend s) : Kept pend (vecWrite s i v) := by
  unfold vecWrite
  try dsimp only
  repeat first
    | with_reducible first
      | assumption | apply kept_sendPending | refine kept_ite (fun _ => ?_) (fun _ => ?_)
    | simp only [kept_mk_eq] | intro _ | dsimp only | split

theorem kept_irqSrcWrite (s : State) (e : Nat) (v : W64) (hs : Kept pend s) : Kept pend (irqSrcWrite s e v) := by
  unfold irqSrcWrite
  try dsimp only
  repeat first
    | with_reducible first
      | assumption | apply kept_fireEvent | apply kept_regPut | refine kept_ite (fun _ => ?_) (fun _ => ?_)
    | intro _ | dsimp only | split

theorem kept_modHost (s : State) (f : HostP → HostP) (hs : Kept pend s) : Kept pend (modHost s f) := by
  unfold modHost
  try dsimp only
  repeat first
    | with_reducible first
      | assumption | refine kept_ite (fun _ => ?_) (fun _ => ?_)
    | simp only [kept_mk_eq] | intro _ | dsimp only | split

theorem kept_doD0 (s : State) (hs : Kept pend s) : Kept pend (doD0 s) := by
  unfold doD0
  try dsimp only
  repeat first
    | with_reducible first
      | assumption | apply kept_sendPending | apply kept_modHost | refine kept_ite (fun _ => ?_) (fun _ => ?_)
    | simp only [kept_mk_eq] | intro _ | dsimp only | split

theorem kept_doFunctionMask (s : State) (enable mask : Bool) (hs : Kept pend s) : Kept pend (doFunctionMask s enable mask) := by
  unfold doFunctionMask
  try dsimp only
  repeat first
    | with_reducible first
      | assumption | apply kept_sendPending | apply kept_modHost | refine kept_ite (fun _ => ?_) (fun _ => ?_)
    | simp only [kept_mk_eq] | intro _ | dsimp only | split

theorem kept_setLink (s : State) (w : W64) (hs : Kept pend s) : Kept pend (setLink s w) := by
  unfold setLink
  try dsimp only
  repeat first
    | with_reducible first
      | assumption | apply kept_setReg | apply kept_modHost | refine kept_ite (fun _ => ?_) (fun _ => ?_)
    | simp only [kept_mk_eq] | intro _ | dsimp only | split

theorem kept_doLinkChange (s : State) (width rate : Nat) (flit l0p : Bool) (errs : List PcieErr) (hs : Kept pend s) : Kept pend (doLinkChange s width rate flit l0p errs) := by
  unfold doLinkChange
  try dsimp only
  repeat first
    | with_reducible first
      | assumption | apply kept_pcieReport | apply kept_setLink | refine kept_ite (fun _ => ?_) (fun _ => ?_)
      | refine foldl_keep _ (fun _ _ _ => ?_) ?_
    | intro _ | dsimp only | split

theorem kept_doResize (s : State) (log2 : Nat) (hs : Kept pend s) : Kept pend (doResize s log2) := by
  unfold doResize
  try dsimp only
  repeat first
    | with_reducible first
      | assumption | apply kept_setFld | refine kept_ite (fun _ => ?_) (fun _ => ?_)
    | intro _ | dsimp only | split

theorem kept_doCplTimeout (s : State) (what : Nat) (hs : Kept pend s) : Kept pend (doCplTimeout s what) := by
  unfold doCplTimeout
  refine kept_ite (fun _ => hs) fun _ => ?_
  split
  · exact kept_fetchOne _ _ hs (fun r h s hs => by cases h; exact kept_readTimeout _ hs)
  · split
    · exact kept_ite (fun _ => hs) (fun _ => kept_admEnd _ _ _ _ (kept_readTimeout _ (kept_modAdm _ _ _ hs)))
    · exact hs
  · split
    · exact kept_fcStart _ _ _ hs (fun _ h => kept_admEnd _ _ _ _ (kept_readTimeout _ h))
    · exact hs

end Sys2Proof.Machine
end

