-- ==== Sys2Proof/Laws/KeptHost.lean ====
section
/-! SUPPORT. Canonical form and queue are kept (Kept) by boot, management, the counters, training, reads and writes of registers, the control cores: one lemma for each operation. -/

namespace Sys2Proof.Machine

variable {pend : List Instr}

/-! Boot -/

theorem kept_deviceReset (s : State) (keep por : Bool) (hs : Kept pend s) : Kept pend (deviceReset s keep por) :=
  ⟨show State.reset.canon = true by rfl, hs.2⟩

theorem kept_pinTaken (s : State) (us : Nat) (hs : Kept pend s) : Kept pend ((pinTaken s us).2) := by
  unfold pinTaken
  try dsimp only
  repeat first
    | with_reducible first
      | assumption | apply kept_draw32 | refine kept_ite (fun _ => ?_) (fun _ => ?_)
      | refine kept_ite2 (fun _ => ?_) (fun _ => ?_)
    | intro _ | dsimp only | split

theorem kept_doPin (s : State) (us : Nat) (por : Bool) (hs : Kept pend s) : Kept pend (doPin s us por) := by
  unfold doPin
  try dsimp only
  repeat first
    | with_reducible first
      | assumption | apply kept_deviceReset | apply kept_pinTaken | refine kept_ite (fun _ => ?_) (fun _ => ?_)
    | intro _ | dsimp only | split

theorem kept_doRelease (s : State) (hs : Kept pend s) : Kept pend (doRelease s) := by
  unfold doRelease
  try dsimp only
  repeat first
    | with_reducible first
      | assumption | apply kept_setReg | apply kept_setFld | apply kept_modMgt | refine kept_ite (fun _ => ?_) (fun _ => ?_)
    | simp only [kept_mk_eq] | intro _ | dsimp only | split

theorem kept_recovery (s : State) (code : Nat) (hs : Kept pend s) : Kept pend (recovery s code) := by
  unfold recovery
  try dsimp only
  repeat first
    | with_reducible first
      | assumption | apply kept_setFld | refine kept_ite (fun _ => ?_) (fun _ => ?_)
    | intro _ | dsimp only | split

theorem kept_failCode (s : State) (code : Nat) (hs : Kept pend s) : Kept pend (failCode s code) := by
  unfold failCode
  try dsimp only
  repeat first
    | with_reducible first
      | assumption | apply kept_setFld | refine kept_ite (fun _ => ?_) (fun _ => ?_)
    | intro _ | dsimp only | split

theorem kept_imageErr (s : State) (t : Nat) (b : Bool) (o : Nat) (hs : Kept pend s) : Kept pend (imageErr s t b o) := by
  unfold imageErr
  try dsimp only
  repeat first
    | with_reducible first
      | assumption | apply kept_raise | refine kept_ite (fun _ => ?_) (fun _ => ?_)
    | intro _ | dsimp only | split

theorem kept_imageLoad (s : State) (t : Nat) (b : Bool) (o : Nat) (hs : Kept pend s) : Kept pend (imageLoad s t b o) := by
  unfold imageLoad
  try dsimp only
  repeat first
    | with_reducible first
      | assumption | apply kept_setReg | apply kept_setFld | apply kept_modMgt | refine kept_ite (fun _ => ?_) (fun _ => ?_)
    | simp only [kept_mk_eq] | intro _ | dsimp only | split

theorem kept_tryImage (t : Nat) (x : State × Bool) (b : Bool) (hs : Kept pend x.1) : Kept pend (tryImage t x b).1 := by
  unfold tryImage
  split
  · exact hs
  · split
    · exact hs
    · split
      · exact kept_imageLoad _ _ _ _ hs
      · exact kept_imageErr _ _ _ _ hs

theorem kept_loadImages (l : List Nat) (s : State) (hs : Kept pend s) : Kept pend (loadImages s l).1 := by
  induction l generalizing s with
  | nil => exact hs
  | cons t l ih =>
    have h1 : Kept pend ([false, true].foldl (tryImage t) (s, false)).1 :=
      foldl_keep (P := fun x : State × Bool => Kept pend x.1) _ (fun _ _ h => kept_tryImage _ _ _ h) hs
    unfold loadImages
    exact kept_ite1 (fun _ => ih _ h1) (fun _ => h1)

theorem kept_stageImages (s : State) (hs : Kept pend s) : Kept pend (stageImages s) := by
  unfold stageImages
  try dsimp only
  repeat first
    | with_reducible first
      | assumption | apply kept_modMgt | apply kept_recovery | apply kept_imageErr | apply kept_imageLoad
      | apply kept_loadImages | refine kept_ite (fun _ => ?_) (fun _ => ?_)
    | simp only [kept_mk_eq] | intro _ | dsimp only | split

theorem kept_identFail (s : State) (pct : Nat) (hs : Kept pend s) : Kept pend (identFail s pct) := by
  unfold identFail
  try dsimp only
  repeat first
    | with_reducible first
      | assumption | apply kept_setReg | apply kept_raise | refine kept_ite (fun _ => ?_) (fun _ => ?_)
    | intro _ | dsimp only | split

theorem kept_stageIdentity (s0 : State) (hs0 : Kept pend s0) : Kept pend (stageIdentity s0) := by
  unfold stageIdentity
  try dsimp only
  repeat first
    | with_reducible first
      | assumption | apply kept_setReg | apply kept_take | apply kept_modMgt | apply kept_identFail
      | refine kept_ite (fun _ => ?_) (fun _ => ?_) | refine foldl_keep _ (fun _ _ _ => ?_) ?_
    | simp only [kept_mk_eq] | intro _ | dsimp only | split

theorem kept_setLanes (s : State) (hs : Kept pend s) : Kept pend (setLanes s) := by
  unfold setLanes
  try dsimp only
  repeat first
    | with_reducible first
      | assumption | apply kept_setReg | refine kept_ite (fun _ => ?_) (fun _ => ?_)
      | refine foldl_keep _ (fun _ _ _ => ?_) ?_
    | intro _ | dsimp only | split

theorem kept_trainEyes (k : Nat) (x : State × List Nat) (e : Fin 8 × Fin 128 × List (Fin 20)) (hs : Kept pend x.1) : Kept pend (trainEyes k x e).1 := by
  unfold trainEyes
  split
  · exact hs
  · split
    · exact kept_switchSpares _ _ _ _ _ (by assumption) hs
    · exact hs

theorem kept_stackOff (s : State) (k : Nat) (hs : Kept pend s) : Kept pend (stackOff s k) := by
  unfold stackOff
  try dsimp only
  repeat first
    | with_reducible first
      | assumption | apply kept_modStk | refine kept_ite (fun _ => ?_) (fun _ => ?_)
    | simp only [kept_mk_eq] | intro _ | dsimp only | split

theorem kept_trainStack (r : BootRes) (s : State) (k : Nat) (hs : Kept pend s) : Kept pend (trainStack r s k) := by
  have h1 : Kept pend (r.eyes.foldl (trainEyes k) (s, partRetire s k)).1 :=
    foldl_keep (P := fun x : State × List Nat => Kept pend x.1) _ (fun _ _ h => kept_trainEyes _ _ _ h) hs
  have h2 : ∀ (t : State) (l : List Nat), Kept pend t → Kept pend (match l with
      | [] => t
      | [c] => (retireChan t k c).1
      | _ => failCode (stackOff t k) 3) := by
    intro t l h
    split
    · exact h
    · exact kept_retireChan _ _ _ h
    · exact kept_failCode _ _ (kept_stackOff _ _ h)
  have h3 := kept_setFld _ (aMemStatus k) 30 30 1 h1
  exact kept_ite (fun _ => kept_failCode _ _ (kept_stackOff _ _ h3)) (fun _ => h2 _ _ h3)

theorem kept_stageTrain (s : State) (r : BootRes) (hs : Kept pend s) : Kept pend (stageTrain s r) := by
  unfold stageTrain
  try dsimp only
  repeat first
    | with_reducible first
      | assumption | apply kept_setLanes | apply kept_trainStack | refine kept_ite (fun _ => ?_) (fun _ => ?_)
      | refine foldl_keep _ (fun _ _ _ => ?_) ?_
    | intro _ | dsimp only | split

theorem kept_stageSelftest (s : State) (r : BootRes) (hs : Kept pend s) : Kept pend (stageSelftest s r) := by
  unfold stageSelftest
  try dsimp only
  repeat first
    | with_reducible first
      | assumption | apply kept_setReg | apply kept_modMgt | apply kept_recovery
      | refine kept_ite (fun _ => ?_) (fun _ => ?_)
    | simp only [kept_mk_eq] | intro _ | dsimp only | split

theorem kept_laserBoot (r : BootRes) (s : State) (n : Nat) (hs : Kept pend s) : Kept pend (laserBoot r s n) := by
  unfold laserBoot
  try dsimp only
  repeat first
    | with_reducible first
      | assumption | apply kept_setReg | refine kept_ite (fun _ => ?_) (fun _ => ?_)
    | intro _ | dsimp only | split

theorem kept_stageLasers (s : State) (r : BootRes) (hs : Kept pend s) : Kept pend (stageLasers s r) := by
  have h1 : Kept pend ((List.range 128).foldl (laserBoot r) s) := foldl_keep _ (fun _ _ h => kept_laserBoot _ _ _ h) hs
  have h2 : ∀ (c : Bool) (t : State), Kept pend t →
      Kept pend (if c = true then failCode { t with free := t.free + 128 } 4 else { t with free := t.free + 128 }) :=
    fun _ _ h => kept_ite (fun _ => kept_failCode _ _ h) (fun _ => h)
  exact h2 _ _ h1

theorem kept_stageRings (s : State) (r : BootRes) (hs : Kept pend s) : Kept pend (stageRings s r) := by
  unfold stageRings
  try dsimp only
  repeat first
    | with_reducible first
      | assumption | apply kept_setReg | refine kept_ite (fun _ => ?_) (fun _ => ?_)
      | refine foldl_keep _ (fun _ _ _ => ?_) ?_
    | intro _ | dsimp only | split

theorem kept_stampElapsed (s : State) (hs : Kept pend s) : Kept pend (stampElapsed s) := by
  unfold stampElapsed
  try dsimp only
  repeat first
    | with_reducible first
      | assumption | apply kept_setFld | refine kept_ite (fun _ => ?_) (fun _ => ?_)
    | intro _ | dsimp only | split

theorem kept_loadRuntime (s : State) (q : Nat) (hs : Kept pend s) : Kept pend (loadRuntime s q) := by
  have h1 := fun l => kept_mem hs (smWf_setMany (d := (0#8)) (kept_parts hs).1.1 l)
  exact kept_modQuarter _ _ _ (kept_setReg _ _ _ (h1 _))

theorem kept_stageRuntime (s0 : State) (hs0 : Kept pend s0) : Kept pend (stageRuntime s0) := by
  unfold stageRuntime
  try dsimp only
  repeat first
    | with_reducible first
      | assumption | apply kept_setFld | apply kept_fireEvent | apply kept_modDisp | apply kept_modMgt
      | apply kept_loadRuntime | refine kept_ite (fun _ => ?_) (fun _ => ?_) | refine foldl_keep _ (fun _ _ _ => ?_) ?_
    | simp only [kept_mk_eq] | intro _ | dsimp only | split

theorem kept_stageWork (s : State) (st : Nat) (r : BootRes) (hs : Kept pend s) : Kept pend (stageWork s st r) := by
  unfold stageWork
  try dsimp only
  repeat first
    | with_reducible first
      | assumption | apply kept_stageImages | apply kept_stageIdentity | apply kept_stageTrain | apply kept_stageSelftest
      | apply kept_stageLasers | apply kept_stageRings | apply kept_stageRuntime
      | refine kept_ite (fun _ => ?_) (fun _ => ?_)
    | simp only [kept_mk_eq] | intro _ | dsimp only | split

theorem kept_doStageEnd (s : State) (r : BootRes) (hs : Kept pend s) : Kept pend (doStageEnd s r) := by
  unfold doStageEnd
  try dsimp only
  repeat first
    | with_reducible first
      | assumption | apply kept_setFld | apply kept_stampElapsed | apply kept_stageWork
      | refine kept_ite (fun _ => ?_) (fun _ => ?_)
    | intro _ | dsimp only | split

theorem kept_doClockFault (s : State) (d : Nat) (hs : Kept pend s) : Kept pend (doClockFault s d) := by
  unfold doClockFault
  try dsimp only
  repeat first
    | with_reducible first
      | assumption | apply kept_raise | apply kept_stopHere | refine kept_ite (fun _ => ?_) (fun _ => ?_)
    | intro _ | dsimp only | split

theorem kept_doStuck (s : State) (d : Nat) (hs : Kept pend s) : Kept pend (doStuck s d) := by
  unfold doStuck
  try dsimp only
  repeat first
    | with_reducible first
      | assumption | apply kept_setFld | apply kept_raise | apply kept_stopHere
      | refine kept_ite (fun _ => ?_) (fun _ => ?_)
    | intro _ | dsimp only | split

/-! Mctp -/

theorem kept_mctpSend (s : State) (smb : Bool) (m : List Byte) (hs : Kept pend s) : Kept pend (mctpSend s smb m) := by
  unfold mctpSend
  try dsimp only
  repeat first
    | with_reducible first
      | assumption | apply kept_modMgt | refine kept_ite (fun _ => ?_) (fun _ => ?_)
    | simp only [kept_mk_eq] | intro _ | dsimp only | split

theorem kept_mctpOn (s : State) (b : MctpIn) (typ : Byte) (act : State → State) (hs : Kept pend s) (hact : ∀ s, Kept pend s → Kept pend (act s)) : Kept pend (mctpOn s b typ act) := by
  unfold mctpOn
  try dsimp only
  repeat first
    | with_reducible first
      | assumption | apply hact | refine kept_ite (fun _ => ?_) (fun _ => ?_)
    | intro _ | dsimp only | split

theorem kept_reply (s : State) (smb : Bool) (cmd status : Nat) (fields : List Byte) (hs : Kept pend s) : Kept pend (reply s smb cmd status fields) := by
  unfold reply
  try dsimp only
  repeat first
    | with_reducible first
      | assumption | apply kept_mctpSend | refine kept_ite (fun _ => ?_) (fun _ => ?_)
    | intro _ | dsimp only | split

theorem kept_vendorOn (s : State) (b : MctpIn) (code : Nat) (act : State → State) (hs : Kept pend s) (hact : ∀ s, Kept pend s → Kept pend (act s)) : Kept pend (vendorOn s b code act) := by
  unfold vendorOn
  try dsimp only
  repeat first
    | with_reducible first
      | assumption | apply hact | apply kept_mctpOn | apply kept_reply | refine kept_ite (fun _ => ?_) (fun _ => ?_)
    | intro _ | dsimp only | split

theorem kept_doBootStatus (s : State) (smb : Bool) (hs : Kept pend s) : Kept pend (doBootStatus s smb) := by
  unfold doBootStatus
  try dsimp only
  repeat first
    | with_reducible first
      | assumption | apply kept_reply | refine kept_ite (fun _ => ?_) (fun _ => ?_)
    | intro _ | dsimp only | split

theorem kept_doFlashRead (s : State) (smb : Bool) (o n : Nat) (hs : Kept pend s) : Kept pend (doFlashRead s smb o n) := by
  unfold doFlashRead
  try dsimp only
  repeat first
    | with_reducible first
      | assumption | apply kept_reply | refine kept_ite (fun _ => ?_) (fun _ => ?_)
    | intro _ | dsimp only | split

theorem kept_flashChange (s : State) (smb : Bool) (cmd : Nat) (ok : Bool) (act : SMap Byte → SMap Byte) (hs : Kept pend s) : Kept pend (flashChange s smb cmd ok act) := by
  unfold flashChange
  try dsimp only
  repeat first
    | with_reducible first
      | assumption | apply kept_modMgt | apply kept_reply | refine kept_ite (fun _ => ?_) (fun _ => ?_)
    | simp only [kept_mk_eq] | intro _ | dsimp only | split

theorem kept_doFlashErase (s : State) (smb : Bool) (o : Nat) (hs : Kept pend s) : Kept pend (doFlashErase s smb o) := by
  unfold doFlashErase
  try dsimp only
  repeat first
    | with_reducible first
      | assumption | apply kept_flashChange | refine kept_ite (fun _ => ?_) (fun _ => ?_)
    | intro _ | dsimp only | split

theorem kept_doFlashWrite (s : State) (smb : Bool) (o : Nat) (d : List Byte) (hs : Kept pend s) : Kept pend (doFlashWrite s smb o d) := by
  unfold doFlashWrite
  try dsimp only
  repeat first
    | with_reducible first
      | assumption | apply kept_flashChange | refine kept_ite (fun _ => ?_) (fun _ => ?_)
    | intro _ | dsimp only | split

theorem kept_doPartRecord (s : State) (smb : Bool) (o n : Nat) (hs : Kept pend s) : Kept pend (doPartRecord s smb o n) := by
  unfold doPartRecord
  try dsimp only
  repeat first
    | with_reducible first
      | assumption | apply kept_reply | refine kept_ite (fun _ => ?_) (fun _ => ?_)
    | intro _ | dsimp only | split

theorem kept_doReset (s : State) (smb : Bool) (hs : Kept pend s) : Kept pend (doReset s smb) := by
  unfold doReset
  try dsimp only
  repeat first
    | with_reducible first
      | assumption | apply kept_modMgt | apply kept_deviceReset | apply kept_reply
      | refine kept_ite (fun _ => ?_) (fun _ => ?_)
    | simp only [kept_mk_eq] | intro _ | dsimp only | split

theorem kept_doSetEid (s : State) (smb : Bool) (e : Byte) (hs : Kept pend s) : Kept pend (doSetEid s smb e) := by
  unfold doSetEid
  try dsimp only
  repeat first
    | with_reducible first
      | assumption | apply kept_modMgt | apply kept_mctpSend | refine kept_ite (fun _ => ?_) (fun _ => ?_)
    | simp only [kept_mk_eq] | intro _ | dsimp only | split

theorem kept_doControl (s : State) (b : MctpIn) (hs : Kept pend s) : Kept pend (doControl s b) := by
  unfold doControl
  try dsimp only
  repeat first
    | with_reducible first
      | assumption | apply kept_mctpSend | refine kept_ite (fun _ => ?_) (fun _ => ?_)
    | simp only [kept_mk_eq] | intro _ | dsimp only | split

theorem kept_spdmSend (s : State) (smb : Bool) (m : List Byte) (hs : Kept pend s) : Kept pend (spdmSend s smb m) := by
  unfold spdmSend
  try dsimp only
  repeat first
    | with_reducible first
      | assumption | apply kept_mctpSend | refine kept_ite (fun _ => ?_) (fun _ => ?_)
    | intro _ | dsimp only | split

theorem kept_spdmReply (s : State) (smb : Bool) (p : Nat) (req m : List Byte) (hs : Kept pend s) : Kept pend (spdmReply s smb p req m) := by
  unfold spdmReply
  try dsimp only
  repeat first
    | with_reducible first
      | assumption | apply kept_modMgt | apply kept_spdmSend | refine kept_ite (fun _ => ?_) (fun _ => ?_)
    | simp only [kept_mk_eq] | intro _ | dsimp only | split

theorem kept_spdmError (s : State) (smb : Bool) (code : Byte) (hs : Kept pend s) : Kept pend (spdmError s smb code) := by
  unfold spdmError
  try dsimp only
  repeat first
    | with_reducible first
      | assumption | apply kept_spdmSend | refine kept_ite (fun _ => ?_) (fun _ => ?_)
    | intro _ | dsimp only | split

theorem kept_spdmOther (s : State) (smb : Bool) (req : List Byte) (hs : Kept pend s) : Kept pend (spdmOther s smb req) := by
  unfold spdmOther
  try dsimp only
  repeat first
    | with_reducible first
      | assumption | apply kept_spdmError | refine kept_ite (fun _ => ?_) (fun _ => ?_)
    | intro _ | dsimp only | split

theorem kept_spdmTurn (s : State) (smb : Bool) (req : List Byte) (code : Byte) (turn : Bool) (act : State → State) (hs : Kept pend s) (hact : ∀ s, Kept pend s → Kept pend (act s)) : Kept pend (spdmTurn s smb req code turn act) := by
  unfold spdmTurn
  try dsimp only
  repeat first
    | with_reducible first
      | assumption | apply hact | apply kept_spdmError | apply kept_spdmOther
      | refine kept_ite (fun _ => ?_) (fun _ => ?_)
    | intro _ | dsimp only | split

theorem kept_doGetVersion (s : State) (smb : Bool) (req : List Byte) (hs : Kept pend s) : Kept pend (doGetVersion s smb req) := by
  unfold doGetVersion
  try dsimp only
  repeat first
    | with_reducible first
      | assumption | apply kept_modMgt | apply kept_spdmReply | apply kept_spdmError | apply kept_spdmOther
      | refine kept_ite (fun _ => ?_) (fun _ => ?_)
    | simp only [kept_mk_eq] | intro _ | dsimp only | split

theorem kept_doGetCapabilities (s : State) (smb : Bool) (req : List Byte) (hs : Kept pend s) : Kept pend (doGetCapabilities s smb req) := by
  unfold doGetCapabilities
  try dsimp only
  repeat first
    | with_reducible first
      | assumption | apply kept_spdmReply | apply kept_spdmTurn | refine kept_ite (fun _ => ?_) (fun _ => ?_)
    | intro _ | dsimp only | split

theorem kept_doNegotiate (s : State) (smb : Bool) (req : List Byte) (hs : Kept pend s) : Kept pend (doNegotiate s smb req) := by
  unfold doNegotiate
  try dsimp only
  repeat first
    | with_reducible first
      | assumption | apply kept_spdmReply | apply kept_spdmError | apply kept_spdmTurn
      | refine kept_ite (fun _ => ?_) (fun _ => ?_)
    | intro _ | dsimp only | split

theorem kept_doGetDigests (s : State) (smb : Bool) (req : List Byte) (hs : Kept pend s) : Kept pend (doGetDigests s smb req) := by
  unfold doGetDigests
  try dsimp only
  repeat first
    | with_reducible first
      | assumption | apply kept_spdmReply | apply kept_spdmTurn | refine kept_ite (fun _ => ?_) (fun _ => ?_)
    | intro _ | dsimp only | split

theorem kept_doGetCertificate (s : State) (smb : Bool) (req : List Byte) (hs : Kept pend s) : Kept pend (doGetCertificate s smb req) := by
  unfold doGetCertificate
  try dsimp only
  repeat first
    | with_reducible first
      | assumption | apply kept_take | apply kept_spdmReply | apply kept_spdmError | apply kept_spdmTurn
      | refine kept_ite (fun _ => ?_) (fun _ => ?_)
    | intro _ | dsimp only | split

theorem kept_spdmSig (s : State) (context transcript : List Byte) (hs : Kept pend s) : Kept pend ((spdmSig s context transcript).2) := by
  unfold spdmSig
  try dsimp only
  repeat first
    | with_reducible first
      | assumption | apply kept_draw256 | refine kept_ite (fun _ => ?_) (fun _ => ?_)
      | refine kept_ite2 (fun _ => ?_) (fun _ => ?_)
    | intro _ | dsimp only | split

theorem kept_doChallenge (s : State) (smb : Bool) (req : List Byte) (hs : Kept pend s) : Kept pend (doChallenge s smb req) := by
  unfold doChallenge
  try dsimp only
  repeat first
    | with_reducible first
      | assumption | apply kept_draw256 | apply kept_spdmSend | apply kept_spdmError | apply kept_spdmTurn
      | apply kept_spdmSig | refine kept_ite (fun _ => ?_) (fun _ => ?_)
    | intro _ | dsimp only | split

theorem kept_doGetMeasurements (s : State) (smb : Bool) (req : List Byte) (hs : Kept pend s) : Kept pend (doGetMeasurements s smb req) := by
  unfold doGetMeasurements
  try dsimp only
  repeat first
    | with_reducible first
      | assumption | apply kept_draw256 | apply kept_modMgt | apply kept_spdmSend | apply kept_spdmReply
      | apply kept_spdmError | apply kept_spdmTurn | apply kept_spdmSig | refine kept_ite (fun _ => ?_) (fun _ => ?_)
    | simp only [kept_mk_eq] | intro _ | dsimp only | split

theorem kept_doSmbRead (s : State) (hs : Kept pend s) : Kept pend (doSmbRead s) := by
  unfold doSmbRead
  try dsimp only
  repeat first
    | with_reducible first
      | assumption | apply kept_modMgt | refine kept_ite (fun _ => ?_) (fun _ => ?_)
    | simp only [kept_mk_eq] | intro _ | dsimp only | split

theorem kept_doTap (s : State) (ir : Nat) (hs : Kept pend s) : Kept pend (doTap s ir) := by
  unfold doTap
  try dsimp only
  repeat first
    | with_reducible first
      | assumption | apply kept_modMgt | refine kept_ite (fun _ => ?_) (fun _ => ?_)
    | simp only [kept_mk_eq] | intro _ | dsimp only | split

/-! Pmc -/

theorem kept_pmcClear (s : State) (hs : Kept pend s) : Kept pend (pmcClear s) :=
  kept_pmc hs (smWf_filter (kept_parts hs).2.2.2.2.2.2.2.2 _)

theorem kept_pmcCtlWrite (s : State) (v : W64) (hs : Kept pend s) : Kept pend (pmcCtlWrite s v) := by
  unfold pmcCtlWrite
  try dsimp only
  repeat first
    | with_reducible first
      | assumption | apply kept_regPut | apply kept_modMgt | apply kept_pmcClear
      | refine kept_ite (fun _ => ?_) (fun _ => ?_)
    | simp only [kept_mk_eq] | intro _ | dsimp only | split

theorem kept_h1Write (s : State) (j : Nat) (v : W64) (hs : Kept pend s) : Kept pend (h1Write s j v) :=
  kept_pmc hs (smWf_set (d := fun _ => 0) (kept_parts hs).2.2.2.2.2.2.2.2 _ _)

/-! Training -/

theorem kept_lwConsec (s : State) (hs : Kept pend s) : Kept pend (lwConsec s) := by
  unfold lwConsec
  try dsimp only
  repeat first
    | with_reducible first
      | assumption | apply kept_addFld | refine kept_ite (fun _ => ?_) (fun _ => ?_)
    | intro _ | dsimp only | split

theorem kept_lwAccept (s : State) (x : W32) (hs : Kept pend s) : Kept pend (lwAccept s x) := by
  unfold lwAccept
  try dsimp only
  repeat first
    | with_reducible first
      | assumption | apply kept_setFld | refine kept_ite (fun _ => ?_) (fun _ => ?_)
    | intro _ | dsimp only | split

theorem kept_doLoss (s : State) (x : W32) (hs : Kept pend s) : Kept pend (doLoss s x) := by
  unfold doLoss
  try dsimp only
  repeat first
    | with_reducible first
      | assumption | apply kept_setFld | apply kept_lwConsec | apply kept_lwAccept
      | refine kept_ite (fun _ => ?_) (fun _ => ?_)
    | intro _ | dsimp only | split

theorem kept_doRestart (s : State) (hs : Kept pend s) : Kept pend (doRestart s) := by
  unfold doRestart
  try dsimp only
  repeat first
    | with_reducible first
      | assumption | apply kept_setReg | apply kept_setFld | refine kept_ite (fun _ => ?_) (fun _ => ?_)
    | intro _ | dsimp only | split

theorem kept_doGradNfRaise (s : State) (hs : Kept pend s) : Kept pend (doGradNfRaise s) := by
  unfold doGradNfRaise
  try dsimp only
  repeat first
    | with_reducible first
      | assumption | apply kept_setFld | refine kept_ite (fun _ => ?_) (fun _ => ?_)
    | intro _ | dsimp only | split

theorem kept_closeEntry (s : State) (n : Nat) (hs : Kept pend s) : Kept pend (closeEntry s n) := by
  unfold closeEntry
  try dsimp only
  repeat first
    | with_reducible first
      | assumption | apply kept_setReg | refine kept_ite (fun _ => ?_) (fun _ => ?_)
    | intro _ | dsimp only | split

theorem kept_doClose (s : State) (hs : Kept pend s) : Kept pend (doClose s) := by
  unfold doClose
  try dsimp only
  repeat first
    | with_reducible first
      | assumption | apply kept_setFld | apply kept_addFld | apply kept_rwiErr | apply kept_closeEntry
      | refine kept_ite (fun _ => ?_) (fun _ => ?_) | refine foldl_keep _ (fun _ _ _ => ?_) ?_
    | intro _ | dsimp only | split

theorem kept_doCloseEnd (s : State) (hs : Kept pend s) : Kept pend (doCloseEnd s) := by
  unfold doCloseEnd
  try dsimp only
  repeat first
    | with_reducible first
      | assumption | apply kept_setFld | refine kept_ite (fun _ => ?_) (fun _ => ?_)
    | intro _ | dsimp only | split

/-! Flags -/

theorem kept_clearFlds (s : State) (off hi lo : Nat) (hs : Kept pend s) : Kept pend (clearFlds s off hi lo) := by
  unfold clearFlds
  try dsimp only
  repeat first
    | with_reducible first
      | assumption | apply kept_setFld | refine kept_ite (fun _ => ?_) (fun _ => ?_)
      | refine foldl_keep _ (fun _ _ _ => ?_) ?_
    | intro _ | dsimp only | split

theorem kept_readClears (s : State) (off bytes : Nat) (hs : Kept pend s) : Kept pend (readClears s off bytes) := by
  unfold readClears
  try dsimp only
  repeat first
    | with_reducible first
      | assumption | apply kept_clearFlds | refine kept_ite (fun _ => ?_) (fun _ => ?_)
    | simp only [kept_mk_eq] | intro _ | dsimp only | split

theorem kept_readBar (s : State) (off bytes : Nat) (hs : Kept pend s) : Kept pend (readBar s off bytes).2.2 := by
  unfold readBar
  dsimp only
  split
  · exact kept_raise _ _ _ _ hs
  · exact kept_readClears _ _ _ hs

/-! PcieCfg -/

theorem kept_cfgPlain (s : State) (off : Nat) (v : W32) (hs : Kept pend s) : Kept pend (cfgPlain s off v) := by
  unfold cfgPlain
  try dsimp only
  repeat first
    | with_reducible first
      | assumption | apply kept_modHost | refine kept_ite (fun _ => ?_) (fun _ => ?_)
    | simp only [kept_mk_eq] | intro _ | dsimp only | split

theorem kept_devCtlWrite (s : State) (v : W32) (hs : Kept pend s) : Kept pend (devCtlWrite s v) := by
  unfold devCtlWrite
  try dsimp only
  repeat first
    | with_reducible first
      | assumption | apply kept_deviceReset | apply kept_cfgPlain | refine kept_ite (fun _ => ?_) (fun _ => ?_)
    | intro _ | dsimp only | split

theorem kept_cfgRegWrite (s : State) (off : Nat) (v : W32) (hs : Kept pend s) : Kept pend (cfgRegWrite s off v) := by
  unfold cfgRegWrite
  try dsimp only
  repeat first
    | with_reducible first
      | assumption | apply kept_modHost | apply kept_doD0 | apply kept_doFunctionMask | apply kept_doResize
      | apply kept_cfgPlain | apply kept_devCtlWrite | refine kept_ite (fun _ => ?_) (fun _ => ?_)
    | simp only [kept_mk_eq] | intro _ | dsimp only | split

theorem kept_cfgRead (s : State) (off bytes : Nat) (hs : Kept pend s) : Kept pend (cfgRead s off bytes) := by
  unfold cfgRead
  try dsimp only
  repeat first
    | with_reducible first
      | assumption | apply kept_unsupported | apply kept_take | apply kept_answer
      | refine kept_ite (fun _ => ?_) (fun _ => ?_)
    | intro _ | dsimp only | split

theorem kept_cfgPut (s : State) (off bytes : Nat) (v : W64) (hs : Kept pend s) : Kept pend (cfgPut s off bytes v) := by
  unfold cfgPut
  try dsimp only
  repeat first
    | with_reducible first
      | assumption | apply kept_unsupportedWrite | apply kept_cfgRegWrite | refine kept_ite (fun _ => ?_) (fun _ => ?_)
    | intro _ | dsimp only | split

/-! RegWrite -/

theorem kept_qtrPut (s : State) (q off : Nat) (legal : Bool) (v : W64) (src : Src) (hs : Kept pend s) : Kept pend (qtrPut s q off legal v src) := by
  unfold qtrPut
  try dsimp only
  repeat first
    | with_reducible first
      | assumption | apply kept_setReg | apply kept_raiseQReg | refine kept_ite (fun _ => ?_) (fun _ => ?_)
    | intro _ | dsimp only | split

theorem kept_engFaultWrite (s : State) (q : Nat) (v : W64) (src : Src) (hs : Kept pend s) : Kept pend (engFaultWrite s q v src) := by
  unfold engFaultWrite
  try dsimp only
  repeat first
    | with_reducible first
      | assumption | apply kept_modQuarter | apply kept_qtrPut | refine kept_ite (fun _ => ?_) (fun _ => ?_)
    | simp only [kept_mk_eq] | intro _ | dsimp only | split

theorem kept_ccIrqWrite (s : State) (q : Nat) (v : W64) (src : Src) (hs : Kept pend s) : Kept pend (ccIrqWrite s q v src) := by
  unfold ccIrqWrite
  try dsimp only
  repeat first
    | with_reducible first
      | assumption | apply kept_setReg | apply kept_qtrPut | refine kept_ite (fun _ => ?_) (fun _ => ?_)
    | intro _ | dsimp only | split

theorem kept_setCcore (s : State) (q i : Nat) (c : CCore) (hs : Kept pend s) : Kept pend (setCcore s q i c) := by
  unfold setCcore
  try dsimp only
  repeat first
    | with_reducible first
      | assumption | apply kept_modQuarter | refine kept_ite (fun _ => ?_) (fun _ => ?_)
    | simp only [kept_mk_eq] | intro _ | dsimp only | split

theorem kept_ccStarts (old : State) (q : Nat) (s : State) (i : Nat) (_hold : Kept pend old) (hs : Kept pend s) : Kept pend (ccStarts old q s i) := by
  unfold ccStarts
  try dsimp only
  repeat first
    | with_reducible first
      | assumption | apply kept_setCcore | refine kept_ite (fun _ => ?_) (fun _ => ?_)
    | simp only [kept_mk_eq] | intro _ | dsimp only | split

theorem kept_ccCtlWrite (s : State) (q : Nat) (v : W64) (src : Src) (hs : Kept pend s) : Kept pend (ccCtlWrite s q v src) := by
  unfold ccCtlWrite
  try dsimp only
  repeat first
    | with_reducible first
      | assumption | apply kept_qtrPut | apply kept_ccStarts | refine kept_ite (fun _ => ?_) (fun _ => ?_)
      | refine foldl_keep _ (fun _ _ _ => ?_) ?_
    | intro _ | dsimp only | split

theorem kept_cmpWrite (s : State) (q i : Nat) (v : W64) (src : Src) (hs : Kept pend s) : Kept pend (cmpWrite s q i v src) := by
  unfold cmpWrite
  try dsimp only
  repeat first
    | with_reducible first
      | assumption | apply kept_qtrPut | apply kept_setCcore | refine kept_ite (fun _ => ?_) (fun _ => ?_)
    | simp only [kept_mk_eq] | intro _ | dsimp only | split

theorem kept_gftCtlWrite (s : State) (v : W64) (hs : Kept pend s) : Kept pend (gftCtlWrite s v) := by
  unfold gftCtlWrite
  try dsimp only
  repeat first
    | with_reducible first
      | assumption | apply kept_regPut | apply kept_doClose | refine kept_ite (fun _ => ?_) (fun _ => ?_)
    | intro _ | dsimp only | split

theorem kept_gftWrite (s : State) (off : Nat) (legal : Bool) (v : W64) (hs : Kept pend s) : Kept pend (gftWrite s off legal v) := by
  unfold gftWrite
  try dsimp only
  repeat first
    | with_reducible first
      | assumption | apply kept_rwiErr | apply kept_regPut | refine kept_ite (fun _ => ?_) (fun _ => ?_)
    | intro _ | dsimp only | split

theorem kept_lwCtlWrite (s : State) (v : W64) (hs : Kept pend s) : Kept pend (lwCtlWrite s v) := by
  unfold lwCtlWrite
  try dsimp only
  repeat first
    | with_reducible first
      | assumption | apply kept_regPut | apply kept_doRestart | refine kept_ite (fun _ => ?_) (fun _ => ?_)
    | intro _ | dsimp only | split

theorem kept_sccModeWrite (s : State) (k : Nat) (v : W64) (hs : Kept pend s) : Kept pend (sccModeWrite s k v) := by
  unfold sccModeWrite
  try dsimp only
  repeat first
    | with_reducible first
      | assumption | apply kept_setFld | apply kept_regPut | refine kept_ite (fun _ => ?_) (fun _ => ?_)
    | intro _ | dsimp only | split

theorem kept_beatCtlWrite (s : State) (v : W64) (hs : Kept pend s) : Kept pend (beatCtlWrite s v) := by
  unfold beatCtlWrite
  try dsimp only
  repeat first
    | with_reducible first
      | assumption | apply kept_setFld | apply kept_regPut | apply kept_doStart
      | refine kept_ite (fun _ => ?_) (fun _ => ?_)
    | intro _ | dsimp only | split

theorem kept_derateWrite (s : State) (v : W64) (hs : Kept pend s) : Kept pend (derateWrite s v) := by
  unfold derateWrite
  try dsimp only
  repeat first
    | with_reducible first
      | assumption | apply kept_setFld | apply kept_regPut | refine kept_ite (fun _ => ?_) (fun _ => ?_)
    | intro _ | dsimp only | split

theorem kept_portWrite (s : State) (p : Nat) (v : W64) (hs : Kept pend s) : Kept pend (portWrite s p v) := by
  unfold portWrite
  try dsimp only
  repeat first
    | with_reducible first
      | assumption | apply kept_regPut | apply kept_portChanged | refine kept_ite (fun _ => ?_) (fun _ => ?_)
    | intro _ | dsimp only | split

theorem kept_mapWrite (s : State) (p : Nat) (v : W64) (hs : Kept pend s) : Kept pend (mapWrite s p v) := by
  unfold mapWrite
  try dsimp only
  repeat first
    | with_reducible first
      | assumption | apply kept_regPut | apply kept_portChanged | refine kept_ite (fun _ => ?_) (fun _ => ?_)
    | intro _ | dsimp only | split

theorem kept_stopCtlWrite (s : State) (v : W64) (hs : Kept pend s) : Kept pend (stopCtlWrite s v) := by
  unfold stopCtlWrite
  try dsimp only
  repeat first
    | with_reducible first
      | assumption | apply kept_doRearm | apply kept_doForce | refine kept_ite (fun _ => ?_) (fun _ => ?_)
    | intro _ | dsimp only | split

theorem kept_plainWrite (s : State) (d : RegD) (i off : Nat) (v : W64) (hs : Kept pend s) : Kept pend (plainWrite s d i off v) := by
  unfold plainWrite
  try dsimp only
  repeat first
    | with_reducible first
      | assumption | apply kept_recClear | apply kept_regPut | refine kept_ite (fun _ => ?_) (fun _ => ?_)
    | intro _ | dsimp only | split

theorem kept_qtrWrite (s : State) (d : RegD) (q j off : Nat) (v : W64) (src : Src) (hs : Kept pend s) : Kept pend (qtrWrite s d q j off v src) := by
  unfold qtrWrite
  try dsimp only
  repeat first
    | with_reducible first
      | assumption | apply kept_recClear | apply kept_ptrWrite | apply kept_cfgWrite | apply kept_ldoneWrite
      | apply kept_qtrPut | apply kept_engFaultWrite | apply kept_ccIrqWrite | apply kept_ccCtlWrite | apply kept_cmpWrite
      | refine kept_ite (fun _ => ?_) (fun _ => ?_)
    | simp only [kept_mk_eq] | intro _ | dsimp only | split

theorem kept_writeRow (s : State) (d : RegD) (i j off : Nat) (v : W64) (src : Src) (hs : Kept pend s) : Kept pend (writeRow s d i j off v src) := by
  unfold writeRow
  try dsimp only
  repeat first
    | with_reducible first
      | assumption | apply kept_sqBaseWrite | apply kept_sqCfgWrite | apply kept_cqCfgWrite | apply kept_prjNote
      | apply kept_rteWrite | apply kept_circWr | apply kept_calWr | apply kept_tgWrite | apply kept_retireWrite
      | apply kept_regionWr | apply kept_atomWrite | apply kept_bar4BaseWrite | apply kept_irqSrcWrite
      | apply kept_pmcCtlWrite | apply kept_h1Write | apply kept_doLoss | apply kept_doGradNfRaise | apply kept_gftCtlWrite
      | apply kept_gftWrite | apply kept_lwCtlWrite | apply kept_sccModeWrite | apply kept_beatCtlWrite
      | apply kept_derateWrite | apply kept_portWrite | apply kept_mapWrite | apply kept_stopCtlWrite | apply kept_plainWrite
      | apply kept_qtrWrite | refine kept_ite (fun _ => ?_) (fun _ => ?_)
    | simp only [kept_mk_eq] | intro _ | dsimp only | split

theorem kept_writeHalf (s : State) (d : RegD) (i j off h : Nat) (v : Nat) (src : Src) (hs : Kept pend s) : Kept pend (writeHalf s d i j off h v src) := by
  unfold writeHalf
  try dsimp only
  repeat first
    | with_reducible first
      | assumption | apply kept_gateWrite | apply kept_writeRow | refine kept_ite (fun _ => ?_) (fun _ => ?_)
    | intro _ | dsimp only | split

theorem kept_write4 (s : State) (off v : Nat) (src : Src) (hs : Kept pend s) : Kept pend ((write4 s off v src).1) := by
  unfold write4
  try dsimp only
  repeat first
    | with_reducible first
      | assumption | apply kept_writeRow | apply kept_writeHalf | refine kept_ite (fun _ => ?_) (fun _ => ?_)
      | refine kept_ite1 (fun _ => ?_) (fun _ => ?_)
    | simp only [kept_mk_eq] | intro _ | dsimp only | split

theorem kept_write8 (s : State) (off : Nat) (v : W64) (src : Src) (hs : Kept pend s) : Kept pend ((write8 s off v src).1) := by
  unfold write8
  try dsimp only
  repeat first
    | with_reducible first
      | assumption | apply kept_writeRow | apply kept_write4 | refine kept_ite (fun _ => ?_) (fun _ => ?_)
      | refine kept_ite1 (fun _ => ?_) (fun _ => ?_)
    | simp only [kept_mk_eq] | intro _ | dsimp only | split

theorem kept_msixWrite (s : State) (off bytes : Nat) (v : W64) (hs : Kept pend s) : Kept pend (msixWrite s off bytes v) := by
  unfold msixWrite
  try dsimp only
  repeat first
    | with_reducible first
      | assumption | apply kept_vecWrite | refine kept_ite (fun _ => ?_) (fun _ => ?_)
    | intro _ | dsimp only | split

theorem kept_writeBar (s : State) (off bytes : Nat) (v : W64) (src : Src) (hs : Kept pend s) : Kept pend (writeBar s off bytes v src) := by
  unfold writeBar
  try dsimp only
  repeat first
    | with_reducible first
      | assumption | apply kept_raise | apply kept_write4 | apply kept_write8 | apply kept_msixWrite
      | refine kept_ite (fun _ => ?_) (fun _ => ?_)
    | intro _ | dsimp only | split

theorem kept_hostRead (s : State) (off bytes : Nat) (hs : Kept pend s) : Kept pend (hostRead s off bytes) := by
  unfold hostRead
  try dsimp only
  repeat first
    | with_reducible first
      | assumption | apply kept_unsupported | apply kept_answer | apply kept_readBar
      | refine kept_ite (fun _ => ?_) (fun _ => ?_)
    | intro _ | dsimp only | split

theorem kept_barWrite (s : State) (off bytes : Nat) (v : W64) (src : Src) (ep : Bool) (hs : Kept pend s) : Kept pend (barWrite s off bytes v src ep) := by
  unfold barWrite
  try dsimp only
  repeat first
    | with_reducible first
      | assumption | apply kept_poisonRx | apply kept_unsupportedWrite | apply kept_fromSrc | apply kept_writeBar
      | refine kept_ite (fun _ => ?_) (fun _ => ?_)
    | intro _ | dsimp only | split

theorem kept_barRead (s : State) (off bytes : Nat) (src : Src) (hs : Kept pend s) : Kept pend (barRead s off bytes src) := by
  unfold barRead
  try dsimp only
  repeat first
    | with_reducible first
      | assumption | apply kept_readBar | apply kept_setCcore | apply kept_hostRead
      | refine kept_ite (fun _ => ?_) (fun _ => ?_)
    | simp only [kept_mk_eq] | intro _ | dsimp only | split

/-! ControlCore -/

theorem kept_ccTrap (s : State) (q i cause : Nat) (a : W64) (hs : Kept pend s) : Kept pend (ccTrap s q i cause a) := by
  unfold ccTrap
  try dsimp only
  repeat first
    | with_reducible first
      | assumption | apply kept_setCcore | refine kept_ite (fun _ => ?_) (fun _ => ?_)
    | intro _ | dsimp only | split

theorem kept_ccInterrupt (s : State) (q i code : Nat) (hs : Kept pend s) : Kept pend (ccInterrupt s q i code) := by
  unfold ccInterrupt
  try dsimp only
  repeat first
    | with_reducible first
      | assumption | apply kept_setCcore | refine kept_ite (fun _ => ?_) (fun _ => ?_)
    | intro _ | dsimp only | split

theorem kept_ccTake (s : State) (q i : Nat) (v : Nat) (hs : Kept pend s) : Kept pend (ccTake s q i v) := by
  unfold ccTake
  try dsimp only
  repeat first
    | with_reducible first
      | assumption | apply kept_setCcore | refine kept_ite (fun _ => ?_) (fun _ => ?_)
    | simp only [kept_mk_eq] | intro _ | dsimp only | split

theorem kept_ccUnpop (s : State) (q : Fin 96) (i : Fin 2) (p b : Nat) (hs : Kept pend s) : Kept pend (ccUnpop s q i p b) := by
  unfold ccUnpop
  try dsimp only
  repeat first
    | with_reducible first
      | assumption | apply kept_raiseQ | refine kept_ite (fun _ => ?_) (fun _ => ?_)
    | intro _ | dsimp only | split

theorem kept_ccRead (s : State) (q : Fin 96) (i : Fin 2) (a n : Nat) (hs : Kept pend s) : Kept pend ((ccRead s q i a n).2) := by
  unfold ccRead
  try dsimp only
  repeat first
    | with_reducible first
      | assumption | apply kept_touch | apply kept_readBar | apply kept_ccUnpop
      | refine kept_ite (fun _ => ?_) (fun _ => ?_) | refine kept_ite2 (fun _ => ?_) (fun _ => ?_)
    | simp only [kept_mk_eq] | intro _ | dsimp only | split

theorem kept_ccWrite (s : State) (q : Fin 96) (i : Fin 2) (a n : Nat) (v : W64) (hs : Kept pend s) : Kept pend ((ccWrite s q i a n v).2) := by
  unfold ccWrite
  try dsimp only
  repeat first
    | with_reducible first
      | assumption | apply kept_writeNat | apply kept_touch | apply kept_writeBar | apply kept_ccUnpop
      | refine kept_ite (fun _ => ?_) (fun _ => ?_) | refine kept_ite2 (fun _ => ?_) (fun _ => ?_)
    | simp only [kept_mk_eq] | intro _ | dsimp only | split

theorem kept_ccFetch (s : State) (q : Fin 96) (i : Fin 2) (a : W64) (hs : Kept pend s) : Kept pend (ccFetch s q i a) := by
  unfold ccFetch
  try dsimp only
  repeat first
    | with_reducible first
      | assumption | apply kept_setCcore | apply kept_ccTrap | apply kept_ccInterrupt | apply kept_ccTake
      | refine kept_ite (fun _ => ?_) (fun _ => ?_)
    | simp only [kept_mk_eq] | intro _ | dsimp only | split

theorem kept_ccLoad (s : State) (q : Fin 96) (i : Fin 2) (a : W64) (n : Nat) (hs : Kept pend s) : Kept pend (ccLoad s q i a n) := by
  have h := kept_ccRead s q i a.toNat n hs
  unfold ccLoad
  split <;> rename_i he <;> rw [he] at h
  · exact kept_ccTake _ _ _ _ h
  · exact kept_ccTrap _ _ _ _ _ h

theorem kept_ccStore (s : State) (q : Fin 96) (i : Fin 2) (a : W64) (n : Nat) (v : W64) (hs : Kept pend s) : Kept pend (ccStore s q i a n v) := by
  have h := kept_ccWrite s q i a.toNat n v hs
  unfold ccStore
  split <;> rename_i he <;> rw [he] at h
  · exact h
  · exact kept_ccTrap _ _ _ _ _ h

theorem kept_ccAtomic (s : State) (q : Fin 96) (i : Fin 2) (a : W64) (n align fault : Nat) (act : Nat → State) (hs : Kept pend s)
    (hact : ∀ b, Kept pend (act b)) : Kept pend (ccAtomic s q i a n align fault act) := by
  unfold ccAtomic
  exact kept_ite (fun _ => kept_ccTrap _ _ _ _ _ hs) fun _ => kept_ite (fun _ => kept_ccTrap _ _ _ _ _ hs) fun _ =>
    kept_ite (fun _ => kept_ccTrap _ _ _ _ _ hs) fun _ => hact _

theorem kept_ccAmo (s : State) (q : Fin 96) (i : Fin 2) (a : W64) (op : AmoOp) (n : Nat) (v : W64) (hs : Kept pend s) : Kept pend (ccAmo s q i a op n v) := by
  unfold ccAmo
  try dsimp only
  repeat first
    | with_reducible first
      | assumption | apply kept_writeNat | apply kept_ccTake | apply kept_ccAtomic
      | refine kept_ite (fun _ => ?_) (fun _ => ?_)
    | intro _ | dsimp only | split

theorem kept_ccLr (s : State) (q : Fin 96) (i : Fin 2) (a : W64) (n : Nat) (hs : Kept pend s) : Kept pend (ccLr s q i a n) := by
  unfold ccLr
  try dsimp only
  repeat first
    | with_reducible first
      | assumption | apply kept_setCcore | apply kept_ccAtomic | refine kept_ite (fun _ => ?_) (fun _ => ?_)
    | simp only [kept_mk_eq] | intro _ | dsimp only | split

theorem kept_ccSc (s : State) (q : Fin 96) (i : Fin 2) (a : W64) (n : Nat) (v : W64) (hs : Kept pend s) : Kept pend (ccSc s q i a n v) := by
  unfold ccSc
  try dsimp only
  repeat first
    | with_reducible first
      | assumption | apply kept_writeNat | apply kept_setCcore | apply kept_ccAtomic
      | refine kept_ite (fun _ => ?_) (fun _ => ?_)
    | simp only [kept_mk_eq] | intro _ | dsimp only | split

theorem kept_ccCsr (s : State) (q i : Nat) (num : BitVec 12) (v : W64) (hs : Kept pend s) : Kept pend (ccCsr s q i num v) := by
  unfold ccCsr
  try dsimp only
  repeat first
    | with_reducible first
      | assumption | apply kept_setCcore | apply kept_ccTrap | refine kept_ite (fun _ => ?_) (fun _ => ?_)
    | simp only [kept_mk_eq] | intro _ | dsimp only | split

theorem kept_ccAccess (s : State) (q : Fin 96) (i : Fin 2) (acc : CcAccess) (a : W64) (hs : Kept pend s) : Kept pend (ccAccess s q i acc a) := by
  unfold ccAccess
  try dsimp only
  repeat first
    | with_reducible first
      | assumption | apply kept_setCcore | apply kept_ccFetch | apply kept_ccLoad | apply kept_ccStore | apply kept_ccAmo
      | apply kept_ccLr | apply kept_ccSc | apply kept_ccCsr | refine kept_ite (fun _ => ?_) (fun _ => ?_)
    | simp only [kept_mk_eq] | intro _ | dsimp only | split

theorem kept_doTimer (s : State) (q i : Nat) (hs : Kept pend s) : Kept pend (doTimer s q i) := by
  unfold doTimer
  try dsimp only
  repeat first
    | with_reducible first
      | assumption | apply kept_setCcore | apply kept_ccInterrupt | refine kept_ite (fun _ => ?_) (fun _ => ?_)
    | simp only [kept_mk_eq] | intro _ | dsimp only | split

/-! Idle -/

theorem kept_idle (s : State) (hs : Kept pend s) : Kept pend (idle s) := by
  unfold idle
  try dsimp only
  repeat first
    | with_reducible first
      | assumption | refine kept_ite (fun _ => ?_) (fun _ => ?_)
    | simp only [kept_mk_eq] | intro _ | dsimp only | split

end Sys2Proof.Machine
end

