-- ==== Sys2Proof/Laws/Memory.lean ====
section
/-! SUPPORT. Memory stays in canonical form: every operation that writes bytes or poison marks keeps it (R378, R379), and the
state after reset has it. -/

namespace Sys2Proof.Machine

theorem memOk_iff (s : State) : s.memOk = true ↔ Memory.wf s.mem = true ∧ smWf (fun _ => false) s.memPsn = true := by
  simp [State.memOk]

theorem memOk_reset : State.reset.memOk = true := by decide

/-- An update that leaves memory alone. -/
theorem memOk_same {s t : State} (h : s.memOk = true) (hm : t.mem = s.mem) (hp : t.memPsn = s.memPsn) : t.memOk = true := by
  rw [memOk_iff] at *; rw [hm, hp]; exact h

theorem memOk_mk {s : State} {m : List Host.Cell} {p : SMap Bool} (hm : Memory.wf m = true)
    (hp : smWf (fun _ => false) p = true) : ({ s with mem := m, memPsn := p } : State).memOk = true := (memOk_iff _).2 ⟨hm, hp⟩

theorem memOk_foldl {β : Type} {g : State → β → State} (l : List β) (hg : ∀ s x, s.memOk = true → (g s x).memOk = true)
    {s : State} (h : s.memOk = true) : (l.foldl g s).memOk = true := foldl_keep (P := fun t => State.memOk t = true) l hg h

theorem memOk_breakRes (s : State) (w : Nat) (h : s.memOk = true) : (breakRes s w).memOk = true := by
  unfold breakRes; dsimp only
  split
  · exact memOk_same h rfl rfl
  · exact h

theorem memOk_noteDropped (s : State) (a n : Nat) (h : s.memOk = true) : (noteDropped s a n).memOk = true := by
  unfold noteDropped
  split
  · exact h
  · exact memOk_foldl _ (fun t i h => by rcases locate t ((a / 2048 + i) * 2048) with ⟨k, c, u⟩; exact memOk_same h (addFld_mem ..) (addFld_memPsn ..)) h

theorem memOk_writePart (s : State) (w lo : Nat) (bs : List Byte) (h : s.memOk = true) : (writePart s w lo bs).memOk = true := by
  have hb := memOk_breakRes s w h
  have h2 := (memOk_iff _).1 hb
  unfold writePart
  split
  · exact h
  · dsimp only
    split
    · exact memOk_mk (wf_putBytes h2.1 _ _) (smWf_set (d := fun _ => false) h2.2 _ _)
    · split
      · exact hb
      · exact memOk_mk (p := (breakRes s w).memPsn) (wf_putBytes h2.1 _ _) h2.2

theorem memOk_writeLoop (f : Nat) (s : State) (a : Nat) (bs : List Byte) (h : s.memOk = true) : (writeLoop s a bs f).memOk = true := by
  induction f generalizing s a bs with
  | zero => exact h
  | succ n ih =>
    cases bs with
    | nil => exact h
    | cons b t => exact ih _ _ _ (memOk_writePart _ _ _ _ h)

theorem memOk_writeBytes (s : State) (a : Nat) (bs : List Byte) (h : s.memOk = true) : (writeBytes s a bs).memOk = true :=
  memOk_writeLoop _ _ _ _ (memOk_noteDropped _ _ _ h)

theorem memOk_writeNat (s : State) (a n v : Nat) (h : s.memOk = true) : (writeNat s a n v).memOk = true := memOk_writeBytes _ _ _ h

theorem memOk_poisonPart (s : State) (w : Nat) (h : s.memOk = true) : (poisonPart s w).memOk = true := by
  have h2 := (memOk_iff _).1 (memOk_breakRes s w h)
  unfold poisonPart
  split
  · exact h
  · exact memOk_mk (wf_putBytes h2.1 _ _) (smWf_set (d := fun _ => false) h2.2 _ _)

theorem memOk_poisonWord (s : State) (w : Nat) (h : s.memOk = true) : (poisonWord s w).memOk = true :=
  memOk_poisonPart _ _ (memOk_noteDropped _ _ _ h)

theorem memOk_poisonRange (s : State) (a n : Nat) (h : s.memOk = true) : (poisonRange s a n).memOk = true := by
  unfold poisonRange
  split
  · exact h
  · exact memOk_foldl _ (fun _ _ h => memOk_poisonPart _ _ h) (memOk_noteDropped _ _ _ h)

theorem memOk_writeMarked (s : State) (a : Nat) (bs : List (Byte × Bool)) (h : s.memOk = true) : (writeMarked s a bs).memOk = true :=
  memOk_foldl _ (fun s x h => by split; exacts [memOk_poisonPart _ _ h, h]) (memOk_writeBytes _ _ _ h)

theorem memOk_putWords (ws : List CWord) (s : State) (a : Nat) (h : s.memOk = true) : (putWords s a ws).memOk = true := by
  induction ws generalizing s a with
  | nil => exact h
  | cons w t ih => unfold putWords; exact ih _ _ (by split; exacts [memOk_poisonPart _ _ h, memOk_writePart _ _ _ _ h])

theorem memOk_writeWords (ws : List CWord) (s : State) (a : Nat) (h : s.memOk = true) : (writeWords s a ws).memOk = true :=
  memOk_putWords _ _ _ (memOk_noteDropped _ _ _ h)

theorem memOk_writeMask (n : Nat) (s : State) (w v m p : Nat) (h : s.memOk = true) : (writeMask s w v m p n).memOk = true := by
  induction n generalizing s w v m p with
  | zero => exact h
  | succ n ih =>
    apply ih
    repeat' split
    exacts [h, memOk_poisonWord _ _ h, memOk_writeNat _ _ _ _ h, h, memOk_writeNat _ _ _ _ h]

theorem memOk_filter (s : State) (f : Host.Cell → Bool) (g : Nat × Bool → Bool) (h : s.memOk = true) :
    ({ s with mem := s.mem.filter f, memPsn := s.memPsn.filter g } : State).memOk = true :=
  memOk_mk (smWf_filter ((memOk_iff s).1 h).1 f) (smWf_filter ((memOk_iff s).1 h).2 g)

theorem memOk_loseStack (s : State) (k : Nat) (h : s.memOk = true) : (loseStack s k).memOk = true := memOk_filter s _ _ h

end Sys2Proof.Machine
end

