-- ==== Sys2Proof/Tests/Slice0.lean ====
section
/-! SUPPORT. Small tests: what WellFormed refuses, a state and operands that meet the hypotheses of each statement and of each
of its clauses, and single steps whose results the spec gives. -/

open Sys2Proof Sys2Proof.Machine

namespace Sys2Proof.Tests

set_option Elab.async false

/-! ### States to start from -/

/-- The state after reset with registers (offset, value) set. -/
def withRegs (l : List (Nat × Nat)) : State := l.foldl (fun s x => setReg s x.1 (BitVec.ofNat 64 x.2)) State.reset

/-- A state with n bytes of a number at an address. -/
def putNum (s : State) (a n v : Nat) : State := { s with mem := putBytes s.mem a (leBytes n v) }

/-- An instruction word: opcode and the bits below it. -/
def iw (op low : Nat) : W128 := BitVec.ofNat 128 (op * 2 ^ 122 + low)

/-- A word read from slot 0 of a ring. -/
def fw (op low : Nat) : Fetched := ⟨0, iw op low⟩

/-- Quarter 0 with one word in the queue of stream i. -/
def seat (i op low : Nat) : State := setStrm State.reset 0 i ⟨[fw op low], none, false, none⟩

/-- The same with the word's predicate read as false. -/
def seatNo (i op low : Nat) : State := setStrm State.reset 0 i ⟨[fw op low], some false, false, none⟩

/-- The same with a parameter block at offset 0x1000 of the local store: PB = 0x40 in the word. -/
def seatBlk (i op v : Nat) : State := putNum (seat i op (0x40 * 2 ^ 48)) (lsBase 0 + 0x1000) 64 v

/-- An operation in flight. -/
def opOf (i op low : Nat) (fin : Bool) : Op := ⟨5, i, 0, iw op low, true, fin, false, false, none, [], .here, [], (0, 0, 0), [], []⟩

/-- Quarter 0 with one operation in flight. -/
def flying (o : Op) : State := modQuarter State.reset 0 fun x => { x with ops := [o], nextId := 6 }

/-- A packet of one word or more. -/
def pk (cls typ : Nat) (ws : List Nat) : Pkt := ⟨0, 7, cls, 0, 0, typ, 3, 4, ws.map fun w => ⟨BitVec.ofNat 64 w, false⟩⟩

/-! ### WellFormed refuses -/

theorem smoke_frame : WF.command (.frameRx 0 0 [(0, 0)] 0) = false := by decide
theorem smoke_cell : WF.command (.writeHead 0 [⟨0, false⟩]) = false := by decide
theorem smoke_pkt : WF.command (.write 0 { pk 0 1 [] with dst := 65536 }) = false := by decide
theorem smoke_announce : WF.command (.announceBlock 0 0 [0]) = false := by decide
theorem smoke_plan : WF.command (.loadPlan (.data [0])) = false := by decide
theorem smoke_host : WF.command (.bar4Read 0 0) = false ∧ WF.command (.bar4Write 0 [] false) = false := by decide
theorem smoke_refuses : exec (.bar4Read 0 0) State.reset = .fault .illFormed := rfl
theorem smoke_accepts : WF.command (.writeHead 0 (List.replicate 8 ⟨0, false⟩)) = true ∧ WF.command (.bar4Read 0 1024) = true := by
  decide

/-! ### Witnesses: steps, memory, registers -/

theorem witness_StepIdlesOnEmptyQueue : State.reset.pending = [] := rfl
theorem witness_StepKeepsCanonicalForm : State.reset.canon = true ∧ step State.reset = .next { State.reset with now := 10 } :=
  ⟨by decide, rfl⟩
theorem witness_StepTakesOnlyTheFront : exec .thermtrip State.reset = .next (modMgt State.reset fun m => { m with trip := true }) := rfl
theorem witness_WrittenBytesReadBack : State.reset.stk.chan = [] ∧ (0 < [1#8].length ∧ smGet false State.reset.memPsn 0 = false) ∧
    (8 * 1 + 8 ≤ 8 + (List.replicate 8 (0#8)).length) := by decide
theorem witness_PoisonedWordHoldsZero : State.reset.stk.chan = [] ∧ (0xE4#8).toNat ^^^ checkBits 0xFF = 0 ∧
    (0x1B#8).toNat ^^^ checkBits 0xFF = 0xFF := by decide
theorem witness_ReservedBitsIgnoreWrites : (∀ f ∈ [(⟨7, 0, .rw⟩ : Fld)], f.lo ≤ f.hi ∧ f.hi < 64 ∧ (8 < f.lo ∨ f.hi < 8)) ∧
    ((regFind aMgtPwrCtl regTable).map fun x => decide (∀ f ∈ x.1.flds, f.lo ≤ f.hi ∧ f.hi < 64 ∧ (28 < f.lo ∨ f.hi < 28))) =
      some true := by decide +kernel
theorem witness_AccessCodesGovernWrites : (0 : Nat) ≤ 63 ∧ (63 : Nat) < 64 ∧ (true = true) ∧ (false = false) := by decide
theorem witness_IllegalValueLeavesRegister : aFabPort 0 ∉ eventRegs ∧ aFabPort 0 ≠ errReg .fab ∧
    (∀ r t, errRec .fab = some (r, t) → aFabPort 0 ≠ r) ∧ ∀ q, Blk.fab = .qtr q → aFabPort 0 ≠ aQtrCcIrq q :=
  ⟨by decide, by decide, by intro r t h; cases h; decide, by intro q h; cases h⟩
theorem witness_FirstErrorIsCaptured : (12 : Nat) < 48 ∧ errRec .fab = some (aFabErrRec, 48) ∧ aFabErrRec ≠ errReg .fab ∧
    fld State.reset aFabErrRec 63 63 = 0 ∧ fld (withRegs [(aFabErrRec, 2 ^ 63)]) aFabErrRec 63 63 = 1 := by decide +kernel

/-! ### Witnesses: engine instructions -/

/-- Stream 4 of quarter 0 with one word waiting in its ring at offset 0x2000. -/
def ringed (w : Nat) : State :=
  putNum (withRegs [(aQtrStrmCfg 0 4, 2 ^ 31 + 0x2000), (aQtrStrmPtr 0 4, 1)]) (lsBase 0 + 0x2000) 16 w

theorem witness_FetchAdvancesStream : mayFetch (ringed (1 * 2 ^ 122)) 0 4 = true ∧
    wordStatus 4 (nextWord (ringed (1 * 2 ^ 122)) 0 4).2 (nextWord (ringed (1 * 2 ^ 122)) 0 4).1.word = none := by decide +kernel
theorem witness_BadWordFaultsAtFetch : mayFetch (ringed 0) 0 4 = true ∧ fld (ringed 0) (aQtrEngFault 0) 63 63 = 0 ∧
    (quarter (ringed 0) 0).aborted = none ∧
    wordStatus 4 (nextWord (ringed 0) 0 4).2 (nextWord (ringed 0) 0 4).1.word = some 1 := by decide +kernel
theorem witness_SquareInstructionsAct :
    (headOf (seat 4 1 (2 ^ 70)) 0 4 (fun w => wOpcode w == opNop) = .ok (fw 1 (2 ^ 70)) true ∧
      (wSigen (iw 1 (2 ^ 70)) && wSigdst (iw 1 (2 ^ 70))) = false) ∧
    (headOf (seat 4 0x30 (5 * 2 ^ 48 + 3 * 2 ^ 16)) 0 4 (fun w => wOpcode w == opSqsig) = .ok (fw 0x30 (5 * 2 ^ 48 + 3 * 2 ^ 16)) true ∧
      bits (iw 0x30 (5 * 2 ^ 48 + 3 * 2 ^ 16)) 31 16 ≠ 0 ∧ bit (iw 0x30 (5 * 2 ^ 48 + 3 * 2 ^ 16)) 15 = false ∧
      streamOps (seat 4 0x30 (5 * 2 ^ 48 + 3 * 2 ^ 16)) 0 4 = [] ∧ wSigen (iw 0x30 (5 * 2 ^ 48 + 3 * 2 ^ 16)) = false ∧
      (seat 4 0x30 (5 * 2 ^ 48 + 3 * 2 ^ 16)).fab.reqs = []) ∧
    (headOf (seat 0 0x32 (7 * 2 ^ 48 + 9)) 0 0 (fun w => wOpcode w == opSqset) = .ok (fw 0x32 (7 * 2 ^ 48 + 9)) true ∧
      wSigen (iw 0x32 (7 * 2 ^ 48 + 9)) = false) ∧
    (headOf (seat 0 0x31 (7 * 2 ^ 48 + 2 ^ 45 + 9)) 0 0 (fun w => wOpcode w == opSqwait) = .ok (fw 0x31 (7 * 2 ^ 48 + 2 ^ 45 + 9)) true ∧
      bits (iw 0x31 (7 * 2 ^ 48 + 2 ^ 45 + 9)) 47 45 = 1 ∧ (square (seat 0 0x31 (7 * 2 ^ 48 + 2 ^ 45 + 9)) 7).psn = false) ∧
    (condHolds 1 9 9 = true ∧ condHolds 1 0 9 = false ∧
      let s := setSquare (setStrm State.reset 0 0 ⟨[fw 0x31 (7 * 2 ^ 48 + 2 ^ 45 + 9)], some true, true, none⟩) 7 ⟨9, 1, false⟩
      (strm s 0 0).waiting = true ∧ mayStart s 0 = true ∧ (square s 7).psn = false ∧
        condHolds (bits (iw 0x31 (7 * 2 ^ 48 + 2 ^ 45 + 9)) 47 45) (square s (wPb (iw 0x31 (7 * 2 ^ 48 + 2 ^ 45 + 9)))).count.toNat
          (bits (iw 0x31 (7 * 2 ^ 48 + 2 ^ 45 + 9)) 31 0) = true) := by decide +kernel
theorem witness_SignalsSaturate : (square State.reset 0).psn = false ∧
    (square (setSquare State.reset 0 ⟨0, 0, true⟩) 0).psn = true ∧ (1 : Nat) ≠ 0 := by decide +kernel
theorem witness_FalsePredicateSkips :
    wSigen (iw opValu 0) = false ∧
    headOf (seatNo 8 opValu 0) 0 8 (fun w => wOpcode w == opValu) = .ok (fw opValu 0) false ∧
    headOf (seatNo 8 opVld 0) 0 8 (fun w => wOpcode w == opVld) = .ok (fw opVld 0) false ∧
    headOf (seatNo 8 opVst 0) 0 8 (fun w => wOpcode w == opVst) = .ok (fw opVst 0) false ∧
    headOf (seatNo 8 opVrelay 0) 0 8 (fun w => wOpcode w == opVrelay) = .ok (fw opVrelay 0) false ∧
    headOf (seatNo 8 opTopk 0) 0 8 (fun w => wOpcode w == opTopk) = .ok (fw opTopk 0) false ∧
    headOf (seatNo 13 opMove 0) 0 13 (fun w => wOpcode w == opMove && blockOp (seatNo 13 opMove 0) 0 w != 1) = .ok (fw opMove 0) false ∧
    headOf (seatNo 12 opGather 0) 0 12 (fun w => wOpcode w == opGather && blockOp (seatNo 12 opGather 0) 0 w != 1) =
      .ok (fw opGather 0) false ∧
    headOf (seatNo 4 opDcfg 0) 0 4 (fun w => wOpcode w == opDcfg) = .ok (fw opDcfg 0) false ∧
    (headOf (seatNo 0 opMma 0) 0 0 (fun w => wOpcode w == opMma) = .ok (fw opMma 0) false ∧
      bankWaits (seatNo 0 opMma 0) 0 0 (iw opMma 0) = false ∧ (bank (seatNo 0 opMma 0) 0 0 0).st = .empty ∧
      (seatNo 0 opMma 0).mgt.coreSel = 4) ∧
    (let s := setBank (seatNo 4 opDrain 0) 0 0 0 { bank0 with st := .full }
     headOf s 0 4 (fun w => wOpcode w == opDrain) = .ok (fw opDrain 0) false ∧ (bank s 0 0 (mBank (iw opDrain 0))).st = .full) := by
  decide +kernel

/-! ### Witnesses: matrix, vector, move -/

/-- A parameter block: fields as (byte offset, value). -/
def bk (l : List (Nat × Nat)) : Nat := (l.map fun x => x.2 * 2 ^ (8 * x.1)).foldl (· + ·) 0

/-- The MMA of one row, one column and K = 4 on two binary32 tiles. -/
def mmaWord : Nat := 0x40 * 2 ^ 48 + 0x40 * 2 ^ 32 + 3 * 2 ^ 16
def mmaState : State := putNum (seat 0 opMma mmaWord) (lsBase 0 + 0x1000) 64 (bk [(20, 6)])

theorem witness_MatrixInstructionsAct :
    (headOf mmaState 0 0 (fun w => wOpcode w == opMma) = .ok (fw opMma mmaWord) true ∧ bankWaits mmaState 0 0 (iw opMma mmaWord) = false ∧
      (bank mmaState 0 0 (mBank (iw opMma mmaWord))).st = .empty ∧ slotFree mmaState 0 0 = true ∧
      readBlock mmaState 0 0x40 tileReserved = .ok (BitVec.ofNat 512 (bk [(20, 6)])) ∧
      mmaStatus (tileOf (BitVec.ofNat 512 (bk [(20, 6)]))) (tileOf (BitVec.ofNat 512 (bk [(20, 6)]))) (mK (iw opMma mmaWord))
        (mRows (iw opMma mmaWord)) (mCols (iw opMma mmaWord)) = none) ∧
    ((streamOps (flying (opOf 0 opMma mmaWord false)) 0 0).find? fun o => !o.fin && o.slot) = some (opOf 0 opMma mmaWord false) ∧
    (headOf (seatBlk 4 opDcfg (bk [(0, 6)])) 0 4 (fun w => wOpcode w == opDcfg) = .ok (fw opDcfg (0x40 * 2 ^ 48)) true ∧
      strmIdle (seatBlk 4 opDcfg (bk [(0, 6)])) 0 4 = true ∧
      readBlock (seatBlk 4 opDcfg (bk [(0, 6)])) 0 0x40 dcReserved = .ok (BitVec.ofNat 512 (bk [(0, 6)])) ∧
      dcStatus (BitVec.ofNat 512 (bk [(0, 6)])) = none ∧ wSigen (iw opDcfg (0x40 * 2 ^ 48)) = false) ∧
    (let w := iw opDrain (lsBase 0 * 2 ^ 22)
     let c := BitVec.ofNat 512 (bk [(0, 6), (3, 1), (4, 0x3F800000), (8, 0x3F800000), (28, 512)])
     let s := { setBank (seat 4 opDrain (lsBase 0 * 2 ^ 22)) 0 0 0 { bank0 with st := .full, rows := 1, cols := 1 } with
       dcfg := smSet 0 [] (dcKey 0 0 0) c }
     headOf s 0 4 (fun w => wOpcode w == opDrain) = .ok ⟨0, w⟩ true ∧ (bank s 0 0 (mBank w)).st = .full ∧ slotFree s 0 4 = true ∧
       dcDest (dcGet s 0 0 (dSlot w)) = 1 ∧ drainRange s 0 (dcGet s 0 0 (dSlot w)) (bank s 0 0 (mBank w)) w = true) ∧
    (let o := opOf 4 opDrain 0 false
     (streamOps (flying o) 0 4).find? (fun o => !o.fin && o.slot) = some o ∧ o.sigTo = .here ∧ dMerge o.word = false ∧
       reports (dcGet (flying o) 0 0 (dSlot o.word)) (bank (flying o) 0 0 (mBank o.word)) = false) := by decide +kernel
theorem witness_ValuWritesItsLanes :
    headOf (seat 8 opValu 0) 0 8 (fun w => wOpcode w == opValu) = .ok (fw opValu 0) true ∧ slotFree (seat 8 opValu 0) 0 8 = true ∧
      valuStatus (iw opValu 0) = none ∧ vPk (iw opValu 0) = false ∧ vStat (iw opValu 0) = false := by decide +kernel
theorem witness_VstWritesItsRow :
    let w := 6 * 2 ^ 54 + 3 * 2 ^ 20
    headOf (seat 8 opVst w) 0 8 (fun w => wOpcode w == opVst) = .ok (fw opVst w) true ∧ slotFree (seat 8 opVst w) 0 8 = true ∧
      lStatus false (iw opVst w) = none ∧ lStat (iw opVst w) = false ∧
      ∀ i, i < lN (iw opVst w) → vpsn (seat 8 opVst w) 0 0 (lPlace (iw opVst w) i).1 (lPlace (iw opVst w) i).2.1 = false := by
  decide +kernel

/-- A parameter-block instruction whose block passes its checks. -/
def passesOn (s : State) (i op v : Nat) (isOp : State → W128 → Bool) (rsv : W512 → Bool) (st : State → W512 → Option Nat)
    (touches : State → Fetched → Touches := touchesNone) : Bool :=
  decide (headOf s 0 i (isOp s) = .ok (fw op (0x40 * 2 ^ 48)) true) && slotFree s 0 i &&
    !streamHolds s 0 i (touches s (fw op (0x40 * 2 ^ 48))) && (match readBlock s 0 0x40 rsv with
    | .ok b => decide (b = BitVec.ofNat 512 v) && (st s b).isNone
    | .error _ => false)

def blockPasses (i op v : Nat) (isOp : State → W128 → Bool) (rsv : W512 → Bool) (st : State → W512 → Option Nat)
    (touches : State → Fetched → Touches := touchesNone) : Bool := passesOn (seatBlk i op v) i op v isOp rsv st touches

/-- Memory whose line at an address waits for its recovery. -/
def held (s : State) (a : Nat) : State := modStk s fun t => { t with recov := [(a, a)] }

theorem witness_VectorInstructionsAct :
    (slotFree (seat 8 opValu 0) 0 8 = true ∧ headOf (seat 8 opValu 0) 0 8 (fun w => wOpcode w == opValu) = .ok (fw opValu 0) true ∧
      valuStatus (iw opValu 0) = none) ∧
    (headOf (seat 8 opVld (6 * 2 ^ 54)) 0 8 (fun w => wOpcode w == opVld) = .ok (fw opVld (6 * 2 ^ 54)) true ∧
      lStatus true (iw opVld (6 * 2 ^ 54)) = none) ∧
    (headOf (seat 8 opVst (6 * 2 ^ 54)) 0 8 (fun w => wOpcode w == opVst) = .ok (fw opVst (6 * 2 ^ 54)) true ∧
      lStatus false (iw opVst (6 * 2 ^ 54)) = none) ∧
    blockPasses 8 opVred (bk [(0, 1), (1, 6), (8, 4), (12, 64)]) (fun s w => wOpcode w == opVred && blockOp s 0 w != 6) vredReserved
      (fun _ => vredStatus 0) = true ∧
    blockPasses 8 opVred (bk [(0, 6), (8, 1), (12, 64)]) (fun s w => wOpcode w == opVred && blockOp s 0 w == 6) vredReserved
      (fun _ => vredStatus 0) = true ∧
    blockPasses 8 opVrelay (bk [(0, 0), (1, 6), (4, 64), (8, 128), (12, 4), (24, lsBase 0)]) (fun _ w => wOpcode w == opVrelay)
      vrReserved vrStatus (vrTouches 0) = true ∧
    blockPasses 8 opTopk (bk [(0, 7), (1, 1), (8, 32), (16, 256)]) (fun _ w => wOpcode w == opTopk) tkReserved
      (fun _ => tkStatus) = true ∧
    blockPasses 8 opVrand (bk [(0, 0), (1, 6), (8, 0), (12, 64), (16, 128), (20, 8)])
      (fun s w => wOpcode w == opVrand && blockOp s 0 w != 1) vrandReserved (fun _ => vrandStatus) = true ∧
    blockPasses 8 opVrand (bk [(0, 1), (1, 6), (8, 0), (12, 64), (16, 128), (20, 8)])
      (fun s w => wOpcode w == opVrand && blockOp s 0 w == 1) vrandReserved (fun _ => vrandStatus) = true := by decide +kernel

/-- The combine block, with its lists. -/
def combineBlk : Nat := bk [(0, 0), (1, 0), (2, 6), (4, 0), (8, 0x100), (12, 0x200), (20, 2), (28, 8), (32, 0x300)]

theorem witness_MoveInstructionsAct :
    blockPasses 13 opMove (bk [(0, 0), (8, 0), (16, 64), (24, 8)]) (fun s w => wOpcode w == opMove && blockOp s 0 w != 1) mvReserved
      mvStatus (mvTouches 0) = true ∧
    blockPasses 13 opMove (bk [(0, 1), (1, 6), (8, 0), (16, 64), (24, 8)]) (fun s w => wOpcode w == opMove && blockOp s 0 w == 1)
      mvReserved mvStatus (mvTouches 0) = true ∧
    (let v := bk [(0, 0), (8, 0x100), (12, 0x4000), (16, 0x800), (24, 8)]
     let s := putNum (seatBlk 12 opGather v) (lsBase 0 + 0x100) 8 (2 ^ 64 - 1)
     passesOn s 12 opGather v (fun s w => wOpcode w == opGather && blockOp s 0 w != 1) gaReserved (fun _ => gaStatus) (gaTouches 0) = true ∧
       dispOk s 0 (BitVec.ofNat 512 v) = true) ∧
    (let v := bk [(0, 1), (8, 0x100), (16, 64), (24, 8), (36, 0x800)]
     let b := BitVec.ofNat 512 v
     let s := seatBlk 12 opGather v
     blockPasses 12 opGather v (fun s w => wOpcode w == opGather && blockOp s 0 w == 1) gaReserved (fun _ => gaStatus) (gaTouches 0) = true ∧
       anyPsn s (lsBase 0 + gaList b) (4 * gaN b) = false ∧
       ∀ i, i < gaN b → inMem s (gaSrc b + rowIndex s 0 (gaList b) i * gaSrcS b) (gaBytes b) = true) ∧
    (let b := BitVec.ofNat 512 combineBlk
     let s := seatBlk 12 opScatter combineBlk
     blockPasses 12 opScatter combineBlk (fun s w => wOpcode w == opScatter && blockOp s 0 w != 1 && blockOp s 0 w != 2) scReserved
       (fun _ => scStatus) (scTouches 0) = true ∧
       ∀ i ∈ (List.range (scN b)).flatMap (liveEntries s 0 b),
         expertAt s 0 (scList b) i < 256 ∧ inMem s (retAddr s 0 b i) (rowBytes (scFmt b) (scLen b)) = true) ∧
    (let v := bk [(0, 1), (2, 6), (8, 0x100), (16, 0x400), (20, 2), (32, 64)]
     blockPasses 12 opScatter v (fun s w => wOpcode w == opScatter && blockOp s 0 w == 1) scReserved (fun _ => scStatus) (scTouches 0) = true ∧
       anyPsn (seatBlk 12 opScatter v) (lsBase 0 + 0x100) 4 = false) ∧
    (let v := bk [(0, 2), (2, 6), (8, 0x100), (16, 0x400), (20, 2), (32, 64)]
     let b := BitVec.ofNat 512 v
     let s := seatBlk 12 opScatter v
     blockPasses 12 opScatter v (fun s w => wOpcode w == opScatter && blockOp s 0 w == 2) scReserved (fun _ => scStatus) (scTouches 0) = true ∧
       anyPsn s (lsBase 0 + scList b) (4 * scN b) = false ∧
       ∀ i, i < scN b → inMem s (scatterDst s 0 b i) (rowBytes (scFmt b) (scLen b)) = true) := by decide +kernel

theorem witness_OperationsEnd :
    (let o := opOf 4 opDrain 0 true
     (streamOps (flying o) 0 4).find? (mayRetire (flying o) 0) = some o ∧ wSigen o.word = false ∧ o.recs = [] ∧
       4 ≤ o.stream ∧ o.stream < 8) ∧
    (let o := { opOf 4 opSqsig (5 * 2 ^ 48 + 3 * 2 ^ 16) false with slot := false }
     (streamOps (flying o) 0 4).find? (mayRetire (flying o) 0) = none ∧ streamOps (flying o) 0 4 = o :: [] ∧
       wOpcode o.word = opSqsig ∧ o.fin = false ∧ bit o.word 15 = false ∧ opReqs (flying o) 0 o.id = []) ∧
    (let o := { opOf 13 opMove 0 true with sigTo := .circuit 3 }
     let s := modFab (flying o) fun f => { f with circSrc := [(3, [(ownKey 0 5, [])])] }
     (streamOps s 0 13).find? (opWaits s 0) = some o) ∧
    (let s := setStrm State.reset 0 0 ⟨[fw opSqwait (2 ^ 45 + 9)], some true, true, none⟩
     (streamOps s 0 0).find? (opWaits s 0) = none ∧ (strm s 0 0).queue = fw opSqwait (2 ^ 45 + 9) :: [] ∧ mayStart s 0 = true ∧
       (strm s 0 0).waiting = true ∧ (quarter s 0).aborted = none) := by decide +kernel

theorem reaches_fw (s : State) : reaches s .fw := nofun

theorem witness_StreamRegistersTakeWrites :
    let s := withRegs [(aQtrStrmCfg 0 4, 2 ^ 31)]
    (reaches s .fw ∧ reaches (setReg { State.reset with host := { host0 with mse := true } } aHstDevStatus (BitVec.ofNat 64 (2 ^ 31))) .host) ∧
    qtrPresent s 0 = true ∧ (isOwner s 0 4 (.cc 0 0) = true ∧ headLegal (reg s (aQtrStrmCfg 0 4)) (reg s (aQtrStrmPtr 0 4)) 1 = true) ∧
    isOwner s 0 4 (.cc 0 1) = false ∧ headLegal (reg s (aQtrStrmCfg 0 4)) (reg s (aQtrStrmPtr 0 4)) 17 = false ∧
    cfgLegal (putBits 0 31 31 0) = true ∧ strmIdle s 0 4 = true := by
  refine ⟨⟨reaches_fw _, fun _ => by decide +kernel⟩, ?_⟩; decide +kernel

/-- An admitted descriptor of a type, with fields of its raw word by byte. -/
def admWith (ty : Nat) (l : List (Nat × Nat)) : Adm :=
  ⟨1, 0, 0, 0, BitVec.ofNat 512 (ty + bk l), 0, false, [], false, none, 0, none, 0⟩
def admitted (a : Adm) : State := { State.reset with disp := { disp0 with adms := [a] } }

theorem witness_QuarterProgramsRun :
    (firstAdm (admitted (admWith 1 [])) 1 (fun _ => !(admitted (admWith 1 [])).disp.cut) = some (admWith 1 [])) ∧
    (let s := modQuarter State.reset 0 fun x => { x with launch := some ⟨1, 0⟩ }
     reaches s .fw ∧ qtrPresent s 0 = true ∧ (quarter s 0).launch = some ⟨1, 0⟩ ∧ (quarter s 0).ldone = none) ∧
    (let s := modQuarter State.reset 0 fun x => { x with launch := some ⟨1, 0⟩, ldone := some (3, [5]) }
     (quarter s 0).launch = some ⟨1, 0⟩ ∧ (quarter s 0).ldone = some (3, [5]) ∧ ∀ o ∈ (quarter s 0).ops, o.id ∉ [5]) ∧
    (qtrPresent State.reset 0 = true ∧ qtrIdle State.reset 0 = true ∧ bits (0x100 * 2 ^ 32 : W64) 53 32 % 4 = 0 ∧
      ccHalted State.reset 0 0 = true ∧ bit (0 : W64) 0 = false) := by
  refine ⟨by decide +kernel, ⟨reaches_fw _, by decide +kernel⟩, ?_⟩; decide +kernel

/-! ### Witnesses: the projector, rings, descriptors, the fabric's configuration -/

/-- A PRJSUB block of one vector to slot 0. -/
def prjBlk (op : Nat) : Nat := bk [(0, op), (2, 6), (8, 1), (12, 0x2000), (16, 0x3000)]
/-- PRJ_STATUS: slot 0 selected, settled or not. -/
def prjOn (s : State) (settled : Bool) : State := setReg s aPrjStatus (BitVec.ofNat 64 (2 ^ 29 + if settled then 2 ^ 30 else 0))

theorem witness_SubmissionsServe :
    (let s := prjOn (seatBlk 13 opPrjsub (prjBlk 0)) true
     passesOn s 13 opPrjsub (prjBlk 0) (fun s w => wOpcode w == opPrjsub && blockOp s 0 w != 1) pbReserved pbStatus (pbTouches 0) = true ∧
       prjSettled s = true ∧ (waitingSubs s).length < 64 ∧ prjSettled (prjOn s false) = false) ∧
    (let s := prjOn (seatBlk 13 opPrjsub (prjBlk 1)) true
     passesOn s 13 opPrjsub (prjBlk 1) (fun s w => wOpcode w == opPrjsub && blockOp s 0 w == 1) pbReserved pbStatus (pbTouches 0) = true) ∧
    (let s := modPrj State.reset fun p => { p with subs := [⟨0, 5, BitVec.ofNat 512 (prjBlk 0), true, true, 0, 0⟩] }
     (firstEnd (serving (prjNote s))).isSome = true) := by decide +kernel

/-- A PROJECT of an operation on slot 1. -/
def project (op : Nat) : Adm := admWith 5 [(48, op), (49, 1)]

theorem witness_ProjectsAct :
    (firstPrj (admitted (project 0)) 0 = some (project 0) ∧ prjSel (admitted (project 0)) = false ∧
      tableWaits (admitted (project 0)) (project 0) = false) ∧
    (let s := setReg (admitted (project 0)) aPrjStatus (BitVec.ofNat 64 (2 ^ 29 + 2 ^ 27))
     firstPrj s 0 = some (project 0) ∧ prjSel s = true ∧ prjSelSlot s = pjSlot (project 0).raw ∧ tableWaits s (project 0) = false) ∧
    (let s := setReg (admitted (project 1)) (aPrjSlot 1) (BitVec.ofNat 64 (2 ^ 63))
     firstPrj s 1 = some (project 1) ∧ fld s (aPrjSlot (pjSlot (project 1).raw)) 63 63 = 1 ∧ pjSlot (project 1).raw < 4) ∧
    fld (admitted (project 1)) (aPrjSlot (pjSlot (project 1).raw)) 63 63 = 0 ∧
    (firstPrj (admitted (project 2)) 2 = some (project 2) ∧ prjSel (admitted (project 2)) = false ∧
      tableWaits (admitted (project 2)) (project 2) = false ∧ (prjLoad (admitted (project 2)) (project 2).raw).2 = true) ∧
    (let s := poisonWord (admitted (project 2)) 2047
     tableWaits s (project 2) = false ∧ (prjLoad s (project 2).raw).2 = false) ∧
    (modPrj State.reset fun p => { p with settling := some 1 }).prj.settling = some 1 := by decide +kernel

/-- The host port answers: Memory Space and Bus Master Enable, boot ended. -/
def ported (s : State) : State :=
  { setReg s aHstDevStatus (BitVec.ofNat 64 (2 ^ 31)) with host := { host0 with mse := true, bme := true } }

/-- Ring 0 of 16 slots with completion ring 0, and a descriptor in its slot 15. -/
def ringsOn : State :=
  ported (withRegs [(aHstSqCfg 0, 2 ^ 31 + 4), (aHstCqCfg 0, 2 ^ 31 + 4), (aHstSqPtr 0, 15 * 2 ^ 16), (aHstCqPtr 0, 2 ^ 32)])

theorem witness_DoorbellsMovePointers :
    barOpen ringsOn = true ∧ devReady ringsOn = true ∧ (15 : W32).toNat < sqSize ringsOn 0 ∧ (15 : W32).toNat < cqSize ringsOn 0 ∧
      sqSize ringsOn 0 ≤ (16 : W32).toNat ∧ (262143 < 262144 ∧ 262143 + 8 ≤ 2 ^ 24 ∧ (8 : Nat) ≠ 4) ∧ 262144 + 4 ≤ 2 ^ 24 := by decide +kernel

theorem witness_RingRegistersTakeWrites :
    let legal := fun w : W32 => 4 ≤ bits w 4 0 ∧ bits w 4 0 ≤ 16
    (sqIdle ringsOn 1 = true ∧ sqIdle ringsOn 0 = false) ∧
    (legal (16 : W32) ∧ cqEn ringsOn (bits (16 : W32) 21 16) = true ∧ bits (16 : W32) 4 0 ≠ fld ringsOn (aHstSqCfg 1) 4 0) ∧
    (cqEn ringsOn 1 = false ∧ legal (4 : W32)) ∧
    (let s := ported (withRegs [(aHstCqCfg 0, 2 ^ 31 + 4)])
     cqEn s 0 = true ∧ cqNeeded s 0 = false ∧ bits (4 : W32) 4 0 = fld s (aHstCqCfg 0) 4 0 ∧
       bits (4 : W32) 23 16 = fld s (aHstCqCfg 0) 23 16) ∧
    (cqEn ringsOn 0 = true ∧ cqNeeded ringsOn 0 = true) := by decide +kernel

theorem witness_DescriptorFetchAdmits :
    let u := count (count (advanceSq ringsOn 0) 1405 1) 1410 1
    let b := (admWith 2 []).raw
    nextRing ringsOn = some 0 ∧ fetchOpen ringsOn = true ∧ fld ringsOn (aHstSqCfg 0) 4 0 ≤ 16 ∧
      (descStatus u b = none ∧ (match place u 0 b with | .ok x => x == 1 | .error _ => false) = true ∧ secondSelect u b 1 = false) ∧
      descStatus u 0 = some 1 ∧
      (match place u 0 (admWith 2 [(4, 9)]).raw with | .ok _ => false | .error x => x == sBeatMissed) = true := by decide +kernel

theorem witness_DescriptorsRun :
    (copyNext (admitted (admWith 2 [])) = some (admWith 2 []) ∧ cpToHost (admWith 2 []).raw = false ∧
      copyWaits (admitted (admWith 2 [])) (admWith 2 []) (.data [0]) 1 = false ∧
      copyWaits (held (admitted (admWith 2 [])) 0) (admWith 2 []) (.data [0]) 1 = true) ∧
    (copyNext (admitted (admWith 2 [(63, 64)])) = some (admWith 2 [(63, 64)]) ∧ cpToHost (admWith 2 [(63, 64)]).raw = true ∧
      copyWaits (admitted (admWith 2 [(63, 64)])) (admWith 2 [(63, 64)]) (.data []) 1 = false) ∧
    (State.reset.host.bme = false ∧ (ported State.reset).host.bme = true) ∧
    (firstAdm (admitted (admWith 3 [(54, 2)])) 3 (fun _ => !(admitted (admWith 3 [(54, 2)])).disp.cut) = some (admWith 3 [(54, 2)]) ∧
      sgSet (admWith 3 [(54, 2)]).raw = true) ∧
    (sgSet (admWith 3 [(50, 1)]).raw = false ∧ sgRemote (admWith 3 [(50, 1)]).raw = false) ∧
    (let a := admWith 3 [(50, 1), (52, 9), (54, 1)]
     firstAdm (admitted a) 3 (fun _ => !(admitted a).disp.cut) = some a ∧ sgSet a.raw = false ∧ sgRemote a.raw = true ∧
       sgChip a.raw ≠ thisChip (admitted a)) ∧
    firstAdm (admitted (admWith 4 [])) 4 (fun _ => !(admitted (admWith 4 [])).disp.cut) = some (admWith 4 []) ∧
    firstAdm (admitted (admWith 7 [])) 7 (fun _ => true) = some (admWith 7 []) := by decide +kernel

/-! ### Witnesses: fabric configuration, job start, updates, training -/

/-- A FABRIC_CFG of an operation on one entry. -/
def fabCfg (op : Nat) : Adm := admWith 6 [(48, op), (54, 1)]
/-- A job runs. -/
def jobOn (s : State) : State := setFld s aClkBeatCtl 29 29 1
/-- A plan of one chip with PLAN_ID 1. -/
def onePlan : List Byte := 1 :: List.replicate 4159 0

theorem witness_FabricConfigurationWrites :
    (fcNext (admitted (fabCfg 0)) 0 = some (fabCfg 0) ∧ fcStateStatus (admitted (fabCfg 0)) (fcOp (fabCfg 0).raw) = none) ∧
    (fcNext (admitted (fabCfg 1)) 1 = some (fabCfg 1) ∧ fcStateStatus (admitted (fabCfg 1)) (fcOp (fabCfg 1).raw) = none) ∧
    (fcNext (admitted (fabCfg 2)) 2 = some (fabCfg 2) ∧ fcStateStatus (admitted (fabCfg 2)) (fcOp (fabCfg 2).raw) = none) ∧
    (fcNext (jobOn (admitted (fabCfg 3))) 3 = some (fabCfg 3) ∧ fcStateStatus (jobOn (admitted (fabCfg 3))) (fcOp (fabCfg 3).raw) = none) ∧
    (fcNext (admitted (fabCfg 5)) 5 = some (fabCfg 5) ∧ fcStateStatus (admitted (fabCfg 5)) (fcOp (fabCfg 5).raw) = none) := by
  decide +kernel
theorem witness_plans : onePlan.length = 4160 ∧ planOk onePlan = true ∧ (List.replicate 4160 (0 : Byte)).length = 4160 ∧
    planOk (List.replicate 4160 0) = false := by decide +kernel

theorem witness_DiscoverRuns :
    (firstAdm (admitted (fabCfg 4)) 6 (fun a => fcOp a.raw == 4 && (admitted (fabCfg 4)).fab.discoverId.isNone) = some (fabCfg 4) ∧
      fcStateStatus (admitted (fabCfg 4)) (fcOp (fabCfg 4).raw) = none) ∧
    (let s := modDisco State.reset 3 fun _ => ⟨9, 0, none, none, true, false⟩
     (disco s 3).active = true ∧ (disco s 3).sig = none ∧ s.mgt.entropyBad = false ∧ s.fab.discoverId = none ∧
       s.now < (disco s 3).t0 + 1000000 ∧ (disco s 3).t0 + 1000000 ≤ ({ s with now := 1000000 } : State).now) ∧
    (let s := modFab State.reset fun f => { f with discoverId := some 1 }
     s.fab.discoverId = some 1 ∧ jobNear s = false) := by decide +kernel

theorem witness_IdentityPacketsTake :
    let s := modFab State.reset fun f => { f with discoverId := some 1 }
    WF.pkt (pk 2 2 [0, 0, 0]) = true ∧ (pk 2 2 [0, 0, 0]).words.any (·.psn) = false ∧ helloOpen s 3 = true ∧
      WF.pkt (pk 2 3 [0, 0, 0, 0, 0, 0, 0, 0]) = true := by decide +kernel

/-- The town-clock chip, with its plan matched and stacks trained. -/
def townClock : State := withRegs [(aClkBeatCtl, 2 ^ 31 + 1000), (aFabCtl, 6)]

theorem witness_JobsStart :
    (isRoot townClock = true ∧ jobNear townClock = false ∧ stopRuns townClock = false ∧ unfit townClock = false ∧
      matched townClock = true) ∧
    isRoot State.reset = false ∧
    (let s := modDisp townClock fun d => { d with startAt := some 100000 }
     s.disp.startAt = some 100000 ∧ (pastStop s s.disp.nextTick && inJob s) = false) := by decide +kernel

/-- A chip in a job of 1,000 us beats, whose parent is on port 3. -/
def inTree : State := withRegs [(aClkBeatCtl, 2 ^ 29 + 1000), (aClkTree, 3), (aFabPort 3, 2 ^ 31 + 2 ^ 28)]
/-- TICK of beat 1 with a beat length. -/
def tick1 (us : Nat) : Pkt := pk 2 0 [1, us, 0]

theorem witness_TicksKeepTime :
    (isRoot inTree = false ∧ (3 : Nat) = fld inTree aClkTree 4 0 ∧ streetRole inTree 3 = true ∧ stopRuns inTree = false ∧
      inJob inTree = true) ∧
    (WF.pkt (tick1 1000) = true ∧ (tick1 1000).cls = 2 ∧ (tick1 1000).typ = 0 ∧ (tick1 1000).words.any (·.psn) = false ∧
      bits (pword (tick1 1000) 2) 13 0 = beatLen inTree / 1000 ∧ dlyNs inTree ≤ alignNs inTree ∧
      tickLate inTree (pword (tick1 1000) 1).toNat (boundaryQ inTree (beatLen inTree - alignNs inTree) (bits (pword (tick1 1000) 2) 63 32)) = false ∧
      (pword (tick1 1000) 1).toNat ≠ 0) ∧
    bits (pword (tick1 7) 2) 13 0 ≠ beatLen inTree / 1000 ∧
    (inTree.disp.ticks = [] ∧ inTree.disp.stopBeat ≠ some (beatNum inTree)) := by decide +kernel

theorem witness_BoundariesOpenBeats :
    let s := ported State.reset
    devReady s = true ∧ stopRuns s = false ∧ nextBoundary s = some (1, beatLen s) ∧ s.disp.endStop = none ∧ s.disp.adms = [] ∧
      s.upd.cur = none ∧ s.upd.queue = [] ∧ s.disp.cut = false := by decide +kernel

/-- An UPDATE in hand, in a phase. -/
def updCur (phase : Nat) (ks : List Nat) (ue : Bool) : UpdCur := ⟨1, 0, ks, phase, false, updRec0, false, none, none, f32One, ue, false⟩
def updating (c : UpdCur) : State := modUpd (admitted (admWith 4 [])) fun u => { u with cur := some c }

theorem witness_UpdatePassOne :
    (let s := updating (updCur 0 [] false)
     let pa := planAddr (admWith 4 [])
     let r := touch s clUpd pa 224 false
     (updCur 0 [] false).phase = 0 ∧ admOf s 1 = some (admWith 4 []) ∧ updWaitOver s (admWith 4 []) = true ∧
       sliceWaits s pa 224 false = false ∧ sliceWaits (held s 0) pa 224 false = true ∧ anyPsn r pa 224 = false ∧
       plChainBad r (readNat r pa 224) = false) ∧
    (let s := putNum (updating (updCur 0 [] false)) 8 2 1
     let pa := planAddr (admWith 4 [])
     let r := touch s clUpd pa 224 false
     sliceWaits s pa 224 false = false ∧ anyPsn r pa 224 = false ∧ plChainBad r (readNat r pa 224) = true) ∧
    (let s := setChip (updating (updCur 1 [2] false)) 2 { updChip0 with phase := 1 }
     s.upd.cur = some (updCur 1 [2] false) ∧ (updCur 1 [2] false).phase = 1 ∧ 2 ∈ (updCur 1 [2] false).ks ∧ (updChip s 2).phase = 1) := by
  decide +kernel

/-- A cell of 8 words. -/
def cell8 (w0 : Nat) : List CWord := (⟨BitVec.ofNat 64 w0, false⟩ : CWord) :: List.replicate 7 ⟨0, false⟩

theorem witness_UpdateEnds :
    (let s := withRegs [(aFabCirc 5, 2 ^ 63 + 2 ^ 56)]
     WF.cell (cell8 3) = true ∧ (sinkCtl s 5 (cell8 3) 3).2 = true ∧ (cell8 3).any (·.psn) = false) ∧
    (let s := updating (updCur 3 [2] false)
     s.upd.cur = some (updCur 3 [2] false) ∧ (2 : Nat) ∈ (updCur 3 [2] false).ks ∧ (updChip s 2).phase ≠ 4) ∧
    (updDone (updating (updCur 4 [] false)) (updCur 4 [] false) = true ∧ updDone (updating (updCur 4 [] true)) (updCur 4 [] true) = true) ∧
    chainWaits (updCur 2 [] false) = true := by decide +kernel

theorem witness_LossWatchFollows :
    (let s := withRegs [(aMgtLwCtl, 1 + 10 * 65536)]
     fld s aMgtLwCtl 0 0 = 1 ∧ f32IsFinite f32One = true ∧ ¬ fld s aMgtLwCtl 31 16 ≤ fld s aMgtLwN 31 0) ∧
    (let s := withRegs [(aMgtLwCtl, 1)]
     fld s aMgtLwCtl 31 16 ≤ fld s aMgtLwN 31 0 ∧
       f32Lt (f32Add (BitVec.ofNat 32 (fld s aMgtLwState 31 0)) (f32Mul (BitVec.ofNat 32 (fld s aMgtLwCtl 63 32))
         (f32Sqrt (BitVec.ofNat 32 (fld s aMgtLwState 63 32))))) f32One = true) ∧
    f32IsFinite (0x7F800000 : W32) = false ∧ fld (withRegs [(aMgtLwCtl, 0)]) aMgtLwCtl 0 0 = 0 := by decide +kernel
theorem witness_GradientTableCloses : fld State.reset aMgtGftCtl 2 2 = 0 ∧ fld (withRegs [(aMgtGftCtl, 4)]) aMgtGftCtl 2 2 = 1 := by
  decide +kernel
theorem witness_LevelsMoveByOne :
    let g : GftSet := ⟨true, 2, 0, 3, 1, 1, 1, 0, 0, 0, 0⟩
    let e : GftEntry := ⟨4, 1, 0, 0, 0, 0, 1, 0, 1⟩
    g.minLevel ≤ e.level ∧ e.level ≤ g.maxLevel ∧ 0 < e.hold := by decide

/-! ### Witnesses: stacks and memory -/

/-- A channel of stack 0 in a state of R211. -/
def chanIn (v : Nat) : State := setChan State.reset 0 3 v
def inDiag (s : State) : State := setReg s (aMemCtl 0) 1
/-- A traffic generator run of 16 writes. -/
def tgWord : W64 := BitVec.ofNat 64 (16 * 2 ^ 32 + 1 * 2 ^ 16 + 1 * 2 ^ 8)

theorem witness_StacksKeepTrained :
    (sampleOk 40000 = true ∧ smGet false State.reset.stk.failed 0 = false) ∧
    (sampleOk 200000 = false ∧ smGet 0 State.reset.stk.discards 0 ≠ 4) ∧
    (chanSt State.reset 0 3 = 0 ∧ ((0 : Int) + 1).natAbs ≠ 12 ∧ ((0 : Int) + 1).natAbs < 16) ∧
    retrainDue State.reset 0 3 = false ∧
    (let s := modStk State.reset fun t => { t with ceIn := smSet (0, 0) [] (chanKey 0 3) (0, 255) }
     retrainDue s 0 3 = true ∧ chanSt s 0 3 = 0 ∧ retraining s 0 = false ∧ s.stk.window ≠ some 0) ∧
    (chanSt (chanIn 1) 0 3 = 1 ∧ smGet [] (chanIn 1).stk.retrainQ 0 = [] ∧ (chanIn 1).stk.windowQ = [] ∧
      lanesToMove (chanIn 1) 0 3 [] = []) ∧
    (let s := windowOn State.reset 0
     s.stk.window = some 0 ∧ smGet [] s.stk.retrainQ 0 = [] ∧ s.stk.windowQ = []) := by decide +kernel

theorem witness_StackFaultsReport :
    ((0 : BitVec 40).toNat < stackEnd ∧ 0 < (64 : Fin 2049).val) ∧
    (qtrPresent State.reset 95 = true ∧ 0x2FFFFF < lsSize ∧ (0xC017EFFFFF : BitVec 40).toNat = lsBase 95 + 0x2FFFFF) ∧
    (tgLegal tgWord = true ∧ fld (inDiag State.reset) (aMemCtl 0) 0 0 = 1 ∧ fld (inDiag State.reset) (aMemChTgCtl 0 3) 0 0 = 0 ∧
      bits tgWord 9 8 = 1) ∧
    fld State.reset (aMemCtl 0) 0 0 = 0 ∧
    fld (withRegs [(aMemChTgCtl 0 3, 1)]) (aMemChTgCtl 0 3) 0 0 = 1 := by decide +kernel

theorem witness_MemoryTablesTakeWrites :
    inJob State.reset = false ∧
    (bit (BitVec.ofNat 32 (2 ^ 31 + 127)) 31 = true ∧ reg State.reset (aMemRetire 0) = 0) ∧
    (regionLegal State.reset 0 (BitVec.ofNat 64 (767 * 1024)) = true ∧
      stackWindows (BitVec.ofNat 64 (767 * 1024)) = stackWindows (reg State.reset (aMemReg 0))) ∧
    regionLegal State.reset 0 (BitVec.ofNat 64 (768 * 1024)) = false ∧
    atomLegal State.reset 0 (putBits (BitVec.ofNat 64 (2 ^ 63)) 63 63 1) = true ∧
    (let s := withRegs [(aSccAtom 0, 2 ^ 63)]
     inJob s = false ∧ atomLegal s 0 (putBits 0 63 63 0) = true ∧ fld s (aSccAtom 0) 63 63 = 1) := by decide +kernel

/-! ### Witnesses: frames, packets, circuits -/

/-- A street port with its lane 0 in service. -/
def laned : State := withRegs [(aFabPort 3, 2 ^ 31 + 2 ^ 28 + 2 ^ 16)]
/-- A word with its check byte. -/
def checked (v : W64) : W64 × Byte := (v, BitVec.ofNat 8 (checkBits v))
/-- A frame of empty cells, its tag with SEQ 0. -/
def frame0 (crc : Nat) : List (W64 × Byte) := List.replicate 64 (checked 0) ++ [checked (BitVec.ofNat 64 (crc * 2 ^ 32))]
def cells0 : List (List CWord) := List.replicate 8 (List.replicate 8 ⟨0, false⟩)
def heldFrame (fails : Nat) : TxFrame := ⟨0, 0, 0, cells0, 0, 0, fails⟩
def holding (fails : Nat) : State := setLane laned 3 0 { lane0 with held := [heldFrame fails], txSeq := 1 }

theorem witness_FramesAreTaken :
    WF.frame (frame0 0) = true ∧ (laneUp State.reset 3 0 = false ∧ linkUp State.reset 3 0 = false) ∧
    (laneUp laned 3 0 = true ∧ WF.frame ((0, 0x0F) :: (frame0 0).drop 1) = true ∧ (rxWords ((0, 0x0F) :: (frame0 0).drop 1)).isNone = true) ∧
    (rxWords (frame0 0)).isSome = true ∧
    (laneUp (holding 0) 3 0 = true ∧ (lane (holding 0) 3 0).held = [heldFrame 0] ∧ (heldFrame 0).fails < 4) ∧
    ((lane (holding 4) 3 0).held = [heldFrame 4] ∧ 4 ≤ (heldFrame 4).fails) ∧
    smGet [] (pushCtrl laned 3 (pk 2 1 [0, 0])).fab.ctrlQ 3 ≠ [] := by decide +kernel
theorem xorCols_lt (v : Nat) : ∀ (l : List Nat) (i : Nat), (∀ c ∈ l, c < 256) → xorCols v l i < 256
  | [], _, _ => by simp [xorCols]
  | c :: t, i, h => by
    have hc : (if v.testBit i then c else 0) < 2 ^ 8 := by
      have := h c (by simp); split <;> omega
    exact Nat.xor_lt_two_pow hc (xorCols_lt v t (i + 1) fun x hx => h x (by simp [hx]))
theorem readWord_checked (v : W64) : readWord v (checked v).2 = .clean ⟨v, false⟩ := by
  have h : checkBits v < 256 := xorCols_lt _ _ _ (by decide)
  have : (BitVec.ofNat 8 (checkBits v)).toNat = checkBits v := by simp; omega
  simp [readWord, checked, this]
theorem rxWords_checked (l : List W64) : rxWords (l.map checked) = some (l.map fun v => (⟨v, false⟩, false)) := by
  induction l with
  | nil => rfl
  | cons v t ih =>
    have := readWord_checked v
    simp only [List.map_cons, rxWords, checked] at this ⊢
    simp only [this, rxWord]
    rw [ih]
theorem crcBit_lt (c : Nat) (b : Bool) (h : c < 2 ^ 32) : crcBit c b < 2 ^ 32 := by
  unfold crcBit; split
  · exact Nat.xor_lt_two_pow (by omega) (by omega)
  · omega
theorem crcBits_lt : ∀ (n c v : Nat), c < 2 ^ 32 → crcBits c v n < 2 ^ 32
  | 0, _, _, h => h
  | n + 1, _, _, h => crcBits_lt n _ _ (crcBit_lt _ _ h)
theorem crc32_lt (fs : List (Nat × Nat)) : crc32 fs < 2 ^ 32 := by
  refine Nat.xor_lt_two_pow ?_ (by omega)
  generalize hc : (0xFFFFFFFF : Nat) = c
  have h : c < 2 ^ 32 := by omega
  clear hc
  induction fs generalizing c with
  | nil => exact h
  | cons f t ih => exact ih _ (crcBits_lt _ _ _ h)

theorem witness_good_frame (crc : Nat) (h : crc = frameCrc cells0 0 0) :
    let t : CWord := ⟨BitVec.ofNat 64 (crc * 2 ^ 32), false⟩
    ((rxWords (frame0 crc)).bind fun rs => rs[64]?) = some (t, false) ∧
      ((rxWords (frame0 crc)).map fun rs => cut8 ((rs.take 64).map (·.1)) 8) = some cells0 ∧
      bits t.v 63 32 = crc ∧ bits t.v 31 0 = 0 ∧
      bits t.v 31 24 = ((lane laned 3 0).rxSeq + 1) % 256 ∧ bit t.v 15 = false := by
  have hl : crc < 2 ^ 32 := h ▸ crc32_lt _
  have hf : rxWords (frame0 crc) = some (List.replicate 64 (⟨0, false⟩, false) ++ [(⟨BitVec.ofNat 64 (crc * 2 ^ 32), false⟩, false)]) := by
    rw [show frame0 crc = (List.replicate 64 0 ++ [BitVec.ofNat 64 (crc * 2 ^ 32)]).map checked by simp [frame0], rxWords_checked]
    simp
  have hn : (BitVec.ofNat 64 (crc * 2 ^ 32)).toNat = crc * 2 ^ 32 := by simp; omega
  refine ⟨by rw [hf]; rfl, by rw [hf]; rfl, ?_, ?_, ?_, ?_⟩
  · simp only [bits, hn, Nat.shiftRight_eq_div_pow]; omega
  · simp only [bits, hn, Nat.shiftRight_eq_div_pow]; omega
  · rw [show (lane laned 3 0).rxSeq = 255 by decide +kernel]
    simp only [bits, hn, Nat.shiftRight_eq_div_pow]; omega
  · simp only [bit, hn]; rw [Nat.testBit_mul_two_pow]; simp
theorem test_crc : crc32 ([0x31, 0x32, 0x33, 0x34, 0x35, 0x36, 0x37, 0x38, 0x39].map fun c => (c, 8)) = 0xCBF43926 := by decide +kernel
theorem witness_RoundsFillTheirPositions :
    laneUp laned 3 0 = true ∧ smGet 0 laned.opt.peer (lkey 3 0) ≠ 3 ∧ laneUp laned 3 1 = false ∧ linkUp laned 3 1 = false := by
  decide +kernel

/-- An address word: 8 bytes at 0x1000 under an AFMT. -/
def addr1 (afmt : Nat) : Nat := 0x1000 + afmt * 2 ^ 60

theorem witness_WriteStoresItsWords :
    let k := pk 0 1 [addr1 0, 5]
    let w : CWord := ⟨BitVec.ofNat 64 (addr1 0), false⟩
    WF.pkt k = true ∧ k.dst = thisChip State.reset ∧ stopRuns State.reset = false ∧ k.words = [w, ⟨5, false⟩] ∧
      bits w.v 63 60 = 0 ∧ bits w.v 59 49 = 0 ∧ bits w.v 39 0 % 8 = 0 ∧ 1 = 8 * (bits w.v 48 40 + 1) / 8 ∧
      isSquareAddr (bits w.v 39 0) = false ∧ inMem State.reset (bits w.v 39 0) (8 * (bits w.v 48 40 + 1)) = true ∧
      State.reset.stk.chan = [] ∧ sliceWaits State.reset (bits w.v 39 0) 8 true = false := by decide +kernel

theorem witness_RequestsAreServed :
    let atomic := withRegs [(aSccAtom 0, 2 ^ 63)]
    let w := fun afmt => BitVec.ofNat 64 (addr1 afmt)
    (WF.pkt (pk 0 2 [addr1 0]) = true ∧ bits (w 0) 59 49 = 0 ∧ bits (w 0) 39 0 % 8 = 0 ∧ isSquareAddr (bits (w 0) 39 0) = false ∧
      inMem State.reset (bits (w 0) 39 0) 8 = true ∧ sliceWaits State.reset (bits (w 0) 39 0) 8 false = false ∧
      sliceWaits (held State.reset 0x1000) (bits (w 0) 39 0) 8 false = true) ∧
    (bits (BitVec.ofNat 64 (2 * 65536 + 9)) 31 16 ≠ 0 ∧ (square State.reset 9).psn = false ∧
      (square (setSquare State.reset 9 ⟨0, 0, true⟩) 9).psn = true) ∧
    (atomFmt (bits (w 6) 63 60) = some .b32 ∧ atomicRange atomic 0 8 = true ∧ inMem atomic 0 8 = true ∧
      atomicRange State.reset 0 8 = false) ∧
    inMem State.reset 0xFFFFFFFFF8 8 = false ∧
    stopRuns (withRegs [(aMgtStopStatus, 2)]) = true := by decide +kernel

/-- A live request of a type to chip 7, and its state. -/
def live (typ : Nat) : Req := ⟨7, 4, 3, typ, 0x1000, 64, 96, 0, 0, none⟩
def asking (typ : Nat) : State := modFab State.reset fun f => { f with reqs := [live typ] }

theorem witness_ResponsesEndRequests :
    (WF.pkt (pk 1 1 [0]) = true ∧ (pk 1 1 [0]).dst = thisChip (asking 1) ∧ findReq (asking 1) (pk 1 1 [0]) = some (live 1) ∧
      (live 1).typ ≠ 2) ∧
    (findReq (asking 2) (pk 1 2 [0, 0, 0, 0, 0, 0, 0, 0]) = some (live 2) ∧ (live 2).typ = 2 ∧ (live 2).flow ≠ 193) ∧
    (let k := pk 1 2 [0, 0, 0, 0, 0, 0, 0, 0]
     dataWaits (asking 2) k = false ∧ dataWaits (held (asking 2) 0x1000) k = true ∧
       findReq (modFab State.reset fun f => { f with reqs := [{ live 2 with add := some 6 }] }) k = some { live 2 with add := some 6 }) ∧
    findReq State.reset (pk 1 1 [0]) = none ∧
    ((asking 1).fab.reqs.find? fun x => x.flow == 4 && x.seq == 3) = some (live 1) ∧
    (State.reset.fab.reqs.find? fun x => x.flow == 4 && x.seq == 3) = none := by decide +kernel

theorem witness_ControlPacketsTake :
    WF.pkt (pk 2 1 [0, 0]) = true ∧ (pk 2 1 [0, 0]).words.any (·.psn) = false ∧ WF.pkt (pk 2 4 [9]) = true ∧
      WF.pkt (pk 2 5 [9, 0]) = true ∧ streetOn laned 3 = true ∧ streetOn State.reset 3 = false ∧
      (let s := modFab laned fun f => { f with echoes := [(3, 9, 0)] }
       streetOn s 3 = true ∧ (s.fab.echoes.find? fun x => x.1 == 3 && x.2.1 == (pword (pk 2 5 [9, 0]) 1).toNat) = some (3, 9, 0)) := by
  decide +kernel

/-- Circuit 5 with a local sink in a state. -/
def sunk (k : Sink) : State :=
  modFab (withRegs [(aFabCirc 5, 2 ^ 63 + 2 ^ 56)]) fun f => { f with sinks := smSet sink0 f.sinks 5 k }
/-- A control cell of two words. -/
def ctl (w0 w1 : Nat) : List CWord :=
  (⟨BitVec.ofNat 64 w0, false⟩ : CWord) :: ⟨BitVec.ofNat 64 w1, false⟩ :: List.replicate 6 ⟨0, false⟩

theorem witness_CircuitCellsTake :
    (circTurn (sunk sink0) 5 (ctl 2 1) = true ∧
      circTurn (modFab (sunk sink0) fun f => { f with circRx := smSet [] f.circRx 5 [ctl 2 7] }) 5 (ctl 2 1) = false) ∧
    (bit (circ (sunk sink0) 5) 63 = true ∧ bit (circ (sunk sink0) 5) 56 = true ∧ sink0.dead = false ∧ sink0.left = 0) ∧
    (WF.cell (ctl (1 + 64 * 256) 2) = true ∧ ctrlBad (ctl (1 + 64 * 256) 2) = false ∧ ctrlKind (ctl (1 + 64 * 256) 2) = 1 ∧
      bits (cellWord (ctl (1 + 64 * 256) 2) 0) 47 8 % 64 = 0 ∧
      inMem (sunk sink0) (bits (cellWord (ctl (1 + 64 * 256) 2) 0) 47 8) (64 * bits (cellWord (ctl (1 + 64 * 256) 2) 1) 31 0) = true) ∧
    (ctrlBad (ctl (1 + 8 * 256) 2) = false ∧ bits (cellWord (ctl (1 + 8 * 256) 2) 0) 47 8 % 64 ≠ 0) ∧
    (ctrlBad (ctl 2 1) = false ∧ ctrlKind (ctl 2 1) = 2 ∧ sink0.skip = false) ∧
    (smGet sink0 (sunk ⟨0, 0, true, false, 0⟩).fab.sinks 5).skip = true ∧
    (let k := smGet sink0 (sunk ⟨0x1000, 2, false, false, 0⟩).fab.sinks 5
     k.left ≠ 0 ∧ k.skip = false ∧ k.dead = false ∧ k.addr % 8 = 0 ∧ sliceWaits (sunk k) k.addr 64 true = false ∧
       sliceWaits (held (sunk k) 0x1000) k.addr 8 true = true ∧ inMem (sunk k) k.addr 64 = true ∧ (sunk k).stk.chan = []) ∧
    (let k := smGet sink0 (sunk ⟨0x1000, 2, true, false, 0⟩).fab.sinks 5
     k.left ≠ 0 ∧ k.skip = true ∧ k.dead = false) := by decide +kernel

/-! ### Witnesses: photonic links, the host, boot -/

/-- Lane 0 of port 3 in a state, bound to wavelength 5, whose first laser is on. -/
def relocking (st : Nat) : State := withRegs [(aOptLanel 3 0, st * 2 ^ 60 + 5 * 2 ^ 56), (aOptLaser 10, 2 * 2 ^ 29 + 2 ^ 28)]

theorem witness_RelocksProceed :
    laneSt (relocking 6) 3 0 = 6 ∧ laneSt (relocking 1) 3 0 = 1 ∧
    (laneSt (relocking 2) 3 0 = 2 ∧ fld (relocking 2) (aOptLanel 3 0) 59 56 = (5 : Fin 16).val ∧
      laserLit (relocking 2) (portBank 3) (5 : Fin 16).val = true) ∧
    (laneSt (relocking 3) 3 0 = 3 ∧ smGet 0 (relocking 3).opt.fails (lkey 3 0) < 2) ∧
    (berAbove 1 1000000 65 = true ∧ berAbove 1 1000000 55 = false) ∧
    (readWord 0xFF 0xE4 = .clean ⟨0xFF, false⟩ ∧ readWord 0xFC 0xE4 = .lost) := by decide +kernel

theorem witness_PhotonicLinksFollow :
    (sampleOk 40000 = true ∧ (sensor State.reset 0).failed = false) ∧
    (let s := withRegs [(aOptLanel 3 0, 3 * 2 ^ 60)]
     laneLive s 3 0 = true ∧ laneLive State.reset 3 0 = false ∧ laneSt s 3 0 = 3 ∧ laneSt s 3 0 ≠ 4 ∧ smGet 0 s.opt.fails (lkey 3 0) < 2 ∧
       2 ≤ smGet 0 (modOpt s fun o => { o with fails := smSet 0 o.fails (lkey 3 0) 2 }).opt.fails (lkey 3 0) ∧
       lowMargin s 0 = false) ∧
    (laserState (withRegs [(aOptLaser 4, 2 * 2 ^ 29)]) 4 = 2 ∧ laserActive (withRegs [(aOptLaser 4, 2 * 2 ^ 29)]) 4 = false ∧
      laserState (withRegs [(aOptLaser 4, 2 * 2 ^ 29)]) (laserMate 4) ≠ 4) ∧
    (let s := withRegs [(aOptLaser 4, 4 * 2 ^ 29 + 2 ^ 28), (aOptLaser 5, 3 * 2 ^ 29)]
     laserState s 4 = 4 ∧ laserActive s 4 = true ∧ laserState s (laserMate 4) = 3) := by decide +kernel

/-- A block of chip 0 at position 0 in beat 0, with its CRC. -/
def block0 : List W64 := List.replicate 8 0 ++ [BitVec.ofNat 64 (crc32 (List.replicate 8 (0, 64)))]
def rolling : State := modOpt (withRegs [(aOptDmem 0, 2 ^ 31)]) fun o => { o with roll := true }

theorem witness_RollCallsAssign :
    WF.announce (block0.map checked) = true ∧ rxWords (block0.map checked) = some (block0.map fun v => (⟨v, false⟩, false)) ∧
    rollTurn rolling false = rolling ∧ rolling.opt.roll = true ∧ blockOk rolling block0 = true ∧ State.reset.opt.roll = false := by
  have hc : crc32 (List.replicate 8 (0, 64)) < 2 ^ 32 := crc32_lt _
  have hb : bits (BitVec.ofNat 64 (crc32 (List.replicate 8 (0, 64)))) 31 0 = crc32 (List.replicate 8 (0, 64)) := by
    simp only [bits, BitVec.toNat_ofNat, Nat.shiftRight_zero]; omega
  have hm : beatNum rolling = 0 ∧ bit (reg rolling (aOptDmem 0)) 31 = true ∧ bits (reg rolling (aOptDmem 0)) 15 0 = 0 := by decide +kernel
  have ht : (rolling.opt.roll && !rolling.opt.setB && (false || decide (rolling.disp.beatStart + 1200 ≤ rolling.now))) = false := by
    decide +kernel
  refine ⟨rfl, rxWords_checked _, by simp only [rollTurn, ht]; rfl, rfl, ?_, rfl⟩
  have h0 : (block0[0]?).getD 0 = 0 := rfl
  have h8 : (block0[8]?).getD 0 = BitVec.ofNat 64 (crc32 (List.replicate 8 (0, 64))) := rfl
  have ht : (block0.take 8).map (fun w => (w.toNat, 64)) = List.replicate 8 (0, 64) := rfl
  simp only [blockOk, h0, h8, ht, hb]
  rw [show bits (0 : W64) 47 44 = 0 from rfl, show bits (0 : W64) 31 0 = 0 from rfl, show bits (0 : W64) 63 48 = 0 from rfl,
    hm.1, hm.2.1, hm.2.2]
  simp

theorem witness_HostAccessesTake :
    let s := setReg (ported State.reset) aHstBar4Ctl 30
    (barOpen s = true ∧ devReady s = true ∧ WF.hostLen 8 = true ∧ bar4Size s - 8 + 8 ≤ bar4Size s ∧ inMem s (bar4Addr s 0) 8 = true ∧
      anyPsn s (bar4Addr s 0) 8 = false ∧ s.stk.chan = [] ∧ sliceWaits s (bar4Addr s 0) 8 true = false) ∧
    sliceWaits (held s (bar4Addr s 0)) (bar4Addr s 0) 8 true = true ∧ (aFabCtl + 8 ≤ 2 ^ 26 ∧ 2 ^ 26 < (2 ^ 26 - 7) + 8) ∧
    (barOpen State.reset = false ∧ bar4Size s < bar4Size s - 7 + 8) ∧
    (bar4Legal s (BitVec.ofNat 64 (2 ^ 30)) = true ∧ bar4Legal s (BitVec.ofNat 64 (2 ^ 39 + 2 ^ 38 + 2 ^ 30)) = false) ∧
    ((regHere aFabCtl).map (fun x => x.1.wid) = some 64 ∧ aFabCtl % 8 = 0) ∧
    ((regHere aMgtPwrCtl).map (fun x => x.1.wid) = some 32 ∧ aMgtPwrCtl % 4 = 0) ∧
    (inSqWindow aFabCtl || inMsix aFabCtl || inPba aFabCtl) = false ∧ (inSqWindow aMgtPwrCtl || inMsix aMgtPwrCtl || inPba aMgtPwrCtl) = false ∧
    (widthOk aFabCtl 2 = false ∧ widthOk aFabCtl 8 = true) ∧
    (let t := { State.reset with host := { host0 with mse := true } }
     barOpen t = true ∧ devReady t = false) := by decide +kernel

theorem witness_HostPortFollows :
    (let x := putBits ((5 : W32).setWidth 64) 31 31 1
     let u := regPut (withRegs [(aClkErr, 1)]) .hst (aHstIrqSrc 6) (fldsAt (aHstIrqSrc 6)) true true x
     fld (withRegs [(aClkErr, 1)]) (aHstIrqSrc 6) 31 31 = 0 ∧ eventCond u 6 = true) ∧
    fld (withRegs [(aHstIrqSrc 6, 2 ^ 31)]) (aHstIrqSrc 6) 31 31 = 1 ∧
    (let s := modHost State.reset fun h => { h with cfg := smSet none h.cfg cfgDevCtl2 (some 16) }
     bit ((smGet none s.host.cfg cfgDevCtl2).getD 0) 4 = true ∧ bit ((smGet none State.reset.host.cfg cfgDevCtl2).getD 0) 4 = false) ∧
    State.reset.host.pba = [] ∧ ([1, 2, 4, 8, 16].contains (16 : Fin 17).val = true ∧ 1 ≤ (6 : Fin 7).val) ∧
    (nextRing ringsOn = some 0 ∧ fetchOpen ringsOn = true) ∧
    (copyNext (admitted (admWith 2 [])) = some (admWith 2 []) ∧ cpToHost (admWith 2 []).raw = false) ∧
    fcReading (admitted (fabCfg 0)) = some (fabCfg 0) := by decide +kernel

/-- Boot in a stage. -/
def bootAt (n : Nat) : State := modMgt (withRegs [(aMgtBootStatus, n)]) fun m => { m with released := true }

theorem witness_ResetAndBootProceed :
    State.reset.mgt.released = false ∧ (booting (bootAt 1) = true ∧ fld (bootAt 1) aMgtBootStatus 3 0 = 1) ∧
    (booting (bootAt 5) = true ∧ fld (bootAt 5) aMgtBootStatus 3 0 = 5 ∧ (31 : Fin 32).val = 31) ∧
    (booting (bootAt 8) = true ∧ fld (bootAt 8) aMgtBootStatus 3 0 = 8) ∧ booting State.reset = false ∧
    smGet 0 State.reset.mgt.hb 3 = 0 ∧
    (let s := modMgt State.reset fun m => { m with hb := smSet 0 m.hb 3 1 }
     smGet 0 s.mgt.hb 3 ≠ 0 ∧ s.now + 1 < smGet 0 s.mgt.hb 3 + 100000) ∧ State.reset.fab.discoverId = none := by decide +kernel

/-! ### Witnesses: management, stop, power, control cores -/

/-- Requests of SPDM 1.2 by code. -/
def spdm (c : Byte) : List Byte := [0x12, c, 0, 0, 0, 0, 8, 0] ++ List.replicate 28 0
/-- The endpoint answers, n requests and responses of the first part having gone. -/
def spoken (n : Nat) : State := modMgt State.reset fun m => { m with released := true, spdm := List.replicate n (0, []) }

/-- A message of a type and code on the VDM binding. -/
def mctp (typ code : Byte) : MctpIn := ⟨false, 0x3A, true, 0, typ, 0x1F3A, code⟩

theorem witness_ManagementAsks :
    (List.range 8).all (fun c => mctpTakes (spoken 0) (mctp 0x7E (BitVec.ofNat 8 c))) = true ∧
    mctpTakes (spoken 0) (mctp 0 1) = true ∧ mctpTakes (spoken 0) (mctp 5 0) = true ∧
    mctpTakes State.reset (mctp 0x7E 1) = false ∧ mctpTakes (spoken 0) { mctp 0x7E 1 with smb := true, pec := false } = false ∧
    mctpTakes (spoken 0) { mctp 0x7E 1 with smb := true } = true ∧ byteAt (spdm 0xE4) 1 ∉ spdmKnown ∧
    (let req : List Byte := [0x12, 0xE3, 0, 0, 0, 0, 0, 0, 0x10, 0, 0, 0, 1]
     bit (byteAt req 8) 4 = true ∧ bit (byteAt req 12) 0 = true) ∧ bit (byteAt (spdm 0xE3) 8) 4 = false := by decide +kernel

theorem witness_ManagementAnswers :
    ((spoken 0).mgt.released = true ∧ len48 (48 : Byte).toNat = true ∧ inFlash (0 : W32).toNat (48 : Byte).toNat = true) ∧
    ((len48 (49 : Byte).toNat && inFlash (0 : W32).toNat (49 : Byte).toNat) = false) ∧
    (inJob (spoken 0) = false ∧ (0x10000 : W32).toNat % 65536 = 0 ∧ inFlash (0x10000 : W32).toNat 65536 = true) ∧
    inJob (jobOn (spoken 0)) = true ∧
    (len48 (16 : Byte).toNat = true ∧ (65520 : W16).toNat + (16 : Byte).toNat ≤ 65536) ∧
    (byteAt [0x10, 0x84, 0, 0] 0 = 0x10 ∧ byteAt [0x10, 0x84, 0, 0] 1 = 0x84) ∧
    (byteAt (spdm 0xE1) 0 = 0x12 ∧ byteAt (spdm 0xE1) 1 = 0xE1 ∧ spdmSteps (spoken 2) = 2 ∧ spdmSteps (spoken 0) ≠ 2) ∧
    (byteAt (spdm 0xE3) 1 = 0xE3 ∧ spdmSteps (spoken 4) = 4) ∧
    (byteAt (spdm 0x81) 1 = 0x81 ∧ spdmReady (spoken 6) = true) ∧
    (byteAt (spdm 0x82) 1 = 0x82 ∧ bits (byteAt (spdm 0x82) 2) 3 0 = 0 ∧ leNat (((spdm 0x82).drop 4).take 2) = 0) ∧
    (let s := modMgt (spoken 6) fun m => { m with idPriv := 5 }
     byteAt (spdm 0x83) 1 = 0x83 ∧ spdmReady s = true ∧ byteAt (spdm 0x83) 2 = 0 ∧ 36 ≤ (spdm 0x83).length ∧ canSign s = true ∧
       canSign (spoken 6) = false) ∧
    (byteAt (spdm 0xE0) 1 = 0xE0 ∧ byteAt (spdm 0xE0) 3 = 0 ∧ bit (byteAt (spdm 0xE0) 2) 0 = false ∧
      (spoken 6).mgt.entropyBad = false) ∧
    State.reset.mgt.released = false := by decide +kernel
theorem witness_chain (s : State) : 0 < (chain s).length := by simp [chain, leBytes]

theorem witness_StopsPowerAndCounters :
    (inJob (jobOn State.reset) = true ∧ isStopped (jobOn State.reset) = false ∧ inJob State.reset = false) ∧
    (stopRuns (withRegs [(aMgtStopStatus, 3)]) = true ∧ stopRuns State.reset = false ∧
      (withRegs [(aMgtStopStatus, 3)]).disp.adms = []) ∧
    (let s := withRegs [(aMgtStopStatus, 7)]
     fld s aMgtStopStatus 2 2 = 1 ∧ fld s aMgtErr 3 2 = 0 ∧ (s.stk.chan.filter fun p => p.2 == 2) = []) ∧
    fld State.reset aMgtStopStatus 2 2 = 0 ∧
    (sampleOk 40000 = true ∧ (smGet sensor0 State.reset.mgt.tj 0).failed = false) ∧
    fld State.reset aMgtPmcCtl 4 2 ≤ 4 := by decide +kernel

/-- Core 0 of quarter 0 runs. -/
def coreOn (c : CCore) : State := setCcore (withRegs [(aQtrCcCtl 0, 2)]) 0 0 c

theorem witness_ControlCoresAccess :
    (ccRuns (coreOn ccore0) 0 0 = true ∧ ((0x100 : W64).toNat + 8 ≤ 0x300000 ∧ anyPsn (coreOn ccore0) (lsBase 0 + 0x100) 8 = false) ∧
      [1, 2, 4, 8].contains (8 : Fin 9).val = true ∧ (0x100 : W64).toNat % 8 = 0) ∧
    ccPlace 0 (0x300000 : W64).toNat 8 = .none ∧
    (ccPending (coreOn ccore0) 0 0 = none ∧ 0x300000 < (0x2FFFFF : W64).toNat + 2) ∧
    (let s := setReg (coreOn { ccore0 with mie := true, mtie := true }) (aQtrMtimecmp 0 0) 0
     ccRuns s 0 0 = true ∧ ccPending s 0 0 = some cTimer ∧ (ccore s 0 0).meie = false) ∧
    (ccWaits (held (coreOn ccore0) 0x1000) 0 (2 ^ 40 + 0x1000) 8 true = true ∧ csrRead (coreOn ccore0) 0 0 0x7C0 = none ∧
      csrFree 0x7C0 = false) ∧
    (let c := { ccore0 with lr := some 0x100 }
     (ccore (coreOn c) 0 0).lr = some ((0x100 : W64).toNat / 8 * 8) ∧ (ccore (coreOn ccore0) 0 0).lr ≠ some ((0x100 : W64).toNat / 8 * 8)) ∧
    ccRuns State.reset 0 0 = false ∧
    (qtrPresent State.reset 0 = true ∧ (reg (withRegs [(aQtrMtimecmp 0 0, 0)]) (aQtrMtimecmp 0 0)).toNat ≤ mtime State.reset ∧
      mtime State.reset < (reg (withRegs [(aQtrMtimecmp 0 0, 5)]) (aQtrMtimecmp 0 0)).toNat) := by decide +kernel

theorem witness_WellFormedCommandsGoOn : WF.command (.bar4Read 0 0) = false := by decide

/-! ### Steps whose results the spec gives -/

/-- The word of the worked example of 05 (after R147): a predicated MMA, field by field, and its bytes. -/
def exampleMma : W128 := 0x118269000080644C4000400103FFFFFC#128
theorem test_mma_word : wOpcode exampleMma = opMma ∧ wPcond exampleMma = 3 ∧ wPsq exampleMma = 1234 ∧ wPval exampleMma = 1 ∧
    wSigsq exampleMma = 200 ∧ wSigen exampleMma = true ∧ wSigdst exampleMma = false ∧ mBank exampleMma = 0 ∧ mAcc exampleMma = true ∧
    mHold exampleMma = true ∧ wPb exampleMma = 0x4000 ∧ mK exampleMma = 1024 ∧ mRows exampleMma = 128 ∧ mCols exampleMma = 128 := by
  decide +kernel
theorem test_mma_bytes : BitVec.ofNat 128 (leNat [0xFC, 0xFF, 0xFF, 0x03, 0x01, 0x40, 0x00, 0x40, 0x4C, 0x64, 0x80, 0x00, 0x00, 0x69,
    0x82, 0x11]) = exampleMma := by decide +kernel

/-- The drain to Hf8m of 02's worked example: 120, 4.16, 0.0032 and 3.2e-5 give codes 0x77, 0x50, 0x03 and 0 with a flush. -/
theorem test_hf8m : (convV .hf8m false (f32v 0x42F00000)).1 = 0x77 ∧ (convV .hf8m false (f32v 0x40851EB8)).1 = 0x50 ∧
    (convV .hf8m false (f32v 0x3B51B717)).1 = 0x03 ∧ (convV .hf8m false (f32v 0x38063780)).1 = 0 ∧
    (convV .hf8m false (f32v 0x38063780)).2.flush = 1 := by decide +kernel

/-- The address of 08's worked example in both modes: S7.C081 slot 185,887, and S0.C092 slot 186,104. -/
theorem test_interleave : locate State.reset 0x5AC3E12F40 = (7, 81, 185887) ∧
    locate (withRegs [(aMemReg 0, 2 ^ 63 + 2 ^ 62 + 363 * 1024 + 363)]) 0x5AC3E12F40 = (0, 92, 186104) := by decide +kernel

/-- R378's example: 0xFF has check bits 0xE4; one bit wrong is restored, two are uncorrectable. -/
theorem test_check_bits : checkBits 0xFF = 0xE4 ∧ readWord 0xFB 0xE4 = .corrected ⟨0xFF, false⟩ ∧ readWord 0xFC 0xE4 = .lost := by
  decide +kernel

/-- Closes 1, 2, 3 and 11 of entry 37 in 06's worked example. -/
def entry37 (flush bad good hold steps level : Nat) : GftEntry := ⟨2 ^ 22, 0, flush, 0, bad, good, hold, steps, level⟩
def closed37 (e : GftEntry) : Nat × Nat × Nat × Nat :=
  let x := gftClose { gftSet State.reset with adapt := true } e
  (x.badHist, x.goodHist, x.hold, x.level)
theorem test_close_moves : closed37 (entry37 52000 0 0 0 0 0) = (1, 0, 0, 0) ∧ closed37 (entry37 31000 1 0 0 1 0) = (2, 0, 0, 0) ∧
    closed37 (entry37 47500 2 0 0 2 0) = (0, 0, 4, 1) ∧ closed37 (entry37 900 0 0x7F 0 10 1) = (0, 0, 4, 0) := by decide +kernel

/-- The spike of 06's worked example: 2.620 with MEAN 2.4, VAR 0.0025, k = 3 after warm-up; 2.430 is accepted. -/
def watched : State :=
  withRegs [(aMgtLwCtl, 0x40400000 * 2 ^ 32 + 6 * 256 + 1), (aMgtLwState, 0x3B23D70A * 2 ^ 32 + 0x4019999A), (aMgtLwN, 70000)]
theorem test_loss_spike : lwSpikes watched 0x4027AE14 = true ∧ lwSpikes watched 0x401B851F = false ∧
    fld (doLoss watched 0x4027AE14) aMgtLwStatus 1 1 = 1 ∧ fld (doLoss watched 0x4027AE14) aMgtLwStatus 47 32 = 1 := by decide +kernel

/-- The budgets of 09's worked example: a beat of 1 ms, with and without a window, and under a derate of 8. -/
def budgeted (d : Nat) : State := withRegs [(aClkBeatCtl, 1000), (aClkDerate, d)]
theorem test_budgets : budget (budgeted 0) true 0 = 966600 ∧ budget (budgeted 0) false 0 = 996600 ∧ budget (budgeted 0) true 100 = 3322 ∧
    budget (budgeted 0) false 100 = 3425 ∧ budget (budgeted 8) false 0 / 100 = 8720 := by decide +kernel

/-- Routing of 10's worked example: from chip 0x0127 with FLOW 5 and SEQ 0x0A3 to 0x0162, through ST02. -/
theorem test_route : routePort (withRegs ((aFabRte 0 0, 0x8000003F016F0130) :: (List.range 6).map fun p => (aFabPort p, 4096))) 0
    { pk 0 1 [] with dst := 0x0162, src := 0x0127, flow := 5, seq := 0x0A3 } = some 2 := by decide +kernel

/-- BAR4's base in 13's worked example: 353 is no multiple of 16 GiB. -/
theorem test_bar4_base :
    let s := withRegs [(aHstBar4Ctl, 352 * 2 ^ 30 + 34)]
    (match exec (.bar4BaseWrite (BitVec.ofNat 64 (353 * 2 ^ 30))) s with
      | .next t => (fld t aHstBar4Ctl 39 30, fld t aHstPortErr 0 0)
      | _ => (0, 0)) = (352, 1) := by decide +kernel

/-- SHA-256 of "abc" (FIPS 180-4, the standard that R365 names). -/
theorem test_sha256 : sha256 [0x61, 0x62, 0x63] = 0xBA7816BF8F01CFEA414140DE5DAE2223B00361A396177A9CB410FF61F20015AD := by
  decide +kernel

/-- A NOP leaves its stream and signals nothing without SIGEN (R118). -/
theorem test_nop : (match exec (.nop 0 4) (seat 4 1 0) with
    | .next t => ((strm t 0 4).queue, square t 0)
    | _ => ([], ⟨9, 9, true⟩)) = ([], square0) := by decide +kernel

/-- SQSIG adds at its end, and a count stops at its maximum (R119). -/
theorem test_sqsig : square (sqAdd (setSquare State.reset 5 ⟨0xFFFFFFFE, 7, false⟩) 5 3) 5 = ⟨0xFFFFFFFF, 8, false⟩ := by decide +kernel
end Sys2Proof.Tests
end

/-! Every step keeps the canonical form of the state's arrays: the lemmas of Sys2Proof/Laws/Kept… put together along the
arms of `exec`. -/

namespace Sys2Proof.Machine

variable {pend : List Instr} {s : State}

/-- Where an outcome goes on, its state is in canonical form with the given queue of waiting commands. -/
def NextKept (pend : List Instr) (o : Out) : Prop := ∀ t, o = .next t → Kept pend t

theorem nextKept_next (h : Kept pend s) : NextKept pend (.next s) := by
  rintro t ⟨⟩
  exact h

theorem nextKept_fault (r : Fault) : NextKept pend (.fault r) := by rintro t ⟨⟩

/-- A command with operands of the right length goes on, any other faults (log entry 66). -/
theorem nextKept_wellFormed {c : Bool} (h : Kept pend s) : NextKept pend (if c then .next s else .fault .illFormed) := by
  cases c
  · exact nextKept_fault _
  · exact nextKept_next h

theorem nextKept_onPkt {k : Pkt} (h : Kept pend s) : NextKept pend (onPkt k s) := nextKept_wellFormed h

theorem nextKept_onCell {c : List CWord} (h : Kept pend s) : NextKept pend (onCell c s) := nextKept_wellFormed h

/-- A write of a source to a quarter's register, which a disabled quarter ignores (R46). -/
theorem kept_quarterWrite {src : Src} {q : Nat} {act : State → State} (hs : Kept pend s)
    (hact : ∀ t, Kept pend t → Kept pend (act t)) :
    Kept pend (fromSrc s src fun t => if qtrPresent t q then act t else t) :=
  kept_fromSrc _ _ _ hs fun t ht => kept_ite (fun _ => hact t ht) fun _ => ht

/-! Commands on the first admitted descriptor that fits: without one, nothing changes. -/

theorem nextKept_update (hs : Kept pend s) : NextKept pend (execUpdate s) := by
  refine nextKept_next ?_
  split
  exacts [kept_updStart _ _ hs, hs]

theorem nextKept_load (hs : Kept pend s) : NextKept pend (execLoad s) := by
  refine nextKept_next ?_
  split
  exacts [kept_doLoad _ _ hs, hs]

theorem nextKept_select (hs : Kept pend s) : NextKept pend (execSelect s) := by
  refine nextKept_next ?_
  split
  exacts [kept_prjSelect _ _ hs, hs]

theorem nextKept_loadSelect (hs : Kept pend s) : NextKept pend (execLoadSelect s) := by
  refine nextKept_next ?_
  split
  exacts [kept_doLoadSelect _ _ hs, hs]

/-! Commands whose meaning looks at an operand first. -/

theorem nextKept_doorbellIgnored (off bytes : Nat) (v : Option W64) (hs : Kept pend s) :
    NextKept pend (execDoorbellIgnored off bytes v s) := by
  cases v with
  | some w => exact nextKept_next (kept_hostBar2 _ _ _ _ hs)
  | none => exact nextKept_next (kept_ite (fun _ => kept_unsupported _ hs) fun _ => kept_answer _ _ _ hs)

theorem nextKept_descriptorFetch (a : Answer W512) (hs : Kept pend s) : NextKept pend (execDescriptorFetch a s) := by
  refine nextKept_next (kept_fetchOne _ _ hs fun r hr t ht => ?_)
  cases a with
  | data b => cases hr
  | poison => cases hr; exact kept_poisonRx _ _ ht
  | error e => cases hr; exact kept_pcieReport _ _ ht

theorem nextKept_bar4Read (off bytes : Nat) (hs : Kept pend s) : NextKept pend (execBar4Read off bytes s) := by
  unfold execBar4Read
  split
  · exact nextKept_fault _
  · exact nextKept_next (kept_ite (fun _ => kept_unsupported _ hs) fun _ => kept_ite (fun _ => kept_bar4Early _ _ hs)
      fun _ => kept_ite (fun _ => hs) fun _ => kept_bar4Read _ _ _ hs)

theorem nextKept_bar4Write (off : Nat) (data : List Byte) (ep : Bool) (hs : Kept pend s) :
    NextKept pend (execBar4Write off data ep s) := by
  unfold execBar4Write
  split
  · exact nextKept_fault _
  · exact nextKept_next (kept_ite (fun _ => kept_unsupportedWrite _ hs) fun _ => kept_ite (fun _ => hs)
      fun _ => kept_bar4Write _ _ _ _ hs)

theorem nextKept_registerWrite (at_ : RegAt) (bytes : Nat) (v : W64) (src : Src) (ep : Bool) (hs : Kept pend s) :
    NextKept pend (execRegisterWrite at_ bytes v src ep s) := by
  cases at_ with
  | bar0 off => exact nextKept_next (kept_barWrite _ _ _ _ _ _ hs)
  | config off => exact nextKept_next (kept_ite (fun _ => kept_ite (fun _ => kept_poisonRx _ _ hs)
      fun _ => kept_cfgPut _ _ _ _ hs) fun _ => hs)

theorem nextKept_registerReadClear (at_ : RegAt) (bytes : Nat) (src : Src) (hs : Kept pend s) :
    NextKept pend (execRegisterReadClear at_ bytes src s) := by
  cases at_ with
  | bar0 off => exact nextKept_next (kept_barRead _ _ _ _ hs)
  | config off => exact nextKept_next (kept_ite (fun _ => kept_cfgRead _ _ _ hs) fun _ => hs)

/-- Every command keeps the canonical form and the queue behind it: arm by arm of `exec`. -/
theorem nextKept_exec (c : Instr) (hs : Kept pend s) : NextKept pend (exec c s) := by
  cases c with
  | nop _ _ => exact nextKept_next (kept_doNop _ _ _ hs)
  | mma _ _ => exact nextKept_next (kept_doMma _ _ _ hs)
  | mmaEnd _ _ => exact nextKept_next (kept_doMmaEnd _ _ _ hs)
  | dcfg _ _ => exact nextKept_next (kept_doDcfg _ _ _ hs)
  | drain _ _ => exact nextKept_next (kept_doDrain _ _ _ hs)
  | drainEnd _ _ => exact nextKept_next (kept_doDrainEnd _ _ _ hs)
  | valu _ _ => exact nextKept_next (kept_runInstr _ _ _ _ _ _ hs fun f d h => kept_valuBody _ _ _ f d h hs)
  | vld _ _ => exact nextKept_next (kept_runInstr _ _ _ _ _ _ hs fun f d h => kept_vldBody _ _ _ f d h hs)
  | vst _ _ => exact nextKept_next (kept_runInstr _ _ _ _ _ _ hs fun f d h => kept_vstBody _ _ _ f d h hs)
  | vred _ _ => exact nextKept_next (kept_runInstr _ _ _ _ _ _ hs fun f d h => kept_vredBody _ _ _ f d h hs)
  | momfin _ _ => exact nextKept_next (kept_runInstr _ _ _ _ _ _ hs fun f d h => kept_momfinBody _ _ _ f d h hs)
  | vrelay _ _ => exact nextKept_next (kept_runInstr _ _ _ _ _ _ hs fun f d h => kept_vrelayBody _ _ _ f d h hs)
  | topk _ _ => exact nextKept_next (kept_runInstr _ _ _ _ _ _ hs fun f d h => kept_topkBody _ _ _ f d h hs)
  | dropout _ _ => exact nextKept_next (kept_runInstr _ _ _ _ _ _ hs fun f d h => kept_dropoutBody _ _ _ f d h hs)
  | maskapply _ _ => exact nextKept_next (kept_runInstr _ _ _ _ _ _ hs fun f d h => kept_maskapplyBody _ _ _ f d h hs)
  | moveCopy _ => exact nextKept_next (kept_runInstr _ _ _ _ _ _ hs fun f d h => kept_moveCopyBody _ _ f d h hs)
  | moveAtomicAdd _ => exact nextKept_next (kept_runPartial _ _ _ _ _ _ hs fun f d h => kept_moveAtomicBody _ _ f d h hs)
  | dispatch _ => exact nextKept_next (kept_doDispatch _ _ hs)
  | gatherRows _ => exact nextKept_next (kept_runInstr _ _ _ _ _ _ hs fun f d h => kept_gatherRowsBody _ _ f d h hs)
  | combine _ => exact nextKept_next (kept_runInstr _ _ _ _ _ _ hs fun f d h => kept_combineBody _ _ f d h hs)
  | scatterAdd _ => exact nextKept_next (kept_runPartial _ _ _ _ _ _ hs fun f d h => kept_scatterAddBody _ _ f d h hs)
  | scatterRows _ => exact nextKept_next (kept_runInstr _ _ _ _ _ _ hs fun f d h => kept_scatterRowsBody _ _ f d h hs)
  | rotate _ => exact nextKept_next (kept_doPrjsub _ _ _ hs)
  | sketch _ => exact nextKept_next (kept_doPrjsub _ _ _ hs)
  | prjSubmissionEnd => exact nextKept_next (kept_doPrjEnd _ hs)
  | sqsig _ _ => exact nextKept_next (kept_doSqsig _ _ _ hs)
  | sqwait _ _ => exact nextKept_next (kept_doSqwait _ _ _ hs)
  | sqwaitResume _ _ => exact nextKept_next (kept_doSqwaitResume _ _ _ hs)
  | sqset _ _ => exact nextKept_next (kept_doSqset _ _ _ hs)
  | streamFetch _ _ => exact nextKept_next (kept_doFetch _ _ _ hs)
  | engineOpRetire _ _ => exact nextKept_next (kept_doRetire _ _ _ hs)
  | waitTo _ _ => exact nextKept_next (kept_doWaitTo _ _ _ hs)
  | streamHeadWrite _ _ _ _ => exact nextKept_next (kept_quarterWrite hs fun _ => kept_ptrWrite _ _ _ _ _)
  | streamGateWrite _ _ _ _ => exact nextKept_next (kept_quarterWrite hs fun _ => kept_gateWrite _ _ _ _)
  | streamDisable _ _ _ _ => exact nextKept_next (kept_quarterWrite hs fun _ => kept_cfgWrite _ _ _ _ _)
  | ccStart _ _ _ => exact nextKept_next (kept_quarterWrite hs fun _ => kept_ccCtlWrite _ _ _ _)
  | ldone _ _ _ => exact nextKept_next (kept_quarterWrite hs fun _ => kept_ldoneWrite _ _ _ _)
  | launchEnd _ => exact nextKept_next (kept_doLaunchEnd _ _ hs)
  | sqDoorbell _ _ => exact nextKept_next (kept_hostBar2 _ _ _ _ hs)
  | cqDoorbell _ _ => exact nextKept_next (kept_hostBar2 _ _ _ _ hs)
  | doorbellIgnored off bytes v => exact nextKept_doorbellIgnored off bytes v hs
  | descriptorFetch a => exact nextKept_descriptorFetch a hs
  | launch => exact nextKept_next (kept_doLaunch _ hs)
  | copy _ _ => exact nextKept_next (kept_doCopy _ _ _ hs)
  | signal => exact nextKept_next (kept_doSignal _ hs)
  | update => exact nextKept_update hs
  | stop => exact nextKept_next (kept_doStop _ hs)
  | load => exact nextKept_load hs
  | select => exact nextKept_select hs
  | loadSelect => exact nextKept_loadSelect hs
  | settleEnd => exact nextKept_next (kept_doSettleEnd _ hs)
  | tracking _ => exact nextKept_next (kept_doReferences _ _ hs)
  | writeRt _ => exact nextKept_next (kept_fcWrite _ _ _ hs)
  | writeCirc _ => exact nextKept_next (kept_fcWrite _ _ _ hs)
  | writeCal _ => exact nextKept_next (kept_fcWrite _ _ _ hs)
  | flip => exact nextKept_next (kept_doFlip _ hs)
  | discover => exact nextKept_next (kept_doDiscover _ hs)
  | helloResend _ => exact nextKept_next (kept_doHelloResend _ _ hs)
  | discoverEnd => exact nextKept_next (kept_endDiscover _ _ hs)
  | loadPlan _ => exact nextKept_wellFormed (kept_doLoadPlan _ _ hs)
  | start => exact nextKept_next (kept_doStart _ hs)
  | tickSend => exact nextKept_next (kept_doTickSend _ hs)
  | tick _ _ _ => exact nextKept_onPkt (kept_doTick _ _ _ _ hs)
  | tickMissed => exact nextKept_next (kept_doTickMissed _ hs)
  | beatBoundary => exact nextKept_next (kept_doBoundary _ hs)
  | fullRetrainEnd _ _ => exact nextKept_next (kept_doFullEnd _ _ _ hs)
  | cut => exact nextKept_next (kept_ite (fun _ => kept_doCut _ hs) fun _ => hs)
  | pass1Start _ => exact nextKept_next (kept_doPass1Start _ _ hs)
  | pass1End _ => exact nextKept_next (kept_doPass1End _ _ hs)
  | seqrec _ _ => exact nextKept_wellFormed (kept_doSeqrec _ _ _ hs)
  | pass2Start _ _ _ => exact nextKept_next (kept_doPass2Start _ _ _ _ hs)
  | updateEnd => exact nextKept_next (kept_doUpdateEnd _ hs)
  | chainTo => exact nextKept_next (kept_doChainTo _ hs)
  | loss _ => exact nextKept_next (kept_doLoss _ _ hs)
  | restart => exact nextKept_next (kept_doRestart _ hs)
  | gradNfRaise => exact nextKept_next (kept_doGradNfRaise _ hs)
  | close => exact nextKept_next (kept_doClose _ hs)
  | closeEnd => exact nextKept_next (kept_doCloseEnd _ hs)
  | stackTempSample _ _ => exact nextKept_next (kept_ite (fun _ => kept_stackGood _ _ _ hs) fun _ => kept_stackBad _ _ hs)
  | driftTracking _ _ _ _ => exact nextKept_next (kept_doDrift _ _ _ _ _ hs)
  | emergencyRetrain _ _ => exact nextKept_next (kept_ite (fun _ => kept_trigger _ _ _ hs) fun _ => hs)
  | emergencyRetrainEnd _ _ _ => exact nextKept_next (kept_doRetrainEnd _ _ _ _ hs)
  | reqTo _ _ _ => exact nextKept_next (kept_doReqTo _ _ _ hs)
  | ueReread _ _ _ => exact nextKept_next (kept_doReread _ _ _ _ hs)
  | tgStart _ _ _ => exact nextKept_next (kept_tgWrite _ _ _ _ hs)
  | tgEnd _ _ _ _ _ => exact nextKept_next (kept_doTgEnd _ _ _ _ _ _ hs)
  | channelRetire _ _ => exact nextKept_next (kept_retireWrite _ _ _ hs)
  | regionWrite _ _ => exact nextKept_next (kept_regionWr _ _ _ hs)
  | atomicRegionEnable _ _ => exact nextKept_next (kept_atomWrite _ _ _ hs)
  | atomicRegionDisable _ _ => exact nextKept_next (kept_atomWrite _ _ _ hs)
  | frameRx _ _ _ _ => exact nextKept_wellFormed (kept_doFrameRx _ _ _ _ _ hs)
  | replayTimeout _ _ => exact nextKept_next (kept_ite (fun _ => kept_resend _ _ _ hs) fun _ => hs)
  | round _ => exact nextKept_next (kept_doRound _ _ hs)
  | ctrlDisplace _ => exact nextKept_next (kept_doCtrlDisplace _ _ hs)
  | write p k => exact nextKept_onPkt (kept_reqIn _ _ _ _ _ hs (kept_doWrite p k))
  | read p k => exact nextKept_onPkt (kept_reqIn _ _ _ _ _ hs (kept_doRead p k))
  | reqSignal p k => exact nextKept_onPkt (kept_reqIn _ _ _ _ _ hs (kept_doReqSignal p k))
  | atomicAdd p k => exact nextKept_onPkt (kept_reqIn _ _ _ _ _ hs (kept_doAtomicAdd p k))
  | ack _ _ => exact nextKept_onPkt (kept_rspIn _ _ _ _ _ _ hs fun r t => kept_reqOver t r)
  | readData _ k => exact nextKept_onPkt (kept_ite (fun _ => hs) fun _ => kept_rspIn _ _ _ _ _ _ hs (kept_takeData k))
  | error p _ => exact nextKept_onPkt (kept_rspIn _ _ _ _ _ _ hs (kept_takeError p))
  | stopCell _ _ => exact nextKept_onPkt (kept_doStopCell _ _ _ hs)
  | hello _ _ => exact nextKept_onPkt (kept_doHello _ _ _ hs)
  | helloSig _ _ => exact nextKept_onPkt (kept_doHelloSig _ _ _ hs)
  | echo _ _ _ => exact nextKept_onPkt (kept_doEcho _ _ _ _ hs)
  | echoReply _ _ _ _ => exact nextKept_onPkt (kept_doEchoReply _ _ _ _ _ hs)
  | writeHead _ _ => exact nextKept_onCell (kept_doWriteHead _ _ _ hs)
  | circuitSignal _ _ => exact nextKept_onCell (kept_doCircSignal _ _ _ hs)
  | circuitDataCell _ _ => exact nextKept_onCell (kept_doDataCell _ _ _ hs)
  | e2eTimeout _ _ => exact nextKept_next (kept_doE2eTimeout _ _ _ hs)
  | optSensorSample _ _ _ => exact nextKept_next (kept_doOptSample _ _ _ _ hs)
  | ringFeedforward => exact nextKept_next (kept_doFeedforward _ hs)
  | laneDown _ _ _ => exact nextKept_next (kept_doLaneDown _ _ _ _ hs)
  | laneRelockEnd _ _ _ => exact nextKept_next (kept_doRelockEnd _ _ _ _ hs)
  | laneManagementWord _ _ _ => exact nextKept_next (kept_doManagementWord _ _ _ _ _ hs)
  | rxPowerMeasure _ _ _ => exact nextKept_next (kept_doRxPower _ _ _ _ _ _ hs)
  | laserFail _ => exact nextKept_next (kept_doLaserFail _ _ hs)
  | laserSwap _ => exact nextKept_next (kept_doLaserSwap _ _ hs)
  | laserAgeWarn _ => exact nextKept_next (kept_doLaserAge _ _ hs)
  | announceBlock _ _ _ => exact nextKept_wellFormed (kept_doAnnounce _ _ _ hs)
  | avAssignment => exact nextKept_next (kept_doAssignment _ hs)
  | bar4Read off bytes => exact nextKept_bar4Read off bytes hs
  | bar4Write off data ep => exact nextKept_bar4Write off data ep hs
  | bar4BaseWrite _ => exact nextKept_next (kept_bar4BaseWrite _ _ hs)
  | registerWrite at_ bytes v src ep => exact nextKept_registerWrite at_ bytes v src ep hs
  | registerReadClear at_ bytes src => exact nextKept_registerReadClear at_ bytes src hs
  | sqBaseWrite _ _ => exact nextKept_next (kept_sqBaseWrite _ _ _ hs)
  | sqCfgWrite _ _ => exact nextKept_next (kept_sqCfgWrite _ _ _ hs)
  | cqEnable _ _ => exact nextKept_next (kept_cqCfgWrite _ _ _ hs)
  | cqDisable _ _ => exact nextKept_next (kept_cqCfgWrite _ _ _ hs)
  | irqSrcEnable _ _ => exact nextKept_next (kept_ite (fun _ => kept_irqSrcWrite _ _ _ hs) fun _ => kept_raise _ _ _ _ hs)
  | bmeClear _ => exact nextKept_next (kept_modHost _ _ hs)
  | mseClear _ => exact nextKept_next (kept_modHost _ _ hs)
  | d3hot => exact nextKept_next (kept_modHost _ _ hs)
  | d0Return => exact nextKept_next (kept_doD0 _ hs)
  | linkChange _ _ _ _ => exact nextKept_next (kept_doLinkChange _ _ _ _ _ _ hs)
  | flr => exact nextKept_next (kept_deviceReset _ _ _ hs)
  | hotReset => exact nextKept_next (kept_deviceReset _ _ _ hs)
  | perstN _ => exact nextKept_next (kept_doPin _ _ _ hs)
  | porN _ => exact nextKept_next (kept_doPin _ _ _ hs)
  | resetRelease => exact nextKept_next (kept_doRelease _ hs)
  | bootStageEnd _ => exact nextKept_next (kept_doStageEnd _ _ hs)
  | getBootStatus _ => exact nextKept_next (kept_vendorOn _ _ _ _ hs fun _ => kept_doBootStatus _ _)
  | flashRead _ _ _ => exact nextKept_next (kept_vendorOn _ _ _ _ hs fun _ => kept_doFlashRead _ _ _ _)
  | flashErase _ _ => exact nextKept_next (kept_vendorOn _ _ _ _ hs fun _ => kept_doFlashErase _ _ _)
  | flashWrite _ _ _ => exact nextKept_next (kept_vendorOn _ _ _ _ hs fun _ => kept_doFlashWrite _ _ _ _)
  | getPartRecord _ _ _ => exact nextKept_next (kept_vendorOn _ _ _ _ hs fun _ => kept_doPartRecord _ _ _ _)
  | reset _ => exact nextKept_next (kept_vendorOn _ _ _ _ hs fun _ => kept_doReset _ _)
  | setEndpointId _ _ => exact nextKept_next (kept_mctpOn _ _ _ _ hs fun _ ht =>
      kept_ite (fun _ => kept_doSetEid _ _ _ ht) fun _ => kept_doControl _ _ ht)
  | getVersion _ _ => exact nextKept_next (kept_mctpOn _ _ _ _ hs fun _ => kept_doGetVersion _ _ _)
  | getCapabilities _ _ => exact nextKept_next (kept_mctpOn _ _ _ _ hs fun _ => kept_doGetCapabilities _ _ _)
  | negotiateAlgorithms _ _ => exact nextKept_next (kept_mctpOn _ _ _ _ hs fun _ => kept_doNegotiate _ _ _)
  | getDigests _ _ => exact nextKept_next (kept_mctpOn _ _ _ _ hs fun _ => kept_doGetDigests _ _ _)
  | getCertificate _ _ => exact nextKept_next (kept_mctpOn _ _ _ _ hs fun _ => kept_doGetCertificate _ _ _)
  | challenge _ _ => exact nextKept_next (kept_mctpOn _ _ _ _ hs fun _ => kept_doChallenge _ _ _)
  | getMeasurements _ _ => exact nextKept_next (kept_mctpOn _ _ _ _ hs fun _ => kept_doGetMeasurements _ _ _)
  | smbusTimeout => exact nextKept_next (kept_modMgt _ _ hs)
  | tapInstruction _ => exact nextKept_next (kept_doTap _ _ hs)
  | clockFault _ => exact nextKept_next (kept_doClockFault _ _ hs)
  | heartbeat _ => exact nextKept_next (kept_modMgt _ _ hs)
  | domainStuck _ => exact nextKept_next (kept_doStuck _ _ hs)
  | force => exact nextKept_next (kept_doForce _ hs)
  | jobStopCompletions => exact nextKept_next (kept_doStopCompletions _ hs)
  | readable => exact nextKept_next (kept_doReadable _ hs)
  | rearm => exact nextKept_next (kept_doRearm _ hs)
  | dieSensorSample _ _ _ => exact nextKept_next (kept_doDieSample _ _ _ hs)
  | powerSample _ => exact nextKept_next (kept_doPowerSample _ _ hs)
  | thermtrip => exact nextKept_next (kept_modMgt _ _ hs)
  | clear => exact nextKept_next (kept_pmcCtlWrite _ _ hs)
  | h1CounterWrite _ _ => exact nextKept_next (kept_h1Write _ _ _ hs)
  | controlCoreLoadStore _ _ _ _ => exact nextKept_next (kept_ite (fun _ => kept_ccAccess _ _ _ _ _ hs) fun _ => hs)
  | machineTimerInterrupt _ _ => exact nextKept_next (kept_doTimer _ _ _ hs)
  | completionTimeout _ => exact nextKept_next (kept_doCplTimeout _ _ hs)
  | surpriseDown => exact nextKept_next (kept_setLink _ _ (kept_aerSet _ _ hs))
  | entropyHealthFail => exact nextKept_next (kept_doEntropyFail _ hs)
  | sccAtomBusyEnd _ => exact nextKept_next (kept_setFld _ _ _ _ _ hs)
  | resizableBarWrite _ => exact nextKept_next (kept_doResize _ _ hs)
  | msixFunctionMaskWrite _ _ => exact nextKept_next (kept_doFunctionMask _ _ _ hs)
  | smbusResponseRead => exact nextKept_next (kept_doSmbRead _ hs)

/-- A step from a state in canonical form leads to one: a command by `nextKept_exec`, an empty queue by the passing of time. -/
theorem canon_step {t : State} (hs : s.canon = true) (h : step s = .next t) : t.canon = true := by
  unfold step at h
  split at h
  · obtain rfl := Host.Outcome.next.inj h
    exact (kept_idle s ⟨hs, rfl⟩).1
  · next c rest _ => exact (nextKept_exec c (s := { s with pending := rest }) ⟨hs, rfl⟩ t h).1

/-- Settles O4: what every operation keeps, put together over the commands. -/
theorem stepKeepsCanonicalForm : Obligations.StepKeepsCanonicalForm := fun _ _ hs h => canon_step hs h

end Sys2Proof.Machine

/-! Writes of memory, byte by byte and word by word: what each byte and each poison mark holds afterwards, which
reservations end, and what nothing else changes (R3, R146, R379). -/

namespace Sys2Proof.Machine

/-! ### Bytes stored in order -/

theorem smGet_putBytes (m : SMap Byte) (a : Nat) (bs : List Byte) (x : Nat) :
    smGet 0#8 (putBytes m a bs) x = if a ≤ x ∧ x < a + bs.length then bs.getD (x - a) 0 else smGet 0#8 m x := by
  induction bs generalizing m a with
  | nil => rw [if_neg (by simp)]; rfl
  | cons b t ih =>
    simp only [putBytes, ih, smGet_set, List.length_cons]
    rcases Nat.lt_trichotomy x a with h | rfl | h
    · rw [if_neg (by omega), if_neg (by omega), if_neg (by omega)]
    · simp
    · obtain ⟨k, rfl⟩ := Nat.exists_eq_add_of_lt h
      have hk : a + k + 1 - a = k + 1 := by omega
      have hk' : a + k + 1 - (a + 1) = k := by omega
      rw [if_neg (show a + k + 1 ≠ a by omega), hk, hk', List.getD_cons_succ]
      exact if_congr (by omega) rfl rfl

/-! ### Reservations -/

theorem mem_of_smGet_ne {α : Type} {d : α} {m : SMap α} {i : Nat} (h : smGet d m i ≠ d) : (i, smGet d m i) ∈ m := by
  induction m with
  | nil => exact absurd rfl h
  | cons p t ih =>
    obtain ⟨k, v⟩ := p
    simp only [smGet] at h ⊢
    split at h
    · next hk => subst hk; simp
    · next hk => rw [if_neg hk]; exact List.mem_cons_of_mem _ (ih h)

/-- What the end of a reservation on address x leaves of a control core. -/
def endRes (x : Nat) (c : CCore) : CCore := if c.lr = some x then { c with lr := none } else c

theorem endRes_frame (x : Nat) (c : CCore) : endRes x c = { c with lr := (endRes x c).lr } := by
  unfold endRes; split <;> rfl

theorem endRes_lr (x : Nat) (c : CCore) : (endRes x c).lr = if c.lr = some x then none else c.lr := by
  unfold endRes; split <;> simp_all

theorem breakRes_eq (s : State) (w : Nat) : breakRes s w = { s with quarters := (breakRes s w).quarters } := by
  unfold breakRes; dsimp only; split <;> rfl

/-- The word w begins at offset x of the local store of quarter q. -/
abbrev resAt (w q x : Nat) : Prop := stackEnd ≤ w * 8 ∧ (w * 8 - stackEnd) / 0x400000 = q ∧ (w * 8 - stackEnd) % 0x400000 = x

/-- A write of a word of a local store ends the reservations that the two control cores of its quarter have on it. -/
theorem ccore_breakRes (s : State) (w q i : Nat) : ccore (breakRes s w) q i =
    if (stackEnd ≤ w * 8 ∧ (w * 8 - stackEnd) / 0x400000 = q) ∧ i < 2
    then endRes ((w * 8 - stackEnd) % 0x400000) (ccore s q i) else ccore s q i := by
  unfold breakRes
  dsimp only
  generalize (w * 8 - stackEnd) % 0x400000 = x
  by_cases hw : stackEnd ≤ w * 8 ∧ (w * 8 - stackEnd) / 0x400000 = q
  · obtain ⟨hs, rfl⟩ := hw
    generalize (w * 8 - stackEnd) / 0x400000 = q
    split
    · by_cases hi : i < 2
      · rw [if_pos ⟨⟨hs, rfl⟩, hi⟩]
        obtain rfl | rfl : i = 0 ∨ i = 1 := by omega
        all_goals simp [ccore, quarter, smMod, smGet_set, endRes]; rfl
      · rw [if_neg (by tauto)]
        simp [ccore, quarter, smMod, smGet_set, show i ≠ 0 by omega, show i ≠ 1 by omega]
    · next hany =>
      have hne : (ccore s q i).lr ≠ some x := fun hl => by
        have hmem : (i, ccore s q i) ∈ (quarter s q).ccs := mem_of_smGet_ne fun he => by
          rw [ccore, he] at hl; simp [ccore0] at hl
        exact hany ⟨hs, List.any_eq_true.2 ⟨_, hmem, by simpa using hl⟩⟩
      rw [endRes, if_neg hne, ite_self]
  · rw [if_neg (c := _ ∧ i < 2) (by tauto)]
    split
    · next h =>
      have hq : q ≠ (w * 8 - stackEnd) / 0x400000 := fun e => hw ⟨h.1, e.symm⟩
      simp [ccore, quarter, smMod, smGet_set, hq]
    · rfl

theorem quarter_breakRes (s : State) (w q : Nat) :
    quarter (breakRes s w) q = { quarter s q with ccs := (quarter (breakRes s w) q).ccs } := by
  unfold breakRes
  dsimp only
  split
  · by_cases hq : q = (w * 8 - stackEnd) / 0x400000
    · simp [quarter, smMod, smGet_set, ← hq]
    · simp [quarter, smMod, smGet_set, hq]
  · rfl

/-- The reservation on the word written ends (R146; log entry 10). -/
theorem lr_breakRes (s : State) {w q i x : Nat} (hi : i < 2) (hw : resAt w q x) (h : (ccore s q i).lr = some x) :
    (ccore (breakRes s w) q i).lr = none := by
  obtain ⟨hs, hq, rfl⟩ := hw
  rw [ccore_breakRes, if_pos ⟨⟨hs, hq⟩, hi⟩, endRes_lr, if_pos h]

theorem keepsQuarters_of_quarters {s t : State} (h : t.quarters = s.quarters) : keepsQuarters s t := by
  have hq : ∀ q, quarter t q = quarter s q := fun q => by simp [quarter, h]
  exact fun q => ⟨by rw [hq], fun i => by simp [ccore, hq]⟩

theorem keepsQuarters_trans {s t u : State} (h : keepsQuarters s t) (h' : keepsQuarters t u) : keepsQuarters s u := by
  intro q
  obtain ⟨a, b⟩ := h q
  obtain ⟨a', b'⟩ := h' q
  refine ⟨by rw [a', a], fun i => ?_⟩
  obtain ⟨c, d⟩ := b i
  obtain ⟨c', d'⟩ := b' i
  exact ⟨by rw [c', c], d'.elim (fun e => d.imp e.trans e.trans) .inr⟩

theorem keepsQuarters_breakRes (s : State) (w : Nat) : keepsQuarters s (breakRes s w) := by
  refine fun q => ⟨quarter_breakRes s w q, fun i => ?_⟩
  rw [ccore_breakRes]
  split
  · refine ⟨endRes_frame _ _, ?_⟩
    rw [endRes_lr]; split <;> simp
  · exact ⟨rfl, .inl rfl⟩

/-- A quarter's other reservations stay, and no new one comes. -/
theorem keepsQuarters_lr_none {s t : State} (h : keepsQuarters s t) {q i : Nat} (hl : (ccore s q i).lr = none) :
    (ccore t q i).lr = none := ((h q).2 i).2.elim (·.trans hl) id

/-! ### Part of one word -/

section
variable {s : State}

theorem addrDown_of_noChan (h : s.stk.chan = []) (a : Nat) : addrDown s a = false := by simp [addrDown, h]

theorem noteDropped_of_noChan (h : s.stk.chan = []) (a n : Nat) : noteDropped s a n = s := by simp [noteDropped, h]

/-- A write of part of a word changes memory, marks and reservations alone (R146, R379). -/
theorem writePart_eq (s : State) (w lo : Nat) (bs : List Byte) : writePart s w lo bs =
    { s with mem := (writePart s w lo bs).mem, memPsn := (writePart s w lo bs).memPsn,
             quarters := (writePart s w lo bs).quarters } := by
  unfold writePart
  split
  · rfl
  · dsimp only; rw [breakRes_eq]; split
    · rfl
    · split <;> rfl

theorem writePart_quarters (h : s.stk.chan = []) (w lo : Nat) (bs : List Byte) :
    (writePart s w lo bs).quarters = (breakRes s w).quarters := by
  unfold writePart
  rw [addrDown_of_noChan h]
  dsimp only
  split
  · contradiction
  · split
    · rfl
    · split <;> rfl

theorem writePart_stk (s : State) (w lo : Nat) (bs : List Byte) : (writePart s w lo bs).stk = s.stk := by rw [writePart_eq]

/-- The bytes of a part of a word: a word written whole, or an unpoisoned one, takes them (R379). -/
theorem memByte_writePart (h : s.stk.chan = []) {w lo : Nat} {bs : List Byte} (hlo : bs.length = 8 → lo = 0) (x : Nat) :
    memByte (writePart s w lo bs) x =
      if (w * 8 + lo ≤ x ∧ x < w * 8 + lo + bs.length) ∧ (bs.length = 8 ∨ smGet false s.memPsn w = false)
      then bs.getD (x - (w * 8 + lo)) 0 else memByte s x := by
  have hb : (breakRes s w).mem = s.mem ∧ (breakRes s w).memPsn = s.memPsn := by rw [breakRes_eq]; exact ⟨rfl, rfl⟩
  unfold writePart
  rw [addrDown_of_noChan h]
  dsimp only
  simp only [Bool.false_eq_true, if_false, hb]
  by_cases h8 : bs.length = 8
  · simp [h8, hlo h8, memByte, smGet_putBytes]
  · rw [if_neg h8]
    cases hp : smGet false s.memPsn w
    · simp [h8, memByte, smGet_putBytes]
    · simp [h8, memByte, hb]

theorem memPsn_writePart (h : s.stk.chan = []) (w lo : Nat) (bs : List Byte) (v : Nat) :
    smGet false (writePart s w lo bs).memPsn v = (smGet false s.memPsn v && !decide (v = w ∧ bs.length = 8)) := by
  have hb : (breakRes s w).mem = s.mem ∧ (breakRes s w).memPsn = s.memPsn := by rw [breakRes_eq]; exact ⟨rfl, rfl⟩
  unfold writePart
  rw [addrDown_of_noChan h]
  dsimp only
  simp only [Bool.false_eq_true, if_false, hb]
  by_cases h8 : bs.length = 8
  · by_cases hv : v = w <;> simp [h8, hv, smGet_set]
  · rw [if_neg h8]
    cases hp : smGet false s.memPsn w <;> simp [h8, hb]

/-! ### Bytes written word by word -/

theorem writeLoop_nil (s : State) (a f : Nat) : writeLoop s a [] f = s := by cases f <;> rfl

theorem writeLoop_succ (s : State) (a f : Nat) {bs : List Byte} (hb : bs ≠ []) : writeLoop s a bs (f + 1) =
    writeLoop (writePart s (a / 8) (a % 8) (bs.take (8 - a % 8))) (a + (bs.take (8 - a % 8)).length) (bs.drop (8 - a % 8)) f := by
  cases bs with
  | nil => exact absurd rfl hb
  | cons b t => rfl

/-- A property of states that every write of a part of a word keeps. -/
theorem writeLoop_induct {P : State → Prop} (hP : ∀ t w lo bs, P t → P (writePart t w lo bs)) (f : Nat) (s : State) (a : Nat)
    (bs : List Byte) (h : P s) : P (writeLoop s a bs f) := by
  induction f generalizing s a bs with
  | zero => exact h
  | succ n ih =>
    by_cases hb : bs = []
    · subst hb; exact h
    · rw [writeLoop_succ _ _ _ hb]; exact ih _ _ _ (hP _ _ _ _ h)

theorem writeLoop_eq (s : State) (a : Nat) (bs : List Byte) (f : Nat) : writeLoop s a bs f =
    { s with mem := (writeLoop s a bs f).mem, memPsn := (writeLoop s a bs f).memPsn,
             quarters := (writeLoop s a bs f).quarters } :=
  writeLoop_induct (P := fun t => t = { s with mem := t.mem, memPsn := t.memPsn, quarters := t.quarters })
    (fun t w lo bs h => by rw [writePart_eq t, h]) f s a bs rfl

/-- The bytes after a write: those of the words that were unpoisoned or are written whole are the bytes written (R3, R379). -/
theorem memByte_writeLoop (h : s.stk.chan = []) {f : Nat} {bs : List Byte} (hf : bs.length ≤ f) (a x : Nat) :
    memByte (writeLoop s a bs f) x =
      if (a ≤ x ∧ x < a + bs.length) ∧ ((a ≤ x / 8 * 8 ∧ x / 8 * 8 + 8 ≤ a + bs.length) ∨ smGet false s.memPsn (x / 8) = false)
      then bs.getD (x - a) 0 else memByte s x := by
  induction f generalizing s a bs with
  | zero => rw [List.eq_nil_of_length_eq_zero (Nat.le_zero.1 hf), writeLoop_nil, if_neg (by simp)]
  | succ n ih =>
    by_cases hb : bs = []
    · subst hb; rw [writeLoop_nil, if_neg (by simp)]
    have hpos : 0 < bs.length := List.length_pos_iff.2 hb
    have hlen : (bs.take (8 - a % 8)).length = min (8 - a % 8) bs.length := List.length_take
    rw [writeLoop_succ _ _ _ hb, ih (by rw [writePart_stk, h]) (by rw [List.length_drop]; omega),
      memByte_writePart h (by omega), memPsn_writePart h, hlen, List.length_drop]
    by_cases hx : a ≤ x ∧ x < a + bs.length
    · by_cases hc : x < a + min (8 - a % 8) bs.length
      · have hw : x / 8 = a / 8 := by omega
        rw [if_neg (by omega), show a / 8 * 8 + a % 8 = a by omega, hw]
        refine (if_congr ?_ ?_ rfl)
        · constructor
          · rintro ⟨-, h8 | hp⟩
            · exact ⟨hx, .inl (by omega)⟩
            · exact ⟨hx, .inr hp⟩
          · rintro ⟨-, h8 | hp⟩
            · exact ⟨⟨hx.1, hc⟩, .inl (by omega)⟩
            · exact ⟨⟨hx.1, hc⟩, .inr hp⟩
        · rw [List.getD_eq_getElem?_getD, List.getElem?_take_of_lt (by omega), ← List.getD_eq_getElem?_getD]
      · have hw : x / 8 ≠ a / 8 := by omega
        have hm : min (8 - a % 8) bs.length = 8 - a % 8 := by omega
        rw [hm] at hc ⊢
        have hi : 8 - a % 8 + (x - (a + (8 - a % 8))) = x - a := by omega
        rw [if_neg (c := (a / 8 * 8 + a % 8 ≤ x ∧ _) ∧ _) (by omega)]
        simp only [hw, false_and, decide_false, Bool.not_false, Bool.and_true]
        refine if_congr ?_ ?_ rfl
        · refine and_congr (by omega) (or_congr (by omega) Iff.rfl)
        · rw [List.getD_eq_getElem?_getD, List.getElem?_drop, hi, ← List.getD_eq_getElem?_getD]
    · rw [if_neg (by omega), if_neg (by omega), if_neg (by tauto)]

/-- The poison marks after a write: a word written whole loses its mark, no other changes (R379). -/
theorem memPsn_writeLoop (h : s.stk.chan = []) {f : Nat} {bs : List Byte} (hf : bs.length ≤ f) (a v : Nat) :
    smGet false (writeLoop s a bs f).memPsn v = (smGet false s.memPsn v && !decide (a ≤ v * 8 ∧ v * 8 + 8 ≤ a + bs.length)) := by
  induction f generalizing s a bs with
  | zero =>
    rw [List.eq_nil_of_length_eq_zero (Nat.le_zero.1 hf), writeLoop_nil, decide_eq_false (by simp; omega)]; simp
  | succ n ih =>
    by_cases hb : bs = []
    · subst hb; rw [writeLoop_nil, decide_eq_false (by simp; omega)]; simp
    have hpos : 0 < bs.length := List.length_pos_iff.2 hb
    have hlen : (bs.take (8 - a % 8)).length = min (8 - a % 8) bs.length := List.length_take
    rw [writeLoop_succ _ _ _ hb, ih (by rw [writePart_stk, h]) (by rw [List.length_drop]; omega), memPsn_writePart h,
      hlen, List.length_drop, Bool.and_assoc, ← Bool.not_or, ← Bool.decide_or]
    congr 2
    exact decide_eq_decide.2 (by omega)

theorem keepsQuarters_writePart (h : s.stk.chan = []) (w lo : Nat) (bs : List Byte) :
    keepsQuarters s (writePart s w lo bs) :=
  keepsQuarters_trans (keepsQuarters_breakRes s w) (keepsQuarters_of_quarters (writePart_quarters h w lo bs))

theorem keepsQuarters_writeLoop (h : s.stk.chan = []) (a f : Nat) (bs : List Byte) :
    keepsQuarters s (writeLoop s a bs f) :=
  (writeLoop_induct (P := fun t => t.stk.chan = [] ∧ keepsQuarters s t)
    (fun t w lo bs h => ⟨by rw [writePart_stk, h.1], keepsQuarters_trans h.2 (keepsQuarters_writePart h.1 w lo bs)⟩)
    f s a bs ⟨h, keepsQuarters_of_quarters rfl⟩).2

/-- A write of a byte of a word ends the reservations on the word (R146; log entry 10). -/
theorem lr_writeLoop (h : s.stk.chan = []) {f : Nat} {bs : List Byte} (hf : bs.length ≤ f) (hne : bs ≠ []) {a w q i x : Nat}
    (hi : i < 2) (hw : resAt w q x) (hl : (ccore s q i).lr = some x) (ha : a < w * 8 + 8) (hb : w * 8 < a + bs.length) :
    (ccore (writeLoop s a bs f) q i).lr = none := by
  induction f generalizing s a bs with
  | zero => exact absurd (List.eq_nil_of_length_eq_zero (Nat.le_zero.1 hf)) hne
  | succ n ih =>
    have hpos : 0 < bs.length := List.length_pos_iff.2 hne
    have hlen : (bs.take (8 - a % 8)).length = min (8 - a % 8) bs.length := List.length_take
    have hs1 : (writePart s (a / 8) (a % 8) (bs.take (8 - a % 8))).stk.chan = [] := by rw [writePart_stk, h]
    rw [writeLoop_succ _ _ _ hne]
    by_cases hwa : w = a / 8
    · refine keepsQuarters_lr_none (keepsQuarters_writeLoop hs1 _ _ _) ?_
      simpa [ccore, quarter, writePart_quarters h, hwa] using lr_breakRes s hi hw hl
    · obtain he | he := ((keepsQuarters_writePart h (a / 8) (a % 8) (bs.take (8 - a % 8)) q).2 i).2
      · have hd : (bs.drop (8 - a % 8)).length = bs.length - (8 - a % 8) := List.length_drop
        exact ih hs1 (by omega) (List.ne_nil_of_length_pos (by omega)) (he.trans hl) (by omega) (by omega)
      · exact keepsQuarters_lr_none (keepsQuarters_writeLoop hs1 _ _ _) he

/-! ### Bytes written -/

theorem writeBytes_of_noChan (h : s.stk.chan = []) (a : Nat) (bs : List Byte) :
    writeBytes s a bs = writeLoop s a bs bs.length := by rw [writeBytes, noteDropped_of_noChan h]

theorem keepsMem_writeBytes (h : s.stk.chan = []) (a : Nat) (bs : List Byte) : keepsMem s (writeBytes s a bs) a bs.length := by
  intro x hx
  rw [writeBytes_of_noChan h, memByte_writeLoop h le_rfl, memPsn_writeLoop h le_rfl, if_neg (by omega),
    decide_eq_false (by omega)]
  simp

/-- A byte written to a word that is not poisoned reads back (R3). -/
theorem memByte_writeBytes_self (h : s.stk.chan = []) (a : Nat) {bs : List Byte} {i : Nat} (hi : i < bs.length)
    (hp : smGet false s.memPsn ((a + i) / 8) = false) : memByte (writeBytes s a bs) (a + i) = bs.getD i 0 := by
  rw [writeBytes_of_noChan h, memByte_writeLoop h le_rfl, if_pos ⟨by omega, .inr hp⟩, Nat.add_sub_cancel_left]

theorem writeBytes_eq (h : s.stk.chan = []) (a : Nat) (bs : List Byte) : writeBytes s a bs =
    { s with mem := (writeBytes s a bs).mem, memPsn := (writeBytes s a bs).memPsn,
             quarters := (writeBytes s a bs).quarters } := by
  rw [writeBytes_of_noChan h]; exact writeLoop_eq _ _ _ _

theorem keepsQuarters_writeBytes (h : s.stk.chan = []) (a : Nat) (bs : List Byte) : keepsQuarters s (writeBytes s a bs) := by
  rw [writeBytes_of_noChan h]; exact keepsQuarters_writeLoop h _ _ _

/-- A write that stores a byte of a word ends the reservations on the word (R146; log entry 10). -/
theorem lr_writeBytes (h : s.stk.chan = []) {bs : List Byte} (hne : bs ≠ []) {a q i x : Nat} (hi : i < 2) (hx : x % 8 = 0)
    (hx' : x < 0x400000) (hl : (ccore s q i).lr = some x) (ha : a < lsBase q + x + 8) (hb : lsBase q + x < a + bs.length) :
    (ccore (writeBytes s a bs) q i).lr = none := by
  have hw : (lsBase q + x) / 8 * 8 = lsBase q + x := by unfold lsBase; omega
  rw [writeBytes_of_noChan h]
  refine lr_writeLoop h le_rfl hne hi (w := (lsBase q + x) / 8) ?_ hl (by omega) (by omega)
  unfold resAt; rw [hw]; unfold lsBase stackEnd; omega

end

/-- Refutes O6: control core 0 of quarter 0 holds a reservation on the first word of its local store, and a write of no bytes
at an address inside that word meets the premises of the clause on reservations and ends none (a write of at least one byte
does: `lr_writeBytes`). -/
theorem not_writtenBytesReadBack : ¬ Obligations.WrittenBytesReadBack := by
  intro h
  obtain ⟨-, -, -, hres, -⟩ :=
    h (setQuarter State.reset 0 { quarter0 with ccs := [(0, { ccore0 with lr := some 0 })] }) (lsBase 0 + 1) [] rfl
  exact absurd (hres 0 0 0 (by decide) (by decide) rfl rfl (by decide) (by decide) (by decide)) (by decide)

end Sys2Proof.Machine

/-! Registers under reads and writes (R7 to R9, R77): what a field keeps and takes, what a raised error sets, the state
after reset, doorbells. -/

namespace Sys2Proof.Machine

/-! ### The state after reset -/

/-- Settles O3: every array is empty after reset, and an unlisted index holds its default. -/
theorem resetHoldsResetValues : Obligations.ResetHoldsResetValues :=
  ⟨by decide, rfl, fun _ => rfl, fun _ => ⟨rfl, rfl⟩, fun _ _ _ => rfl⟩

/-! ### Fields under a write and a read (R7, R8) -/

/-- A bit apart from a field keeps its value when the field is written (R8). -/
theorem bit_writeFld_ne (idle : Bool) (new : W64) (acc : W64 × Bool) {f : Fld} {b : Nat} (hl : f.lo ≤ f.hi) (hh : f.hi < 64)
    (hb : b < f.lo ∨ f.hi < b) : bit (writeFld idle new acc f).1 b = bit acc.1 b := by
  have hput : ∀ v, bit (putBits acc.1 f.hi f.lo v) b = bit acc.1 b := fun v => by
    rw [bit_putBits _ _ _ _ _ (by omega) hh, if_neg (by omega)]
  unfold writeFld
  cases f.acc with
  | rw | w1c | w1s => exact hput _
  | ro | rc | wo => rfl
  | rwi => cases idle <;> [rfl; exact hput _]

theorem bit_foldl_writeFld (idle : Bool) (new : W64) {b : Nat} (fs : List Fld) (acc : W64 × Bool)
    (hfs : ∀ f ∈ fs, f.lo ≤ f.hi ∧ f.hi < 64 ∧ (b < f.lo ∨ f.hi < b)) :
    bit (fs.foldl (writeFld idle new) acc).1 b = bit acc.1 b := by
  induction fs generalizing acc with
  | nil => rfl
  | cons f t ih =>
    obtain ⟨hl, hh, hb⟩ := hfs f List.mem_cons_self
    exact (ih _ fun g hg => hfs g (List.mem_cons_of_mem _ hg)).trans (bit_writeFld_ne _ _ _ hl hh hb)

theorem bit_readFld_ne (w acc : W64) {f : Fld} {b : Nat} (hl : f.lo ≤ f.hi) (hh : f.hi < 64) (hb : b < f.lo ∨ f.hi < b) :
    bit (readFld w acc f) b = bit acc b := by
  unfold readFld
  split
  · rfl
  · rw [bit_putBits _ _ _ _ _ (by omega) hh, if_neg (by omega)]

theorem bit_foldl_readFld (w : W64) {b : Nat} (fs : List Fld) (acc : W64)
    (hfs : ∀ f ∈ fs, f.lo ≤ f.hi ∧ f.hi < 64 ∧ (b < f.lo ∨ f.hi < b)) : bit (fs.foldl (readFld w) acc) b = bit acc b := by
  induction fs generalizing acc with
  | nil => rfl
  | cons f t ih =>
    obtain ⟨hl, hh, hb⟩ := hfs f List.mem_cons_self
    exact (ih _ fun g hg => hfs g (List.mem_cons_of_mem _ hg)).trans (bit_readFld_ne _ _ hl hh hb)

/-- A reserved bit reads 0 (R8). -/
theorem bit_readFlds_reserved (w : W64) {b : Nat} {fs : List Fld}
    (hfs : ∀ f ∈ fs, f.lo ≤ f.hi ∧ f.hi < 64 ∧ (b < f.lo ∨ f.hi < b)) : bit (readFlds fs w) b = false :=
  (bit_foldl_readFld w fs 0 hfs).trans (by simp [bit])

/-- Settles O8: field by field, along the folds that write and read a register. -/
theorem reservedBitsIgnoreWrites : Obligations.ReservedBitsIgnoreWrites := by
  refine ⟨fun fs idle old new b _ hfs => ⟨bit_foldl_writeFld idle new fs _ hfs, bit_readFlds_reserved old hfs⟩,
    fun s off d i j b hd _ hfs => ?_⟩
  exact ⟨_, by rw [viewReg, hd]; rfl, bit_readFlds_reserved _ hfs⟩

/-- Bits cleared by subtraction: what a write of ones to a W1C field leaves. -/
theorem testBit_sub_and (x y i : Nat) : (x - (x &&& y)).testBit i = (x.testBit i && !y.testBit i) := by
  induction i generalizing x y with
  | zero =>
    have h1 : (x &&& y) % 2 = 1 ↔ x % 2 = 1 ∧ y % 2 = 1 := Nat.and_mod_two_eq_one
    have hle : x &&& y ≤ x := Nat.and_le_left
    generalize x &&& y = z at h1 hle ⊢
    have h2 : (x - z) % 2 = 1 ↔ x % 2 = 1 ∧ ¬ y % 2 = 1 := by omega
    simp only [Nat.testBit_zero, h2, Bool.decide_and, decide_not]
  | succ n ih =>
    have h1 : (x &&& y) % 2 = 1 → x % 2 = 1 := fun h => (Nat.and_mod_two_eq_one.1 h).1
    have hle : x &&& y ≤ x := Nat.and_le_left
    have h2 : (x - (x &&& y)) / 2 = x / 2 - (x / 2 &&& y / 2) := by
      rw [← Nat.and_div_two]
      generalize x &&& y = z at h1 hle ⊢
      omega
    rw [Nat.testBit_succ, h2, ih, Nat.testBit_succ, Nat.testBit_succ]

theorem bits_lt {n : Nat} (w : BitVec n) (hi lo : Nat) : bits w hi lo < 2 ^ (hi + 1 - lo) := Nat.mod_lt _ (by positivity)

/-- A bit of a field after the field is replaced by v. -/
theorem bit_putBits_mem (w : W64) {hi lo b : Nat} (v : Nat) (hh : hi < 64) (h1 : lo ≤ b) (h2 : b ≤ hi) :
    bit (putBits w hi lo v) b = v.testBit (b - lo) := by rw [bit_putBits _ _ _ _ _ (by omega) hh, if_pos ⟨h1, h2⟩]

theorem testBit_bits_sub {n : Nat} (w : BitVec n) {hi lo b : Nat} (h1 : lo ≤ b) (h2 : b ≤ hi) :
    (bits w hi lo).testBit (b - lo) = bit w b := by
  rw [testBit_bits, decide_eq_true (by omega), Nat.add_sub_cancel' h1]; rfl

theorem bits_putBits_bits {n : Nat} (w : W64) (v : BitVec n) {hi lo : Nat} (hl : lo ≤ hi) (hh : hi < 64) :
    bits (putBits w hi lo (bits v hi lo)) hi lo = bits v hi lo := by
  rw [bits_putBits_self _ _ _ _ hl hh, Nat.mod_eq_of_lt (bits_lt _ _ _)]

/-- Settles O9: the branches of a field's write and read, one for each access code. -/
theorem accessCodesGovernWrites : Obligations.AccessCodesGovernWrites := by
  intro hi lo idle old new hl hh
  refine ⟨bits_putBits_bits old new hl hh, fun b h1 h2 => ?_, fun b h1 h2 => ?_, ⟨rfl, rfl, rfl⟩, ?_, ?_, fun acc => ?_⟩
  · exact (bit_putBits_mem _ _ hh h1 h2).trans (by rw [testBit_sub_and, testBit_bits_sub _ h1 h2, testBit_bits_sub _ h1 h2])
  · exact (bit_putBits_mem _ _ hh h1 h2).trans (by rw [Nat.testBit_or, testBit_bits_sub _ h1 h2, testBit_bits_sub _ h1 h2])
  · rintro rfl; exact ⟨bits_putBits_bits old new hl hh, rfl⟩
  · rintro rfl; exact ⟨rfl, rfl⟩
  · by_cases h : acc = .wo
    · subst h; simp [readFlds, readFld, bits]
    · simp only [readFlds, List.foldl, readFld, if_neg h]
      exact bits_putBits_bits 0 old hl hh

/-! ### Bits of an error register stay set while events are counted and sent (R77, R348) -/

theorem keepsRegs_countH1_ovf (k : Nat) (s : State) (j : Nat) : keepsRegs s (countH1 k s j) [aMgtPmcOvf] :=
  keepsRegs_ite (keepsRegs_join (keepsRegs_of_regs rfl _) (keepsRegs_setReg_mem _ _ _ (by simp))) (keepsRegs_of_regs rfl _)

/-- Counting changes no register but the overflow bits (R398, R405). -/
theorem keepsRegs_countOnly_ovf (s : State) (n k : Nat) : keepsRegs s (countOnly s n k) [aMgtPmcOvf] :=
  keepsRegs_ite (keepsRegs_refl _ _) (keepsRegs_ite (keepsRegs_join (t := { s with pmc := _ }) (keepsRegs_of_regs rfl _)
    (keepsRegs_foldl (keepsRegs_countH1_ovf k) _ _)) (keepsRegs_of_regs rfl _))

theorem keepsRegs_msixPut_counts (s : State) (vec : Nat) : keepsRegs s (msixPut s vec).1 [aMgtPmcOvf, aHstBmeDrops] := by
  unfold msixPut; dsimp only
  split
  · exact keepsRegs_of_regs rfl _
  · split
    · exact keepsRegs_join (t := hostPush s _) (keepsRegs_of_regs rfl _)
        (keepsRegs_mono (keepsRegs_countOnly_ovf _ _ _) (by simp))
    · exact keepsRegs_setReg_mem _ _ _ (by simp)

/-- A bit of a register that is 1 stays 1. -/
def keepsBit (s t : State) (o b : Nat) : Prop := bit (reg s o) b = true → bit (reg t o) b = true

theorem keepsBit_of_keepsRegs {s t : State} {l : List Nat} {o b : Nat} (h : keepsRegs s t l) (ho : o ∉ l) : keepsBit s t o b := by
  intro hb; rwa [h o ho]

theorem keepsBit_setErr (s : State) (blk : Blk) (c low b : Nat) (hr : ∀ r t, errRec blk = some (r, t) → r ≠ errReg blk) :
    keepsBit s (setErr s blk c low) (errReg blk) b := by
  intro hb
  have h0 : bit (reg s (errReg blk) ||| BitVec.ofNat 64 (2 ^ c)) b = true := by
    rw [bit, BitVec.toNat_or, Nat.testBit_or, Bool.or_eq_true]
    exact .inl hb
  unfold setErr; dsimp only
  split
  · next r t e =>
    split
    · rwa [reg_setReg_self]
    · rwa [reg_setReg_ne _ _ (hr r t e).symm, reg_setReg_self]
  · rwa [reg_setReg_self]

theorem keepsBit_msixSend (s : State) (vec b : Nat) : keepsBit s (msixSend s vec) aHstPortErr b := by
  have hput : ∀ t v, keepsBit t (msixPut t v).1 aHstPortErr b := fun t v =>
    keepsBit_of_keepsRegs (keepsRegs_msixPut_counts t v) (by decide)
  unfold msixSend; dsimp only
  split
  · exact hput _ _
  · have herr : keepsBit s (setErr (msixPut s vec).1 .hst 5 0) aHstPortErr b := fun hb =>
      keepsBit_setErr _ .hst 5 0 b (by rintro r t ⟨⟩; decide) (hput s vec hb)
    split
    · exact fun hb => hput _ _ (herr hb)
    · exact herr

theorem keepsBit_sourceSend (s : State) (e b : Nat) : keepsBit s (sourceSend s e) aHstPortErr b := by
  unfold sourceSend; split
  exacts [keepsBit_msixSend _ _ _, id]

/-- A message that an event sends sets bits of HST_PORT_ERR, and clears none (R348, R352). -/
theorem keepsBit_fireEvent (s : State) (e b : Nat) : keepsBit s (fireEvent s e) aHstPortErr b := by
  unfold fireEvent pmcSource; split
  exacts [fun hb => keepsBit_sourceSend _ _ _ (keepsBit_sourceSend _ _ _ hb), keepsBit_sourceSend _ _ _]

theorem errRec_ne_errReg (blk : Blk) (r t : Nat) (h : errRec blk = some (r, t)) : r ≠ errReg blk := by
  cases blk <;> simp only [errRec, Option.some.injEq, Prod.mk.injEq, reduceCtorEq] at h <;> obtain ⟨rfl, -⟩ := h
  case qtr q => exact fun e => by simp [errReg, aQtrErr, aQtrErrRec] at e
  case mem k => exact fun e => by simp [errReg, aMemErr, aMemErrRec] at e
  case upd k => exact fun e => by simp [errReg, aUpdErr, aUpdErrRec] at e
  all_goals decide

/-- Of the error registers only the host port's is among those that events change. -/
theorem errReg_mem_eventRegs {blk : Blk} (h : errReg blk ∈ eventRegs) : errReg blk = aHstPortErr := by
  simp only [eventRegs, List.mem_cons, List.not_mem_nil, or_false, aHstBmeDrops, aHstPortErr, aHstPortErrRec, aMgtPmcOvf] at h ⊢
  cases blk <;> simp only [errReg, aQtrErr, aMemErr, aUpdErr, aFabErr, aOptErr, aPrjErr, aHstPortErr, aMgtErr, aHstQErr, aClkErr] at h ⊢ <;> omega

theorem keepsBit_fireEvent_errReg (s : State) (e : Nat) (blk : Blk) (b : Nat) : keepsBit s (fireEvent s e) (errReg blk) b := by
  by_cases h : errReg blk ∈ eventRegs
  · rw [errReg_mem_eventRegs h]; exact keepsBit_fireEvent _ _ _
  · exact keepsBit_of_keepsRegs (keepsRegs_fireEvent s e) h

/-- An error that is raised sets its bit (R77). -/
theorem bit_raise (s : State) (blk : Blk) {b : Nat} (low : Nat) (hb : b < 64) :
    bit (reg (raise s blk b low) (errReg blk)) b = true := by
  have h := bit_setErr s blk b low hb (errRec_ne_errReg blk)
  unfold raise; dsimp only
  cases blk with
  | qtr q =>
    have h2 : bit (reg (setReg (setErr s (.qtr q) b low) (aQtrCcIrq q)
        (reg (setErr s (.qtr q) b low) (aQtrCcIrq q) ||| 0x20#64)) (errReg (.qtr q))) b = true := by
      rwa [reg_setReg_ne _ _ (by simp [errReg, aQtrErr, aQtrCcIrq])]
    split
    exacts [h2, keepsBit_fireEvent_errReg _ _ (.qtr q) b h2]
  | _ =>
    split
    exacts [h, keepsBit_fireEvent_errReg _ _ _ b h]

/-- Settles O10: a refused write raises RANGE and does nothing else (R9). -/
theorem illegalValueLeavesRegister : Obligations.IllegalValueLeavesRegister := by
  intro s blk off fs idle v hev herr hrec hirq
  refine ⟨keepsRegs_raise s blk 0 _ off ?_, bit_raise s blk _ (by decide), keepsCore_raise _ _ _ _⟩
  simp only [errRegs, List.cons_append, List.mem_cons, List.mem_append, not_or]
  refine ⟨herr, ⟨?_, ?_⟩, hev⟩
  · simp only [Option.mem_toList, Option.map_eq_some_iff, not_exists, not_and]
    exact fun p hp he => hrec p.1 p.2 hp he.symm
  · cases blk with
    | qtr q => simpa using hirq q rfl
    | _ => simp

/-! ### Doorbells (R217, R341, R342) -/

theorem hostBar2_open {s : State} (ho : barOpen s = true) (hr : devReady s = true) {off bytes : Nat} (h : off + bytes ≤ 2 ^ 24)
    (v : W64) : hostBar2 s off bytes v = bar2Write s off bytes v := by
  rw [hostBar2, ho, hr, decide_eq_false (Nat.not_lt.2 h)]; rfl

/-- The low and the high half of a 32-bit datum, as a 64-bit write carries it. -/
theorem bits_setWidth_halves (v : W32) : bits (v.setWidth 64) 15 0 = v.toNat % 65536 ∧ bits (v.setWidth 64) 31 16 = v.toNat / 65536 := by
  have := v.isLt
  simp only [bits, BitVec.toNat_setWidth, Nat.shiftRight_eq_div_pow]
  omega

section
variable {s : State} {n : Nat} {v : W32}

/-- A TAIL below the ring's size is taken. -/
theorem bar2Write_sqTail (hn : n < 64) (hv : v.toNat < sqSize s n) (h16 : v.toNat < 65536) :
    bar2Write s (4096 * n) 4 (v.setWidth 64) = setFld s (aHstSqPtr n) 15 0 v.toNat := by
  obtain ⟨hlo, hhi⟩ := bits_setWidth_halves v
  have hp : 4096 * n / 4096 = n ∧ 4096 * n % 4096 = 0 := by omega
  simp [bar2Write, hlo, hhi, hp, Nat.div_eq_of_lt h16, Nat.mod_eq_of_lt h16, hv, Nat.not_le.2 hn]

/-- A HEAD below the ring's size is taken. -/
theorem bar2Write_cqHead (hn : n < 64) (hv : v.toNat < cqSize s n) (h16 : v.toNat < 65536) :
    bar2Write s (4096 * n + 8) 4 (v.setWidth 64) = setFld s (aHstCqPtr n) 15 0 v.toNat := by
  obtain ⟨hlo, hhi⟩ := bits_setWidth_halves v
  have hp : (4096 * n + 8) / 4096 = n ∧ (4096 * n + 8) % 4096 = 8 := by omega
  simp [bar2Write, hlo, hhi, hp, Nat.div_eq_of_lt h16, Nat.mod_eq_of_lt h16, hv, Nat.not_le.2 hn]

/-- A TAIL beyond the ring is flagged, whether its high half is 0 or not. -/
theorem bar2Write_sqTail_beyond (hn : n < 64) (hv : sqSize s n ≤ v.toNat) :
    bar2Write s (4096 * n) 4 (v.setWidth 64) = raise s .hstQ 3 0 := by
  obtain ⟨hlo, hhi⟩ := bits_setWidth_halves v
  have hp : 4096 * n / 4096 = n ∧ 4096 * n % 4096 = 0 := by omega
  by_cases h0 : v.toNat / 65536 = 0
  · have hv' : ¬ v.toNat % 65536 < sqSize s n := by omega
    simp [bar2Write, hlo, hhi, hp, h0, hv', Nat.not_le.2 hn]
  · simp only [bar2Write, hhi, hp, if_neg (Nat.not_le.2 hn), if_pos (Or.inr h0)]

end

/-- What a legal doorbell does: a pointer's low half moves, its high half and every other register stay. -/
theorem doorbell_moves (s : State) (o x : Nat) (hx : x < 65536) :
    fld (setFld s o 15 0 x) o 15 0 = x ∧ fld (setFld s o 15 0 x) o 31 16 = fld s o 31 16 ∧
      keepsRegs s (setFld s o 15 0 x) [o] ∧ setFld s o 15 0 x = { s with regs := (setFld s o 15 0 x).regs } := by
  refine ⟨?_, fld_setFld_ne _ _ _ _ _ _ _ _ (by decide) (by decide) (by omega), keepsRegs_setReg _ _ _, rfl⟩
  rw [fld_setFld_self _ _ _ _ _ (by decide) (by decide)]; exact Nat.mod_eq_of_lt hx

/-- The pointers of the rings are none of the registers that a doorbell's error changes. -/
theorem keepsPtrs_raise_host (s : State) {blk : Blk} (hblk : blk = .hst ∨ blk = .hstQ) (b low m : Nat) :
    reg (raise s blk b low) (aHstSqPtr m) = reg s (aHstSqPtr m) ∧ reg (raise s blk b low) (aHstCqPtr m) = reg s (aHstCqPtr m) := by
  have hmem : ∀ o, 0x101010 ≤ o → o ∉ errRegs blk := by
    intro o ho
    obtain rfl | rfl := hblk <;>
      simp [errRegs, errReg, errRec, eventRegs, aHstPortErr, aHstPortErrRec, aHstBmeDrops, aMgtPmcOvf, aHstQErr] <;> omega
  exact ⟨keepsRegs_raise s blk b low _ (hmem _ (by unfold aHstSqPtr; omega)),
    keepsRegs_raise s blk b low _ (hmem _ (by unfold aHstCqPtr; omega))⟩

/-- Settles O27: the branches of a write to BAR2. -/
theorem doorbellsMovePointers : Obligations.DoorbellsMovePointers := by
  intro s n v off bytes w ho hr x
  have hn := n.isLt
  have hq := fun m => keepsPtrs_raise_host s (.inr rfl) 3 0 m
  have hsq : exec (.sqDoorbell n v) s = .next (bar2Write s (4096 * n) 4 (v.setWidth 64)) :=
    congrArg _ (hostBar2_open ho hr (by omega) _)
  have hcq : exec (.cqDoorbell n v) s = .next (bar2Write s (4096 * n + 8) 4 (v.setWidth 64)) :=
    congrArg _ (hostBar2_open ho hr (by omega) _)
  have hig : off + bytes ≤ 2 ^ 24 → exec (.doorbellIgnored off bytes (some w)) s = .next (bar2Write s off bytes w) :=
    fun h => congrArg _ (hostBar2_open ho hr h _)
  refine ⟨fun hx hx' => ⟨_, hsq, ?_⟩, fun hx hx' => ⟨_, hcq, ?_⟩, fun hx => ⟨_, hsq, ?_⟩, fun h1 h2 h3 => ⟨_, hig h2, ?_⟩,
    fun h1 h2 => ⟨_, hig h2, ?_⟩, fun h => ?_⟩
  · rw [bar2Write_sqTail hn hx hx']; exact doorbell_moves s _ x hx'
  · rw [bar2Write_cqHead hn hx hx']; exact doorbell_moves s _ x hx'
  · rw [bar2Write_sqTail_beyond hn hx]
    exact ⟨bit_raise s .hstQ 0 (by decide), fun m => (hq m).1, keepsCore_raise _ _ _ _⟩
  · rw [bar2Write, if_neg (by omega), if_pos (.inl h3)]
    exact ⟨bit_raise s .hstQ 0 (by decide), hq, keepsCore_raise _ _ _ _⟩
  · rw [bar2Write, if_pos (by omega)]
    exact ⟨bit_raise s .hst off (by decide), keepsPtrs_raise_host s (.inl rfl) 0 off, keepsCore_raise _ _ _ _⟩
  · show execDoorbellIgnored off bytes none s = _
    dsimp only [execDoorbellIgnored]
    rw [ho, decide_eq_false (Nat.not_lt.2 h)]
    rfl

end Sys2Proof.Machine

/-! The host port (13): event sources, configuration bits, the link, the size of BAR4, PCIe errors and timeouts. -/

namespace Sys2Proof.Machine

/-! ### A write in range while the block is idle -/

theorem snd_foldl_writeFld_idle (new : W64) (fs : List Fld) (acc : W64 × Bool) :
    (fs.foldl (writeFld true new) acc).2 = acc.2 := by
  induction fs generalizing acc with
  | nil => rfl
  | cons f t ih =>
    refine (ih _).trans ?_
    unfold writeFld
    cases f.acc <;> rfl

/-- A legal write of a register of an idle block stores its fields and raises nothing (R7). -/
theorem regPut_idle_legal (s : State) (blk : Blk) (off : Nat) (fs : List Fld) (v : W64) :
    regPut s blk off fs true true v = setReg s off (writeFlds fs true (reg s off) v).1 := by
  have h : (writeFlds fs true (reg s off) v).2 = false := snd_foldl_writeFld_idle v fs _
  simp [regPut, h]

/-! ### Event sources (R348) -/

theorem fldsAt_irqSrc : ∀ e : Fin 12, fldsAt (aHstIrqSrc e) = [⟨31, 31, .rw⟩, ⟨7, 0, .rw⟩] := by decide +kernel

theorem bits_setWidth (w : W32) {hi lo : Nat} : bits (w.setWidth 64) hi lo = bits w hi lo := by
  rw [bits, bits, BitVec.toNat_setWidth, Nat.mod_eq_of_lt (lt_trans w.isLt (by decide))]

/-- An event source's register after a write that holds EN = 1. -/
theorem reg_irqSrc_put (s : State) {e : Nat} (he : e < 12) (x : W64) :
    regPut s .hst (aHstIrqSrc e) (fldsAt (aHstIrqSrc e)) true true x =
      setReg s (aHstIrqSrc e) (putBits (putBits (reg s (aHstIrqSrc e)) 31 31 (bits x 31 31)) 7 0 (bits x 7 0)) := by
  rw [regPut_idle_legal, fldsAt_irqSrc ⟨e, he⟩]; rfl

/-! ### PCIe errors in AER (R349) -/

/-- The status bit of an error is set in AER. -/
def inAer (h : HostP) (e : PcieErr) : Bool := (if (pcieBit e).1 then h.aerU else h.aerC).testBit (pcieBit e).2

theorem inAer_pcieReport (s : State) (e e' : PcieErr) (h : inAer s.host e = true ∨ e = e') :
    inAer (pcieReport s e').host e = true := by
  unfold pcieReport inAer at *
  rcases hb : pcieBit e' with ⟨u, b⟩
  obtain h | rfl := h
  · cases u <;> cases hu : (pcieBit e).1 <;> simp_all [aerSet, Nat.testBit_or]
  · cases u <;> simp [hb, aerSet, Nat.testBit_or, Nat.testBit_two_pow_self]

theorem inAer_foldl_pcieReport (errs : List PcieErr) (s : State) (e : PcieErr) (h : inAer s.host e = true ∨ e ∈ errs) :
    inAer (errs.foldl pcieReport s).host e = true := by
  induction errs generalizing s with
  | nil => simpa using h
  | cons a t ih =>
    refine ih _ ?_
    obtain h | h := h
    · exact .inl (inAer_pcieReport _ _ _ (.inl h))
    · obtain rfl | h := List.mem_cons.1 h
      · exact .inl (inAer_pcieReport _ _ _ (.inr rfl))
      · exact .inr h

/-- Reports change AER's status and nothing else. -/
theorem foldl_pcieReport_eq (errs : List PcieErr) (s : State) : errs.foldl pcieReport s =
    { s with host := { s.host with
        aerU := (errs.foldl pcieReport s).host.aerU, aerC := (errs.foldl pcieReport s).host.aerC } } := by
  refine foldl_keep (P := fun t : State => t = { s with host := { s.host with aerU := t.host.aerU, aerC := t.host.aerC } }) errs
    (fun t e ht => ?_) rfl
  unfold pcieReport
  dsimp only
  split
  · rw [aerSet, ht]
  · rw [ht]

/-! ### The link (R339) -/

theorem bits_linkWord {wd rt : Nat} (hw : wd < 17) (hr : rt < 7) (flit l0p : Bool) :
    bits (linkWord wd rt flit l0p) 20 16 = wd ∧ bits (linkWord wd rt flit l0p) 15 12 = rt ∧
      bits (linkWord wd rt flit l0p) 8 8 = (if flit = true ∨ rt = 6 then 1 else 0) ∧
      bits (linkWord wd rt flit l0p) 0 0 = (if l0p = true then 1 else 0) := by
  have hc : (flit || rt == 6) = true ↔ flit = true ∨ rt = 6 := by simp
  simp only [linkWord, hc, bits, BitVec.toNat_ofNat, Nat.shiftRight_eq_div_pow]
  generalize hf : (if flit = true ∨ rt = 6 then 256 else 0) = x
  generalize hl : (if l0p = true then 1 else 0) = y
  have hx : x = 256 * (if flit = true ∨ rt = 6 then 1 else 0) := by subst hf; split <;> rfl
  have hy : y ≤ 1 := by subst hl; split <;> omega
  have hz : (if flit = true ∨ rt = 6 then 1 else 0) ≤ 1 := by split <;> omega
  generalize (if flit = true ∨ rt = 6 then 1 else 0) = z at hx hz ⊢
  omega

/-- A width and a rate of the link are reported, with the errors it met. -/
theorem doLinkChange_takes (s : State) {wd rt : Nat} (hw : [1, 2, 4, 8, 16].contains wd = true) (hr : 1 ≤ rt) (f c : Bool)
    (errs : List PcieErr) : doLinkChange s wd rt f c errs = setLink (errs.foldl pcieReport s) (linkWord wd rt f c) := by
  simp only [doLinkChange, hw, decide_eq_true hr]; rfl

theorem doLinkChange_refuses (s : State) {wd rt : Nat} (h : [1, 2, 4, 8, 16].contains wd = false ∨ rt = 0) (f c : Bool) :
    doLinkChange s wd rt f c [] = s := by
  obtain h | rfl := h
  · simp only [doLinkChange, h]; rfl
  · simp [doLinkChange]

theorem sendPending_nil {s : State} (h : s.host.pba = []) : sendPending s = s := by simp [sendPending, h]

/-- What a change of the link leaves: its width, rate and modes in HST_LINK, its errors in AER. -/
theorem linkChange_reports (s : State) {wd rt : Nat} (hw : wd < 17) (hr : rt < 7) (f c : Bool) (errs : List PcieErr) :
    let t := setLink (errs.foldl pcieReport s) (linkWord wd rt f c)
    fld t aHstLink 20 16 = wd ∧ fld t aHstLink 15 12 = rt ∧ fld t aHstLink 8 8 = (if f = true ∨ rt = 6 then 1 else 0) ∧
      fld t aHstLink 0 0 = (if c = true then 1 else 0) ∧ (∀ e, e ∈ errs → inAer t.host e = true) ∧
      (errs = [] → t.host = { s.host with link := t.host.link }) ∧
      t.host = { s.host with link := reg t aHstLink, aerU := t.host.aerU, aerC := t.host.aerC } ∧
      keepsRegs s t [aHstLink] ∧ t = { s with regs := t.regs, host := t.host } := by
  intro t
  have hreg : reg t aHstLink = linkWord wd rt f c := reg_setReg_self _ _ _
  have hs := foldl_pcieReport_eq errs s
  have hhost : t.host = { (errs.foldl pcieReport s).host with link := linkWord wd rt f c } := rfl
  obtain ⟨h1, h2, h3, h4⟩ := bits_linkWord hw hr f c
  refine ⟨by rw [fld, hreg, h1], by rw [fld, hreg, h2], by rw [fld, hreg, h3], by rw [fld, hreg, h4],
    fun e he => inAer_foldl_pcieReport errs s e (.inr he), ?_, ?_, ?_, ?_⟩
  · rintro rfl; rfl
  · rw [hreg, hhost, hs]
  · have hr : (errs.foldl pcieReport s).regs = s.regs := by rw [hs]
    exact keepsRegs_join (t := modHost (errs.foldl pcieReport s) _) (keepsRegs_of_regs hr _) (keepsRegs_setReg _ _ _)
  · subst t
    rw [hs]; rfl

/-- What a new size of BAR4 leaves: BASE stays. -/
theorem resize_takes (s : State) {n : Nat} (hn : n < 64) :
    bar4Size (setFld s aHstBar4Ctl 5 0 n) = 2 ^ n ∧
      fld (setFld s aHstBar4Ctl 5 0 n) aHstBar4Ctl 39 30 = fld s aHstBar4Ctl 39 30 ∧
      keepsRegs s (setFld s aHstBar4Ctl 5 0 n) [aHstBar4Ctl] ∧
      setFld s aHstBar4Ctl 5 0 n = { s with regs := (setFld s aHstBar4Ctl 5 0 n).regs } := by
  refine ⟨?_, fld_setFld_ne _ _ _ _ _ _ _ _ (by decide) (by decide) (by omega), keepsRegs_setReg _ _ _, rfl⟩
  rw [bar4Size, fld_setFld_self _ _ _ _ _ (by decide) (by decide)]
  exact congrArg (2 ^ ·) (Nat.mod_eq_of_lt hn)

/-- A write of HST_IRQ_SRCe with EN = 1 stores the vector; the event fires where its condition already holds as EN rises. -/
theorem irqSrcEnable_takes (s : State) {e : Fin 16} (w : W32) :
    let x := putBits (w.setWidth 64) 31 31 1
    let u := regPut s .hst (aHstIrqSrc e) (fldsAt (aHstIrqSrc e)) true true x
    e.val < 12 → fld u (aHstIrqSrc e) 31 31 = 1 ∧ fld u (aHstIrqSrc e) 7 0 = bits w 7 0 ∧ keepsRegs s u [aHstIrqSrc e] ∧
      (fld s (aHstIrqSrc e) 31 31 = 0 → eventCond u e = true → exec (.irqSrcEnable e w) s = .next (fireEvent u e)) ∧
      ((fld s (aHstIrqSrc e) 31 31 = 1 ∨ eventCond u e = false) → exec (.irqSrcEnable e w) s = .next u) := by
  intro x u he
  have hu : u = _ := reg_irqSrc_put s he x
  have hx : bits x 31 31 = 1 ∧ bits x 7 0 = bits w 7 0 := by
    refine ⟨bits_putBits_self _ _ _ _ (by decide) (by decide), ?_⟩
    rw [bits_putBits_ne _ _ _ _ _ _ (by decide) (by decide) (by omega), bits_setWidth]
  have hexec : exec (.irqSrcEnable e w) s = .next (irqSrcWrite s e x) := congrArg Host.Outcome.next (if_pos he)
  refine ⟨?_, ?_, ?_, fun h1 h2 => ?_, fun h => ?_⟩
  · rw [hu, fld, reg_setReg_self, bits_putBits_ne _ _ _ _ _ _ (by decide) (by decide) (by omega),
      bits_putBits_self _ _ _ _ (by decide) (by decide), hx.1]
    rfl
  · rw [hu, fld, reg_setReg_self, bits_putBits_bits _ _ (by decide) (by decide), hx.2]
  · rw [hu]; exact keepsRegs_setReg _ _ _
  · rw [hexec]; exact congrArg Host.Outcome.next (if_pos ⟨h1, h2⟩)
  · rw [hexec]; refine congrArg Host.Outcome.next (if_neg ?_)
    rintro ⟨h1, h2⟩
    obtain h | h := h
    · omega
    · exact absurd (h.symm.trans h2) (by decide)

/-- Settles O55: the branches of the host port's commands. -/
theorem hostPortFollows : Obligations.HostPortFollows := by
  intro s e w b c f wd rt n errs
  refine ⟨?_, fun he => ?_, rfl, rfl, rfl, rfl, fun h => congrArg Host.Outcome.next (sendPending_nil h), rfl,
    fun h => congrArg Host.Outcome.next (sendPending_nil h), fun hw hr => ?_,
    fun h => congrArg Host.Outcome.next (doLinkChange_refuses s h f c), fun h1 h2 => ?_, fun h => ?_,
    fun h k => ?_, fun h r hr ho => ?_, fun h d hd hh => ?_, fun h d hd => ?_, ?_⟩
  · exact irqSrcEnable_takes s w
  · exact congrArg Host.Outcome.next (if_neg (Nat.not_lt.2 he))
  · refine ⟨_, congrArg Host.Outcome.next (doLinkChange_takes s hw hr f c errs), ?_⟩
    exact linkChange_reports s wd.isLt rt.isLt f c errs
  · exact ⟨_, congrArg Host.Outcome.next (if_pos ⟨h1, h2⟩), resize_takes s (by omega)⟩
  · exact congrArg Host.Outcome.next (if_neg (by omega))
  · exact congrArg Host.Outcome.next (if_pos h)
  · show Host.Outcome.next (doCplTimeout s 0) = _
    rw [doCplTimeout, if_neg (Bool.eq_false_iff.1 h)]
    simp [fetchOne, hr, ho]
  · show Host.Outcome.next (doCplTimeout s 1) = _
    rw [doCplTimeout, if_neg (Bool.eq_false_iff.1 h)]
    simp [hd, hh]
  · show Host.Outcome.next (doCplTimeout s 2) = _
    unfold doCplTimeout
    rw [if_neg (Bool.eq_false_iff.1 h)]
    simp [hd]
  · exact ⟨_, rfl, reg_setReg_self _ _ _, rfl, keepsRegs_join (t := aerSet s 5) (keepsRegs_of_regs rfl _)
      (keepsRegs_join (t := modHost (aerSet s 5) _) (keepsRegs_of_regs rfl _) (keepsRegs_setReg _ _ _)), rfl⟩

end Sys2Proof.Machine

/-! Memory's tables (08): a region whose compression ends, in a state whose nibble is out of range. -/

namespace Sys2Proof.Machine

theorem leNat_of_zeros {l : List Byte} (h : ∀ b ∈ l, b = 0) : leNat l = 0 := by
  induction l with
  | nil => rfl
  | cons b t ih =>
    rw [leNat, ih fun c hc => h c (List.mem_cons_of_mem _ hc), h b List.mem_cons_self]
    rfl

@[simp] theorem length_leBytes (n v : Nat) : (leBytes n v).length = n := by simp [leBytes]

theorem getD_leBytes_zero (n i : Nat) : (leBytes n 0).getD i 0 = 0 := by
  simp only [leBytes, Nat.zero_shiftRight, List.map_const', List.getD_eq_getElem?_getD, List.getElem?_replicate]
  split <;> rfl

/-- The encoded form of a segment of zeros is 0 (R200). -/
theorem encodeSeg_zero (w : Nat) : encodeSeg 0 w = 0 := by
  have hz : ∀ e ∈ segElems 0 w, e = 0 := by simp [segElems]
  have hf : (segElems 0 w).filter (· != 0) = [] := by simpa [List.filter_eq_nil_iff] using hz
  have hb : (segElems 0 w).zipIdx.foldl (fun n p => if p.1 = 0 then n else n + 2 ^ p.2) 0 = 0 := by
    refine List.foldlRecOn (motive := fun n => n = 0) _ _ rfl fun n hn p hp => ?_
    rw [if_pos (hz _ (List.fst_mem_of_mem_zipIdx hp)), hn]
  simp only [encodeSeg, hf, hb, List.foldr_nil, Nat.zero_mul, Nat.add_zero]

theorem memByte_modStk (s : State) (f : Stk → Stk) (a : Nat) : memByte (modStk s f) a = memByte s a := rfl

/-- A slot of eight sectors or more is all encoded form. -/
theorem slotBytes_of_le (s : State) (v w : Nat) {n : Nat} (h : 2048 ≤ 256 * n) :
    slotBytes s v w n = leBytes (256 * n) (encodeSeg v w) := by
  rw [slotBytes, Nat.sub_eq_zero_of_le h]
  exact List.append_nil _

/-- Where compression ends, the sectors of the slot become plain bytes (R200). -/
theorem recode_ended {old s : State} {g n : Nat} {w : W64} (h1 : cmpRegion old (g * 2048) = some w)
    (h2 : cmpRegion s (g * 2048) = none) : recode old s (g, n) =
      modStk (writeBytes { s with free := s.free + 2048 } (g * 2048)
        (slotBytes s (readNat old (g * 2048) 2048) (cmpWidth w) (n + 1))) fun y => { y with nibble := smSet 7 y.nibble g 7 } := by
  simp only [recode, h1, h2]

/-- Region entry 0 compresses the first GiB with elements of 32 bits; the nibble of its last segment is 8, above the 7 that
stands for eight sectors (R200); the segment holds zeros, and the first byte beyond it, which no entry covers, holds 1. -/
def overlongNibble : State := { State.reset with
  regs := [(aMemReg 0, BitVec.ofNat 64 (2 ^ 63 + 2 ^ 61 + 3 * 2 ^ 59))], mem := [(2 ^ 30, 1)],
  stk := { stk0 with nibble := [(524287, 8)] } }

/-- The state once entry 0 no longer compresses. -/
def entryCleared : State := regPut overlongNibble (.mem 0) (aMemReg 0) (fldsAt (aMemReg 0)) true true 0

theorem entryCleared_eq : entryCleared = setReg overlongNibble (aMemReg 0) (reg entryCleared (aMemReg 0)) := by
  unfold entryCleared; rw [regPut_idle_legal, reg_setReg_self]

theorem readNat_overlongNibble : readNat overlongNibble (524287 * 2048) 2048 = 0 := by
  refine leNat_of_zeros fun b hb => ?_
  obtain ⟨i, hi, rfl⟩ := List.mem_map.1 hb
  have hne : 2 ^ 30 ≠ 524287 * 2048 + i := by have := List.mem_range.1 hi; omega
  simp only [memByte, overlongNibble, smGet, if_neg hne]
  rfl

/-- Nothing moves, for no window is under STACK interleave before or after; the one segment with a nibble is recoded. -/
theorem regionWr_overlongNibble_eq :
    regionWr overlongNibble 0 0 = recode overlongNibble entryCleared (524287, 8) := by
  have hj : inJob overlongNibble = false := by decide +kernel
  have hl : regionLegal overlongNibble 0 0 = true := by decide +kernel
  have hold : stackWindows (reg overlongNibble (aMemReg 0)) = [] := by decide +kernel
  have hnew : stackWindows (reg entryCleared (aMemReg 0)) = [] := by decide +kernel
  have hflush : flushCompressed overlongNibble = overlongNibble := rfl
  have hnib : overlongNibble.stk.nibble = [(524287, 8)] := rfl
  simp only [regionWr, hj, hl, hold, hflush, Bool.not_true, Bool.or_false, Bool.false_eq_true, if_false, Bool.not_false]
  rw [← entryCleared, hnew, recodeAll, hnib, List.foldl_cons, List.foldl_nil]
  rfl

/-- The nine sectors of the slot are 256 B more than the segment has, and the first byte of these falls on the byte beyond. -/
theorem memByte_regionWr_overlongNibble : memByte (regionWr overlongNibble 0 0) (2 ^ 30) = 0 := by
  have h1 : cmpRegion overlongNibble (524287 * 2048) = some (reg overlongNibble (aMemReg 0)) := by decide +kernel
  have h2 : cmpRegion entryCleared (524287 * 2048) = none := by decide +kernel
  have hchan : entryCleared.stk.chan = [] := by rw [entryCleared_eq]; rfl
  have hpsn : entryCleared.memPsn = [] := by rw [entryCleared_eq]; rfl
  rw [regionWr_overlongNibble_eq, recode_ended h1 h2, slotBytes_of_le _ _ _ (by decide), readNat_overlongNibble, encodeSeg_zero]
  rw [memByte_modStk, show (2 : Nat) ^ 30 = 524287 * 2048 + 2048 by norm_num]
  refine (memByte_writeBytes_self (s := { entryCleared with free := entryCleared.free + 2048 }) hchan (524287 * 2048)
    (bs := leBytes (256 * (8 + 1)) 0) (i := 2048) ?_ ?_).trans (getD_leBytes_zero _ _)
  · rw [length_leBytes]; decide
  · show smGet false entryCleared.memPsn _ = false
    rw [hpsn]; rfl

/-- Refutes O44: a REGION_WRITE that ends the compression of a region whose last segment has a nibble above 7, which the
statement's premises admit, writes beyond the segment, into one that no entry compresses. -/
theorem not_memoryTablesTakeWrites : ¬ Obligations.MemoryTablesTakeWrites := by
  intro h
  obtain ⟨-, hregion, -⟩ := h overlongNibble 0 0 0 0 0 (by decide +kernel)
  obtain ⟨t, ht, -, -, hmem⟩ := hregion (by decide +kernel) (by decide +kernel)
  obtain rfl : regionWr overlongNibble 0 0 = t := Host.Outcome.next.inj ht
  have hkept := hmem (2 ^ 30) (by decide +kernel)
  rw [memByte_regionWr_overlongNibble] at hkept
  exact absurd hkept (by decide)

end Sys2Proof.Machine

/-! What an access to stacked memory keeps: an induction over the cache's operations, and the addresses and targets that
registers of events do not move. -/

namespace Sys2Proof.Machine

/-! ### The cache (R200 to R206) -/

section
variable {P : State → Prop}

/-- A property that counting and changes of the stacks' own state keep. -/
structure CacheKeeps (P : State → Prop) : Prop where
  count : ∀ t n k, P t → P (count t n k)
  modStk : ∀ t f, P t → P (modStk t f)

theorem ite_keeps (c : Prop) [Decidable c] {s t : State} (hs : P s) (ht : P t) : P (if c then s else t) := by
  split <;> assumption

variable (hP : CacheKeeps P)
include hP

theorem writeBack_keeps (s : State) (key : Nat) (c : CLine) (h : P s) : P (writeBack s key c) := by
  have h2 : ∀ t n k m l, P t → P (count (count t n k) m l) := fun t n k m l ht => hP.count _ _ _ (hP.count _ _ _ ht)
  unfold writeBack
  dsimp only
  split
  · exact h
  · split
    · refine hP.modStk _ _ (h2 _ _ _ _ _ ?_)
      split
      exacts [h2 _ _ _ _ _ h, h]
    · exact h2 _ _ _ _ _ h

theorem touchMeta_keeps {drop : State → Nat → State} (hd : ∀ t key, P t → P (drop t key)) (s : State) (cls a : Nat) (wr : Bool)
    (h : P s) : P (touchMeta drop s cls a wr) := by
  unfold touchMeta
  rcases locate s a with ⟨k, c, u⟩
  dsimp only
  split
  · exact hP.modStk _ _ (hP.count _ _ _ h)
  · exact hP.modStk _ _ (hd _ _ (hP.count _ _ _ (hP.count _ _ _ h)))

theorem evictLoop_keeps (f : Nat) (s : State) (key : Nat) (h : P s) : P (evictLoop f s key) := by
  induction f generalizing s key with
  | zero => exact hP.modStk _ _ h
  | succ n ih =>
    unfold evictLoop
    split
    · exact h
    · next p _ =>
      have h1 := hP.modStk _ (fun t => { t with lines := smErase t.lines key }) (writeBack_keeps hP s key p.2 h)
      dsimp only
      split
      exacts [touchMeta_keeps hP (fun t k => ih t k) _ _ _ _ h1, h1]

theorem evict_keeps (s : State) (key : Nat) (h : P s) : P (evict s key) := evictLoop_keeps hP _ _ _ h

theorem install_keeps (s : State) (k cls la d : Nat) (h : P s) : P (install s k cls la d) := by
  unfold install placeLine
  exact hP.modStk _ _ (evict_keeps hP _ _ h)

theorem touchLine_keeps (s : State) (cls la parts : Nat) (wr whole : Bool) (h : P s) :
    P (touchLine s cls la parts wr whole) := by
  unfold touchLine
  rcases locate s (la * 256) with ⟨k, c, u⟩
  dsimp only
  split
  · exact hP.modStk _ _ (hP.count _ _ _ h)
  · split
    · exact install_keeps hP _ _ _ _ _ h
    · split
      · refine foldl_keep _ (fun t i ht => ?_)
          (hP.count _ _ _ (hP.count _ _ _ (hP.count _ _ _ (touchMeta_keeps hP (evict_keeps hP) _ _ _ _ h))))
        split
        exacts [ht, install_keeps hP _ _ _ _ _ ht]
      · exact install_keeps hP _ _ _ _ _ (hP.count _ _ _ (hP.count _ _ _ h))

/-- An access to stacked memory keeps what counting and changes of the stacks' own state keep. -/
theorem touch_keeps (s : State) (cls a n : Nat) (wr : Bool) (h : P s) : P (touch s cls a n wr) := by
  unfold touch
  split
  · exact h
  · refine foldl_keep _ (fun t i ht => ?_) h
    have hrec : ∀ c : Bool, P (if c = true then endRecov t (a / 256 + i) else t) := by
      intro c
      cases c
      · exact ht
      · unfold endRecov
        rw [if_pos rfl]
        split
        exacts [ht, hP.modStk _ _ ht]
    exact ite_keeps _ (hrec _) (touchLine_keeps hP _ _ _ _ _ _ (hrec _))

end

/-- A bit of the host port's errors stays set through counts, and so through every access. -/
theorem keepsBit_touch (s : State) (cls a n : Nat) (wr : Bool) (b : Nat) :
    keepsBit s (touch s cls a n wr) aHstPortErr b := by
  refine touch_keeps (P := fun t => bit (reg t aHstPortErr) b = true) ⟨fun t n k ht => ?_, fun t f ht => ht⟩ s cls a n wr
  have h1 : bit (reg (countOnly t n k) aHstPortErr) b = true :=
    keepsBit_of_keepsRegs (keepsRegs_countOnly_ovf t n k) (by decide) ht
  unfold count pmcSource
  split
  exacts [keepsBit_sourceSend _ _ _ h1, h1]

/-! ### Addresses and targets (R194 to R199) -/

section
variable {s t : State}

theorem not_mem_eventRegs_of_le {o : Nat} (h : 0x100400 ≤ o) : o ∉ eventRegs := by
  simp [eventRegs, aHstBmeDrops, aHstPortErr, aHstPortErrRec, aMgtPmcOvf]; omega

theorem locate_of_keepsRegs (h : keepsRegs s t eventRegs) (a : Nat) : locate t a = locate s a := by
  have hreg : ∀ n, reg t (aMemReg n) = reg s (aMemReg n) := fun n =>
    h _ (not_mem_eventRegs_of_le (by unfold aMemReg; omega))
  have hret : ∀ k, reg t (aMemRetire k) = reg s (aMemRetire k) := fun k =>
    h _ (not_mem_eventRegs_of_le (by unfold aMemRetire; omega))
  have hr : regionAt t a = regionAt s a := by simp only [regionAt, hreg]
  unfold locate
  rw [hr]
  simp only [hret]

/-- Slots are laid out by granules of 2 KiB, so all bytes of a word lie in one channel. -/
theorem locate_word (s : State) (x : Nat) : locate s (x / 8 * 8) = locate s x := by
  have h30 : (x / 8 * 8) >>> 30 = x >>> 30 := by simp only [Nat.shiftRight_eq_div_pow]; omega
  have h11 : (x / 8 * 8) >>> 11 = x >>> 11 := by simp only [Nat.shiftRight_eq_div_pow]; omega
  have o11 : (x / 8 * 8 % 2 ^ 30) >>> 11 = (x % 2 ^ 30) >>> 11 := by simp only [Nat.shiftRight_eq_div_pow]; omega
  have o27 : (x / 8 * 8 % 2 ^ 30) >>> 27 = (x % 2 ^ 30) >>> 27 := by simp only [Nat.shiftRight_eq_div_pow]; omega
  have hr : regionAt s (x / 8 * 8) = regionAt s x := by simp only [regionAt, h30]
  have hs : locStack (x / 8 * 8) = locStack x := by simp only [locStack, h30, o11, o27]
  unfold locate
  rw [hr, hs, h11]

/-- A byte reads as poisoned with its word. -/
theorem wordPsn_word (s : State) (x : Nat) : wordPsn s (x / 8 * 8) = wordPsn s x := by
  have h8 : x / 8 * 8 / 8 = x / 8 := by omega
  have hlt : decide (x / 8 * 8 < stackEnd) = decide (x < stackEnd) := decide_eq_decide.2 (by unfold stackEnd; omega)
  have hle : decide (stackEnd ≤ x / 8 * 8) = decide (stackEnd ≤ x) := decide_eq_decide.2 (by unfold stackEnd; omega)
  have hls : stackEnd ≤ x → decide ((x / 8 * 8 - stackEnd) % 0x400000 ≥ lsSize) = decide ((x - stackEnd) % 0x400000 ≥ lsSize) :=
    fun h => decide_eq_decide.2 (by unfold stackEnd lsSize at *; omega)
  simp only [wordPsn, addrDown, locate_word, h8, hlt, hle]
  by_cases h : stackEnd ≤ x
  · rw [hls h]
  · simp [h]

theorem qtrPresent_of_keepsRegs (h : keepsRegs s t eventRegs) (hm : t.mgt = s.mgt) (q : Nat) : qtrPresent t q = qtrPresent s q := by
  have hreg : 96 ≤ q ∨ reg t (aMgtPartSelftest (q / 64)) = reg s (aMgtPartSelftest (q / 64)) := by
    by_cases hq : 96 ≤ q
    · exact .inl hq
    · refine .inr (h _ ?_)
      simp [eventRegs, aMgtPartSelftest, aHstBmeDrops, aHstPortErr, aHstPortErrRec, aMgtPmcOvf]; omega
  obtain hq | hr := hreg
  · simp [qtrPresent, Nat.not_lt.2 hq]
  · simp only [qtrPresent, selftestFailed, partByte, hr, hm]

theorem targetOf_congr (h : ∀ q, qtrPresent t q = qtrPresent s q) (x : Nat) : targetOf t x = targetOf s x := by
  simp only [targetOf, h]

/-- Every byte of a range in memory, and of its first word, reaches memory. -/
theorem targetOf_of_inMem {a n x : Nat} (h : inMem s a n = true) (h1 : a / 8 * 8 ≤ x) (h2 : x < a + n) :
    targetOf s x = .mem := by
  obtain h | h := Bool.or_eq_true_iff.1 h
  · have hle : a + n ≤ stackEnd := of_decide_eq_true h
    rw [targetOf, if_pos (by omega)]
  · simp only [inLs, Bool.and_eq_true, decide_eq_true_eq] at h
    obtain ⟨⟨hlo, hhi⟩, hin, hq⟩ := h
    have hx : (x - stackEnd) / 0x400000 = (a - stackEnd) / 0x400000 := by unfold stackEnd lsSize at *; omega
    rw [targetOf, if_neg (by unfold stackEnd at *; omega), if_pos (by unfold stackEnd lsSize at *; omega)]
    dsimp only
    rw [hx, if_pos ⟨by unfold stackEnd lsSize at *; omega, hq⟩]

end

/-! ### An access of the host's (R204, R344) -/

section
variable (s : State) (a n : Nat) (wr : Bool)

theorem keepsCache_touchHost : keepsCache s (touchHost s a n wr) := keepsCache_touch _ _ _ _ _

theorem touchHost_eq : touchHost s a n wr = { s with
    regs := (touchHost s a n wr).regs, stk := (touchHost s a n wr).stk, host := (touchHost s a n wr).host,
    pmc := (touchHost s a n wr).pmc } := (keepsCache_touchHost s a n wr).1

theorem touchHost_chan : (touchHost s a n wr).stk.chan = s.stk.chan := (keepsCache_touchHost s a n wr).2.1

theorem keepsRegs_touchHost : keepsRegs s (touchHost s a n wr) eventRegs := (keepsCache_touchHost s a n wr).2.2

@[simp] theorem touchHost_mem : (touchHost s a n wr).mem = s.mem := by rw [touchHost_eq]
@[simp] theorem touchHost_memPsn : (touchHost s a n wr).memPsn = s.memPsn := by rw [touchHost_eq]
@[simp] theorem touchHost_quarters : (touchHost s a n wr).quarters = s.quarters := by rw [touchHost_eq]
@[simp] theorem touchHost_mgt : (touchHost s a n wr).mgt = s.mgt := by rw [touchHost_eq]

theorem targetOf_touchHost (x : Nat) : targetOf (touchHost s a n wr) x = targetOf s x :=
  targetOf_congr (qtrPresent_of_keepsRegs (keepsRegs_touchHost s a n wr) (touchHost_mgt s a n wr)) x

theorem wordPsn_touchHost (x : Nat) : wordPsn (touchHost s a n wr) x = wordPsn s x := by
  simp only [wordPsn, addrDown, touchHost_memPsn, touchHost_chan, locate_of_keepsRegs (keepsRegs_touchHost s a n wr)]

end

end Sys2Proof.Machine

/-! Accesses of the host (13): BAR4 word by word, the registers, configuration space. -/

namespace Sys2Proof.Machine

section
variable {s : State}

/-! ### One word written poisoned (R378) -/

theorem poisonWord_of_noChan (h : s.stk.chan = []) (w : Nat) : poisonWord s w =
    { s with mem := putBytes s.mem (w * 8) (List.replicate 8 0#8), memPsn := smSet false s.memPsn w true,
             quarters := (breakRes s w).quarters } := by
  rw [poisonWord, noteDropped_of_noChan h, poisonPart, addrDown_of_noChan h, breakRes_eq]
  rfl

theorem memByte_poisonWord (h : s.stk.chan = []) (w x : Nat) :
    memByte (poisonWord s w) x = if x / 8 = w then 0 else memByte s x := by
  simp only [memByte, poisonWord_of_noChan h, smGet_putBytes, List.length_replicate]
  by_cases hx : x / 8 = w
  · rw [if_pos hx, if_pos (by omega), List.getD_eq_getElem?_getD, List.getElem?_replicate, if_pos (by omega)]
    rfl
  · rw [if_neg hx, if_neg (by omega)]

theorem memPsn_poisonWord (h : s.stk.chan = []) (w v : Nat) :
    smGet false (poisonWord s w).memPsn v = (decide (v = w) || smGet false s.memPsn v) := by
  simp only [poisonWord_of_noChan h, smGet_set]
  by_cases hv : v = w <;> simp [hv]

/-! ### Words of a range (R345) -/

theorem mem_wordsIn {a n w : Nat} : w ∈ wordsIn a n ↔ 0 < n ∧ a / 8 ≤ w ∧ w * 8 < a + n := by
  unfold wordsIn
  split
  · simp; omega
  · simp only [List.mem_map, List.mem_range]
    constructor
    · rintro ⟨i, hi, rfl⟩; omega
    · rintro ⟨-, h1, h2⟩; exact ⟨w - a / 8, by omega, by omega⟩

/-- The first word of a range, and the words of the range that is left once it is written. -/
theorem mem_wordsIn_iff_rest {a n w : Nat} (hn : 0 < n) :
    w ∈ wordsIn a n ↔ w = a / 8 ∨ w ∈ wordsIn (a + min (8 - a % 8) n) (n - (8 - a % 8)) := by
  rw [mem_wordsIn, mem_wordsIn]; omega

/-- The words of a range reach memory. -/
def allMem (s : State) (a n : Nat) : Prop := ∀ w ∈ wordsIn a n, targetOf s (8 * w) = .mem

theorem allMem_of_inMem {a n : Nat} (h : inMem s a n = true) : allMem s a n := fun w hw => by
  rw [mem_wordsIn] at hw
  exact targetOf_of_inMem h (by omega) (by omega)

theorem allMem_congr {t : State} {a n : Nat} (ht : ∀ x, targetOf t x = targetOf s x) (h : allMem s a n) : allMem t a n :=
  fun w hw => (ht _).trans (h w hw)

/-! ### Writes of BAR4 (R344, R345) -/

theorem apLoop_nil (ep : Bool) (a f : Nat) (s : State) : apLoop ep a [] f s = s := by cases f <;> rfl

theorem apLoop_succ (ep : Bool) (a f : Nat) (s : State) {bs : List Byte} (hb : bs ≠ []) : apLoop ep a bs (f + 1) s =
    apLoop ep (a + min (8 - a % 8) bs.length) (bs.drop (8 - a % 8)) f (apWrite ep s (a / 8) (a % 8) (bs.take (8 - a % 8))) := by
  rw [← List.length_take]
  cases bs with
  | nil => exact absurd rfl hb
  | cons b t => rfl

theorem apWrite_mem {ep : Bool} {w lo : Nat} {bs : List Byte} (h : targetOf s (8 * w) = .mem) :
    apWrite ep s w lo bs = if ep then poisonWord s w else writePart s w lo bs := by
  simp only [apWrite, h]

theorem targetOf_writePart (s : State) (w lo : Nat) (bs : List Byte) (x : Nat) :
    targetOf (writePart s w lo bs) x = targetOf s x := by rw [writePart_eq]; rfl

/-- Data of an unpoisoned write of memory is stored as any other write's. -/
theorem apLoop_false_eq_writeLoop {f : Nat} {bs : List Byte} {a : Nat} (h : allMem s a bs.length) :
    apLoop false a bs f s = writeLoop s a bs f := by
  induction f generalizing s a bs with
  | zero => rfl
  | succ n ih =>
    by_cases hb : bs = []
    · subst hb; rw [apLoop_nil, writeLoop_nil]
    have hpos : 0 < bs.length := List.length_pos_iff.2 hb
    rw [apLoop_succ _ _ _ _ hb, writeLoop_succ _ _ _ hb, List.length_take,
      apWrite_mem (h _ ((mem_wordsIn_iff_rest hpos).2 (.inl rfl))), if_neg (by decide)]
    refine ih (allMem_congr (targetOf_writePart s _ _ _) fun w hw => h w ((mem_wordsIn_iff_rest hpos).2 (.inr ?_)))
    rwa [List.length_drop] at hw

/-- What a poisoned write of memory leaves: every word of the range poisoned with data 0, all other words as before (R345,
R378). -/
theorem apLoop_true {f : Nat} {bs : List Byte} {a : Nat} (hc : s.stk.chan = []) (hf : bs.length ≤ f)
    (h : allMem s a bs.length) :
    (∀ x, memByte (apLoop true a bs f s) x = if x / 8 ∈ wordsIn a bs.length then 0 else memByte s x) ∧
    (∀ v, smGet false (apLoop true a bs f s).memPsn v = (decide (v ∈ wordsIn a bs.length) || smGet false s.memPsn v)) ∧
    (apLoop true a bs f s).regs = s.regs := by
  induction f generalizing s a bs with
  | zero =>
    obtain rfl := List.eq_nil_of_length_eq_zero (Nat.le_zero.1 hf)
    exact ⟨fun x => rfl, fun v => rfl, rfl⟩
  | succ n ih =>
    by_cases hb : bs = []
    · subst hb; rw [apLoop_nil]; exact ⟨fun x => rfl, fun v => rfl, rfl⟩
    have hpos : 0 < bs.length := List.length_pos_iff.2 hb
    have heq := poisonWord_of_noChan hc (a / 8)
    rw [apLoop_succ _ _ _ _ hb, apWrite_mem (h _ ((mem_wordsIn_iff_rest hpos).2 (.inl rfl))), if_pos rfl]
    have hrest : allMem (poisonWord s (a / 8)) (a + min (8 - a % 8) bs.length) (bs.drop (8 - a % 8)).length := by
      refine allMem_congr (s := s) (fun x => by rw [heq]; rfl) fun w hw => h w ((mem_wordsIn_iff_rest hpos).2 (.inr ?_))
      rwa [List.length_drop] at hw
    obtain ⟨h1, h2, h3⟩ := ih (by rw [heq]; exact hc) (by rw [List.length_drop]; omega) hrest
    refine ⟨fun x => ?_, fun v => ?_, by rw [h3, heq]⟩
    · rw [h1, memByte_poisonWord hc, List.length_drop]
      by_cases hr : x / 8 ∈ wordsIn (a + min (8 - a % 8) bs.length) (bs.length - (8 - a % 8))
      · rw [if_pos hr, if_pos ((mem_wordsIn_iff_rest hpos).2 (.inr hr))]
      · rw [if_neg hr]
        exact if_congr (by rw [mem_wordsIn_iff_rest hpos]; tauto) rfl rfl
    · rw [h2, memPsn_poisonWord hc, List.length_drop, ← Bool.or_assoc, ← Bool.decide_or]
      congr 1
      exact decide_eq_decide.2 (by rw [mem_wordsIn_iff_rest hpos]; tauto)

/-- A clean write of BAR4 is a write of memory after its access to the cache. -/
theorem bar4Write_false {a : Nat} {bs : List Byte} (hc : s.stk.chan = []) (h : inMem s a bs.length = true) :
    bar4Write s a bs false = writeBytes (touchHost s a bs.length true) a bs := by
  have hm := allMem_congr (targetOf_touchHost s a bs.length true) (allMem_of_inMem h)
  rw [writeBytes_of_noChan (by rw [touchHost_chan, hc])]
  exact apLoop_false_eq_writeLoop hm

/-- What a clean write of BAR4 leaves (R345). -/
theorem bar4Write_false_spec {a : Nat} {bs : List Byte} (hc : s.stk.chan = []) (h : inMem s a bs.length = true) :
    let t := bar4Write s a bs false
    keepsMem s t a bs.length ∧
    (∀ i, i < bs.length → smGet false s.memPsn ((a + i) / 8) = false → memByte t (a + i) = bs.getD i 0) ∧
    keepsQuarters s t ∧
    t = { s with regs := t.regs, mem := t.mem, memPsn := t.memPsn, stk := t.stk, host := t.host, pmc := t.pmc,
                 quarters := t.quarters } := by
  intro t
  have ht : t = writeBytes (touchHost s a bs.length true) a bs := bar4Write_false hc h
  have hu : (touchHost s a bs.length true).stk.chan = [] := by rw [touchHost_chan, hc]
  have hmem : ∀ x, memByte (touchHost s a bs.length true) x = memByte s x := fun x => by simp [memByte]
  rw [ht]
  refine ⟨fun x hx => ?_, fun i hi hp => memByte_writeBytes_self hu a hi (by rwa [touchHost_memPsn]), ?_, ?_⟩
  · obtain ⟨h1, h2⟩ := keepsMem_writeBytes hu a bs x hx
    exact ⟨h1.trans (hmem x), by rw [h2, touchHost_memPsn]⟩
  · exact keepsQuarters_trans (keepsQuarters_of_quarters (touchHost_quarters s a bs.length true)) (keepsQuarters_writeBytes hu a bs)
  · rw [writeBytes_eq hu, touchHost_eq]

theorem poisonRx_eq (s : State) (a : Nat) : poisonRx s a =
    { s with regs := (poisonRx s a).regs, host := (poisonRx s a).host, pmc := (poisonRx s a).pmc } :=
  keepsCore_raise (aerSet s 12) .hst 1 a

theorem keepsRegs_poisonRx (s : State) (a : Nat) : keepsRegs s (poisonRx s a) eventRegs :=
  keepsRegs_join (t := aerSet s 12) (keepsRegs_of_regs rfl _)
    (keepsRegs_mono (keepsRegs_raise (aerSet s 12) .hst 1 a) (by decide))

theorem targetOf_poisonRx (s : State) (a x : Nat) : targetOf (poisonRx s a) x = targetOf s x :=
  targetOf_congr (qtrPresent_of_keepsRegs (keepsRegs_poisonRx s a) (by rw [poisonRx_eq])) x

/-- What a poisoned write of BAR4 leaves: it is reported, and its words are poisoned (R345, R349). -/
theorem bar4Write_true_spec {a : Nat} {bs : List Byte} (hc : s.stk.chan = []) (h : inMem s a bs.length = true) :
    let t := bar4Write s a bs true
    keepsMem s t a bs.length ∧ bit (reg t aHstPortErr) 1 = true ∧
      ∀ i, i < bs.length → smGet false t.memPsn ((a + i) / 8) = true ∧ memByte t (a + i) = 0 := by
  intro t
  have hu : (touchHost (poisonRx s a) a bs.length true).stk.chan = [] := by rw [touchHost_chan, poisonRx_eq, hc]
  have hm : allMem (touchHost (poisonRx s a) a bs.length true) a bs.length :=
    allMem_congr (fun x => by rw [targetOf_touchHost, targetOf_poisonRx]) (allMem_of_inMem h)
  have hmem : ∀ x, memByte (touchHost (poisonRx s a) a bs.length true) x = memByte s x := fun x => by
    rw [memByte, touchHost_mem, poisonRx_eq]; rfl
  have hpsn : (touchHost (poisonRx s a) a bs.length true).memPsn = s.memPsn := by rw [touchHost_memPsn, poisonRx_eq]
  have hbit : bit (reg (touchHost (poisonRx s a) a bs.length true) aHstPortErr) 1 = true :=
    keepsBit_touch _ _ _ _ _ _ (bit_raise (aerSet s 12) .hst a (by decide))
  obtain ⟨hbyte, hmark, hregs⟩ := apLoop_true hu le_rfl hm
  have ht : t = apLoop true a bs bs.length (touchHost (poisonRx s a) a bs.length true) := rfl
  clear_value t
  subst ht
  refine ⟨fun x hx => ?_, by rwa [reg, hregs], fun i hi => ?_⟩
  · have hw : x / 8 ∉ wordsIn a bs.length := by rw [mem_wordsIn]; omega
    rw [hbyte, if_neg hw, hmark, decide_eq_false hw, hpsn, hmem]
    exact ⟨rfl, rfl⟩
  · have hw : (a + i) / 8 ∈ wordsIn a bs.length := by rw [mem_wordsIn]; omega
    rw [hbyte, if_pos hw, hmark, decide_eq_true hw]
    exact ⟨rfl, rfl⟩

/-! ### Reads of BAR4 -/

theorem apReport_mem {w : Nat} (h : targetOf s (8 * w) = .mem) : apReport s w = s := by simp only [apReport, h]

/-- A range without a poisoned word. -/
theorem wordPsn_of_anyPsn {a n w : Nat} (h : anyPsn s a n = false) (hw : w ∈ wordsIn a n) : wordPsn s (8 * w) = false := by
  rw [mem_wordsIn] at hw
  obtain ⟨hn, h1, h2⟩ := hw
  simp only [anyPsn, Bool.and_eq_false_iff, bne_eq_false_iff_eq, List.any_eq_false, List.mem_range] at h
  have := h.resolve_left (by omega) (w - a / 8) (by omega)
  rw [Nat.add_sub_cancel' h1, Nat.mul_comm] at this
  simpa using this

theorem bar4Read_of_clean {a n : Nat} (h : inMem s a n = true) (hp : anyPsn s a n = false) :
    bar4Read s a n = answer (touchHost s a n false) (readBytes s a n) false := by
  have hm := allMem_congr (targetOf_touchHost s a n false) (allMem_of_inMem h)
  have hrep : (wordsIn a n).foldl apReport (touchHost s a n false) = touchHost s a n false :=
    List.foldlRecOn (motive := fun t => t = touchHost s a n false) _ _ rfl fun t ht w hw => by rw [ht, apReport_mem (hm w hw)]
  have hany : (wordsIn a n).any (apPsn (touchHost s a n false)) = false := List.any_eq_false.2 fun w hw => by
    simp only [apPsn, hm w hw, wordPsn_touchHost, wordPsn_of_anyPsn hp hw]; decide
  have hbytes : ∀ i < n, apByte (touchHost s a n false) (a + i) = memByte s (a + i) := fun i hi => by
    have hw : (a + i) / 8 ∈ wordsIn a n := mem_wordsIn.2 (by omega)
    have ht : targetOf (touchHost s a n false) (a + i) = .mem := by
      rw [targetOf_touchHost]; exact targetOf_of_inMem h (by omega) (by omega)
    have hps : wordPsn s (a + i) = false := by
      rw [← wordPsn_word, Nat.mul_comm]; exact wordPsn_of_anyPsn hp hw
    simp [apByte, ht, wordPsn_touchHost, hps, memByte]
  rw [bar4Read, hrep, hany]
  exact congrArg (answer _ · _) (List.map_congr_left fun i hi => hbytes i (List.mem_range.1 hi))

end

end Sys2Proof.Machine

/-! Accesses of the host to the registers and to configuration space (13), with what they leave. -/

namespace Sys2Proof.Machine

section
variable {s t u : State}

/-! ### What a read of registers clears (R7) -/

/-- Registers changed at most, and those without a field of code RC not at all: what a read does to them. -/
def clearsRc (s t : State) : Prop :=
  t = { s with regs := t.regs } ∧ ∀ o, (∀ f ∈ fldsAt o, f.acc ≠ .rc) → reg t o = reg s o

theorem clearsRc_refl (s : State) : clearsRc s s := ⟨rfl, fun _ _ => rfl⟩

theorem clearsRc_trans (h : clearsRc s t) (h' : clearsRc t u) : clearsRc s u := by
  obtain ⟨hs, hr⟩ := h
  obtain ⟨hs', hr'⟩ := h'
  exact ⟨by rw [hs', hs], fun o ho => (hr' o ho).trans (hr o ho)⟩

theorem clearsRc_clearFlds (s : State) (off hi lo : Nat) : clearsRc s (clearFlds s off hi lo) := by
  refine List.foldlRecOn (motive := clearsRc s) _ _ (clearsRc_refl s) fun t ht f hf => ?_
  split
  · next hc => exact clearsRc_trans ht ⟨rfl, fun o ho => reg_setReg_ne _ _ fun e => ho f (e ▸ hf) hc.1⟩
  · exact ht

theorem clearsRc_readClears (s : State) (off bytes : Nat) : clearsRc s (readClears s off bytes) := by
  unfold readClears
  dsimp only
  split
  · exact clearsRc_clearFlds _ _ _ _
  · split
    · exact clearsRc_trans (clearsRc_clearFlds _ _ _ _) (clearsRc_clearFlds _ _ _ _)
    · exact clearsRc_clearFlds _ _ _ _

/-- A read of a width that BAR0 accepts: its value, and the state after it. -/
theorem readBar_of_widthOk {off n : Nat} (h : widthOk off n = true) : readBar s off n =
    ((barPair s (off / 8 * 8)).1.toNat >>> (8 * (off % 8)) % 2 ^ (8 * n), (barPair s (off / 8 * 8)).2,
      { readClears s off n with free := s.free + 1 }) := by
  rw [readBar, h]; rfl

/-- The host's read of BAR0 once boot has ended. -/
theorem hostRead_of_open {off n : Nat} (ho : barOpen s = true) (hr : devReady s = true) (h : off + n ≤ 2 ^ 26) :
    hostRead s off n = answer (readBar s off n).2.2 (leBytes n (readBar s off n).1) (readBar s off n).2.1 := by
  rw [hostRead, ho, hr, decide_eq_false (Nat.not_lt.2 h), Bool.not_true, Bool.and_false, Bool.false_and]
  rfl

/-- What the host's read of BAR0 leaves (R7, R353). -/
theorem hostRead_takes {off n : Nat} (ho : barOpen s = true) (hr : devReady s = true) (hw : widthOk off n = true)
    (h : off + n ≤ 2 ^ 26) :
    let p := barPair s (off / 8 * 8)
    let t := hostRead s off n
    t.host = { s.host with
      out := s.host.out ++ [.completion (leBytes n (p.1.toNat >>> (8 * (off % 8)) % 2 ^ (8 * n))) p.2] } ∧
    (∀ o, (∀ f ∈ fldsAt o, f.acc ≠ .rc) → reg t o = reg s o) ∧
    t = { s with regs := t.regs, free := s.free + 1, host := t.host } := by
  intro p t
  obtain ⟨heq, hreg⟩ := clearsRc_readClears s off n
  have ht : t = answer { readClears s off n with free := s.free + 1 }
      (leBytes n (p.1.toNat >>> (8 * (off % 8)) % 2 ^ (8 * n))) p.2 :=
    (hostRead_of_open ho hr h).trans (by rw [readBar_of_widthOk hw])
  rw [ht]
  exact ⟨by rw [heq]; rfl, hreg, by rw [heq]; rfl⟩

/-- What a control core's or the firmware's read of registers leaves (R7). -/
theorem readBar_takes {off n : Nat} (hw : widthOk off n = true) :
    let t := (readBar s off n).2.2
    (∀ o, (∀ f ∈ fldsAt o, f.acc ≠ .rc) → reg t o = reg s o) ∧ t = { s with regs := t.regs, free := s.free + 1 } := by
  obtain ⟨heq, hreg⟩ := clearsRc_readClears s off n
  rw [readBar_of_widthOk hw]
  exact ⟨hreg, by rw [heq]⟩

/-! ### Writes of registers (R341, R343, R353 to R355) -/

theorem exec_bar0Write (off n : Nat) (v : W64) (src : Src) (ep : Bool) :
    exec (.registerWrite (.bar0 off) n v src ep) s = .next (barWrite s off n v src ep) := rfl

/-- A write of registers that comes to them. -/
theorem barWrite_of_reaches {off n : Nat} {src : Src} (v : W64) (hr : reaches s src) (h : src = .host → off + n ≤ 2 ^ 26) :
    barWrite s off n v src false = writeBar s off n v src := by
  cases src with
  | host =>
    obtain ⟨ho, hd⟩ := hr rfl
    rw [barWrite, decide_eq_false (Nat.not_lt.2 (h rfl)), Bool.and_false, fromSrc, ho, hd]
    rfl
  | _ => rfl

/-- The host's write of BAR0 while it is open, poisoned or not, before boot has ended or after. -/
theorem barWrite_host {off n : Nat} (v : W64) (ep : Bool) (ho : barOpen s = true) (h : off + n ≤ 2 ^ 26) :
    barWrite s off n v .host ep =
      if devReady s = true then (if ep = true then poisonRx s 0 else writeBar s off n v .host) else s := by
  rw [barWrite, decide_eq_false (Nat.not_lt.2 h), Bool.and_false, fromSrc, ho]
  cases devReady s <;> cases ep <;> rfl

theorem barWrite_refused {off n : Nat} (v : W64) (ep : Bool) (h : barOpen s = false ∨ 2 ^ 26 < off + n) :
    barWrite s off n v .host ep = unsupportedWrite s := by
  by_cases hb : 2 ^ 26 < off + n
  · rw [barWrite, decide_eq_true hb]; rfl
  · rw [barWrite, decide_eq_false hb, fromSrc, h.resolve_right hb]; rfl

theorem hostRead_refused {off n : Nat} (h : barOpen s = false ∨ 2 ^ 26 < off + n) : hostRead s off n = unsupported s := by
  refine if_pos ?_
  obtain h | h := h
  · rw [h]; rfl
  · rw [decide_eq_true h, Bool.or_true]

theorem regHere_lt {off : Nat} {r : RegD × Nat × Nat} (h : regHere off = some r) : off < 0x3f00000 := by
  by_contra hn
  rw [regHere, if_neg hn] at h
  cases h

section
variable {off i j : Nat} {d : RegD} {src : Src}

theorem writeBar_of_widthOk {n : Nat} (v : W64) (hw : widthOk off n = true)
    (hwin : (inSqWindow off || inMsix off || inPba off) = false) : writeBar s off n v src =
      (let r := if n = 8 then write8 s off v src else write4 s off (bits v 31 0) src
       if r.2 then r.1 else raise s .hst 0 off) := by
  simp only [Bool.or_eq_false_iff] at hwin
  obtain ⟨⟨h1, h2⟩, h3⟩ := hwin
  rw [writeBar, hw, h1, h2, h3]
  rfl

/-- 8 bytes written to a register of 64 bits. -/
theorem writeBar_row64 (v : W64) (hrow : regHere off = some (d, i, j))
    (hwin : (inSqWindow off || inMsix off || inPba off) = false) (hd : d.wid = 64) (ha : off % 8 = 0) :
    writeBar s off 8 v src = writeRow s d i j off v src := by
  rw [writeBar_of_widthOk v (by simp [widthOk, ha]) hwin]
  simp [write8, hrow, hd]

/-- 4 bytes written to a register of 32 bits. -/
theorem writeBar_row32 (v : W64) (hrow : regHere off = some (d, i, j))
    (hwin : (inSqWindow off || inMsix off || inPba off) = false) (hd : d.wid = 32) (ha : off % 4 = 0) :
    writeBar s off 4 v src = writeRow s d i j off (BitVec.ofNat 64 (bits v 31 0)) src := by
  rw [writeBar_of_widthOk v (by simp [widthOk, ha]) hwin]
  simp [write4, hrow, hd]

end

/-! ### The base of BAR4 (R344) -/

theorem setFld_eq (s : State) (o hi lo v : Nat) : setFld s o hi lo v = { s with regs := (setFld s o hi lo v).regs } := rfl

theorem fldsAt_bar4Ctl : fldsAt aHstBar4Ctl = [⟨39, 30, .rw⟩, ⟨5, 0, .ro⟩] := by decide +kernel

/-- A legal base is stored, and the size of BAR4 stays. -/
theorem bar4BaseWrite_legal {v : W64} (h : bar4Legal s v = true) :
    bar4BaseWrite s v = setFld s aHstBar4Ctl 39 30 (bits v 39 30) := by
  rw [bar4BaseWrite, h, regPut_idle_legal, fldsAt_bar4Ctl]; rfl

theorem bar4BaseWrite_takes {v : W64} (h : bar4Legal s v = true) :
    let t := bar4BaseWrite s v
    fld t aHstBar4Ctl 39 30 = bits v 39 30 ∧ fld t aHstBar4Ctl 5 0 = fld s aHstBar4Ctl 5 0 ∧
      keepsRegs s t [aHstBar4Ctl] ∧ t = { s with regs := t.regs } := by
  rw [bar4BaseWrite_legal h]
  refine ⟨?_, fld_setFld_ne _ _ _ _ _ _ _ _ (by decide) (by decide) (by omega), keepsRegs_setReg _ _ _,
    setFld_eq _ _ _ _ _⟩
  rw [fld_setFld_self _ _ _ _ _ (by decide) (by decide)]
  exact Nat.mod_eq_of_lt (bits_lt _ _ _)

theorem bar4BaseWrite_refused {v : W64} (h : bar4Legal s v = false) :
    let t := bar4BaseWrite s v
    reg t aHstBar4Ctl = reg s aHstBar4Ctl ∧ bit (reg t aHstPortErr) 0 = true ∧ keepsCore s t := by
  have ht : bar4BaseWrite s v = raise s .hst 0 (regLow .hst aHstBar4Ctl) := by
    rw [bar4BaseWrite, h, regPut, if_pos (by decide), rangeErr]
  rw [ht]
  exact ⟨keepsRegs_raise s .hst _ _ _ (by decide), bit_raise s .hst _ (by decide), keepsCore_raise _ _ _ _⟩

/-! ### Configuration space (R337, R340) -/

theorem setWidth_eq_of_bits {w v : W64} (h : bits w 31 0 = bits v 31 0) : w.setWidth 32 = v.setWidth 32 :=
  BitVec.eq_of_toNat_eq (by simpa only [BitVec.toNat_setWidth, bits, Nat.shiftRight_zero] using h)

theorem exec_configWrite (off n : Nat) (v : W64) :
    exec (.registerWrite (.config off) n v .host false) s = .next (cfgPut s off n v) := rfl

section
variable {off : Nat} (ha : off % 4 = 0) (hb : off < 4096)
include ha hb

theorem cfgPart_of_aligned : cfgPart off 4 = true := by
  simp only [cfgPart, ha, decide_eq_true hb]; rfl

/-- The four bytes of a register, read. -/
theorem cfgRead_of_aligned : cfgRead s off 4 = hostPush s (.completion (leBytes 4 (cfgWord s off).toNat) false) := by
  rw [cfgRead, if_pos (cfgPart_of_aligned ha hb), ha, Nat.div_mul_cancel (Nat.dvd_of_mod_eq_zero ha)]
  rfl

/-- The four bytes of a register, written: nothing of what it held stays in the value. -/
theorem cfgPut_of_aligned (v : W64) : cfgPut s off 4 v = cfgRegWrite s off (v.setWidth 32) := by
  rw [cfgPut, if_pos (cfgPart_of_aligned ha hb), ha, Nat.div_mul_cancel (Nat.dvd_of_mod_eq_zero ha)]
  exact congrArg (cfgRegWrite s off) (setWidth_eq_of_bits (bits_putBits_bits _ _ (by decide) (by decide)))

end

theorem bits_setWidth32 (v : W64) {hi lo : Nat} (h : hi < 32) (hl : lo ≤ hi) : bits (v.setWidth 32) hi lo = bits v hi lo := by
  apply Nat.eq_of_testBit_eq
  intro k
  rw [testBit_bits, testBit_bits, BitVec.toNat_setWidth, Nat.testBit_mod_two_pow]
  by_cases hk : k < hi + 1 - lo
  · rw [decide_eq_true (show lo + k < 32 by omega), Bool.true_and]
  · rw [decide_eq_false (show ¬ k + lo ≤ hi by omega)]; rfl

theorem bit_setWidth32 (v : W64) {b : Nat} (h : b < 32) : bit (v.setWidth 32) b = bit v b := by
  rw [bit, BitVec.toNat_setWidth, Nat.testBit_mod_two_pow, decide_eq_true h]; rfl

end

/-! ### BAR4 (R344, R345, R353) -/

section
variable {s : State} {off : Nat}

theorem exec_bar4Read {n : Nat} (hn : WF.hostLen n = true) : exec (.bar4Read off n) s = .next
    (if (!barOpen s || decide (bar4Size s < off + n)) = true then unsupported s
     else if (!devReady s) = true then bar4Early s n
     else if sliceWaits s (bar4Addr s off) n false = true then s else bar4Read s (bar4Addr s off) n) := by
  show execBar4Read off n s = _
  rw [execBar4Read, hn]
  rfl

theorem exec_bar4Write {bs : List Byte} (ep : Bool) (hn : WF.hostLen bs.length = true) : exec (.bar4Write off bs ep) s = .next
    (if (!barOpen s || decide (bar4Size s < off + bs.length)) = true then unsupportedWrite s
     else if (!devReady s || sliceWaits s (bar4Addr s off) bs.length true) = true then s
     else bar4Write s (bar4Addr s off) bs ep) := by
  show execBar4Write off bs ep s = _
  rw [execBar4Write, hn]
  rfl

theorem bar4_open {n : Nat} (ho : barOpen s = true) (h : off + n ≤ bar4Size s) :
    (!barOpen s || decide (bar4Size s < off + n)) = false := by
  rw [ho, decide_eq_false (Nat.not_lt.2 h)]; rfl

theorem bar4_refused {n : Nat} (h : barOpen s = false ∨ bar4Size s < off + n) :
    (!barOpen s || decide (bar4Size s < off + n)) = true := by
  obtain h | h := h
  · rw [h]; rfl
  · rw [decide_eq_true h, Bool.or_true]

/-- A read that finds BAR4 open, boot ended and memory's slice free. -/
theorem exec_bar4Read_takes {n : Nat} (hn : WF.hostLen n = true) (ho : barOpen s = true) (hr : devReady s = true)
    (h : off + n ≤ bar4Size s) (hw : sliceWaits s (bar4Addr s off) n false = false) :
    exec (.bar4Read off n) s = .next (bar4Read s (bar4Addr s off) n) := by
  rw [exec_bar4Read hn, bar4_open ho h, hr, hw]; rfl

theorem exec_bar4Write_takes {bs : List Byte} (ep : Bool) (hn : WF.hostLen bs.length = true) (ho : barOpen s = true)
    (hr : devReady s = true) (h : off + bs.length ≤ bar4Size s) (hw : sliceWaits s (bar4Addr s off) bs.length true = false) :
    exec (.bar4Write off bs ep) s = .next (bar4Write s (bar4Addr s off) bs ep) := by
  rw [exec_bar4Write ep hn, bar4_open ho h, hr, hw]; rfl

/-- What a read of BAR4 leaves: its answer goes to the host. -/
theorem bar4Read_takes {a n : Nat} (h : inMem s a n = true) (hp : anyPsn s a n = false) :
    let t := bar4Read s a n
    t.host.out.getLast? = some (.completion (readBytes s a n) false) ∧
      t = { s with regs := t.regs, stk := t.stk, host := t.host, pmc := t.pmc } := by
  rw [bar4Read_of_clean h hp]
  exact ⟨List.getLast?_concat, by rw [touchHost_eq]; rfl⟩

end

/-- Settles O54: the branches of the host's accesses. -/
theorem hostAccessesTake : Obligations.HostAccessesTake := by
  intro s off n bs v src ep a p
  refine ⟨fun hn ho hr hs hm hp hw => ⟨_, exec_bar4Read_takes hn ho hr hs hw, bar4Read_takes hm hp⟩,
    fun hn h => by rw [exec_bar4Read hn, if_pos (bar4_refused h)],
    fun hn ho hr hs hm hc hw => ⟨_, exec_bar4Write_takes false hn ho hr hs hw, bar4Write_false_spec hc hm⟩,
    fun hn ho hr hs hm hc hw => ⟨_, exec_bar4Write_takes true hn ho hr hs hw, bar4Write_true_spec hc hm⟩,
    fun hn h => by rw [exec_bar4Write false hn, if_pos (bar4_refused h)],
    fun hn ho hr hs hw => ?_, fun hn ho hs hw => ?_,
    fun h => ⟨_, rfl, bar4BaseWrite_takes h⟩, fun h => ⟨_, rfl, bar4BaseWrite_refused h⟩,
    fun d i j hrow hwin hr => ?_, fun hw hr hs => ?_, fun ho hr hs => ?_, fun ho hr hs => ?_,
    fun h => ⟨congrArg Host.Outcome.next (barWrite_refused v ep h), congrArg Host.Outcome.next (hostRead_refused h)⟩,
    fun ho hr hw hs => ⟨_, rfl, hostRead_takes ho hr hw hs⟩, fun hw => ⟨_, rfl, readBar_takes hw⟩,
    fun ha hb => ⟨congrArg Host.Outcome.next (cfgRead_of_aligned ha hb),
      congrArg Host.Outcome.next (cfgPut_of_aligned ha hb v)⟩,
    ?_, fun hv => ?_, rfl, rfl, rfl⟩
  · rw [exec_bar4Read hn, bar4_open ho hs, hr, hw]; rfl
  · have h : (!devReady s || sliceWaits s a bs.length true) = true := by
      obtain h | h := hw
      · rw [h]; rfl
      · rw [h, Bool.or_true]
    rw [exec_bar4Write ep hn, bar4_open ho hs, h]; rfl
  · have hlt := regHere_lt hrow
    refine ⟨fun hd ha => ?_, fun hd ha => ?_⟩
    · rw [exec_bar0Write, barWrite_of_reaches v hr fun _ => by omega, writeBar_row64 v hrow hwin hd ha]
    · rw [exec_bar0Write, barWrite_of_reaches v hr fun _ => by omega, writeBar_row32 v hrow hwin hd ha]
  · rw [exec_bar0Write, barWrite_of_reaches v hr hs, writeBar, hw]; rfl
  · rw [exec_bar0Write, barWrite_host v true ho hs, hr]; rfl
  · rw [exec_bar0Write, barWrite_host v ep ho hs, hr]; rfl
  · rw [exec_configWrite, cfgPut_of_aligned (by decide) (by decide) v, cfgRegWrite,
      bit_setWidth32 v (by decide), bit_setWidth32 v (by decide)]
  · rw [exec_configWrite, cfgPut_of_aligned (by decide) (by decide) v, cfgRegWrite,
      bits_setWidth32 v (by decide) (by decide), if_pos hv]

end Sys2Proof.Machine

/-! Packed rows in a local store (R23, R49): words written under a bit mask, the bytes that a row of elements reaches, and
VST, which writes one (R132). -/

namespace Sys2Proof.Machine

/-! ### Bits of numbers and of their bytes (R3) -/

/-- A sum of numbers with no common bit has the bits of both. -/
theorem testBit_add_of_disjoint (x y i : Nat) (h : ∀ j, (x.testBit j && y.testBit j) = false) :
    (x + y).testBit i = (x.testBit i || y.testBit i) := by
  have h0 : ¬ (x % 2 = 1 ∧ y % 2 = 1) := by simpa [Nat.testBit_zero] using h 0
  induction i generalizing x y with
  | zero =>
    have hodd : (x + y) % 2 = 1 ↔ x % 2 = 1 ∨ y % 2 = 1 := by omega
    simp only [Nat.testBit_zero, hodd, Bool.decide_or]
  | succ n ih =>
    have hj : ∀ j, ((x / 2).testBit j && (y / 2).testBit j) = false := fun j => by
      rw [← Nat.testBit_succ, ← Nat.testBit_succ]; exact h (j + 1)
    have hhalf : (x + y) / 2 = x / 2 + y / 2 := by omega
    rw [Nat.testBit_succ, hhalf, ih _ _ hj (by simpa [Nat.testBit_zero] using hj 0), Nat.testBit_succ, Nat.testBit_succ]

/-- Bits outside the mask of a word stored under it are those of the old word (R49). -/
theorem testBit_masked_of_clear {m j : Nat} (old v : Nat) (h : m.testBit j = false) :
    (old - (old &&& m) + (v &&& m)).testBit j = old.testBit j := by
  have hd : ∀ k, ((old - (old &&& m)).testBit k && (v &&& m).testBit k) = false := fun k => by
    rw [testBit_sub_and, Nat.testBit_and]; cases m.testBit k <;> simp
  rw [testBit_add_of_disjoint _ _ _ hd, testBit_sub_and, Nat.testBit_and, h]; simp

theorem testBit_leNat (bs : List Byte) (j : Nat) : (leNat bs).testBit j = (bs.getD (j / 8) 0).getLsbD (j % 8) := by
  induction bs generalizing j with
  | nil => simp [leNat]
  | cons b t ih =>
    rw [leNat, Nat.add_comm, show 256 = 2 ^ 8 from rfl, Nat.testBit_two_pow_mul_add _ b.isLt]
    by_cases hj : j < 8
    · rw [if_pos hj, Nat.div_eq_of_lt hj, Nat.mod_eq_of_lt hj]; rfl
    · obtain ⟨k, rfl⟩ := Nat.exists_eq_add_of_le (Nat.le_of_not_lt hj)
      rw [if_neg hj, ih, Nat.add_sub_cancel_left, Nat.add_mod_left, show (8 + k) / 8 = k / 8 + 1 by omega,
        List.getD_cons_succ]

theorem getLsbD_leBytes {n i k : Nat} (v : Nat) (hi : i < n) (hk : k < 8) :
    ((leBytes n v).getD i 0).getLsbD k = v.testBit (8 * i + k) := by
  have hb : (leBytes n v).getD i 0 = BitVec.ofNat 8 (v >>> (8 * i)) := by
    simp [leBytes, List.getD_eq_getElem?_getD, hi]
  rw [hb, BitVec.getLsbD_ofNat, decide_eq_true hk, Bool.true_and, Nat.testBit_shiftRight]

theorem testBit_readNat (s : State) {a n j : Nat} (h : j < 8 * n) :
    (readNat s a n).testBit j = (memByte s (a + j / 8)).getLsbD (j % 8) := by
  have hj : j / 8 < n := by omega
  simp [readNat, testBit_leNat, readBytes, List.getD_eq_getElem?_getD, hj]

/-! ### Writes above stacked memory, where no channel can be DOWN (R212) -/

/-- Memory, poison marks and reservations of the control cores are all that differ. -/
def onlyStores (s t : State) : Prop :=
  t = { s with mem := t.mem, memPsn := t.memPsn, quarters := t.quarters } ∧ keepsQuarters s t

theorem onlyStores_refl (s : State) : onlyStores s s := ⟨rfl, keepsQuarters_of_quarters rfl⟩

theorem onlyStores_trans {s t u : State} (h : onlyStores s t) (h' : onlyStores t u) : onlyStores s u :=
  ⟨by rw [h'.1, h.1], keepsQuarters_trans h.2 h'.2⟩

section
variable {s : State}

theorem addrDown_of_stackEnd_le {a : Nat} (h : stackEnd ≤ a) : addrDown s a = false := by
  simp [addrDown, Nat.not_lt.2 h]

theorem noteDropped_of_stackEnd_le {a : Nat} (h : stackEnd ≤ a) (n : Nat) : noteDropped s a n = s := by
  have hup : ∀ i, addrDown s ((a / 2048 + i) * 2048) = false := fun i =>
    addrDown_of_stackEnd_le (by unfold stackEnd at *; omega)
  simp [noteDropped, hup]

/-- A whole word stored: its bytes, its mark cleared, its reservations ended (R146, R379). -/
theorem writeNat_word {w : Nat} (h : stackEnd ≤ w * 8) (v : Nat) : writeNat s (w * 8) 8 v =
    { breakRes s w with mem := putBytes s.mem (w * 8) (leBytes 8 v), memPsn := smSet false s.memPsn w false } := by
  have hlen : (leBytes 8 v).length = 8 := length_leBytes 8 v
  have hne : leBytes 8 v ≠ [] := List.ne_nil_of_length_pos (by omega)
  have hw : writePart s w 0 (leBytes 8 v) =
      { breakRes s w with mem := putBytes s.mem (w * 8) (leBytes 8 v), memPsn := smSet false s.memPsn w false } := by
    rw [writePart, addrDown_of_stackEnd_le h, breakRes_eq]; simp only [hlen]; rfl
  rw [writeNat, writeBytes, noteDropped_of_stackEnd_le h, hlen, writeLoop_succ _ _ _ hne, Nat.mul_mod_left,
    Nat.mul_div_cancel _ (by decide), List.take_of_length_le hlen.le, List.drop_of_length_le hlen.le, writeLoop_nil, hw]

theorem onlyStores_writeNat_word {w : Nat} (h : stackEnd ≤ w * 8) (v : Nat) : onlyStores s (writeNat s (w * 8) 8 v) := by
  rw [writeNat_word h]
  exact ⟨by rw [breakRes_eq], keepsQuarters_trans (keepsQuarters_breakRes s w) (keepsQuarters_of_quarters rfl)⟩

theorem memByte_writeNat_word {w : Nat} (h : stackEnd ≤ w * 8) (v x : Nat) :
    memByte (writeNat s (w * 8) 8 v) x = if x / 8 = w then (leBytes 8 v).getD (x - w * 8) 0 else memByte s x := by
  rw [writeNat_word h, memByte, smGet_putBytes, length_leBytes]
  exact if_congr (by omega) rfl rfl

/-! ### Words written under a bit mask (R49) -/

/-- What `writeMask` does to its first word. -/
def maskStep (s : State) (w val m : Nat) : State :=
  if m = 0 then s
  else if m = 2 ^ 64 - 1 then writeNat s (w * 8) 8 val
  else if wordPsn s (w * 8) then s
  else writeNat s (w * 8) 8 (readNat s (w * 8) 8 - (readNat s (w * 8) 8 &&& m) + (val &&& m))

/-- A masked write with no poisoned element goes word by word. -/
theorem writeMask_succ (s : State) (w val mask n : Nat) : writeMask s w val mask 0 (n + 1) =
    writeMask (maskStep s w (val % 2 ^ 64) (mask % 2 ^ 64)) (w + 1) (val >>> 64) (mask >>> 64) 0 n := by
  simp [writeMask, maskStep]

theorem onlyStores_maskStep {w : Nat} (h : stackEnd ≤ w * 8) (val m : Nat) : onlyStores s (maskStep s w val m) := by
  unfold maskStep
  split
  · exact onlyStores_refl s
  · split
    · exact onlyStores_writeNat_word h _
    · split
      · exact onlyStores_refl s
      · exact onlyStores_writeNat_word h _

section
variable {w m x : Nat} (h : stackEnd ≤ w * 8) (hx : ∀ j, m.testBit j = true → w * 8 + j / 8 ≠ x)
include h hx

theorem memByte_writeNat_fullMask (hm : m = 2 ^ 64 - 1) (v : Nat) : memByte (writeNat s (w * 8) 8 v) x = memByte s x := by
  have hout : x / 8 ≠ w := fun hw => by
    refine hx (8 * (x - w * 8)) ?_ (by omega)
    rw [hm, Nat.testBit_two_pow_sub_one, decide_eq_true (by omega)]
  rw [memByte_writeNat_word h, if_neg hout]

/-- A byte of a word merged under a mask with none of the byte's bits is unchanged. -/
theorem memByte_writeNat_partMask (v : Nat) : memByte (writeNat s (w * 8) 8
    (readNat s (w * 8) 8 - (readNat s (w * 8) 8 &&& m) + (v &&& m))) x = memByte s x := by
  rw [memByte_writeNat_word h]
  split
  · next hw =>
    refine BitVec.eq_of_getLsbD_eq fun k hk => ?_
    have hj : w * 8 + (8 * (x - w * 8) + k) / 8 = x ∧ (8 * (x - w * 8) + k) % 8 = k := by omega
    have hclear : m.testBit (8 * (x - w * 8) + k) = false := Bool.eq_false_iff.2 fun hm => hx _ hm hj.1
    rw [getLsbD_leBytes _ (by omega) hk, testBit_masked_of_clear _ _ hclear, testBit_readNat s (by omega), hj.1, hj.2]
  · rfl

/-- A byte with no bit of the mask is unchanged. -/
theorem memByte_maskStep (val : Nat) : memByte (maskStep s w val m) x = memByte s x := by
  unfold maskStep
  split
  · rfl
  · split
    · next hm => exact memByte_writeNat_fullMask h hx hm val
    · split
      · rfl
      · exact memByte_writeNat_partMask h hx val

end

/-- A masked write changes memory, marks and reservations alone, and no byte without a bit of the mask. -/
theorem writeMask_frame {w : Nat} (h : stackEnd ≤ w * 8) (val mask n : Nat) :
    onlyStores s (writeMask s w val mask 0 n) ∧
    ∀ x, (∀ j, mask.testBit j = true → w * 8 + j / 8 ≠ x) → memByte (writeMask s w val mask 0 n) x = memByte s x := by
  induction n generalizing s w val mask with
  | zero => exact ⟨onlyStores_refl s, fun _ _ => rfl⟩
  | succ n ih =>
    rw [writeMask_succ]
    obtain ⟨hf, hb⟩ := ih (s := maskStep s w (val % 2 ^ 64) (mask % 2 ^ 64)) (w := w + 1) (by omega) (val >>> 64) (mask >>> 64)
    refine ⟨onlyStores_trans (onlyStores_maskStep h _ _) hf, fun x hx => ?_⟩
    rw [hb x fun j hj => ?rest, memByte_maskStep h (fun j hj => ?first)]
    case rest =>
      rw [Nat.testBit_shiftRight] at hj
      have := hx _ hj
      omega
    case first =>
      rw [Nat.testBit_mod_two_pow, Bool.and_eq_true] at hj
      exact hx j hj.2

end

/-! ### The bits of a row of elements (R23) -/

section
variable {wd sh : Nat} {cs : List Cell1}

/-- Each set bit of a row's mask lies in the place of one of its elements. -/
theorem packElems_mask {j : Nat} (h : (packElems wd sh cs).2.1.testBit j = true) :
    ∃ c ∈ cs, wd * c.idx + sh ≤ j ∧ j < wd * c.idx + sh + wd := by
  induction cs with
  | nil => simp [packElems] at h
  | cons c t ih =>
    simp only [packElems, Nat.testBit_or, Bool.or_eq_true, Nat.testBit_shiftLeft, Nat.testBit_two_pow_sub_one,
      Bool.and_eq_true, decide_eq_true_eq] at h
    obtain h | ⟨hlo, hhi⟩ := h
    · obtain ⟨d, hd, hj⟩ := ih h
      exact ⟨d, List.mem_cons_of_mem _ hd, hj⟩
    · exact ⟨c, List.mem_cons_self, by omega, by omega⟩

theorem packElems_clean (h : ∀ c ∈ cs, c.psn = false) : (packElems wd sh cs).2.2 = 0 := by
  induction cs with
  | nil => rfl
  | cons c t ih =>
    simp [packElems, h c List.mem_cons_self, ih fun d hd => h d (List.mem_cons_of_mem _ hd)]

end

/-- The elements of zero that fill the last group of an Hf6 row (R23). -/
def rowPad (f : Fmt) (n : Nat) : List Cell1 :=
  match f with
  | .hf6 => (List.range ((n + 3) / 4 * 4 - n)).map fun i => ⟨n + i, 0, false⟩
  | _ => []

theorem writeElems_eq (s : State) (f : Fmt) (a : Nat) (cs : List Cell1) (n : Nat) : writeElems s f a cs n =
    let p := packElems (fmtBits f) (8 * (a % 8)) (cs ++ rowPad f n)
    writeMask s (a / 8) p.1 p.2.1 p.2.2 ((8 * (a % 8) + fmtBits f * (n + 4) + 63) / 64) := by
  cases f <;> rfl

theorem rowPad_clean {f : Fmt} {n : Nat} {c : Cell1} (h : c ∈ rowPad f n) : c.psn = false := by
  unfold rowPad at h
  split at h
  · obtain ⟨i, -, rfl⟩ := List.mem_map.1 h; rfl
  · cases h

theorem rowPad_of_ne {f : Fmt} (h : f ≠ .hf6) (n : Nat) : rowPad f n = [] := by
  unfold rowPad
  split
  · exact absurd rfl h
  · rfl

theorem rowBytes_of_ne {f : Fmt} (h : f ≠ .hf6) (n : Nat) : rowBytes f n = (n * fmtBits f + 7) / 8 := by
  unfold rowBytes
  split
  · exact absurd rfl h
  · rfl

/-- The elements of a row, with the padding of an Hf6 row, end within its bytes. -/
theorem elem_end_le_rowBytes {f : Fmt} {n : Nat} {cs : List Cell1} (hcs : ∀ c ∈ cs, c.idx < n) {c : Cell1}
    (h : c ∈ cs ++ rowPad f n) : fmtBits f * c.idx + fmtBits f ≤ 8 * rowBytes f n := by
  by_cases hf : f = .hf6
  · subst hf
    have hi : c.idx < (n + 3) / 4 * 4 := by
      obtain h | h := List.mem_append.1 h
      · have := hcs c h; omega
      · obtain ⟨i, hi, rfl⟩ := List.mem_map.1 h
        have := List.mem_range.1 hi
        dsimp only; omega
    simp only [fmtBits, rowBytes]; omega
  · rw [rowPad_of_ne hf, List.append_nil] at h
    have hle : fmtBits f * (c.idx + 1) ≤ n * fmtBits f := Nat.mul_comm n _ ▸ Nat.mul_le_mul_left _ (hcs c h)
    rw [rowBytes_of_ne hf]
    rw [Nat.mul_add_one] at hle
    omega

/-- A row of clean elements stored above stacked memory changes its own bytes, marks and reservations, and nothing else. -/
theorem writeElems_frame (s : State) {f : Fmt} {a n : Nat} {cs : List Cell1} (ha : stackEnd ≤ a)
    (hcs : ∀ c ∈ cs, c.idx < n) (hp : ∀ c ∈ cs, c.psn = false) :
    onlyStores s (writeElems s f a cs n) ∧
    ∀ x, x < a ∨ a + rowBytes f n ≤ x → memByte (writeElems s f a cs n) x = memByte s x := by
  have hclean : ∀ c ∈ cs ++ rowPad f n, c.psn = false := fun c hc =>
    (List.mem_append.1 hc).elim (hp c) rowPad_clean
  rw [writeElems_eq]
  dsimp only
  rw [packElems_clean hclean]
  obtain ⟨hf, hb⟩ := writeMask_frame (s := s) (w := a / 8) (by unfold stackEnd at *; omega) _ _ _
  refine ⟨hf, fun x hx => hb x fun j hj => ?_⟩
  obtain ⟨c, hc, hlo, hhi⟩ := packElems_mask hj
  have hend := elem_end_le_rowBytes hcs hc
  omega

/-! ### An instruction that does its work in one step (R141) -/

section
variable {s : State} {q i : Nat} {f : Fetched} {d : Done}

/-- The instruction at the head of its stream leaves the queue and enters flight, its work done. -/
def flown (q i : Nat) (f : Fetched) (d : Done) : State :=
  amendOp (startOp (popHead d.s q i) q i f true true none [] d.tgt []) q fun o => { o with excl := d.excl, dst := d.dst }

theorem runInstr_takes {isOp : W128 → Bool} {touches : State → Fetched → Touches} {body : State → Fetched → Except Nat Done}
    (hh : headOf s q i isOp = .ok f true) (hs : slotFree s q i = true) (ht : streamHolds s q i (touches s f) = false)
    (hb : body s f = .ok d) : runInstr s q i isOp touches body = flown q i f d := by
  simp [runInstr, hh, hs, ht, hb, flown]

theorem streamHolds_touchesNone : streamHolds s q i (touchesNone s f) = false := by simp [streamHolds, touchesNone]

theorem flown_eq : flown q i f d = { d.s with quarters := (flown q i f d).quarters } := rfl

/-- Of an instruction whose work only stores, the flight adds no change outside the quarters. -/
theorem flown_of_onlyStores (h : onlyStores s d.s) : flown q i f d =
    { s with mem := (flown q i f d).mem, memPsn := (flown q i f d).memPsn, quarters := (flown q i f d).quarters } := by
  rw [flown_eq, h.1]

theorem memByte_flown (x : Nat) : memByte (flown q i f d) x = memByte d.s x := by rw [flown_eq]; rfl

theorem strm_flown : strm (flown q i f d) q i = ⟨(strm d.s q i).queue.drop 1, none, false, none⟩ := by
  rw [← strm_popHead_self]
  simp [flown, strm, amendOp, startOp]

theorem length_ops_flown : (quarter (flown q i f d) q).ops.length = (quarter d.s q).ops.length + 1 := by
  simp [flown, amendOp, startOp, popHead, setStrm]

end

theorem strm_of_keepsQuarters {s t : State} (h : keepsQuarters s t) (q i : Nat) : strm t q i = strm s q i := by
  rw [strm, (h q).1]; rfl

theorem ops_of_keepsQuarters {s t : State} (h : keepsQuarters s t) (q : Nat) :
    (quarter t q).ops = (quarter s q).ops := by rw [(h q).1]

/-! ### VST (R132) -/

section
variable (s : State) (q c : Nat) (w : W128)

/-- The elements that a VST stores. -/
def vstRow : List Cell1 := (List.range (lN w)).map fun i => (vstElem s q c w i).1

variable {s q c w}

theorem mem_vstRow {e : Cell1} (h : e ∈ vstRow s q c w) :
    e.idx < lN w ∧ e.psn = vpsn s q c (lPlace w e.idx).1 (lPlace w e.idx).2.1 := by
  obtain ⟨i, hi, rfl⟩ := List.mem_map.1 h
  exact ⟨List.mem_range.1 hi, rfl⟩

/-- A VST of clean registers that passes its checks and keeps no record stores its row and does no more. -/
theorem vstBody_clean {f : Fetched} (hc : lStatus false f.word = none) (hr : lStat f.word = false)
    (hp : ∀ e ∈ vstRow s q c f.word, e.psn = false) : vstBody q c s f =
      .ok ⟨writeElems s (lFmt f.word) (lsBase q + lAddr f.word) (vstRow s q c f.word) (lN f.word), .here, false,
        [(lsBase q + lAddr f.word, rowBytes (lFmt f.word) (lN f.word))]⟩ := by
  have hrow : ((List.range (lN f.word)).map (vstElem s q c f.word)).map (·.1) = vstRow s q c f.word := List.map_map ..
  have hany : ((List.range (lN f.word)).map (vstElem s q c f.word)).any (fun e => e.1.psn) = false := by
    rw [List.any_eq_false]
    exact fun e he => Bool.eq_false_iff.1 (hp e.1 (hrow ▸ List.mem_map_of_mem he))
  simp only [vstBody, hc, hrow, hany, hr, statDst, Bool.false_eq_true, if_false]

end

theorem exec_vst (s : State) (q : Fin 96) (c : Fin 4) : exec (.vst q c) s =
    .next (runInstr s q (8 + c) (fun w => wOpcode w == opVst) touchesNone (vstBody q c)) := rfl

/-- Settles O19: the row's mask reaches its own bytes alone, word by word. -/
theorem vstWritesItsRow : Obligations.VstWritesItsRow := by
  unfold Obligations.VstWritesItsRow
  intro s q c f hh hs hc hr hp
  have hpsn : ∀ e ∈ vstRow s q c f.word, e.psn = false := fun e he => by
    obtain ⟨hi, he⟩ := mem_vstRow he
    rw [he, hp _ hi]
  obtain ⟨hrow, hbytes⟩ := writeElems_frame s (f := lFmt f.word) (a := lsBase q + lAddr f.word)
    (by unfold lsBase stackEnd; omega) (fun e he => (mem_vstRow he).1) hpsn
  rw [exec_vst, runInstr_takes hh hs streamHolds_touchesNone (vstBody_clean hc hr hpsn)]
  refine ⟨_, rfl, fun x hx => ?_, ?_, ?_, ?_⟩
  · rw [memByte_flown, hbytes x hx]
  · rw [strm_flown, strm_of_keepsQuarters hrow.2]
  · rw [length_ops_flown, ops_of_keepsQuarters hrow.2]
  · exact flown_of_onlyStores hrow

end Sys2Proof.Machine

/-! The first error of a block stands (R77); instructions that end at once, and operations that leave flight (R118, R141,
R144). -/

namespace Sys2Proof.Machine

/-! ### Error records (R77) -/

/-- A block with a record: its error bit is set, and the record takes the error while VALID is 0. -/
theorem setErr_of_errRec (s : State) {blk : Blk} {r t : Nat} (b low : Nat) (hr : errRec blk = some (r, t)) :
    setErr s blk b low =
      let s1 := setReg s (errReg blk) (reg s (errReg blk) ||| BitVec.ofNat 64 (2 ^ b))
      if fld s r 63 63 = 1 then s1 else setReg s1 r (BitVec.ofNat 64 (2 ^ 63 + b * 2 ^ t + low)) := by
  have hv : ∀ v, fld (setReg s (errReg blk) v) r 63 63 = fld s r 63 63 := fun v => by
    rw [fld, reg_setReg_ne _ _ (errRec_ne_errReg blk r t hr)]; rfl
  simp only [setErr, hr, hv]

/-- Settles O11: the two branches of the record's VALID bit. -/
theorem firstErrorIsCaptured : Obligations.FirstErrorIsCaptured := by
  intro s blk b low hb
  refine ⟨bit_setErr s blk b low (by omega) (errRec_ne_errReg blk), fun r t hr hne => ?_⟩
  refine ⟨fun hv => ?_, fun hv => ?_, ?_, setErr_eq ..⟩
  · rw [setErr_of_errRec s b low hr, if_pos hv, reg_setReg_ne _ _ hne]
  · rw [setErr_of_errRec s b low hr, if_neg (by omega), reg_setReg_self]
  · refine keepsRegs_setErr s blk b low List.mem_cons_self fun r' t' hr' => ?_
    obtain ⟨rfl, -⟩ := Prod.mk.inj (Option.some.inj (hr.symm.trans hr'))
    simp

/-! ### Instructions whose predicate is false (R118) -/

section
variable (s : State) (q i : Nat)

@[simp] theorem ops_popHead : (quarter (popHead s q i) q).ops = (quarter s q).ops := by simp [popHead, setStrm]

@[simp] theorem aborted_popHead : (quarter (popHead s q i) q).aborted = (quarter s q).aborted := by simp [popHead, setStrm]

end

theorem quarter_of_keepsCore {s t : State} (h : keepsCore s t) (q : Nat) : quarter t q = quarter s q := by rw [h]; rfl

theorem strm_of_keepsCore {s t : State} (h : keepsCore s t) (q i : Nat) : strm t q i = strm s q i := by rw [h]; rfl

theorem bank_of_keepsCore {s t : State} (h : keepsCore s t) (q c b : Nat) : bank t q c b = bank s q c b := by rw [h]; rfl

theorem memByte_of_keepsCore {s t : State} (h : keepsCore s t) (a : Nat) : memByte t a = memByte s a := by rw [h]; rfl

theorem square_of_keepsCore {s t : State} (h : keepsCore s t) (n : Nat) : square t n = square s n := by rw [h]; rfl

theorem keepsCore_countSlots (s : State) (q c i n : Nat) : keepsCore s (countSlots s q c i n) :=
  keepsCore_ite (keepsCore_count _ _ _) (keepsCore_refl _)

section
variable {s : State} {q i : Nat} {f : Fetched}

/-- A skipped instruction with no header signal leaves its queue and is counted. -/
theorem keepsCore_skipNow (tgt : SigTo) (h : wSigen f.word = false) : keepsCore (popHead s q i) (skipNow s q i f tgt) := by
  rw [skipNow, endNow_quiet _ _ _ _ _ h]
  exact keepsCore_count _ _ _

theorem keepsRegs_skipNow (tgt : SigTo) (h : wSigen f.word = false) : keepsRegs s (skipNow s q i f tgt) eventRegs := by
  rw [skipNow, endNow_quiet _ _ _ _ _ h]
  exact keepsRegs_join (keepsRegs_of_regs rfl _) (keepsRegs_count _ _ _)

/-- What the skip of an instruction leaves: all but its stream's queue and what counting it reaches (R118). -/
theorem skipNow_frame (tgt : SigTo) (h : wSigen f.word = false) :
    (strm (skipNow s q i f tgt) q i).queue = (strm s q i).queue.drop 1 ∧
    (quarter (skipNow s q i f tgt) q).ops = (quarter s q).ops ∧ keepsRegs s (skipNow s q i f tgt) eventRegs ∧
    skipNow s q i f tgt = { s with
      regs := (skipNow s q i f tgt).regs, host := (skipNow s q i f tgt).host, pmc := (skipNow s q i f tgt).pmc,
      quarters := (skipNow s q i f tgt).quarters } := by
  have hk := keepsCore_skipNow (s := s) (q := q) (i := i) tgt h
  refine ⟨?_, ?_, keepsRegs_skipNow tgt h, ?_⟩
  · rw [strm_of_keepsCore hk, strm_popHead_self]
  · rw [quarter_of_keepsCore hk, ops_popHead]
  · rw [hk]; rfl

theorem runInstr_skips {isOp : W128 → Bool} (hh : headOf s q i isOp = .ok f false)
    (touches : State → Fetched → Touches) (body : State → Fetched → Except Nat Done) :
    runInstr s q i isOp touches body = skipNow s q i f .here := by simp only [runInstr, hh]

theorem doDispatch_skips (hh : headOf s q 12 (fun w => wOpcode w == opGather && blockOp s q w != 1) = .ok f false) :
    doDispatch s q = skipNow s q 12 f .here := by simp only [doDispatch, hh]

theorem doDcfg_skips {d : Nat} (hh : headOf s q (4 + d) (fun w => wOpcode w == opDcfg) = .ok f false) :
    doDcfg s q d = skipNow s q (4 + d) f .here := by simp only [doDcfg, hh]

/-- A skipped MMA still brings its bank to HELD or FULL (R57). -/
theorem doMma_skips {c : Nat} (hh : headOf s q c (fun w => wOpcode w == opMma) = .ok f false)
    (hw : bankWaits s q c f.word = false) (hb : (bank s q c (mBank f.word)).st ≠ .filling) : doMma s q c =
      countSlots (skipNow (setBank s q c (mBank f.word) { bank s q c (mBank f.word) with st := mmaEndSt f.word }) q c f .here)
        q c 1 128 := by
  simp [doMma, hh, hw, hb]

/-- A skipped DRAIN still brings its bank to EMPTY, or FULL with KEEP (R57). -/
theorem doDrain_skips {d : Nat} (hh : headOf s q (4 + d) (fun w => wOpcode w == opDrain) = .ok f false)
    (hb : (bank s q d (mBank f.word)).st = .full) : doDrain s q d =
      skipNow (setBank s q d (mBank f.word) { bank s q d (mBank f.word) with st := drainEndSt f.word }) q (4 + d) f
        (drainTo (dcGet s q d (dSlot f.word))) := by
  simp [doDrain, hh, hb]

end

theorem bank_setBank_self (s : State) (q c b : Nat) (v : Bank) : bank (setBank s q c b v) q c b = v := by
  rw [bank_setBank, if_pos rfl]

/-- A skip after a change of a bank leaves the bank changed, and memory as it was. -/
theorem bank_memByte_of_skip {s t : State} {q c b i : Nat} {x : Bank} (h : keepsCore (popHead (setBank s q c b x) q i) t) :
    bank t q c b = x ∧ ∀ a, memByte t a = memByte s a :=
  ⟨(bank_of_keepsCore h q c b).trans (bank_setBank_self s q c b x), fun a => memByte_of_keepsCore h a⟩

/-- Settles O16: each command's arm for a head whose predicate is false is the same skip, after the bank's change of an MMA
and a DRAIN. -/
theorem falsePredicateSkips : Obligations.FalsePredicateSkips := by
  intro s q c f hsig
  have skip : ∀ {cmd : Instr} {i : Nat}, exec cmd s = .next (skipNow s q i f .here) →
      ∃ t, exec cmd s = .next t ∧ (strm t q i).queue = (strm s q i).queue.drop 1 ∧
        (quarter t q).ops = (quarter s q).ops ∧ keepsRegs s t eventRegs ∧
        t = { s with regs := t.regs, host := t.host, pmc := t.pmc, quarters := t.quarters } :=
    fun h => ⟨_, h, skipNow_frame .here hsig⟩
  refine ⟨fun h => skip ?_, fun h => skip ?_, fun h => skip ?_, fun h => skip ?_, fun h => skip ?_, fun h => skip ?_,
    fun h => skip ?_, fun h => skip ?_, fun h hw hb _ => ?_, fun h hb => ?_⟩
  iterate 6 exact congrArg Host.Outcome.next (runInstr_skips h _ _)
  · exact congrArg Host.Outcome.next (doDispatch_skips h)
  · exact congrArg Host.Outcome.next (doDcfg_skips h)
  · obtain ⟨hbank, hmem⟩ := bank_memByte_of_skip
      (keepsCore_trans (keepsCore_skipNow .here hsig) (keepsCore_countSlots _ q c 1 128))
    exact ⟨_, congrArg Host.Outcome.next (doMma_skips h hw hb), congrArg Bank.st hbank, by rw [hbank], hmem⟩
  · obtain ⟨hbank, hmem⟩ := bank_memByte_of_skip (keepsCore_skipNow _ hsig)
    exact ⟨_, congrArg Host.Outcome.next (doDrain_skips h hb), congrArg Bank.st hbank, hmem⟩

/-! ### Operations that leave flight (R119, R141, R144) -/

section
variable {s : State} {q i : Nat} {o : Op}

theorem doRetire_takes (h : (streamOps s q i).find? (mayRetire s q) = some o) : doRetire s q i = retireOp s q o := by
  simp only [doRetire, h]

/-- Of a drain unit's operation no counter counts the retirement (R397, R401). -/
theorem retireCounts_of_drain (h : 4 ≤ o.stream ∧ o.stream < 8) : retireCounts s q o = s := by
  rw [retireCounts, if_neg (by omega), if_neg (by omega)]

/-- With no header signal and no bytes of step 7 a drain's retirement only frees its slot. -/
theorem retireOp_quiet (hsig : wSigen o.word = false) (hrec : o.recs = []) (hst : 4 ≤ o.stream ∧ o.stream < 8) :
    retireOp s q o = dropOp s q o.id := by
  simp [retireOp, retireCounts_of_drain hst, hrec, writeRecs, headerSignal, hsig]

theorem ops_dropOp (id : Nat) : (quarter (dropOp s q id) q).ops = (quarter s q).ops.filter (fun p => p.id != id) := by
  rw [dropOp, quarter_modQuarter_self]

theorem opReqs_sqAdd (n amt op : Nat) : opReqs (sqAdd s n amt) q op = opReqs s q op := by rw [sqAdd_eq]; rfl

/-- A SQSIG of this chip that has become the first of its stream sends its signal and retires (R119). -/
theorem doRetire_sqsig {r : List Op} (hn : (streamOps s q i).find? (mayRetire s q) = none) (hs : streamOps s q i = o :: r)
    (hop : wOpcode o.word = opSqsig) (hf : o.fin = false) (hl : bit o.word 15 = false) (hreq : opReqs s q o.id = []) :
    doRetire s q i = retireOp (sqAdd s (wPb o.word) (bits o.word 31 16)) q o := by
  have hsend : sqsigSend s q o.id o.word = sqAdd s (wPb o.word) (bits o.word 31 16) := by simp [sqsigSend, hl]
  unfold doRetire
  rw [hn, hs]
  simp [hop, hf, hsend, opReqs_sqAdd, hreq]

theorem doWaitTo_abandons (h : (streamOps s q i).find? (opWaits s q) = some o) :
    doWaitTo s q i = waitFault (abandonOp s q o) q i o.off := by simp only [doWaitTo, h]

theorem doWaitTo_faults {f : Fetched} {l : List Fetched} (hn : (streamOps s q i).find? (opWaits s q) = none)
    (hq : (strm s q i).queue = f :: l) (hm : mayStart s q = true)
    (hw : (strm s q i).waiting = true ∨ bankWaits s q i f.word = true) :
    doWaitTo s q i = waitFault (popHead s q i) q i f.off := by
  simp [doWaitTo, hn, hq, hm, hw]

end

/-! ### Faults of an engine (R144, R145) -/

section
variable (s : State) (q i : Nat)

/-- The end of the LAUNCH whose program a fault aborts changes the dispatcher and the model's counter alone (R229, R235). -/
theorem launchFault_eq (st : Nat) : launchFault s q st =
    { s with disp := (launchFault s q st).disp, free := (launchFault s q st).free } := by
  have hadm : ∀ id c d, admEnd s id c d =
      { s with disp := (admEnd s id c d).disp, free := (admEnd s id c d).free } := fun id c d => by
    unfold admEnd noteOverrun; dsimp only; split <;> rfl
  unfold launchFault
  split
  · split
    · exact hadm ..
    · rfl
  · rfl

@[simp] theorem launchFault_regs (st : Nat) : (launchFault s q st).regs = s.regs := by rw [launchFault_eq]
@[simp] theorem launchFault_mem (st : Nat) : (launchFault s q st).mem = s.mem := by rw [launchFault_eq]
@[simp] theorem launchFault_squares (st : Nat) : (launchFault s q st).squares = s.squares := by rw [launchFault_eq]
@[simp] theorem launchFault_quarters (st : Nat) : (launchFault s q st).quarters = s.quarters := by rw [launchFault_eq]

/-- A fault aborts the quarter's program with its status, unless one did before (R144). -/
theorem quarter_engFault (st off : Nat) :
    quarter (engFault s q i st off) q = { quarter s q with aborted := (quarter s q).aborted <|> some st } := by
  have hq : ∀ t : State, t.quarters = s.quarters → quarter (launchFault (ccIrq t q 2) q st) q = quarter s q := fun t ht => by
    simp [quarter, ccIrq, ht]
  unfold engFault
  rw [quarter_modQuarter_self, hq _ (by split; exacts [rfl, setReg_quarters ..])]

theorem memByte_engFault (st off a : Nat) : memByte (engFault s q i st off) a = memByte s a := by
  unfold engFault memByte
  rw [modQuarter_mem, launchFault_mem, ccIrq, setReg_mem]
  split
  exacts [rfl, by rw [setReg_mem]]

theorem square_engFault (st off n : Nat) : square (engFault s q i st off) n = square s n := by
  unfold engFault square
  rw [modQuarter_squares, launchFault_squares, ccIrq, setReg_squares]
  split
  exacts [rfl, by rw [setReg_squares]]

/-- A fault writes its record and the quarter's interrupts, and no other register (R144, R147). -/
theorem keepsRegs_engFault (st off : Nat) : keepsRegs s (engFault s q i st off) [aQtrEngFault q, aQtrCcIrq q] := by
  have hlaunch : ∀ t, keepsRegs t (launchFault t q st) [aQtrEngFault q, aQtrCcIrq q] := fun t =>
    keepsRegs_of_regs (launchFault_regs t q st) _
  unfold engFault
  refine keepsRegs_join (keepsRegs_join ?_ (keepsRegs_setReg_mem _ _ _ (by simp)))
    (keepsRegs_join (hlaunch _) (keepsRegs_of_regs rfl _))
  exact keepsRegs_ite (keepsRegs_refl _ _) (keepsRegs_setReg_mem _ _ _ (by simp))

theorem keepsCore_raiseQ (b src a : Nat) : keepsCore s (raiseQ s q b src a) := keepsCore_raise ..

/-- A wait that expires at the head of a stream: the quarter aborts with WAIT_TO, the word has left its queue, and
QTR_ERR.WAIT_TO is set (R144). -/
theorem waitFault_popHead (off : Nat) (ha : (quarter s q).aborted = none) :
    (quarter (waitFault (popHead s q i) q i off) q).aborted = some stWaitTo ∧
    (strm (waitFault (popHead s q i) q i off) q i).queue = (strm s q i).queue.drop 1 ∧
    bit (reg (waitFault (popHead s q i) q i off) (aQtrErr q)) eWaitTo = true ∧
    (∀ a, memByte (waitFault (popHead s q i) q i off) a = memByte s a) ∧
    ∀ n, square (waitFault (popHead s q i) q i off) n = square s n := by
  have hk := keepsCore_raiseQ (popHead s q i) q eWaitTo (srcOfStream i) 0
  have hq := (quarter_engFault (raiseQ (popHead s q i) q eWaitTo (srcOfStream i) 0) q i stWaitTo off)
  rw [quarter_of_keepsCore hk] at hq
  refine ⟨?_, ?_, ?_, fun a => ?_, fun n => ?_⟩
  · rw [waitFault, hq, aborted_popHead, ha]; rfl
  · rw [waitFault, strm, hq]; exact congrArg Strm.queue (strm_popHead_self s q i)
  · rw [waitFault, keepsRegs_engFault _ _ _ _ _ _ (by simp [aQtrErr, aQtrEngFault, aQtrCcIrq])]
    exact bit_raise _ (.qtr q) _ (by decide)
  · rw [waitFault, memByte_engFault, memByte_of_keepsCore hk]; rfl
  · rw [waitFault, square_engFault, square_of_keepsCore hk]; rfl

end

/-- Settles O22: the branches of ENGINE_OP_RETIRE and WAIT_TO. -/
theorem operationsEnd : Obligations.OperationsEnd := by
  intro s q i o f l
  refine ⟨fun h => congrArg Host.Outcome.next (doRetire_takes h), fun h hsig hrec hst => ?_,
    fun hn ⟨r, hs⟩ hop hf hl hreq => congrArg Host.Outcome.next (doRetire_sqsig hn hs hop hf hl hreq),
    fun h => congrArg Host.Outcome.next (doWaitTo_abandons h), fun hn hq hm hw ha => ?_⟩
  · refine ⟨dropOp s q o.id, ?_, ops_dropOp _, rfl⟩
    exact congrArg Host.Outcome.next ((doRetire_takes h).trans (retireOp_quiet hsig hrec hst))
  · obtain ⟨habort, hqueue, hrest⟩ := waitFault_popHead s q i f.off ha
    exact ⟨_, congrArg Host.Outcome.next (doWaitTo_faults hn hq hm hw), habort, hqueue.trans (by rw [hq]; rfl), hrest⟩

end Sys2Proof.Machine

/-! The matrix engine and its drains (R52 to R70): what MMA, MMA_END, DCFG, DRAIN and DRAIN_END leave, and that the writes of
a drain are those of its rows. -/

namespace Sys2Proof.Machine

/-! ### Operations in flight (R141, R143) -/

section
variable (s : State) (q i : Nat) (g : Op → Op)

@[simp] theorem length_ops_amendOp : (quarter (amendOp s q g) q).ops.length = (quarter s q).ops.length := by simp [amendOp]

@[simp] theorem length_ops_startOp (f : Fetched) (a b : Bool) (t : Option Stat) (r : List (Nat × Byte)) (d : SigTo)
    (e : List After) : (quarter (startOp s q i f a b t r d e) q).ops.length = (quarter s q).ops.length + 1 := by simp [startOp]

@[simp] theorem strm_amendOp : strm (amendOp s q g) q i = strm s q i := by simp [strm, amendOp]

@[simp] theorem strm_startOp (j : Nat) (f : Fetched) (a b : Bool) (t : Option Stat) (r : List (Nat × Byte)) (d : SigTo)
    (e : List After) : strm (startOp s q j f a b t r d e) q i = strm s q i := by simp [strm, startOp]

/-- An operation whose last write is done is marked finished. -/
theorem fin_of_mem_finishOp {id : Nat} {p : Op} (hp : p ∈ (quarter (finishOp s q id) q).ops) (hid : p.id = id) :
    p.fin = true := by
  rw [finishOp, quarter_modQuarter_self] at hp
  obtain ⟨o, -, rfl⟩ := List.mem_map.1 hp
  by_cases ho : o.id = id
  · rw [if_pos ho]
  · rw [if_neg ho] at hid; exact absurd hid ho

end

/-! ### MMA (R52 to R62) -/

theorem st_poisonBank (b : Bank) : (poisonBank b).st = b.st := by
  unfold poisonBank
  refine foldl_keep (P := fun x : Bank => x.st = b.st) _ (fun x p h => ?_) rfl
  exact h

theorem st_mmaBank (s : State) (q c : Nat) (w : W128) (a b : Tile) (x : Bank) : (mmaBank s q c w a b x).st = .filling := by
  unfold mmaBank
  dsimp only
  split
  · exact st_poisonBank _
  · refine foldl_keep (P := fun x : Bank => x.st = .filling) _ (fun x p h => ?_) rfl
    exact h

section
variable {s : State} {q c : Nat} {f : Fetched}

theorem doMma_starts (hh : headOf s q c (fun w => wOpcode w == opMma) = .ok f true) (hw : bankWaits s q c f.word = false)
    (hb : (bank s q c (mBank f.word)).st ≠ .filling) (hs : slotFree s q c = true) : doMma s q c = mmaStart s q c f := by
  simp [doMma, hh, hw, hb, hs]

/-- The state of an MMA in flight, its bank loaded; g notes the operation's slots (R401). -/
def mmaFlown (s : State) (q c : Nat) (f : Fetched) (a b : Tile) (g : Op → Op) : State :=
  amendOp (startOp (setBank (popHead s q c) q c (mBank f.word) (mmaBank s q c f.word a b (bank s q c (mBank f.word))))
    q c f true false none [] .here []) q g

/-- An MMA whose checks pass is in flight, and may have raised META (R59). -/
theorem mmaStart_takes {ab bb : W512} (ha : readBlock s q (bits f.word 63 48) tileReserved = .ok ab)
    (hb : readBlock s q (bits f.word 47 32) tileReserved = .ok bb)
    (hc : mmaStatus (tileOf ab) (tileOf bb) (mK f.word) (mRows f.word) (mCols f.word) = none) :
    ∃ g, keepsCore (mmaFlown s q c f (tileOf ab) (tileOf bb) g) (mmaStart s q c f) := by
  simp only [mmaStart, ha, hb, hc]
  exact ⟨_, keepsCore_ite (keepsCore_refl _) (keepsCore_raiseQ ..)⟩

variable (s q c f) (a b : Tile) (g : Op → Op)

theorem mmaFlown_eq : mmaFlown s q c f a b g =
    { s with banks := (mmaFlown s q c f a b g).banks, quarters := (mmaFlown s q c f a b g).quarters } := rfl

theorem memByte_mmaFlown (x : Nat) : memByte (mmaFlown s q c f a b g) x = memByte s x := by
  unfold memByte; rw [mmaFlown_eq]

theorem square_mmaFlown (n : Nat) : square (mmaFlown s q c f a b g) n = square s n := by
  unfold square; rw [mmaFlown_eq]

theorem vreg_mmaFlown (p v r l : Nat) : vreg (mmaFlown s q c f a b g) p v r l = vreg s p v r l := by
  unfold vreg; rw [mmaFlown_eq]

theorem bank_mmaFlown (k : Nat) : bank (mmaFlown s q c f a b g) q c k =
    if bankKey q c k = bankKey q c (mBank f.word) then mmaBank s q c f.word a b (bank s q c (mBank f.word)) else bank s q c k :=
  bank_setBank ..

theorem length_ops_mmaFlown : (quarter (mmaFlown s q c f a b g) q).ops.length = (quarter s q).ops.length + 1 := by
  simp only [mmaFlown, length_ops_amendOp, length_ops_startOp]
  exact congrArg (·.length + 1) (ops_popHead s q c)

theorem strm_mmaFlown : strm (mmaFlown s q c f a b g) q c = ⟨(strm s q c).queue.drop 1, none, false, none⟩ := by
  simp only [mmaFlown, strm_amendOp, strm_startOp]
  exact strm_popHead_self s q c

end

/-! ### MMA_END (R55) and DCFG (R127) -/

section
variable {s : State} {q c : Nat} {f : Fetched}

theorem doMmaEnd_takes {o : Op} (h : (streamOps s q c).find? (fun o => !o.fin && o.slot) = some o) : doMmaEnd s q c =
    finishOp (setBank s q c (mBank o.word) { bank s q c (mBank o.word) with st := mmaEndSt o.word }) q o.id := by
  simp only [doMmaEnd, h]

theorem doDcfg_takes {d : Nat} {b : W512} (hh : headOf s q (4 + d) (fun w => wOpcode w == opDcfg) = .ok f true)
    (hi : strmIdle s q (4 + d) = true) (hb : readBlock s q (wPb f.word) dcReserved = .ok b) (hc : dcStatus b = none) :
    doDcfg s q d = endNow { s with dcfg := smSet 0 s.dcfg (dcKey q d (bits f.word 47 46)) b } q (4 + d) f .here := by
  simp [doDcfg, hh, hi, hb, hc]

end

/-! ### Stores made alike in two states -/

/-- A relation that holds of two states still after both make the same store, and whose states read alike: proved of the
stores of one word, it holds of masked words, rows of elements and the writes of a drain. -/
structure KeptByStores (R : State → State → Prop) : Prop where
  part : ∀ {s t} w lo bs, R s t → R (writePart s w lo bs) (writePart t w lo bs)
  poison : ∀ {s t} w, R s t → R (poisonPart s w) (poisonPart t w)
  dropped : ∀ {s t} a n, R s t → R (noteDropped s a n) (noteDropped t a n)
  psn : ∀ {s t} a, R s t → wordPsn t a = wordPsn s a
  byte : ∀ {s t} a, R s t → memByte t a = memByte s a

section
variable {R : State → State → Prop} {s t : State} (hR : KeptByStores R)
include hR

theorem KeptByStores.writeLoop (f a : Nat) (bs : List Byte) (h : R s t) : R (writeLoop s a bs f) (writeLoop t a bs f) := by
  induction f generalizing s t a bs with
  | zero => exact h
  | succ n ih =>
    by_cases hb : bs = []
    · subst hb; exact h
    · rw [writeLoop_succ _ _ _ hb, writeLoop_succ _ _ _ hb]; exact ih _ _ (hR.part _ _ _ h)

theorem KeptByStores.writeNat (a n v : Nat) (h : R s t) : R (writeNat s a n v) (writeNat t a n v) :=
  hR.writeLoop _ _ _ (hR.dropped _ _ h)

theorem KeptByStores.readNat (a n : Nat) (h : R s t) : Machine.readNat t a n = Machine.readNat s a n := by
  simp only [Machine.readNat, readBytes, hR.byte _ h]

theorem KeptByStores.writeMask (n w val mask pm : Nat) (h : R s t) :
    R (writeMask s w val mask pm n) (writeMask t w val mask pm n) := by
  induction n generalizing s t w val mask pm with
  | zero => exact h
  | succ n ih =>
    rw [Machine.writeMask, Machine.writeMask, hR.psn _ h, hR.readNat _ _ h]
    refine ih _ _ _ _ ?_
    repeat' split
    exacts [h, hR.poison _ (hR.dropped _ _ h), hR.writeNat _ _ _ h, h, hR.writeNat _ _ _ h]

theorem KeptByStores.writeElems (f : Fmt) (a n : Nat) (cs : List Cell1) (h : R s t) :
    R (writeElems s f a cs n) (writeElems t f a cs n) := by
  rw [writeElems_eq, writeElems_eq]; exact hR.writeMask _ _ _ _ _ h

end

/-- A drain into memory writes its rows that have a live element (R67, R156). -/
theorem drainWrite_rows {b : W512} (hd : dcDest b = 1 ∨ dcDest b = 2) (s : State) (own : Nat) (x : Bank) (w : W128)
    (rows : List (List (Cell1 × W32 × Cnt))) : drainWrite s own b x w rows = rows.zipIdx.foldl (fun t r =>
      if r.1.isEmpty then t else writeElems t (drainFmt b x) (dAddr w + r.2 * blk b 28 4) (r.1.map (·.1)) x.cols) s := by
  obtain hd | hd := hd <;> simp only [drainWrite, hd]

theorem KeptByStores.drainWrite {R : State → State → Prop} (hR : KeptByStores R) {b : W512} (hd : dcDest b = 1 ∨ dcDest b = 2)
    {s t : State} (own own' : Nat) (x : Bank) (w : W128) (rows : List (List (Cell1 × W32 × Cnt))) (h : R s t) :
    R (drainWrite s own b x w rows) (drainWrite t own' b x w rows) := by
  rw [drainWrite_rows hd, drainWrite_rows hd]
  refine List.foldl_rel h fun r _ s t h => ?_
  split
  · exact h
  · exact hR.writeElems _ _ _ _ h

/-! ### What a store leaves of banks and quarters, and what it does not look at -/

theorem poisonPart_eq (s : State) (w : Nat) : poisonPart s w =
    { s with mem := (poisonPart s w).mem, memPsn := (poisonPart s w).memPsn, quarters := (poisonPart s w).quarters } := by
  unfold poisonPart
  split
  · rfl
  · dsimp only; rw [breakRes_eq]

/-- A channel that is DOWN counts the writes it discards, in a register alone (R212). -/
theorem noteDropped_regs (s : State) (a n : Nat) : ∃ r, noteDropped s a n = { s with regs := r } := by
  unfold noteDropped
  split
  · exact ⟨s.regs, rfl⟩
  · refine foldl_keep (P := fun t : State => ∃ r, t = { s with regs := r }) _ (fun t i h => ?_) ⟨s.regs, rfl⟩
    obtain ⟨r, rfl⟩ := h
    rcases locate _ ((a / 2048 + i) * 2048) with ⟨k, c, u⟩
    exact ⟨_, rfl⟩

/-- Banks stay, and of the quarters all but reservations of their control cores. -/
def keepsEngines (s t : State) : Prop := t.banks = s.banks ∧ keepsQuarters s t

theorem keepsEngines_trans {s t u : State} (h : keepsEngines s t) (h' : keepsEngines t u) : keepsEngines s u :=
  ⟨h'.1.trans h.1, keepsQuarters_trans h.2 h'.2⟩

theorem keepsEngines_of_eq {s t : State} (hb : t.banks = s.banks) (hq : t.quarters = s.quarters) : keepsEngines s t :=
  ⟨hb, keepsQuarters_of_quarters hq⟩

theorem keepsEngines_breakRes (s : State) (w : Nat) : keepsEngines s (breakRes s w) :=
  ⟨by rw [breakRes_eq], keepsQuarters_breakRes s w⟩

theorem keepsEngines_writePart (s : State) (w lo : Nat) (bs : List Byte) : keepsEngines s (writePart s w lo bs) := by
  unfold writePart
  split
  · exact keepsEngines_of_eq rfl rfl
  · refine keepsEngines_trans (keepsEngines_breakRes s w) ?_
    dsimp only
    repeat' split
    all_goals exact keepsEngines_of_eq rfl rfl

theorem keepsEngines_poisonPart (s : State) (w : Nat) : keepsEngines s (poisonPart s w) := by
  unfold poisonPart
  split
  · exact keepsEngines_of_eq rfl rfl
  · exact keepsEngines_trans (keepsEngines_breakRes s w) (keepsEngines_of_eq rfl rfl)

theorem keepsEngines_noteDropped (s : State) (a n : Nat) : keepsEngines s (noteDropped s a n) := by
  obtain ⟨r, h⟩ := noteDropped_regs s a n
  rw [h]; exact keepsEngines_of_eq rfl rfl

/-- Whatever stores are made from s0, its banks stay and its quarters but for reservations: a KeptByStores whose two states are
one. -/
theorem keptByStores_keepsEngines (s0 : State) : KeptByStores fun s t => s = t ∧ keepsEngines s0 t where
  part _ _ _ := fun ⟨e, h⟩ => ⟨e ▸ rfl, keepsEngines_trans h (keepsEngines_writePart ..)⟩
  poison _ := fun ⟨e, h⟩ => ⟨e ▸ rfl, keepsEngines_trans h (keepsEngines_poisonPart ..)⟩
  dropped _ _ := fun ⟨e, h⟩ => ⟨e ▸ rfl, keepsEngines_trans h (keepsEngines_noteDropped ..)⟩
  psn _ := fun ⟨e, _⟩ => e ▸ rfl
  byte _ := fun ⟨e, _⟩ => e ▸ rfl

theorem mem_writePart (s : State) (w lo : Nat) (bs : List Byte) : (writePart s w lo bs).mem =
    if addrDown s (w * 8) then s.mem
    else if bs.length = 8 then putBytes s.mem (w * 8) bs
    else if smGet false s.memPsn w then s.mem else putBytes s.mem (w * 8 + lo) bs := by
  unfold writePart
  rw [breakRes_eq]
  dsimp only
  repeat' split
  all_goals rfl

theorem memPsn_writePart_eq (s : State) (w lo : Nat) (bs : List Byte) : (writePart s w lo bs).memPsn =
    if addrDown s (w * 8) then s.memPsn else if bs.length = 8 then smSet false s.memPsn w false else s.memPsn := by
  unfold writePart
  rw [breakRes_eq]
  dsimp only
  repeat' split
  all_goals rfl

theorem mem_poisonPart (s : State) (w : Nat) : (poisonPart s w).mem =
    if addrDown s (w * 8) then s.mem else putBytes s.mem (w * 8) (List.replicate 8 0#8) := by
  unfold poisonPart
  rw [breakRes_eq]
  split <;> rfl

theorem memPsn_poisonPart (s : State) (w : Nat) : (poisonPart s w).memPsn =
    if addrDown s (w * 8) then s.memPsn else smSet false s.memPsn w true := by
  unfold poisonPart
  rw [breakRes_eq]
  split <;> rfl

/-- The states agree in all that a store looks at. -/
structure AlikeMemory (s t : State) : Prop where
  regs : t.regs = s.regs
  mem : t.mem = s.mem
  memPsn : t.memPsn = s.memPsn
  stk : t.stk = s.stk

section
variable {s t : State} (h : AlikeMemory s t)
include h

theorem AlikeMemory.reg (o : Nat) : Machine.reg t o = Machine.reg s o := by rw [Machine.reg, h.regs, ← Machine.reg]

theorem AlikeMemory.locate (a : Nat) : Machine.locate t a = Machine.locate s a :=
  locate_of_keepsRegs (keepsRegs_of_regs h.regs _) a

theorem AlikeMemory.addrDown (a : Nat) : Machine.addrDown t a = Machine.addrDown s a := by
  simp only [Machine.addrDown, h.locate, h.stk]

theorem AlikeMemory.addFld (o hi lo n : Nat) : AlikeMemory (Machine.addFld s o hi lo n) (Machine.addFld t o hi lo n) where
  regs := by simp only [Machine.addFld, fld, setFld_regs, h.reg, h.regs]
  mem := h.mem
  memPsn := h.memPsn
  stk := h.stk

end

/-- Stores look at memory, its marks and what tells a channel that is DOWN, and at nothing else. -/
theorem keptByStores_alikeMemory : KeptByStores AlikeMemory where
  part {s t} w lo bs h := by
    refine ⟨?_, ?_, ?_, ?_⟩
    · rw [writePart_eq, writePart_eq s]; exact h.regs
    · rw [mem_writePart, mem_writePart, h.addrDown, h.mem, h.memPsn]
    · rw [memPsn_writePart_eq, memPsn_writePart_eq, h.addrDown, h.memPsn]
    · rw [writePart_stk, writePart_stk, h.stk]
  poison {s t} w h := by
    refine ⟨?_, ?_, ?_, ?_⟩
    · rw [poisonPart_eq, poisonPart_eq s]; exact h.regs
    · rw [mem_poisonPart, mem_poisonPart, h.addrDown, h.mem]
    · rw [memPsn_poisonPart, memPsn_poisonPart, h.addrDown, h.memPsn]
    · rw [poisonPart_eq, poisonPart_eq s]; exact h.stk
  dropped {s t} a n h := by
    unfold noteDropped
    rw [h.stk]
    simp only [h.addrDown]
    split
    · exact h
    · refine List.foldl_rel h fun i _ s t h => ?_
      rw [h.locate]
      exact h.addFld ..
  psn {s t} a h := by simp only [wordPsn, h.addrDown, h.memPsn]
  byte {s t} a h := by rw [memByte, h.mem, ← memByte]

/-! ### DRAIN (R63 to R67) -/

section
variable {s : State} {q d : Nat} {f : Fetched}

theorem doDrain_starts (hh : headOf s q (4 + d) (fun w => wOpcode w == opDrain) = .ok f true)
    (hb : (bank s q d (mBank f.word)).st = .full) (hs : slotFree s q (4 + d) = true) : doDrain s q d = drainStart s q d f := by
  simp [doDrain, hh, hb, hs]

/-- A DRAIN has left its queue, and its bank is DRAINING (R55). -/
def drainTaken (s : State) (q d : Nat) (f : Fetched) : State :=
  setBank (popHead s q (4 + d)) q d (mBank f.word) { bank s q d (mBank f.word) with st := .draining }

/-- Its rows are written. -/
def drainWritten (s : State) (q d : Nat) (f : Fetched) : State :=
  drainWrite (drainTaken s q d f) (ownKey q (nextOpId (drainTaken s q d f) q)) (dcGet s q d (dSlot f.word))
    (bank s q d (mBank f.word)) f.word (drainRows s q (dcGet s q d (dSlot f.word)) (bank s q d (mBank f.word)))

/-- It is in flight. -/
def drainFlown (s : State) (q d : Nat) (f : Fetched) : State :=
  let b := dcGet s q d (dSlot f.word)
  let x := bank s q d (mBank f.word)
  let rows := drainRows s q b x
  amendOp (startOp (drainWritten s q d f) q (4 + d) f true false (some (drainStat b x rows.flatten)) [] (drainTo b) []) q
    fun o => { o with dst := drainDst b x f.word rows }

variable (hd : dcDest (dcGet s q d (dSlot f.word)) = 1 ∨ dcDest (dcGet s q d (dSlot f.word)) = 2)
include hd

/-- A drain into memory whose ranges hold is in flight; it may have raised SCALE and POISON (R42, R58). -/
theorem drainStart_takes (hr : drainRange s q (dcGet s q d (dSlot f.word)) (bank s q d (mBank f.word)) f.word = true) :
    keepsCore (drainFlown s q d f) (drainStart s q d f) := by
  have h0 : dcDest (dcGet s q d (dSlot f.word)) ≠ 0 ∧ dcDest (dcGet s q d (dSlot f.word)) ≠ 3 := by omega
  have hscale : ∀ c : Bool, keepsCore (drainFlown s q d f)
      (if c then raiseQ (drainFlown s q d f) q eScale (srcOfStream (4 + d)) 0 else drainFlown s q d f) := fun _ =>
    keepsCore_ite (keepsCore_raiseQ ..) (keepsCore_refl _)
  simp only [drainStart, hr, h0, decide_false, Bool.false_and, Bool.not_true, Bool.false_eq_true, if_false]
  exact keepsCore_ite (keepsCore_trans (hscale _) (keepsCore_raiseQ ..)) (hscale _)

theorem keepsEngines_drainWritten : keepsEngines (drainTaken s q d f) (drainWritten s q d f) := by
  have h := (keptByStores_keepsEngines (drainTaken s q d f)).drainWrite hd (ownKey q (nextOpId (drainTaken s q d f) q))
    (ownKey q (nextOpId (drainTaken s q d f) q)) (bank s q d (mBank f.word)) f.word
    (drainRows s q (dcGet s q d (dSlot f.word)) (bank s q d (mBank f.word))) ⟨rfl, keepsEngines_of_eq rfl rfl⟩
  exact h.2

theorem memByte_drainFlown (a : Nat) : memByte (drainFlown s q d f) a = memByte (drainWrite s (ownKey q (nextOpId s q))
    (dcGet s q d (dSlot f.word)) (bank s q d (mBank f.word)) f.word
    (drainRows s q (dcGet s q d (dSlot f.word)) (bank s q d (mBank f.word)))) a := by
  have htaken : AlikeMemory s (drainTaken s q d f) := ⟨rfl, rfl, rfl, rfl⟩
  exact keptByStores_alikeMemory.byte (t := drainWritten s q d f) a
    (keptByStores_alikeMemory.drainWrite hd _ _ _ _ _ htaken)

theorem st_bank_drainFlown : (bank (drainFlown s q d f) q d (mBank f.word)).st = .draining := by
  have hbanks : (drainFlown s q d f).banks = (drainTaken s q d f).banks := (keepsEngines_drainWritten hd).1
  rw [bank, hbanks, ← bank, drainTaken, bank_setBank_self]

theorem length_ops_drainFlown : (quarter (drainFlown s q d f) q).ops.length = (quarter s q).ops.length + 1 := by
  rw [drainFlown, length_ops_amendOp, length_ops_startOp, ops_of_keepsQuarters (keepsEngines_drainWritten hd).2]
  exact congrArg (·.length + 1) (ops_popHead s q (4 + d))

end

/-! ### DRAIN_END (R55, R68) -/

/-- A drain into memory that neither merges nor reports ends with its record (R68). -/
theorem doDrainEnd_takes {s : State} {q d : Nat} {o : Op}
    (h : (streamOps s q (4 + d)).find? (fun o => !o.fin && o.slot) = some o) (ht : o.sigTo = .here)
    (hm : dMerge o.word = false) (hr : reports (dcGet s q d (dSlot o.word)) (bank s q d (mBank o.word)) = false) :
    doDrainEnd s q d = finishOp (setBank (writeStat s q (dStat o.word) (o.stat.getD stat0)) q d (mBank o.word)
      { bank s q d (mBank o.word) with st := drainEndSt o.word, sat := 0, metaF := 0 }) q o.id := by
  simp [doDrainEnd, h, ht, hm, hr]

theorem vreg_of_keepsCore {s t : State} (h : keepsCore s t) (q c r l : Nat) : vreg t q c r l = vreg s q c r l := by rw [h]; rfl

theorem bankKey_inj {q c b k : Nat} (h : bankKey q c b = bankKey q c k) : b = k := by
  unfold bankKey at h; omega

theorem bank_finishOp (s : State) (q id p c b : Nat) : bank (finishOp s q id) p c b = bank s p c b := rfl

theorem memByte_finishOp (s : State) (q id a : Nat) : memByte (finishOp s q id) a = memByte s a := rfl

theorem memByte_setBank (s : State) (q c b : Nat) (v : Bank) (a : Nat) : memByte (setBank s q c b v) a = memByte s a := rfl

/-- Settles O17: each command's arm where its checks pass. -/
theorem matrixInstructionsAct : Obligations.MatrixInstructionsAct := by
  intro s q c f
  refine ⟨fun ab bb hh hw hb hs ha hbb hc => ?mma, fun o h => ?mmaEnd, fun b hh hi hb hc hsig => ?dcfg,
    fun hh hb hs hd hr => ?drain, fun o h ht hm hr => ?drainEnd⟩
  case mma =>
    obtain ⟨g, hk⟩ := mmaStart_takes ha hbb hc
    refine ⟨_, congrArg Host.Outcome.next (doMma_starts hh hw hb hs), ?_, ?_, fun b hne _ _ => ?_, ?_, ?_, fun a => ?_,
      fun n => ?_, fun v r l => ?_⟩
    · rw [bank_of_keepsCore hk, bank_mmaFlown, if_pos rfl]
    · rw [bank_of_keepsCore hk, bank_mmaFlown, if_pos rfl, st_mmaBank]
    · rw [bank_of_keepsCore hk, bank_mmaFlown, if_neg fun e => hne (bankKey_inj e)]
    · rw [quarter_of_keepsCore hk, length_ops_mmaFlown]
    · rw [strm_of_keepsCore hk, strm_mmaFlown]
    · rw [memByte_of_keepsCore hk, memByte_mmaFlown]
    · rw [square_of_keepsCore hk, square_mmaFlown]
    · rw [vreg_of_keepsCore hk, vreg_mmaFlown]
  case mmaEnd =>
    refine ⟨_, congrArg Host.Outcome.next (doMmaEnd_takes h), ?_, ?_, fun p hp hid => fin_of_mem_finishOp _ _ hp hid, rfl⟩
    · rw [bank_finishOp, bank_setBank_self]; rfl
    · rw [bank_finishOp, bank_setBank_self]
  case dcfg =>
    have ht := (doDcfg_takes hh hi hb hc).trans (endNow_quiet _ _ _ _ _ hsig)
    refine ⟨_, congrArg Host.Outcome.next ht, smGet_set_self _ _ _ _, ?_, fun k hk => smGet_set_ne _ _ _ hk, rfl⟩
    exact congrArg Strm.queue (strm_popHead_self _ _ _)
  case drain =>
    have hk := drainStart_takes hd hr
    refine ⟨_, congrArg Host.Outcome.next (doDrain_starts hh hb hs), ?_, fun a => ?_, ?_⟩
    · rw [bank_of_keepsCore hk, st_bank_drainFlown hd]
    · rw [memByte_of_keepsCore hk, memByte_drainFlown hd]
    · rw [quarter_of_keepsCore hk, length_ops_drainFlown hd]
  case drainEnd =>
    refine ⟨_, congrArg Host.Outcome.next (doDrainEnd_takes h ht hm hr), ?_, fun a => ?_,
      fun p hp hid => fin_of_mem_finishOp _ _ hp hid⟩
    · rw [bank_finishOp, bank_setBank_self]; rfl
    · rw [memByte_finishOp, memByte_setBank]

end Sys2Proof.Machine

/-! The move engine and the gather/scatter unit (R72 to R76, R98, R137 to R139): what each instruction's work is where its block
passes its checks, and what an instruction that may stop partway does. -/

namespace Sys2Proof.Machine

/-! ### The work of a block that passes its checks -/

section
variable {s : State} {q : Nat} {f : Fetched} {b : W512}

theorem moveCopyBody_ok (hb : readBlock s q (wPb f.word) mvReserved = .ok b) (hc : mvStatus s b = none) :
    moveCopyBody q s f = .ok ⟨(List.range (mvRows b)).foldl (copyRow q (nextOpId s q) b) s, mvTo s b, false,
      if mvPath b = 0 then mvDstRows s b else []⟩ := by
  simp only [moveCopyBody, hb, hc, bind, Except.bind]

/-- The rows of an atomic add, and the status of the one that stops them (R98). -/
theorem moveAtomicBody_ok (hb : readBlock s q (wPb f.word) mvReserved = .ok b) (hc : mvStatus s b = none) :
    let r := atomicRows q (nextOpId s q) b (List.range (mvRows b)) s
    moveAtomicBody q s f = .ok (⟨r.1, mvTo s b, false, if mvPath b = 0 then mvDstRows s b else []⟩,
      if r.2 then none else some stAddrRange) := by
  simp only [moveAtomicBody, hb, hc, bind, Except.bind]

theorem gatherRowsBody_ok (hb : readBlock s q (wPb f.word) gaReserved = .ok b) (hc : gaStatus b = none)
    (hp : anyPsn s (lsBase q + gaList b) (4 * gaN b) = false)
    (hm : ∀ i, i < gaN b → inMem s (gaSrc b + rowIndex s q (gaList b) i * gaSrcS b) (gaBytes b) = true) :
    gatherRowsBody q s f = .ok ⟨(List.range (gaN b)).foldl (fun t i =>
        touch (writeMarked t (lsBase q + gaDst b + i * gaRowS b)
          (readMarked t (gaSrc b + rowIndex s q (gaList b) i * gaSrcS b) (gaBytes b)))
          clQtr (gaSrc b + rowIndex s q (gaList b) i * gaSrcS b) (gaBytes b) false) s,
      .here, false, rowRanges (lsBase q + gaDst b) (gaRowS b) (gaN b) (gaBytes b)⟩ := by
  have hall : (List.range (gaN b)).all (fun i => inMem s (gaSrc b + rowIndex s q (gaList b) i * gaSrcS b) (gaBytes b)) = true :=
    List.all_eq_true.2 fun i hi => hm i (List.mem_range.1 hi)
  simp only [gatherRowsBody, hb, hc, hp, hall, bind, Except.bind, Bool.not_true, Bool.false_eq_true, if_false]

/-- The routing entries that a COMBINE follows. -/
def combineEntries (s : State) (q : Nat) (b : W512) : List Nat := (List.range (scN b)).flatMap (liveEntries s q b)

theorem combineBody_ok (hb : readBlock s q (wPb f.word) scReserved = .ok b) (hc : scStatus b = none)
    (he : ∀ i ∈ combineEntries s q b, expertAt s q (scList b) i < 256 ∧
      inMem s (retAddr s q b i) (rowBytes (scFmt b) (scLen b)) = true) :
    let rows := (List.range (scN b)).map fun t => (t, (List.range (scLen b)).map (combineElem s q b t))
    let d := rows.foldl (fun u r => writeElems u .b32 (lsBase q + scDst b + r.1 * scDstS b) r.2 (scLen b))
      ((combineEntries s q b).foldl (fun u i => touch u clQtr (retAddr s q b i) (rowBytes (scFmt b) (scLen b)) false) s)
    combineBody q s f = .ok ⟨if rows.any fun r => r.2.any (·.psn) then raiseQ d q ePoison 12 0 else d, .here, false,
      scDstRows s q b⟩ := by
  have hexp : (combineEntries s q b).any (fun i => decide (256 ≤ expertAt s q (scList b) i)) = false :=
    List.any_eq_false.2 fun i hi => by simpa using (he i hi).1
  have hmem : (combineEntries s q b).any (fun i => !inMem s (retAddr s q b i) (rowBytes (scFmt b) (scLen b))) = false :=
    List.any_eq_false.2 fun i hi => by simpa using (he i hi).2
  unfold combineEntries at hexp hmem
  simp only [combineBody, combineEntries, hb, hc, hexp, hmem, bind, Except.bind, Bool.false_eq_true, if_false]

/-- The rows of a SCATTER_ADD, and the status of the one that stops them (R98). -/
theorem scatterAddBody_ok (hb : readBlock s q (wPb f.word) scReserved = .ok b) (hc : scStatus b = none)
    (hp : anyPsn s (lsBase q + scList b) (4 * scN b) = false) :
    let r := scatterAdds q b (List.range (scN b)) s
    scatterAddBody q s f = .ok (⟨r.1, .here, false, scDstRows s q b⟩, if r.2 then none else some stAddrRange) := by
  simp only [scatterAddBody, hb, hc, hp, bind, Except.bind, Bool.false_eq_true, if_false]

theorem scatterRowsBody_ok (hb : readBlock s q (wPb f.word) scReserved = .ok b) (hc : scStatus b = none)
    (hp : anyPsn s (lsBase q + scList b) (4 * scN b) = false)
    (hm : ∀ i, i < scN b → inMem s (scatterDst s q b i) (rowBytes (scFmt b) (scLen b)) = true) :
    scatterRowsBody q s f = .ok ⟨(List.range (scN b)).foldl (fun t i =>
        touch (writeMarked t (scatterDst s q b i)
          (readMarked t (lsBase q + scSrc b + i * scSrcS b) (rowBytes (scFmt b) (scLen b))))
          clQtr (scatterDst s q b i) (rowBytes (scFmt b) (scLen b)) true) s,
      .here, false, scDstRows s q b⟩ := by
  have hall : (List.range (scN b)).all (fun i => inMem s (scatterDst s q b i) (rowBytes (scFmt b) (scLen b))) = true :=
    List.all_eq_true.2 fun i hi => hm i (List.mem_range.1 hi)
  simp only [scatterRowsBody, hb, hc, hp, hall, bind, Except.bind, Bool.not_true, Bool.false_eq_true, if_false]

end

/-! ### An instruction that may stop partway (R98) -/

section
variable {s : State} {q i : Nat} {f : Fetched} {isOp : W128 → Bool} {touches : State → Fetched → Touches}
  {body : State → Fetched → Except Nat (Done × Option Nat)} {d : Done}
  (hh : headOf s q i isOp = .ok f true) (hs : slotFree s q i = true) (ht : streamHolds s q i (touches s f) = false)
include hh hs ht

/-- It is in flight with all its work done, or faults with what it did left in place. -/
theorem runPartial_runs {ok : Bool} {st : Nat} (hb : body s f = .ok (d, if ok then none else some st)) :
    runPartial s q i isOp touches body =
      if ok then flown q i f d else failHead (orphanReqs d.s q (nextOpId s q)) q i st f := by
  cases ok <;> simp [runPartial, hh, hs, ht, hb, flown]

end

/-- A DISPATCH whose entries pass sends its rows (R72 to R75). -/
theorem doDispatch_sends {s : State} {q : Nat} {f : Fetched} {b : W512}
    (hh : headOf s q 12 (fun w => wOpcode w == opGather && blockOp s q w != 1) = .ok f true) (hs : slotFree s q 12 = true)
    (ht : streamHolds s q 12 (gaTouches q s f) = false) (hb : readBlock s q (wPb f.word) gaReserved = .ok b)
    (hc : gaStatus b = none) (hd : dispOk s q b = true) : doDispatch s q = dispatchGo s q f b := by
  simp [doDispatch, hh, hs, ht, hb, hc, hd]

/-- Settles O21: each command's arm where its checks pass. -/
theorem moveInstructionsAct : Obligations.MoveInstructionsAct := by
  intro s q f b
  refine ⟨fun hh hs hb ht hc => ?copy, fun hh hs hb ht hc => ?atomicAdd, fun hh hs hb ht hc hd => ?dispatch,
    fun hh hs hb ht hc hp hm => ?gather, fun hh hs hb ht hc he => ?combine, fun hh hs hb ht hc hp => ?scatterAdd,
    fun hh hs hb ht hc hp hm => ?scatterRows⟩
  case copy => exact congrArg Host.Outcome.next (runInstr_takes hh hs ht (moveCopyBody_ok hb hc))
  case atomicAdd =>
    have hrun := runPartial_runs hh hs ht (moveAtomicBody_ok hb hc)
    exact congrArg Host.Outcome.next hrun
  case dispatch => exact congrArg Host.Outcome.next (doDispatch_sends hh hs ht hb hc hd)
  case gather => exact congrArg Host.Outcome.next (runInstr_takes hh hs ht (gatherRowsBody_ok hb hc hp hm))
  case combine => exact congrArg Host.Outcome.next (runInstr_takes hh hs ht (combineBody_ok hb hc he))
  case scatterAdd =>
    have hrun := runPartial_runs hh hs ht (scatterAddBody_ok hb hc hp)
    exact congrArg Host.Outcome.next hrun
  case scatterRows => exact congrArg Host.Outcome.next (runInstr_takes hh hs ht (scatterRowsBody_ok hb hc hp hm))

end Sys2Proof.Machine

/-! The vector clusters' instructions (R80 to R102, R130 to R136): what each instruction's work is where its checks pass. -/

namespace Sys2Proof.Machine

/-! ### The work of a vector instruction that passes its checks -/

section
variable {s : State} {q c : Nat} {f : Fetched} {b : W512}

/-- A statistics record written where the instruction asks for one (R84). -/
def withRecord (q off : Nat) (on : Bool) (r : State × Stat) : State := if on then writeStat r.1 q off r.2 else r.1

/-- The error of an instruction whose inputs were poisoned (R85). -/
def notePoison (q c : Nat) (psn : Bool) (d : State) : State := if psn then raiseQ d q ePoison (8 + c) 0 else d

theorem valuBody_ok (hc : valuStatus f.word = none) :
    valuBody q c s f = .ok ⟨withRecord q (bits f.word 16 0 * 32) (vStat f.word)
        ((List.range (vLanes f.word)).foldl (valuStep q c f.word) (s, stat0)),
      .here, false, statDst q (vStat f.word) (bits f.word 16 0 * 32)⟩ := by
  simp only [valuBody, hc, withRecord]

theorem vldBody_ok (hc : lStatus true f.word = none) :
    vldBody q c s f = .ok ⟨withRecord q (lRec f.word) (lStat f.word)
        (if lBcast f.word then vldBcast q c f.word s
          else (List.range (lN f.word)).foldl (vldStep q c f.word) (s, stat0)),
      .here, false, statDst q (lStat f.word) (lRec f.word)⟩ := by
  simp only [vldBody, hc, withRecord]

theorem vstBody_ok (hc : lStatus false f.word = none) :
    let es := (List.range (lN f.word)).map (vstElem s q c f.word)
    vstBody q c s f = .ok ⟨withRecord q (lRec f.word) (lStat f.word)
        (notePoison q c (es.any fun e => e.1.psn)
          (writeElems s (lFmt f.word) (lsBase q + lAddr f.word) (es.map (·.1)) (lN f.word)),
          es.foldl (fun t e => statLane t e.1.psn false [e.2]) stat0),
      .here, false, (lsBase q + lAddr f.word, rowBytes (lFmt f.word) (lN f.word)) :: statDst q (lStat f.word) (lRec f.word)⟩ := by
  simp only [vstBody, hc, withRecord, notePoison]

theorem vredBody_ok (hb : readBlock s q (wPb f.word) vredReserved = .ok b) (hc : vredStatus c b = none) :
    let a := lsBase q + blk b 4 4
    let r := redBytes (redOf (blk b 0 1)) (reduceAt s (redOf (blk b 0 1)) (fmtByte b 1) a (blk b 8 4) (bit b 17) (bit b 16))
    vredBody q c s f = .ok ⟨writeResult s q c (lsBase q + blk b 12 4) r (anyPsn s a (rowBytes (fmtByte b 1) (blk b 8 4))),
      .here, bit b 16, [(lsBase q + blk b 12 4, r.length)]⟩ := by
  simp only [vredBody, hb, hc, bind, Except.bind]

theorem momfinBody_ok (hb : readBlock s q (wPb f.word) vredReserved = .ok b) (hc : vredStatus c b = none) :
    let a := lsBase q + blk b 4 4
    let r := momfin (readNat s a 4) (BitVec.ofNat 32 (readNat s (a + 8) 4)) (BitVec.ofNat 32 (blk b 16 4)) (if bit b 18 then 1 else 0)
    momfinBody q c s f = .ok ⟨writeResult s q c (lsBase q + blk b 12 4)
        (leBytes 4 r.1.toNat ++ leBytes 4 r.2.toNat) (anyPsn s a 16), .here, false, [(lsBase q + blk b 12 4, 8)]⟩ := by
  simp only [momfinBody, hb, hc, bind, Except.bind]

/-- The elements that a link sends (R95). -/
def vrelayCells (s : State) (q : Nat) (b : W512) : List Cell1 :=
  (List.range (blk b 12 4)).flatMap (vrItemOut s b (lsBase q + blk b 4 4) (lsBase q + blk b 8 4))

/-- What a link does: its partial leaves by a circuit or goes to memory. -/
def vrelayDone (s : State) (q c : Nat) (b : W512) : Done :=
  let noted := notePoison q c ((vrelayCells s q b).any (·.psn))
  if bit b 19 then
    ⟨noted (circWrite s (blk b 20 2) (ownKey q (nextOpId s q)) (blk b 24 8) (streamWords (fmtBits (vrSum b)) (vrelayCells s q b))),
      .circuit (blk b 20 2), false, []⟩
  else
    ⟨noted (touch (writeElems s (vrSum b) (blk b 24 8) (vrelayCells s q b) (blk b 12 4 * vrItem (blk b 0 1))) clQtr (blk b 24 8)
      (vrOutBytes b) true), .here, false, [(blk b 24 8, vrOutBytes b)]⟩

theorem vrelayBody_ok (hb : readBlock s q (wPb f.word) vrReserved = .ok b) (hc : vrStatus s b = none) :
    vrelayBody q c s f = .ok (vrelayDone s q c b) := by
  simp only [vrelayBody, hb, hc, bind, Except.bind, vrelayDone]
  cases bit b 19 <;> rfl

theorem topkBody_ok (hb : readBlock s q (wPb f.word) tkReserved = .ok b) (hc : tkStatus b = none) :
    topkBody q c s f = .ok ⟨withRecord q (blk b 20 4) (tkStat b) ((List.range (tkN b)).foldl (tkStep q c b) (s, stat0)),
      .here, false, (lsBase q + blk b 16 4, 8 * tkN b * tkK b) :: statDst q (tkStat b) (blk b 20 4)⟩ := by
  simp only [topkBody, hb, hc, bind, Except.bind, withRecord]

section
variable (hb : readBlock s q (wPb f.word) vrandReserved = .ok b) (hc : vrandStatus b = none)
include hb hc

theorem dropoutBody_ok :
    let keep := dropKeep s q c (fmtByte b 1) (bits b 55 32)
    let cs := dropCells s b (lsBase q + blk b 8 4) keep (fun _ => false)
    let mk := lsBase q + blk b 16 4
    let p := packElems 1 (8 * (mk % 8)) ((List.range (blk b 20 4)).map fun i => ⟨i, if keep i then 1 else 0, false⟩)
    let m := writeMask (writeElems s (fmtByte b 1) (lsBase q + blk b 12 4) cs (blk b 20 4)) (mk / 8) p.1 p.2.1 0 (blk b 20 4 / 64 + 2)
    dropoutBody q c s f = .ok ⟨notePoison q c (cs.any (·.psn)) { m with free := m.free + blk b 20 4 }, .here, false,
      [(lsBase q + blk b 12 4, rowBytes (fmtByte b 1) (blk b 20 4)), (mk, (blk b 20 4 + 7) / 8)]⟩ := by
  simp only [dropoutBody, hb, hc, bind, Except.bind, notePoison]

theorem maskapplyBody_ok :
    let mk := lsBase q + blk b 16 4
    let cs := dropCells s b (lsBase q + blk b 8 4) (fun i => (memByte s (mk + i / 8)).toNat.testBit (i % 8))
      (fun i => anyPsn s (mk + i / 8) 1)
    maskapplyBody q c s f = .ok ⟨notePoison q c (cs.any (·.psn))
        (writeElems s (fmtByte b 1) (lsBase q + blk b 12 4) cs (blk b 20 4)), .here, false,
      [(lsBase q + blk b 12 4, rowBytes (fmtByte b 1) (blk b 20 4))]⟩ := by
  simp only [maskapplyBody, hb, hc, bind, Except.bind, notePoison]

end

end

/-- An instruction that no earlier one can hold back is in flight with its work done. -/
theorem next_runInstr {s : State} {q i : Nat} {f : Fetched} {d : Done} {isOp : W128 → Bool}
    {body : State → Fetched → Except Nat Done} (hh : headOf s q i isOp = .ok f true) (hs : slotFree s q i = true)
    (hb : body s f = .ok d) : Host.Outcome.next (runInstr s q i isOp touchesNone body) = (.next (flown q i f d) : Out) :=
  congrArg _ (runInstr_takes hh hs streamHolds_touchesNone hb)

/-- Settles O20: each command's arm where its checks pass. -/
theorem vectorInstructionsAct : Obligations.VectorInstructionsAct := by
  intro s q c f b hs
  refine ⟨fun hh hc => ?valu, fun hh hc => ?vld, fun hh hc => ?vst, fun hh hb hc => ?vred, fun hh hb hc => ?momfin,
    fun hh hb hc ht => ?vrelay, fun hh hb hc => ?topk, fun hh hb hc => ?dropout, fun hh hb hc => ?maskapply⟩
  case valu => exact next_runInstr hh hs (valuBody_ok hc)
  case vld => exact next_runInstr hh hs (vldBody_ok hc)
  case vst => exact next_runInstr hh hs (vstBody_ok hc)
  case vred => exact next_runInstr hh hs (vredBody_ok hb hc)
  case momfin => exact next_runInstr hh hs (momfinBody_ok hb hc)
  case vrelay =>
    refine (congrArg Host.Outcome.next (runInstr_takes hh hs ht (vrelayBody_ok hb hc))).trans ?_
    unfold vrelayDone
    cases bit b 19 <;> rfl
  case topk => exact next_runInstr hh hs (topkBody_ok hb hc)
  case dropout => exact next_runInstr hh hs (dropoutBody_ok hb hc)
  case maskapply => exact next_runInstr hh hs (maskapplyBody_ok hb hc)

end Sys2Proof.Machine

/-! VALU (R80, R130, R131): the lanes that it writes, one after another. -/

namespace Sys2Proof.Machine

/-! ### Lanes of vector registers (R78, R85) -/

/-- Cluster, register and lane number a cell of the vector file. -/
theorem vkey_eq_iff {p q d c x r m l : Nat} (hd : d < 4) (hc : c < 4) (hx : x < 64) (hr : r < 64) (hm : m < 128) (hl : l < 128) :
    vkey p d x m = vkey q c r l ↔ p = q ∧ d = c ∧ x = r ∧ m = l := by unfold vkey; omega

section
variable (s : State) (q c r l : Nat) (v : W32) (b : Bool) (p d x m : Nat)

theorem vreg_setVreg : vreg (setVreg s q c r l v b) p d x m =
    if vkey p d x m = vkey q c r l then if b then 0 else v else vreg s p d x m := smGet_set ..

theorem vpsn_setVreg : vpsn (setVreg s q c r l v b) p d x m =
    if vkey p d x m = vkey q c r l then b else vpsn s p d x m := smGet_set ..

end

section
variable {q i : Nat} {f : Fetched} {d : Done} (p c r l : Nat)

theorem vreg_flown : vreg (flown q i f d) p c r l = vreg d.s p c r l := by rw [flown_eq]; rfl

theorem vpsn_flown : vpsn (flown q i f d) p c r l = vpsn d.s p c r l := by rw [flown_eq]; rfl

end

/-! ### The lanes of a VALU -/

theorem vVd_lt (w : W128) : vVd w < 64 := bits_lt w 57 52

section
variable (s : State) (q c : Nat) (w : W128) (l : Nat)

/-- A source that the operation reads is poisoned in a lane (R85). -/
def valuPsn : Bool :=
  let n := vArity (vVop w) false (vFmt w)
  vpsn s q c (vVa w) l || (decide (2 ≤ n) && vpsn s q c (vVb w) l) || (n == 3 && vpsn s q c (vVc w) l)

/-- The operation's binary32 result in a lane (R80). -/
def valuVal : W32 :=
  (valuOp (vVop w) (vFmt w) (vNovf w) (vreg s q c (vVa w) l) (vreg s q c (vVb w) l) (vreg s q c (vVc w) l)).1

/-- The state once the first n lanes are written. -/
def valuLanes (n : Nat) : State := ((List.range n).foldl (valuStep q c w) (s, stat0)).1

variable {s q c w l}

theorem valuStep_scalar (hp : vPk w = false) (x : State × Stat) :
    (valuStep q c w x l).1 = setVreg x.1 q c (vVd w) l (valuVal x.1 q c w l) (valuPsn x.1 q c w l) := by
  simp [valuStep, valuLane, hp, valuVal, valuPsn]

theorem valuLanes_succ (hp : vPk w = false) (n : Nat) : valuLanes s q c w (n + 1) =
    let t := valuLanes s q c w n
    setVreg t q c (vVd w) n (valuVal t q c w n) (valuPsn t q c w n) := by
  rw [valuLanes, List.range_succ, List.foldl_append, List.foldl_cons, List.foldl_nil, valuStep_scalar hp]
  rfl

/-- The lanes write vector registers and their poison bits alone. -/
theorem valuLanes_frame (hp : vPk w = false) (n : Nat) :
    valuLanes s q c w n = { s with vregs := (valuLanes s q c w n).vregs, vpsn := (valuLanes s q c w n).vpsn } := by
  induction n with
  | zero => rfl
  | succ n ih => rw [valuLanes_succ hp, ih]; rfl

/-- What a lane's result depends on: that lane of the cluster's registers. -/
theorem valuResult_congr {t : State} (hr : ∀ r, r < 64 → vreg t q c r l = vreg s q c r l ∧ vpsn t q c r l = vpsn s q c r l) :
    valuVal t q c w l = valuVal s q c w l ∧ valuPsn t q c w l = valuPsn s q c w l := by
  obtain ⟨ha, ha'⟩ := hr (vVa w) (bits_lt w 51 46)
  obtain ⟨hb, hb'⟩ := hr (vVb w) (bits_lt w 45 40)
  obtain ⟨hc, hc'⟩ := hr (vVc w) (bits_lt w 39 34)
  exact ⟨by rw [valuVal, ha, hb, hc]; rfl, by rw [valuPsn, ha', hb', hc']; rfl⟩

/-- A lane and its poison bit after the first n lanes of a VALU: written from the state before it, or as it was. -/
theorem valuLanes_lane (hp : vPk w = false) (hc : c < 4) {n : Nat} (hn : n ≤ 128) {p d r m : Nat} (hd : d < 4) (hr : r < 64)
    (hm : m < 128) :
    let t := valuLanes s q c w n
    let hit := p = q ∧ d = c ∧ r = vVd w ∧ m < n
    vreg t p d r m = (if hit then if valuPsn s q c w m then 0 else valuVal s q c w m else vreg s p d r m) ∧
    vpsn t p d r m = if hit then valuPsn s q c w m else vpsn s p d r m := by
  induction n generalizing p d r m with
  | zero => simp [valuLanes]
  | succ n ih =>
    obtain ⟨hv, hb⟩ := valuResult_congr (s := s) (t := valuLanes s q c w n) (q := q) (c := c) (l := n) (w := w) fun x hx => by
      simpa using ih (by omega) (p := q) (m := n) hc hx (by omega)
    obtain ⟨ihv, ihb⟩ := ih (by omega) hd hr hm (p := p)
    have hkey := vkey_eq_iff (p := p) (q := q) hd hc hr (vVd_lt w) hm (l := n) (by omega)
    simp only [valuLanes_succ hp, vreg_setVreg, vpsn_setVreg, hv, hb, ihv, ihb]
    by_cases hk : p = q ∧ d = c ∧ r = vVd w ∧ m = n
    · obtain ⟨rfl, rfl, rfl, rfl⟩ := hk
      simp
    · have hiff : (p = q ∧ d = c ∧ r = vVd w ∧ m < n + 1) ↔ (p = q ∧ d = c ∧ r = vVd w ∧ m < n) := by omega
      simp only [show vkey p d r m ≠ vkey q c (vVd w) n from fun h => hk (hkey.1 h), hiff, if_false, and_self]

/-- A VALU that passes its checks and keeps no record writes its lanes and does no more. -/
theorem valuBody_lanes {f : Fetched} (hc : valuStatus f.word = none) (hr : vStat f.word = false) :
    valuBody q c s f = .ok ⟨valuLanes s q c f.word (vLanes f.word), .here, false, []⟩ := by
  rw [valuBody_ok hc, hr]; rfl

end

theorem exec_valu (s : State) (q : Fin 96) (c : Fin 4) : exec (.valu q c) s =
    .next (runInstr s q (8 + c) (fun w => wOpcode w == opValu) touchesNone (valuBody q c)) := rfl

/-- Settles O18: lane by lane, each written from sources that the earlier ones left alone. -/
theorem valuWritesItsLanes : Obligations.ValuWritesItsLanes := by
  unfold Obligations.ValuWritesItsLanes
  intro s q c f hh hs hc hp hr
  have hn : vLanes f.word ≤ 128 := bits_lt f.word 27 21
  have hframe := valuLanes_frame (s := s) (q := q) (c := c) hp (vLanes f.word)
  have hquarters : (valuLanes s q c f.word (vLanes f.word)).quarters = s.quarters := by rw [hframe]
  have hkeeps := keepsQuarters_of_quarters hquarters
  rw [exec_valu, runInstr_takes hh hs streamHolds_touchesNone (valuBody_lanes hc hr)]
  refine ⟨_, rfl, fun l hl => ?written, fun p d r l hout => ?others, ?_, ?_, ?_⟩
  case written =>
    obtain ⟨hv, hb⟩ := valuLanes_lane (s := s) hp c.isLt hn (p := q) c.isLt (vVd_lt f.word) (Nat.lt_of_lt_of_le hl hn)
    rw [if_pos ⟨rfl, rfl, rfl, hl⟩] at hv hb
    rw [vpsn_flown, vreg_flown]
    exact ⟨hb, hv⟩
  case others =>
    have hmiss : ¬ (p.val = q ∧ d.val = c ∧ r.val = vVd f.word ∧ l.val < vLanes f.word) := by
      rintro ⟨hq, hd, hr', hl⟩
      obtain h | h | h | h := hout
      exacts [h (Fin.ext hq), h (Fin.ext hd), h hr', absurd hl (Nat.not_lt.2 h)]
    obtain ⟨hv, hb⟩ := valuLanes_lane (s := s) (q := q) hp c.isLt hn (p := p) d.isLt r.isLt l.isLt
    rw [if_neg hmiss] at hv hb
    rw [vreg_flown, vpsn_flown]
    exact ⟨hv, hb⟩
  · rw [strm_flown, strm_of_keepsQuarters hkeeps]
  · rw [length_ops_flown, ops_of_keepsQuarters hkeeps]
  · rw [flown_eq]; dsimp only; rw [hframe]

end Sys2Proof.Machine

/-! Packets at their end (R98, R119, R284 to R286, R389, R392): requests at their target, responses at the requester. -/

namespace Sys2Proof.Machine

/-! ### A packet that its unit takes (R264) -/

section
variable (s : State) (k : Pkt)

@[simp] theorem takePkt_squares : (takePkt s k).squares = s.squares := by rw [takePkt_eq]

@[simp] theorem takePkt_disp : (takePkt s k).disp = s.disp := by rw [takePkt_eq]

@[simp] theorem takePkt_quarters : (takePkt s k).quarters = s.quarters := by rw [takePkt_eq]

@[simp] theorem memByte_takePkt (a : Nat) : memByte (takePkt s k) a = memByte s a := by rw [takePkt_eq]; rfl

@[simp] theorem fld_takePkt (o hi lo : Nat) : fld (takePkt s k) o hi lo = fld s o hi lo := by rw [takePkt_eq]; rfl

@[simp] theorem square_takePkt (n : Nat) : square (takePkt s k) n = square s n := by rw [takePkt_eq]; rfl

@[simp] theorem inMem_takePkt (a n : Nat) : inMem (takePkt s k) a n = inMem s a n := by rw [takePkt_eq]; rfl

@[simp] theorem addrCause_takePkt (a n : Nat) : addrCause (takePkt s k) a n = addrCause s a n := by
  simp only [addrCause, inMem_takePkt]

@[simp] theorem readWords_takePkt (a n : Nat) : readWords (takePkt s k) a n = readWords s a n := by rw [takePkt_eq]; rfl

@[simp] theorem atomicRange_takePkt (a n : Nat) : atomicRange (takePkt s k) a n = atomicRange s a n := by rw [takePkt_eq]; rfl

theorem reqs_freeBuf (x : QPkt) : (freeBuf s x).fab.reqs = s.fab.reqs := by
  unfold freeBuf addRet; split_ifs <;> rfl

theorem reqs_takePkt : (takePkt s k).fab.reqs = s.fab.reqs := by
  unfold takePkt
  split
  · rfl
  · exact reqs_freeBuf _ _

/-- The packet taken, its response still finds the request that it names. -/
@[simp] theorem findReq_takePkt : findReq (takePkt s k) k = findReq s k := by rw [findReq, reqs_takePkt, findReq]

end

theorem onPkt_next {k : Pkt} (h : WF.pkt k = true) (s : State) : onPkt k s = .next s := by rw [onPkt, if_pos h]

/-! ### Requests at their target (R284, R285) -/

section
variable {s : State} {p : Nat} {k : Pkt} {w : CWord} {ws : List CWord}

/-- The address word names a range. -/
theorem reqAddr_legal (hk : k.words = w :: ws) (hp : w.psn = false) (hr : bits w.v 59 49 = 0) (ha : bits w.v 39 0 % 8 = 0) :
    reqAddr k = .ok (bits w.v 63 60, bits w.v 39 0, 8 * (bits w.v 48 40 + 1)) := by
  simp [reqAddr, hk, hp, hr, ha]

theorem reqAddr_poisoned (hk : k.words = w :: ws) (hp : w.psn = true) : reqAddr k = .error 4 := by simp [reqAddr, hk, hp]

/-- A request of a legal address word waits where its range does, but for a SIGNAL, which names no range. -/
theorem reqWaits_of_reqAddr {typ f a n : Nat} (h : reqAddr k = .ok (f, a, n)) (ht : typ ≠ 3) :
    reqWaits s k typ = sliceWaits s a n (typ == 1) := by simp [reqWaits, h, ht]

theorem reqWaits_of_error {typ c : Nat} (h : reqAddr k = .error c) : reqWaits s k typ = false := by simp [reqWaits, h]

theorem reqWaits_signal : reqWaits s k 3 = false := by unfold reqWaits; split <;> rfl

/-! What becomes of a request for this chip: a stop discards it, its slice makes it wait, or its unit acts. -/

section
variable {typ : Nat} {act : State → State} (hwf : WF.pkt k = true) (hc : k.cls = 0) (ht : k.typ = typ) (hd : k.dst = thisChip s)
include hwf hc ht hd

theorem request_stopped (hs : stopRuns s = true) : onPkt k (reqIn s p k typ act) = .next (takePkt s k) := by
  simp [onPkt, hwf, reqIn, hc, ht, hd, hs]

variable (hs : stopRuns s = false)
include hs

theorem request_acts (hw : reqWaits s k typ = false) : onPkt k (reqIn s p k typ act) = .next (act (takePkt s k)) := by
  simp [onPkt, hwf, reqIn, hc, ht, hd, hs, hw]

variable {f a n : Nat} (hr : reqAddr k = .ok (f, a, n)) (h3 : typ ≠ 3)
include hr h3

theorem request_waits (hw : sliceWaits s a n (k.typ == 1) = true) : onPkt k (reqIn s p k typ act) = .next s := by
  have hw' : reqWaits s k typ = true := by rw [reqWaits_of_reqAddr hr h3, ← ht, hw]
  simp [onPkt, hwf, reqIn, hc, ht, hd, hs, hw']

theorem request_addressed (hw : sliceWaits s a n (k.typ == 1) = false) :
    onPkt k (reqIn s p k typ act) = .next (act (takePkt s k)) :=
  request_acts hwf hc ht hd hs (by rw [reqWaits_of_reqAddr hr h3, ← ht, hw])

end

theorem addrCause_mem {a n : Nat} (hq : isSquareAddr a = false) (hm : inMem s a n = true) : addrCause s a n = none := by
  simp [addrCause, hq, hm]

theorem addrCause_outside {a n : Nat} (hq : isSquareAddr a = false) (hm : inMem s a n = false) : addrCause s a n = some 1 := by
  simp [addrCause, hq, hm]

section
variable {f a n : Nat} (hr : reqAddr k = .ok (f, a, n))
include hr

theorem doRead_mem (hf : f = 0) (hc : addrCause s a n = none) : doRead p k s =
    if (readWords s a (n / 8)).any (·.psn) then refuse (touch s clFab a n false) p k 4
    else respond (touch s clFab a n false) p k 2 (readWords s a (n / 8)) := by simp [doRead, hr, hf, hc]

theorem doWrite_refused {c : Nat} (hf : f = 0) (hc : addrCause s a n = some c) : doWrite p k s = refuse s p k c := by
  simp [doWrite, hr, hf, hc]

theorem doAtomicAdd_mem {fm : Fmt} (hf : atomFmt f = some fm) (hm : (isSquareAddr a || inMem s a n) = true) :
    doAtomicAdd p k s = if atomicRange s a n then acked (atomicAdds s fm a ((k.words.drop 1).take (n / 8))) p k
      else refuse s p k 2 := by
  have hin : (!isSquareAddr a && !inMem s a n) = false := by rw [← Bool.not_or, hm]; rfl
  simp only [doAtomicAdd, hr, hf, hin, Bool.false_eq_true, if_false]
  cases atomicRange s a n <;> rfl

end

theorem doRead_error {c : Nat} (hr : reqAddr k = .error c) : doRead p k s = refuse s p k c := by simp [doRead, hr]

section
variable (hk : k.words = w :: ws) (hp : w.psn = false) (hn : bits w.v 31 16 ≠ 0)
include hk hp hn

theorem doReqSignal_clean (hq : (square s (bits w.v 15 0)).psn = false) :
    doReqSignal p k s = acked (sqAdd s (bits w.v 15 0) (bits w.v 31 16)) p k := by simp [doReqSignal, hk, hp, hn, hq]

theorem doReqSignal_poisoned (hq : (square s (bits w.v 15 0)).psn = true) : doReqSignal p k s = refuse s p k 4 := by
  simp [doReqSignal, hk, hp, hn, hq]

end

end

/-- Settles O48: a request that is let in acts as the checks of its address word decide. -/
theorem requestsAreServed : Obligations.RequestsAreServed := by
  intro s p k w ws
  refine ⟨?waits, ?read, ?signal, ?signalPoisoned, ?atomic, ?noRegion, ?outside, ?poisoned, ?stopped⟩
  case waits =>
    rintro ⟨hc, hd, hwf, hk, hs⟩ ⟨hp, hr, ha⟩ hw
    have haddr := reqAddr_legal hk hp hr ha
    exact ⟨fun ht => request_waits hwf hc ht hd hs haddr (by decide) hw,
      fun ht => request_waits hwf hc ht hd hs haddr (by decide) hw, fun ht => request_waits hwf hc ht hd hs haddr (by decide) hw⟩
  case read =>
    rintro ⟨hc, hd, hwf, hk, hs⟩ ht ⟨⟨hp, hr, ha⟩, hw⟩ hf hq hm
    have haddr := reqAddr_legal hk hp hr ha
    refine (request_addressed hwf hc ht hd hs haddr (by decide) hw).trans (congrArg _ ?_)
    rw [doRead_mem haddr hf ((addrCause_takePkt ..).trans (addrCause_mem hq hm)), readWords_takePkt]
  case signal =>
    rintro ⟨hc, hd, hwf, hk, hs⟩ ht hp hn hq
    refine (request_acts hwf hc ht hd hs reqWaits_signal).trans (congrArg _ ?_)
    exact doReqSignal_clean hk hp hn (by rwa [square_takePkt])
  case signalPoisoned =>
    rintro ⟨hc, hd, hwf, hk, hs⟩ ht hp hn hq
    refine (request_acts hwf hc ht hd hs reqWaits_signal).trans (congrArg _ ?_)
    exact doReqSignal_poisoned hk hp hn (by rwa [square_takePkt])
  case atomic =>
    rintro f ⟨hc, hd, hwf, hk, hs⟩ ht ⟨⟨hp, hr, ha⟩, hw⟩ hf hm hat
    have haddr := reqAddr_legal hk hp hr ha
    refine (request_addressed hwf hc ht hd hs haddr (by decide) hw).trans (congrArg _ ?_)
    rw [doAtomicAdd_mem haddr hf (by rwa [inMem_takePkt]), atomicRange_takePkt, if_pos hat, hk, List.drop_one, List.tail_cons]
  case noRegion =>
    rintro f ⟨hc, hd, hwf, hk, hs⟩ ht ⟨⟨hp, hr, ha⟩, hw⟩ hf hm hat
    have haddr := reqAddr_legal hk hp hr ha
    refine (request_addressed hwf hc ht hd hs haddr (by decide) hw).trans (congrArg _ ?_)
    rw [doAtomicAdd_mem haddr hf (by rwa [inMem_takePkt]), atomicRange_takePkt, if_neg (Bool.eq_false_iff.1 hat)]
  case outside =>
    rintro ⟨hc, hd, hwf, hk, hs⟩ ht ⟨⟨hp, hr, ha⟩, hw⟩ hf hq hm
    have haddr := reqAddr_legal hk hp hr ha
    refine (request_addressed hwf hc ht hd hs haddr (by decide) hw).trans (congrArg _ ?_)
    exact doWrite_refused haddr hf ((addrCause_takePkt ..).trans (addrCause_outside hq hm))
  case poisoned =>
    rintro ⟨hc, hd, hwf, hk, hs⟩ ht hp
    have haddr := reqAddr_poisoned hk hp
    exact (request_acts hwf hc ht hd hs (reqWaits_of_error haddr)).trans (congrArg _ (doRead_error haddr))
  case stopped => exact fun hc ht hd hwf hs => request_stopped hwf hc ht hd hs

/-! ### Responses at the requester (R285, R286) -/

section
variable {s : State} {p typ : Nat} {k : Pkt} {r : Req} {fits : Req → Bool} {act : Req → State → State}
  (hwf : WF.pkt k = true) (hc : k.cls = 1) (ht : k.typ = typ) (hd : k.dst = thisChip s)
include hwf hc ht hd

/-- A response that fits the live request that it names ends it. -/
theorem response_ends (hr : findReq s k = some r) (hf : fits r = true) :
    onPkt k (rspIn s p k typ fits act) = .next (act r (dropReq (takePkt s k) r)) := by
  simp [onPkt, hwf, rspIn, hc, ht, hd, hr, hf]

theorem response_late (hr : findReq s k = none) :
    onPkt k (rspIn s p k typ fits act) = .next (lateRsp (takePkt s k) p) := by
  simp [onPkt, hwf, rspIn, hc, ht, hd, hr]

end

theorem exec_readData (s : State) (p : Fin 32) (k : Pkt) : exec (.readData p k) s =
    onPkt k (if dataWaits s k then s else rspIn s p k 2 (fun r => r.typ == 2) (takeData k)) := rfl

/-- READ_DATA whose destination waits at its slice changes nothing (log entry 89). -/
theorem readData_waits {s : State} {p : Fin 32} {k : Pkt} (hwf : WF.pkt k = true) (hw : dataWaits s k = true) :
    exec (.readData p k) s = .next s := by rw [exec_readData, if_pos hw, onPkt_next hwf]

theorem readData_ends {s : State} {p : Fin 32} {k : Pkt} {r : Req} (hwf : WF.pkt k = true) (hc : k.cls = 1) (ht : k.typ = 2)
    (hd : k.dst = thisChip s) (hr : findReq s k = some r) (h2 : r.typ = 2) (hw : dataWaits s k = false) :
    exec (.readData p k) s = .next (takeData k r (dropReq (takePkt s k) r)) := by
  rw [exec_readData, if_neg (Bool.eq_false_iff.1 hw), response_ends hwf hc ht hd hr (by simp [h2])]

section
variable {s : State} {k : Pkt} {r : Req}

theorem takeData_adds {fm : Nat} (hf : r.flow ≠ 193) (ha : r.add = some fm) :
    takeData k r s = reqOver (atomicAdds s (fmtOfCode fm) r.addr (k.words.take (r.len / 8))) r := by
  simp [takeData, hf, ha]

theorem takeData_writes (hf : r.flow ≠ 193) (ha : r.add = none) :
    takeData k r s = reqOver (touch (writeWords s r.addr (k.words.take (r.len / 8))) clQtr r.addr r.len true) r := by
  simp [takeData, hf, ha]

section
variable {p : Fin 32} (hf : r.flow ≠ 193)
include hf

/-- An ERROR sets REMOTE and the requesting unit's RANGE, and poisons what a READ was to fill (R285). -/
theorem takeError_read (h2 : r.typ = 2) :
    takeError p r s = reqOver (poisonRange (unitRange (raiseF s fRemote p r.addr) r) r.addr r.len) r := by
  simp [takeError, hf, h2, Nat.mod_eq_of_lt p.isLt]

theorem takeError_other (h2 : r.typ ≠ 2) : takeError p r s = reqOver (unitRange (raiseF s fRemote p r.addr) r) r := by
  simp [takeError, hf, h2, Nat.mod_eq_of_lt p.isLt]

end

end

/-! ### Late responses -/

/-- An error of the fabric changes registers, counters and the host port at most (R77, R397). -/
theorem keepsCore_raiseF (s : State) (b port addr : Nat) : keepsCore s (raiseF s b port addr) := by
  unfold raiseF
  dsimp only
  split
  · exact keepsCore_trans (keepsCore_count _ _ _) (keepsCore_raise _ _ _ _)
  · exact keepsCore_raise _ _ _ _

theorem keepsRegs_raiseF (s : State) (b port addr : Nat) : keepsRegs s (raiseF s b port addr) (errRegs .fab) := by
  unfold raiseF
  dsimp only
  split
  · exact keepsRegs_join (keepsRegs_mono (keepsRegs_count _ _ _) (List.subset_append_right _ _)) (keepsRegs_raise _ _ _ _)
  · exact keepsRegs_raise _ _ _ _

theorem bit_raiseF (s : State) {b : Nat} (port addr : Nat) (hb : b < 64) : bit (reg (raiseF s b port addr) aFabErr) b = true :=
  bit_raise _ .fab _ hb

/-- A field that counts events saturates (R77). -/
theorem fld_addFld (s : State) {o hi lo : Nat} (n : Nat) (hl : lo ≤ hi) (hh : hi < 64) :
    fld (addFld s o hi lo n) o hi lo = min (fld s o hi lo + n) (2 ^ (hi + 1 - lo) - 1) := by
  rw [addFld, fld_setFld_self _ _ _ _ _ hl hh, Nat.mod_eq_of_lt]
  have : 0 < 2 ^ (hi + 1 - lo) := by positivity
  omega

section
variable (s : State) (p : Nat)

theorem bit_lateRsp : bit (reg (lateRsp s p) aFabErr) fLateRsp = true := by
  rw [lateRsp, addFld, reg_setFld_ne _ _ _ _ (by decide), bit_raiseF _ _ _ (by decide)]

/-- LATE_RSP counts up to its largest number (R286). -/
theorem fld_lateRsp : fld (lateRsp s p) aFabE2eStatus 31 0 = min (fld s aFabE2eStatus 31 0 + 1) (2 ^ 32 - 1) := by
  have hkeep : reg (raiseF s fLateRsp p 0) aFabE2eStatus = reg s aFabE2eStatus := keepsRegs_raiseF _ _ _ _ _ (by decide)
  rw [lateRsp, fld_addFld _ _ (by decide) (by decide), fld, hkeep]
  rfl

theorem keepsCore_lateRsp : keepsCore s (lateRsp s p) := keepsCore_trans (keepsCore_raiseF _ _ _ _) (keepsCore_setReg _ _ _)

end

/-- Settles O49: each response ends the request that it names, or is late; an expiry finds its request or none. -/
theorem responsesEndRequests : Obligations.ResponsesEndRequests := by
  intro s p k r
  refine ⟨?ack, ?dataWaits, ?dataAdded, ?data, ?errorRead, ?error, ?late, ?expires, ?noRequest⟩
  case ack =>
    rintro ⟨hwf, hc, hd, hr⟩ ht h2
    exact response_ends hwf hc ht hd hr (by simpa using h2)
  case dataWaits =>
    rintro ⟨hwf, -⟩ - hw
    exact readData_waits hwf hw
  case dataAdded =>
    rintro fm ⟨hwf, hc, hd, hr⟩ ht h2 hf hw ha
    exact (readData_ends hwf hc ht hd hr h2 hw).trans (congrArg _ (takeData_adds hf ha))
  case data =>
    rintro ⟨hwf, hc, hd, hr⟩ ht h2 hf hw ha
    exact (readData_ends hwf hc ht hd hr h2 hw).trans (congrArg _ (takeData_writes hf ha))
  case errorRead =>
    rintro ⟨hwf, hc, hd, hr⟩ ht h2 hf
    exact (response_ends hwf hc ht hd hr rfl).trans (congrArg _ (takeError_read hf h2))
  case error =>
    rintro ⟨hwf, hc, hd, hr⟩ ht h2 hf
    exact (response_ends hwf hc ht hd hr rfl).trans (congrArg _ (takeError_other hf h2))
  case late =>
    intro hwf hc ht hd hr
    have hcore := keepsCore_lateRsp (takePkt s k) p
    refine ⟨_, response_late hwf hc ht hd hr, bit_lateRsp _ _, ?_, fun a => ?_, ?_, ?_, ?_⟩
    · rw [fld_lateRsp, fld_takePkt]
    · rw [memByte_of_keepsCore hcore, memByte_takePkt]
    · rw [hcore]; exact takePkt_squares s k
    · rw [hcore]; exact takePkt_disp s k
    · rw [hcore]; exact takePkt_quarters s k
  case expires => exact fun f n hr => congrArg Host.Outcome.next (by rw [doE2eTimeout, hr])
  case noRequest => exact fun f n hr => congrArg Host.Outcome.next (by rw [doE2eTimeout, hr])

end Sys2Proof.Machine

/-! A step on an empty queue; signals on squares; the streams of the engines (R107 to R121, R144, R343): the word that a fetch
brings, the instructions on squares, and the writes of the streams' registers. -/

namespace Sys2Proof.Machine

/-- Settles O2: the branch of a step on an empty queue. -/
theorem stepIdlesOnEmptyQueue : Obligations.StepIdlesOnEmptyQueue := by
  intro s h
  simp only [step, h, idle]

/-! ### Squares (R119, R121, R237, R421) -/

section
variable (s : State) (n amt : Nat)

theorem sqAdd_clean (h : (square s n).psn = false) : sqAdd s n amt =
    setSquare s n ⟨BitVec.ofNat 32 (min ((square s n).count.toNat + amt) 0xFFFFFFFF), (square s n).sigseq + 1, false⟩ := by
  simp only [sqAdd, h, Bool.false_eq_true, if_false]

theorem sqAdd_poisoned (h : (square s n).psn = true) : sqAdd s n amt = s := by simp only [sqAdd, h, if_true]

theorem square_sqAdd_ne {m : Nat} (h : m ≠ n) : square (sqAdd s n amt) m = square s m := by
  cases hp : (square s n).psn
  · rw [sqAdd_clean s n amt hp, square_setSquare, if_neg h]
  · rw [sqAdd_poisoned s n amt hp]

end

/-- Settles O15: the two branches of the square's mark. -/
theorem signalsSaturate : Obligations.SignalsSaturate := by
  intro s n amt
  refine ⟨fun hp => ?_, sqAdd_poisoned s n amt, fun m => square_sqAdd_ne s n amt, sqAdd_eq s n amt⟩
  rw [sqAdd_clean s n amt hp, square_setSquare, if_pos rfl]
  exact ⟨by rw [BitVec.toNat_ofNat, Nat.mod_eq_of_lt (by omega)], rfl⟩

/-! ### Fetching (R107, R112) -/

theorem fld_of_keepsRegs {s t : State} {l : List Nat} (h : keepsRegs s t l) {o : Nat} (ho : o ∉ l) (hi lo : Nat) :
    fld t o hi lo = fld s o hi lo := by rw [fld, h o ho, ← fld]

section
variable (s : State) (q i : Nat)

theorem ccIrq_eq (b : Nat) : ccIrq s q b = { s with regs := (ccIrq s q b).regs } := rfl

/-- The advance of FETCH writes the pointer and the interrupt of STREAM_LOW, and nothing else. -/
theorem advanceFetch_eq : advanceFetch s q i = { s with regs := (advanceFetch s q i).regs } := by
  generalize h : advanceFetch s q i = t
  unfold advanceFetch at h
  dsimp only at h
  split at h
  · rw [← h, ccIrq_eq, setFld_eq]
  · rw [← h, setFld_eq]

theorem keepsRegs_ccIrq (b : Nat) : keepsRegs s (ccIrq s q b) [aQtrCcIrq q] := keepsRegs_setReg _ _ _

theorem keepsRegs_advanceFetch : keepsRegs s (advanceFetch s q i) [aQtrStrmPtr q i, aQtrCcIrq q] := by
  have hptr : keepsRegs s (setFld s (aQtrStrmPtr q i) 31 16 (fld s (aQtrStrmPtr q i) 31 16 + 1))
      [aQtrStrmPtr q i, aQtrCcIrq q] := keepsRegs_setReg_mem _ _ _ (by simp)
  unfold advanceFetch
  exact keepsRegs_ite (keepsRegs_join hptr (keepsRegs_mono (keepsRegs_ccIrq _ _ _) (by simp))) hptr

theorem fld_advanceFetch : fld (advanceFetch s q i) (aQtrStrmPtr q i) 31 16 = (fld s (aQtrStrmPtr q i) 31 16 + 1) % 65536 := by
  have hput := fld_setFld_self s (aQtrStrmPtr q i) 31 16 (fld s (aQtrStrmPtr q i) 31 16 + 1) (by decide) (by decide)
  have hne : aQtrStrmPtr q i ∉ [aQtrCcIrq q] := by
    simp only [List.mem_singleton, aQtrStrmPtr, aQtrCcIrq]
    omega
  unfold advanceFetch
  dsimp only
  split
  · rw [fld_of_keepsRegs (keepsRegs_ccIrq _ _ _) hne]; exact hput
  · exact hput

theorem quarter_advanceFetch : quarter (advanceFetch s q i) q = quarter s q := by rw [advanceFetch_eq]; rfl

theorem strm_advanceFetch : strm (advanceFetch s q i) q i = strm s q i := by rw [strm, quarter_advanceFetch, ← strm]

/-- A good word joins the queue of its engine. -/
theorem doFetch_takes (hm : mayFetch s q i = true) (hw : wordStatus i (nextWord s q i).2 (nextWord s q i).1.word = none) :
    doFetch s q i = setStrm (advanceFetch s q i) q i
      { strm s q i with queue := (strm s q i).queue ++ [(nextWord s q i).1] } := by
  unfold doFetch
  rw [hm, ← strm_advanceFetch]
  rcases hn : nextWord s q i with ⟨f, psn⟩
  rw [hn] at hw
  simp only [hw, Bool.not_true, Bool.false_eq_true, if_false]

/-- A word that fails a check faults with its status. -/
theorem doFetch_faults {st : Nat} (hm : mayFetch s q i = true)
    (hw : wordStatus i (nextWord s q i).2 (nextWord s q i).1.word = some st) :
    doFetch s q i = engFault (advanceFetch s q i) q i st (nextWord s q i).1.off := by
  unfold doFetch
  rw [hm]
  rcases hn : nextWord s q i with ⟨f, psn⟩
  rw [hn] at hw
  simp only [hw, Bool.not_true, Bool.false_eq_true, if_false]

end

/-- Settles O12: what the advance of FETCH writes, and the word appended to the queue. -/
theorem fetchAdvancesStream : Obligations.FetchAdvancesStream := by
  intro s q i hm hw
  refine ⟨_, congrArg Host.Outcome.next (doFetch_takes s q i hm hw), ?_, fld_advanceFetch s q i,
    keepsRegs_join (keepsRegs_advanceFetch s q i) (keepsRegs_of_regs rfl _), ?_⟩
  · rw [strm_setStrm_self]
  · rw [advanceFetch_eq]; rfl

/-! ### Faults (R144) -/

section
variable (s : State) (q i st off : Nat)

theorem bank_engFault (c d b : Nat) : bank (engFault s q i st off) c d b = bank s c d b := by
  have hbanks : ∀ t, (launchFault t q st).banks = t.banks := fun t => by rw [launchFault_eq]
  unfold engFault bank
  rw [modQuarter_banks, hbanks, ccIrq, setReg_banks]
  split
  exacts [rfl, by rw [setReg_banks]]

/-- The record of a quarter's engines captures a fault while VALID is 0 (R144). -/
theorem reg_engFault_self (h : fld s (aQtrEngFault q) 63 63 = 0) : reg (engFault s q i st off) (aQtrEngFault q) =
    BitVec.ofNat 64 (2 ^ 63 + st * 2 ^ 48 + i * 2 ^ 40 + off % 2 ^ 22) := by
  have hreg : ∀ t, reg (launchFault t q st) (aQtrEngFault q) = reg t (aQtrEngFault q) := fun t => by
    rw [reg, launchFault_regs, ← reg]
  have hmod : ∀ t f, reg (modQuarter t q f) (aQtrEngFault q) = reg t (aQtrEngFault q) := fun _ _ => rfl
  unfold engFault
  rw [hmod, hreg, h, if_neg (by decide), keepsRegs_ccIrq _ _ _ _ (by simp [aQtrEngFault, aQtrCcIrq]), reg_setReg_self, srcOfStream]

end

/-- Settles O13: the fault that the failing check's status raises. -/
theorem badWordFaultsAtFetch : Obligations.BadWordFaultsAtFetch := by
  intro s q i st hm hv ha hw
  have hq := quarter_engFault (advanceFetch s q i) q i st (nextWord s q i).1.off
  rw [quarter_advanceFetch] at hq
  have hne : aQtrEngFault q ∉ [aQtrStrmPtr q i, aQtrCcIrq q] := by
    simp only [List.mem_cons, List.not_mem_nil, or_false, aQtrEngFault, aQtrStrmPtr, aQtrCcIrq]
    omega
  refine ⟨_, congrArg Host.Outcome.next (doFetch_faults s q i hm hw), ?_, ?_, ?_, fun a => ?_, fun n => ?_, fun c d b => ?_⟩
  · rw [hq, ha]; rfl
  · rw [strm, hq]; rfl
  · exact reg_engFault_self _ _ _ _ _ ((fld_of_keepsRegs (keepsRegs_advanceFetch s q i) hne 63 63).trans hv)
  · rw [memByte_engFault, advanceFetch_eq]; rfl
  · rw [square_engFault, advanceFetch_eq]; rfl
  · rw [bank_engFault, advanceFetch_eq]; rfl

/-! ### The instructions on squares (R113, R119 to R121, R238) -/

section
variable {s : State} {q i : Nat} {f : Fetched}

/-- An instruction that ends on this chip leaves its queue and gives its header signal there (R111, R122). -/
theorem endNow_here : endNow s q i f .here =
    if wSigen f.word then sqAdd (popHead s q i) (wSigsq f.word) 1 else popHead s q i := by
  simp only [endNow, headerSignal, ite_self]
  cases wSigen f.word <;> rfl

theorem doNop_ends (hh : headOf s q i (fun w => wOpcode w == opNop) = .ok f true) : doNop s q i = endNow s q i f .here := by
  simp only [doNop, hh, if_true]

/-- A signal of this chip whose stream holds no earlier operation is given at once (R119). -/
theorem doSqsig_signals (hh : headOf s q i (fun w => wOpcode w == opSqsig) = .ok f true) (ha : bits f.word 31 16 ≠ 0)
    (hl : bit f.word 15 = false) (ho : streamOps s q i = []) (hg : wSigen f.word = false) (hr : s.fab.reqs = []) :
    doSqsig s q i = sqAdd (popHead s q i) (wPb f.word) (bits f.word 31 16) := by
  have hreqs : ∀ id, opReqs (popHead s q i) q id = [] := fun id => by
    simp only [opReqs, show (popHead s q i).fab.reqs = s.fab.reqs from rfl, hr, List.filter_nil]
  simp [doSqsig, hh, ha, ho, sqsigSend, hl, opReqs_sqAdd, hreqs, headerSignal, hg]

theorem doSqset_sets (hh : headOf s q i (fun w => wOpcode w == opSqset) = .ok f true) (hg : wSigen f.word = false) :
    doSqset s q i = popHead (sqPut s (wPb f.word) (BitVec.ofNat 32 (bits f.word 31 0))) q i := by
  simp only [doSqset, hh]
  exact endNow_quiet _ _ _ _ _ hg

theorem sqwaitMet_clean {w : W128} (hp : (square s (wPb w)).psn = false) :
    sqwaitMet s w = some (condHolds (bits w 47 45) (square s (wPb w)).count.toNat (bits w 31 0)) := by
  simp only [sqwaitMet, hp, Bool.false_eq_true, if_false]

/-- A SQWAIT retires where its condition holds, and holds its stream where not (R120). -/
theorem doSqwait_acts (hh : headOf s q i (fun w => wOpcode w == opSqwait) = .ok f true) (h0 : bits f.word 47 45 ≠ 0)
    (h7 : bits f.word 47 45 ≠ 7) (hp : (square s (wPb f.word)).psn = false) (hg : wSigen f.word = false) :
    doSqwait s q i = if condHolds (bits f.word 47 45) (square s (wPb f.word)).count.toNat (bits f.word 31 0)
      then popHead s q i else setStrm s q i { strm s q i with pred := some true, waiting := true } := by
  unfold doSqwait
  simp only [hh, sqwaitMet_clean hp, h0, h7, decide_false, Bool.or_self, Bool.false_eq_true, if_false]
  cases condHolds (bits f.word 47 45) (square s (wPb f.word)).count.toNat (bits f.word 31 0)
  · rfl
  · exact endNow_quiet _ _ _ _ _ hg

/-- A waiting SQWAIT whose condition has come to hold retires (R238). -/
theorem doSqwaitResume_retires {l : List Fetched} (hq : (strm s q i).queue = f :: l) (hw : (strm s q i).waiting = true)
    (hm : mayStart s q = true) (hg : wSigen f.word = false) (hp : (square s (wPb f.word)).psn = false)
    (hc : condHolds (bits f.word 47 45) (square s (wPb f.word)).count.toNat (bits f.word 31 0) = true) :
    doSqwaitResume s q i = popHead s q i := by
  simp only [doSqwaitResume, hw, hq, hm, sqwaitMet_clean hp, hc, Bool.not_true, Bool.false_eq_true, if_false]
  exact endNow_quiet _ _ _ _ _ hg

end

theorem square_sqPut (s : State) (n : Nat) (v : W32) (m : Nat) : square (sqPut s n v) m =
    if m = n then ⟨v, if (square s n).psn then 1 else (square s n).sigseq + 1, false⟩ else square s m := square_setSquare _ _ _ _

/-- Settles O14: each command's arm for a head whose predicate is true. -/
theorem squareInstructionsAct : Obligations.SquareInstructionsAct := by
  intro s q i f
  refine ⟨fun hh _ => congrArg Host.Outcome.next ((doNop_ends hh).trans endNow_here),
    fun hh ha hl ho hg hr => congrArg Host.Outcome.next (doSqsig_signals hh ha hl ho hg hr), fun hh hg => ?_,
    fun hh h0 h7 hp hg => congrArg Host.Outcome.next (doSqwait_acts hh h0 h7 hp hg),
    fun l hq hw hm hg hp hc => congrArg Host.Outcome.next (doSqwaitResume_retires hq hw hm hg hp hc)⟩
  have hsq : ∀ m, square (popHead (sqPut s (wPb f.word) (BitVec.ofNat 32 (bits f.word 31 0))) q i) m =
      square (sqPut s (wPb f.word) (BitVec.ofNat 32 (bits f.word 31 0))) m := fun _ => rfl
  refine ⟨_, congrArg Host.Outcome.next (doSqset_sets hh hg), ?_, fun n hn => ?_, rfl⟩
  · rw [hsq, square_sqPut, if_pos rfl]
  · rw [hsq, square_sqPut, if_neg hn]

/-! ### Writes of the streams' registers (R107, R108, R110, R343) -/

/-- A register write that reaches an in-service quarter has its effect (R46, R355). -/
theorem fromSrc_present {s : State} {q : Nat} {src : Src} (hr : reaches s src) (hp : qtrPresent s q = true) (act : State → State) :
    fromSrc s src (fun t => if qtrPresent t q then act t else t) = act s := by
  unfold fromSrc
  cases src
  case host =>
    obtain ⟨ho, hd⟩ := hr rfl
    simp only [ho, hd, hp, Bool.not_true, Bool.false_eq_true, if_false, if_true]
  all_goals simp only [hp, if_true]

/-- GATE_EN and GATE of a stream's pointer as a write brings them (R110). -/
def putGate (w v : W64) : W64 := putBits (putBits w 48 48 (bits v 48 48)) 47 32 (bits v 47 32)

theorem bits_putGate_self (w v : W64) : bits (putGate w v) 48 32 = bits v 48 32 := by
  apply Nat.eq_of_testBit_eq
  intro j
  rw [testBit_bits, testBit_bits, putGate, testBit_putBits _ _ _ _ _ (by decide) (by decide),
    testBit_putBits _ _ _ _ _ (by decide) (by decide), testBit_bits, testBit_bits]
  by_cases hj : j + 32 ≤ 48
  · by_cases hj' : j + 32 = 48
    · obtain rfl : j = 16 := by omega
      rfl
    · have h47 : j + 32 ≤ 47 := by omega
      rw [if_pos (by omega), Nat.add_sub_cancel_left, decide_eq_true h47, decide_eq_true hj, Bool.true_and]
  · rw [decide_eq_false hj, Bool.false_and, Bool.false_and]

theorem bits_putGate_low (w v : W64) {hi : Nat} (lo : Nat) (h : hi < 32) : bits (putGate w v) hi lo = bits w hi lo := by
  rw [putGate, bits_putBits_ne _ _ _ _ _ _ (by decide) (by decide) (by omega),
    bits_putBits_ne _ _ _ _ _ _ (by decide) (by decide) (by omega)]

section
variable {s : State} {q i : Nat} {v : W64} {src : Src}

theorem ptrWrite_other (ho : isOwner s q i src = false) : ptrWrite s q i v src =
    raiseQReg (setReg s (aQtrStrmPtr q i) (putGate (reg s (aQtrStrmPtr q i)) v)) q eRange src (aQtrStrmPtr q i) := by
  simp only [ptrWrite, ho, Bool.not_false, if_true, putGate]

theorem ptrWrite_illegal (ho : isOwner s q i src = true)
    (hl : headLegal (reg s (aQtrStrmCfg q i)) (reg s (aQtrStrmPtr q i)) (bits v 15 0) = false) :
    ptrWrite s q i v src = raiseQReg s q eRange src (aQtrStrmPtr q i) := by
  simp only [ptrWrite, ho, hl, Bool.not_true, Bool.not_false, Bool.false_eq_true, if_false, if_true]

theorem ptrWrite_takes (ho : isOwner s q i src = true)
    (hl : headLegal (reg s (aQtrStrmCfg q i)) (reg s (aQtrStrmPtr q i)) (bits v 15 0) = true) :
    ptrWrite s q i v src =
      setReg s (aQtrStrmPtr q i) (putBits (putGate (reg s (aQtrStrmPtr q i)) v) 15 0 (bits v 15 0)) := by
  simp only [ptrWrite, ho, hl, Bool.not_true, Bool.false_eq_true, if_false]
  rfl

theorem gateWrite_eq (s : State) (q i : Nat) (v : W64) :
    gateWrite s q i v = setReg s (aQtrStrmPtr q i) (putGate (reg s (aQtrStrmPtr q i)) v) := rfl

/-- An error of a quarter's register write sets its bit, and leaves a stream's pointer as it is (R77). -/
theorem raiseQReg_frame (s : State) (b off : Nat) (hb : b < 64) :
    bit (reg (raiseQReg s q b src off) (aQtrErr q)) b = true ∧
    reg (raiseQReg s q b src off) (aQtrStrmPtr q i) = reg s (aQtrStrmPtr q i) ∧ keepsCore s (raiseQReg s q b src off) := by
  refine ⟨bit_raise s (.qtr q) _ hb, keepsRegs_raise s (.qtr q) _ _ _ ?_, keepsCore_raise _ _ _ _⟩
  simp only [errRegs, errReg, errRec, eventRegs, aQtrStrmPtr, aQtrErr, aQtrErrRec, aQtrCcIrq, aHstBmeDrops, aHstPortErr,
    aHstPortErrRec, aMgtPmcOvf, Option.map_some, Option.toList_some, List.cons_append, List.nil_append, List.mem_cons,
    List.not_mem_nil, or_false, not_or]
  omega

theorem setReg_eq (s : State) (o : Nat) (v : W64) : setReg s o v = { s with regs := (setReg s o v).regs } := rfl

theorem setStrm_eq (s : State) (q i : Nat) (v : Strm) :
    setStrm s q i v = { s with quarters := (setStrm s q i v).quarters } := rfl

theorem flushStrm_eq (s : State) (q i : Nat) : flushStrm s q i =
    { s with regs := (flushStrm s q i).regs, quarters := (flushStrm s q i).quarters } := by
  rw [flushStrm, setStrm_eq, setFld_eq]

theorem reg_setStrm (s : State) (q i : Nat) (x : Strm) (o : Nat) : reg (setStrm s q i x) o = reg s o := rfl

/-- What EN = 0 discards: FETCH comes to HEAD, and the engine's queue empties (R107; log entry 14). -/
theorem flushStrm_frame (s : State) (q i : Nat) :
    fld (flushStrm s q i) (aQtrStrmPtr q i) 31 16 = fld s (aQtrStrmPtr q i) 15 0 ∧ (strm (flushStrm s q i) q i).queue = [] ∧
    (quarter (flushStrm s q i) q).ops = (quarter s q).ops ∧ keepsRegs s (flushStrm s q i) [aQtrStrmPtr q i] := by
  refine ⟨?_, ?_, ?_, fun o ho => ?_⟩
  · rw [fld, flushStrm, reg_setStrm, ← fld, fld_setFld_self _ _ _ _ _ (by decide) (by decide)]
    exact Nat.mod_eq_of_lt (bits_lt _ _ _)
  · rw [flushStrm, strm_setStrm_self, strm0]
  · rw [flushStrm, setStrm, quarter_modQuarter_self, quarter, setFld_quarters, ← quarter]
  · rw [flushStrm, reg_setStrm]
    exact keepsRegs_setReg _ _ _ o ho

/-- A legal write that holds EN = 0 of a stream whose engine is idle stores its fields and discards what waits (R107). -/
theorem cfgWrite_disables (hl : cfgLegal (putBits v 31 31 0) = true) (hi : strmIdle s q i = true) :
    ∃ w, bit w 31 = false ∧
      cfgWrite s q i (putBits v 31 31 0) src = flushStrm (setReg s (aQtrStrmCfg q i) w) q i := by
  have hfst : bit (writeFlds [⟨31, 31, .rwi⟩, ⟨30, 30, .rwi⟩, ⟨29, 26, .rwi⟩, ⟨25, 22, .rw⟩, ⟨21, 0, .rwi⟩] true
      (reg s (aQtrStrmCfg q i)) (putBits v 31 31 0)).1 31 = false := by
    simp [writeFlds, writeFld, bit_putBits, bits_putBits_self]
  refine ⟨_, hfst, ?_⟩
  have hsnd := snd_foldl_writeFld_idle (putBits v 31 31 0)
    [⟨31, 31, .rwi⟩, ⟨30, 30, .rwi⟩, ⟨29, 26, .rwi⟩, ⟨25, 22, .rw⟩, ⟨21, 0, .rwi⟩] (reg s (aQtrStrmCfg q i), false)
  unfold cfgWrite
  simp only [hl, hi, hfst, Bool.not_true, Bool.not_false, Bool.false_eq_true, if_false, if_true]
  rw [writeFlds, hsnd]
  rfl

end

/-- Settles O23: the branches of the writes of QTR_STRMs_PTR and QTR_STRMs_CFG; that EN = 0 empties the engine's queue is log
entry 14. -/
theorem streamRegistersTakeWrites : Obligations.StreamRegistersTakeWrites := by
  intro s q i v src hr hp ptr
  have hhead : exec (.streamHeadWrite q i v src) s = .next (ptrWrite s q i v src) := congrArg _ (fromSrc_present hr hp _)
  have hgate : exec (.streamGateWrite q i v src) s =
      .next (setReg s (aQtrStrmPtr q i) (putGate (reg s (aQtrStrmPtr q i)) v)) :=
    congrArg _ ((fromSrc_present hr hp _).trans (gateWrite_eq s q i v))
  refine ⟨fun ho hl => ⟨_, hhead.trans (congrArg _ (ptrWrite_takes ho hl)), ?_⟩,
    fun ho => ⟨_, hhead.trans (congrArg _ (ptrWrite_other ho)), ?_⟩,
    fun ho hl => ⟨_, hhead.trans (congrArg _ (ptrWrite_illegal ho hl)), ?_⟩,
    ⟨_, hgate, ?_⟩, fun hl hi => ?_⟩
  · simp only [fld, ptr, reg_setReg_self]
    refine ⟨bits_putBits_bits _ v (by decide) (by decide), ?_, ?_, keepsRegs_setReg _ _ _, setReg_eq _ _ _⟩
    · rw [bits_putBits_ne _ _ _ _ _ _ (by decide) (by decide) (by decide), bits_putGate_low _ _ _ (by decide)]
    · rw [bits_putBits_ne _ _ _ _ _ _ (by decide) (by decide) (by decide), bits_putGate_self]
  · obtain ⟨hbit, hreg, hcore⟩ := raiseQReg_frame (q := q) (i := i) (src := src)
      (setReg s (aQtrStrmPtr q i) (putGate (reg s (aQtrStrmPtr q i)) v)) eRange (aQtrStrmPtr q i) (by decide)
    simp only [fld, ptr, hreg, reg_setReg_self]
    exact ⟨bits_putGate_low _ _ _ (by decide), bits_putGate_self _ _, hbit, keepsCore_trans (keepsCore_setReg _ _ _) hcore⟩
  · obtain ⟨hbit, hreg, hcore⟩ := raiseQReg_frame (q := q) (i := i) (src := src) s eRange (aQtrStrmPtr q i) (by decide)
    exact ⟨hreg, hbit, hcore⟩
  · simp only [fld, ptr, reg_setReg_self]
    exact ⟨bits_putGate_low _ _ _ (by decide), bits_putGate_self _ _, keepsRegs_setReg _ _ _, setReg_eq _ _ _⟩
  · obtain ⟨w, hw, he⟩ := cfgWrite_disables (src := src) hl hi
    have hne : ptr ≠ aQtrStrmCfg q i := by simp only [ptr, aQtrStrmPtr, aQtrStrmCfg]; omega
    have hdis : exec (.streamDisable q i v src) s = .next (flushStrm (setReg s (aQtrStrmCfg q i) w) q i) :=
      congrArg _ ((fromSrc_present hr hp _).trans he)
    obtain ⟨hfetch, hqueue, hops, hregs⟩ := flushStrm_frame (setReg s (aQtrStrmCfg q i) w) q i
    refine ⟨_, hdis, ?_, ?_, hqueue, hops.trans rfl, ?_, ?_⟩
    · rw [hregs _ (by simpa using hne.symm), reg_setReg_self, hw]
    · rw [hfetch, fld, reg_setReg_ne _ _ hne, ← fld]
    · exact keepsRegs_join (keepsRegs_setReg_mem _ _ _ (by simp)) (keepsRegs_mono hregs (by simp [ptr]))
    · rw [flushStrm_eq, setReg_eq]

end Sys2Proof.Machine

/-! The programs of a quarter: launches, their ends and the start of its control cores (R147, R228, R229, R235); what a
control core's accesses do to it and to memory, its traps and its timer interrupt (R146, R147; log entry 10). -/

namespace Sys2Proof.Machine

/-! ### Frames -/

/-- Only registers and the quarters may differ: what the writes of a quarter's registers reach. -/
def keepsBesideQuarters (s t : State) : Prop := t = { s with regs := t.regs, quarters := t.quarters }

theorem keepsBesideQuarters_trans {s t u : State} (h : keepsBesideQuarters s t) (h' : keepsBesideQuarters t u) :
    keepsBesideQuarters s u := by
  unfold keepsBesideQuarters at *
  rw [h', h]

theorem keepsBesideQuarters_of_quarters {s t : State} (h : t = { s with quarters := t.quarters }) : keepsBesideQuarters s t := by
  unfold keepsBesideQuarters
  rw [h]

/-! ### Control cores of a quarter -/

theorem setCcore_eq (s : State) (q i : Nat) (c : CCore) :
    setCcore s q i c = { s with quarters := (setCcore s q i c).quarters } := rfl

theorem ccore_setCcore (s : State) (q i : Nat) (c : CCore) (j : Nat) :
    ccore (setCcore s q i c) q j = if j = i then c else ccore s q j := by
  rw [ccore, setCcore, quarter_modQuarter_self]
  exact smGet_set _ _ _ _ _

@[simp] theorem ccore_setCcore_self (s : State) (q i : Nat) (c : CCore) : ccore (setCcore s q i c) q i = c := by
  rw [ccore_setCcore, if_pos rfl]

/-! ### The start of a control core (R147) -/

theorem fldsAt_ccCtl : ∀ q : Fin 96, fldsAt (aQtrCcCtl q) = [⟨53, 32, .rwi⟩, ⟨1, 1, .rw⟩, ⟨0, 0, .rw⟩] := by
  decide +kernel

/-- QTR_CC_CTL as a write brings it while the quarter is idle: ENTRY and the HALT bits. -/
def putCcCtl (w v : W64) : W64 := putBits (putBits (putBits w 53 32 (bits v 53 32)) 1 1 (bits v 1 1)) 0 0 (bits v 0 0)

theorem bits_putCcCtl_entry (w v : W64) : bits (putCcCtl w v) 53 32 = bits v 53 32 := by
  rw [putCcCtl, bits_putBits_ne _ _ _ _ _ _ (by decide) (by decide) (by decide),
    bits_putBits_ne _ _ _ _ _ _ (by decide) (by decide) (by decide), bits_putBits_bits _ _ (by decide) (by decide)]

theorem bit_putCcCtl_halt (w v : W64) (i : Fin 2) : bit (putCcCtl w v) i = bit v i := by
  have hput : ∀ (x : W64) (b : Nat), b < 64 → bit (putBits x b b (bits v b b)) b = bit v b := fun x b hb => by
    rw [bit_putBits_mem _ _ hb le_rfl le_rfl, testBit_bits_sub _ le_rfl le_rfl]
  match i with
  | 0 => exact hput _ 0 (by decide)
  | 1 => exact (bit_putBits _ _ _ _ _ (by decide) (by decide)).trans (hput _ 1 (by decide))

/-- A legal write of QTR_CC_CTL of an idle quarter stores its fields (R7). -/
theorem qtrPut_ccCtl {s : State} {q : Fin 96} {v : W64} {src : Src} (hi : qtrIdle s q = true) :
    qtrPut s q (aQtrCcCtl q) true v src = setReg s (aQtrCcCtl q) (putCcCtl (reg s (aQtrCcCtl q)) v) := by
  unfold qtrPut
  rw [fldsAt_ccCtl, hi]
  rfl

section
variable (old s : State) (q i : Nat)

theorem ccStarts_eq : ccStarts old q s i = { s with quarters := (ccStarts old q s i).quarters } := by
  unfold ccStarts
  split
  · exact setCcore_eq _ _ _ _
  · rfl

theorem keepsBesideQuarters_ccStarts : keepsBesideQuarters s (ccStarts old q s i) :=
  keepsBesideQuarters_of_quarters (ccStarts_eq old s q i)

theorem reg_ccStarts (o : Nat) : reg (ccStarts old q s i) o = reg s o := by rw [ccStarts_eq]; rfl

/-- A core that has left its halt stands at ENTRY; the other one is as before (R147). -/
theorem ccore_ccStarts (j : Nat) : ccore (ccStarts old q s i) q j =
    if j = i ∧ ccHalted old q i = true ∧ ccHalted s q i = false
    then { ccore s q j with pc := BitVec.ofNat 64 (fld s (aQtrCcCtl q) 53 32) } else ccore s q j := by
  unfold ccStarts
  by_cases h : ccHalted old q i = true ∧ ccHalted s q i = false
  · rw [if_pos (by simp [h]), ccore_setCcore]
    by_cases hj : j = i
    · rw [if_pos hj, if_pos ⟨hj, h⟩, hj]
    · rw [if_neg hj, if_neg fun hji => hj hji.1]
  · rw [if_neg (by simpa using h), if_neg fun hji => h hji.2]

end

section
variable {s : State} {q : Fin 96} {w : W64} {src : Src}

/-- A write of QTR_CC_CTL whose ENTRY is a multiple of 4: the register, and then the cores that start. -/
theorem ccCtlWrite_takes (hi : qtrIdle s q = true) (he : bits w 53 32 % 4 = 0) : ccCtlWrite s q w src =
    ccStarts s q (ccStarts s q (setReg s (aQtrCcCtl q) (putCcCtl (reg s (aQtrCcCtl q)) w)) 0) 1 := by
  unfold ccCtlWrite
  rw [he, beq_self_eq_true, qtrPut_ccCtl hi]
  rfl

/-- What the start of the cores leaves: their HALT bits, ENTRY in the cores that have left their halt, and no other register. -/
theorem ccStarts_frame (x : W64) :
    let t := ccStarts s q (ccStarts s q (setReg s (aQtrCcCtl q) x) 0) 1
    (∀ i : Fin 2, ccHalted t q i = bit x i ∧
      (ccHalted s q i = true → bit x i = false → (ccore t q i).pc = BitVec.ofNat 64 (bits x 53 32))) ∧
    keepsRegs s t [aQtrCcCtl q] ∧ keepsBesideQuarters s t := by
  intro t
  have hreg : ∀ o, reg t o = reg (setReg s (aQtrCcCtl q) x) o := fun o => by rw [reg_ccStarts, reg_ccStarts]
  have hhalt : ∀ j, ccHalted t q j = bit x j := fun j => by rw [ccHalted, hreg, reg_setReg_self]
  refine ⟨fun i => ⟨hhalt i, fun hs hx => ?_⟩, fun o ho => (hreg o).trans (keepsRegs_setReg _ _ _ o ho), ?_⟩
  · have hmid : ∀ j, ccHalted (ccStarts s q (setReg s (aQtrCcCtl q) x) 0) q j = bit x j := fun j => by
      rw [ccHalted, reg_ccStarts, reg_setReg_self]
    have hfst : ∀ j, ccHalted (setReg s (aQtrCcCtl q) x) q j = bit x j := fun j => by rw [ccHalted, reg_setReg_self]
    match i with
    | 0 =>
      rw [ccore_ccStarts, if_neg (by simp), ccore_ccStarts, if_pos ⟨rfl, hs, (hfst 0).trans hx⟩, fld, reg_setReg_self]
    | 1 =>
      rw [ccore_ccStarts, if_pos ⟨rfl, hs, (hmid 1).trans hx⟩, fld, reg_ccStarts, reg_setReg_self]
  · exact keepsBesideQuarters_trans (keepsBesideQuarters_trans (setReg_eq _ _ _) (keepsBesideQuarters_ccStarts _ _ _ _))
      (keepsBesideQuarters_ccStarts _ _ _ _)

end

/-! ### Launches (R228, R229) -/

section
variable {s : State} {q : Nat} {l : Launch}

theorem doLaunch_runs {a : Adm} (h : firstAdm s 1 (fun _ => !s.disp.cut) = some a) : doLaunch s =
    kLaunch ((dQuarters a.raw).foldl (joinQuarter a.id) (modAdm s a.id fun x => { x with started := true })) a.raw := by
  rw [doLaunch, h]

/-- The first LDONE of a launch notes its code and the operations in flight (R229). -/
theorem ldoneWrite_notes {src : Src} (hl : (quarter s q).launch = some l) (hd : (quarter s q).ldone = none) (v : W64) :
    ldoneWrite s q v src =
      setQuarter s q { quarter s q with ldone := some (bits v 7 0, (quarter s q).ops.map (·.id)) } := by
  rw [ldoneWrite, hl, modQuarter, hd]
  rfl

/-- A launch whose operations of its LDONE have retired is over, and the next one comes (R229, R235). -/
theorem doLaunchEnd_ends {code : Nat} {ids : List Nat} (hl : (quarter s q).launch = some l)
    (hd : (quarter s q).ldone = some (code, ids)) (ho : ∀ o ∈ (quarter s q).ops, o.id ∉ ids) : doLaunchEnd s q =
      nextLaunch (launchOver (modQuarter s q fun x => { x with launch := none, ldone := none }) q code l) q := by
  have hany : (quarter s q).ops.any (fun o => ids.contains o.id) = false := by
    rw [List.any_eq_false]
    exact fun o hm => by simpa using ho o hm
  simp only [doLaunchEnd, hl, hd, hany, Bool.false_eq_true, if_false]

end

/-- Settles O24: each command's arm where its premises hold. -/
theorem quarterProgramsRun : Obligations.QuarterProgramsRun := by
  intro s q a l v w src
  refine ⟨fun h => congrArg Host.Outcome.next (doLaunch_runs h), fun hr hp hl hd => ?_,
    fun code ids hl hd ho => congrArg Host.Outcome.next (doLaunchEnd_ends hl hd ho), fun hr hp hi he => ?_⟩
  · have hexec : exec (.ldone q v src) s = .next (setQuarter s q { quarter s q with
        ldone := some (bits (v.setWidth 64) 7 0, (quarter s q).ops.map (·.id)) }) :=
      congrArg _ ((fromSrc_present hr hp _).trans (ldoneWrite_notes hl hd _))
    exact ⟨_, hexec, by rw [quarter_setQuarter, if_pos rfl], rfl⟩
  · have hexec : exec (.ccStart q w src) s = .next (ccStarts s q
        (ccStarts s q (setReg s (aQtrCcCtl q) (putCcCtl (reg s (aQtrCcCtl q)) w)) 0) 1) :=
      congrArg _ ((fromSrc_present hr hp _).trans (ccCtlWrite_takes hi he))
    obtain ⟨hcores, hframe⟩ := ccStarts_frame (s := s) (q := q) (putCcCtl (reg s (aQtrCcCtl q)) w)
    simp only [bit_putCcCtl_halt, bits_putCcCtl_entry] at hcores
    exact ⟨_, hexec, hcores, hframe⟩

/-! ### The accesses of a control core (R146) -/

/-- Of a range without poison every shorter one from the same address has none. -/
theorem anyPsn_mono {s : State} {a m n : Nat} (hm : m ≤ n) (h : anyPsn s a n = false) : anyPsn s a m = false := by
  by_contra hc
  rw [Bool.not_eq_false, anyPsn, Bool.and_eq_true, bne_iff_ne, List.any_eq_true] at hc
  obtain ⟨h0, i, hi, hw⟩ := hc
  rw [List.mem_range] at hi
  have hmem : a / 8 + i ∈ wordsIn a n := mem_wordsIn.2 ⟨by omega, by omega, by omega⟩
  have hclean := wordPsn_of_anyPsn h hmem
  rw [Nat.mul_comm, hw] at hclean
  contradiction

section
variable {s : State} {q : Fin 96} {i : Fin 2} {a : W64}

theorem exec_of_ccRuns (hr : ccRuns s q i = true) (acc : CcAccess) :
    exec (.controlCoreLoadStore q i acc a) s = .next (ccAccess s q i acc a) := by
  show Host.Outcome.next (if ccRuns s q i then ccAccess s q i acc a else s) = _
  rw [if_pos hr]

theorem exec_of_not_ccRuns (hr : ccRuns s q i = false) (acc : CcAccess) :
    exec (.controlCoreLoadStore q i acc a) s = .next s := by
  show Host.Outcome.next (if ccRuns s q i then ccAccess s q i acc a else s) = _
  rw [hr]
  rfl

section
variable {n : Nat}

theorem ccPlace_own {q a n : Nat} (h : a + n ≤ lsSize) : ccPlace q a n = .own (lsBase q + a) := if_pos h

theorem ccWaits_own {q a n : Nat} (h : a + n ≤ lsSize) (wr : Bool) : ccWaits s q a n wr = false := by
  simp only [ccWaits, ccPlace_own h]

theorem ccWaits_none {q a n : Nat} (h : ccPlace q a n = .none) (wr : Bool) : ccWaits s q a n wr = false := by
  simp only [ccWaits, h]

/-! Loads and stores. -/

theorem ccLoad_own (h : a.toNat + n ≤ lsSize) (hp : anyPsn s (lsBase q + a.toNat) n = false) :
    ccLoad s q i a n = ccTake s q i (readNat s (lsBase q + a.toNat) n) := by
  simp only [ccLoad, ccRead, ccPlace_own h, hp, Bool.false_eq_true, if_false]

theorem ccStore_own (h : a.toNat + n ≤ lsSize) (v : W64) :
    ccStore s q i a n v = writeNat s (lsBase q + a.toNat) n v.toNat := by
  simp only [ccStore, ccWrite, ccPlace_own h]

theorem ccLoad_none (h : ccPlace q a.toNat n = .none) : ccLoad s q i a n = ccTrap s q i cLoad a := by
  simp only [ccLoad, ccRead, h]

theorem ccStore_none (h : ccPlace q a.toNat n = .none) (v : W64) : ccStore s q i a n v = ccTrap s q i cStore a := by
  simp only [ccStore, ccWrite, h]

end

/-- A load or store of a width that the core has goes on unless it waits at its slice (log entry 89). -/
theorem ccAccess_load {n : Fin 9} (hn : [1, 2, 4, 8].contains n.val = true) (hw : ccWaits s q a.toNat n false = false) :
    ccAccess s q i (.load n) a = ccLoad s q i a n := by
  simp only [ccAccess, hn, hw, Bool.not_false, Bool.and_self, if_true]

theorem ccAccess_store {n : Fin 9} (hn : [1, 2, 4, 8].contains n.val = true) (hw : ccWaits s q a.toNat n true = false)
    (v : W64) : ccAccess s q i (.store n v) a = ccStore s q i a n v := by
  simp only [ccAccess, hn, hw, Bool.not_false, Bool.and_self, if_true]

theorem ccAccess_load_waits {n : Fin 9} (hw : ccWaits s q a.toNat n false = true) : ccAccess s q i (.load n) a = s := by
  simp only [ccAccess, hw, Bool.not_true, Bool.and_false, Bool.false_eq_true, if_false]

theorem ccAccess_store_waits {n : Fin 9} (hw : ccWaits s q a.toNat n true = true) (v : W64) :
    ccAccess s q i (.store n v) a = s := by
  simp only [ccAccess, hw, Bool.not_true, Bool.and_false, Bool.false_eq_true, if_false]

/-! Fetches. -/

/-- A fetch beyond the local store traps: the core stands at the trap's entry, with the address fetched in mepc. -/
theorem ccFetch_outside (hp : ccPending s q i = none) (h : lsSize < a.toNat + 2) :
    ccFetch s q i a = ccTrap (setCcore s q i { ccore s q i with pc := a }) q i cFetch a := by
  have hlow : ¬ (a.toNat + 2 ≤ lsSize ∧ readNat s (lsBase q + a.toNat) 2 % 4 = 3) := fun hle => Nat.not_lt.2 hle.1 h
  simp only [ccFetch, hp, if_neg hlow, if_pos h]

/-- A fetch of unpoisoned words of the own local store takes 2 B, or 4 B where the low bits ask for them. -/
theorem ccFetch_own (hp : ccPending s q i = none) (h : a.toNat + 4 ≤ lsSize)
    (hc : anyPsn s (lsBase q + a.toNat) 4 = false) : ccFetch s q i a =
      ccTake (setCcore s q i { ccore s q i with pc := a }) q i (readNat s (lsBase q + a.toNat)
        (if readNat s (lsBase q + a.toNat) 2 % 4 = 3 then 4 else 2)) := by
  have hlow : a.toNat + 2 ≤ lsSize := by omega
  unfold ccFetch
  simp only [hp, hlow, true_and]
  generalize hn : (if readNat s (lsBase q + a.toNat) 2 % 4 = 3 then 4 else 2) = n
  have hn4 : n ≤ 4 := by split at hn <;> omega
  rw [if_neg (by omega), anyPsn_mono hn4 hc]
  rfl

/-! Atomic operations. -/

/-- An aligned atomic operation on unpoisoned words of the own local store acts. -/
theorem ccAtomic_acts {n align fault : Nat} {act : Nat → State} (h : a.toNat + n ≤ lsSize)
    (hp : anyPsn s (lsBase q + a.toNat) n = false) (ha : a.toNat % n = 0) :
    ccAtomic s q i a n align fault act = act (lsBase q + a.toNat) := by
  rw [ccAtomic, if_neg (Nat.not_lt.2 h), if_neg (not_not.2 ha), hp]
  rfl

theorem ccAtomic_outside {n align fault : Nat} {act : Nat → State} (h : lsSize < a.toNat + n) :
    ccAtomic s q i a n align fault act = ccTrap s q i fault a := if_pos h

theorem ccAtomic_misaligned {n align fault : Nat} {act : Nat → State} (h : a.toNat + n ≤ lsSize) (ha : a.toNat % n ≠ 0) :
    ccAtomic s q i a n align fault act = ccTrap s q i align a := by
  rw [ccAtomic, if_neg (Nat.not_lt.2 h), if_pos ha]

section
variable {d : Bool} (h : a.toNat + amoBytes d ≤ lsSize) (hp : anyPsn s (lsBase q + a.toNat) (amoBytes d) = false)
  (ha : a.toNat % amoBytes d = 0)
include h hp ha

theorem ccLr_reserves : ccAccess s q i (.lr d) a = setCcore s q i
    { ccore s q i with last := BitVec.ofNat 64 (readNat s (lsBase q + a.toNat) (amoBytes d)),
                       lr := some (a.toNat / 8 * 8) } := by
  simp only [ccAccess, ccLr, ccAtomic_acts h hp ha]

/-- The state after an SC has stored: its datum is 0, and the reservation has ended. -/
theorem ccSc_stores (v : W64) (hl : (ccore s q i).lr = some (a.toNat / 8 * 8)) : ∃ c : CCore, c.last = 0 ∧ c.lr = none ∧
    ccAccess s q i (.sc d v) a =
      setCcore (writeNat s (lsBase q + a.toNat) (amoBytes d) (v.toNat % 2 ^ (8 * amoBytes d))) q i c :=
  ⟨{ ccore (writeNat s (lsBase q + a.toNat) (amoBytes d) (v.toNat % 2 ^ (8 * amoBytes d))) q i with last := 0, lr := none },
    rfl, rfl, by simp only [ccAccess, ccSc, ccAtomic_acts h hp ha, if_pos hl]⟩

theorem ccSc_fails (v : W64) (hl : (ccore s q i).lr ≠ some (a.toNat / 8 * 8)) :
    ccAccess s q i (.sc d v) a = setCcore s q i { ccore s q i with last := 1, lr := none } := by
  simp only [ccAccess, ccSc, ccAtomic_acts h hp ha, if_neg hl]

theorem ccAmo_acts (op : AmoOp) (v : W64) : ccAccess s q i (.amo op d v) a =
    ccTake (writeNat s (lsBase q + a.toNat) (amoBytes d) (amoVal op (amoBytes d) (readNat s (lsBase q + a.toNat) (amoBytes d))
      (v.toNat % 2 ^ (8 * amoBytes d)))) q i (readNat s (lsBase q + a.toNat) (amoBytes d)) := by
  simp only [ccAccess, ccAmo, ccAtomic_acts h hp ha]

end

/-! The machine-mode registers (log entry 10). -/

theorem ccCsr_reads {k : BitVec 12} {v old : W64} (h : csrRead s q i k.toNat = some old) :
    ccAccess s q i (.csr k v) a = setCcore s q i { csrWrite (ccore s q i) k.toNat v with last := old } := by
  simp only [ccAccess, ccCsr, h]

theorem ccCsr_illegal {k : BitVec 12} {v : W64} (h : csrRead s q i k.toNat = none) (hf : csrFree k.toNat = false) :
    ccAccess s q i (.csr k v) a = ccTrap s q i cIllegal 0 := by
  simp only [ccAccess, ccCsr, h, hf, Bool.false_eq_true, if_false]

/-! The timer interrupt (R147). -/

/-- What a core takes before it fetches rests on its enables and on registers, not on mtip. -/
theorem ccPending_setMtip : ccPending (setCcore s q i { ccore s q i with mtip := true }) q i = ccPending s q i := by
  have hext : ∀ c, ccExternal (setCcore s q i c) q i = ccExternal s q i := fun _ => rfl
  have htim : ∀ c, ccTimer (setCcore s q i c) q i = ccTimer s q i := fun _ => rfl
  simp only [ccPending, ccore_setCcore_self, hext, htim]

theorem doTimer_early (h : mtime s < (reg s (aQtrMtimecmp q i)).toNat) : doTimer s q i = s := by
  rw [doTimer, ccTimer, decide_eq_false (Nat.not_le.2 h), Bool.and_false]
  rfl

theorem doTimer_pends (hp : qtrPresent s q = true) (h : (reg s (aQtrMtimecmp q i)).toNat ≤ mtime s)
    (hn : ccRuns s q i = false ∨ ccPending s q i ≠ some cTimer) :
    doTimer s q i = setCcore s q i { ccore s q i with mtip := true } := by
  have htake : (ccRuns s q i && ccPending s q i == some cTimer) = false := by
    rcases hn with hn | hn
    · rw [hn, Bool.false_and]
    · rw [beq_false_of_ne hn, Bool.and_false]
  simp only [doTimer, ccTimer, hp, decide_eq_true h, ccPending_setMtip, htake, Bool.and_self, Bool.false_eq_true, if_true, if_false]

theorem doTimer_takes (hr : ccRuns s q i = true) (h : (reg s (aQtrMtimecmp q i)).toNat ≤ mtime s)
    (hn : ccPending s q i = some cTimer) :
    doTimer s q i = ccInterrupt (setCcore s q i { ccore s q i with mtip := true }) q i cTimer := by
  have hp : qtrPresent s q = true := (Bool.and_eq_true_iff.1 hr).1
  simp only [doTimer, ccTimer, hp, decide_eq_true h, ccPending_setMtip, hr, hn, beq_self_eq_true, Bool.and_self, if_true]

theorem ccPending_timer (h : (reg s (aQtrMtimecmp q i)).toNat ≤ mtime s) (hm : (ccore s q i).mie = true)
    (ht : (ccore s q i).mtie = true) (he : ((ccore s q i).meie && ccExternal s q i) = false) : ccPending s q i = some cTimer := by
  simp only [ccPending, hm, he, ht, ccTimer, decide_eq_true h, Bool.not_true, Bool.and_self, Bool.false_eq_true, if_false,
    if_true]

end

/-- Where an interrupt leaves its core: its cause, what it interrupted and its entry, with interrupts off. -/
theorem ccInterrupt_frame (s : State) (q i code : Nat) :
    ccore (ccInterrupt s q i code) q i = trapTo (ccore s q i) (BitVec.ofNat 64 (2 ^ 63 + code)) 0
      (if (ccore s q i).mtvec.toNat % 4 = 1 then trapBase (ccore s q i) + BitVec.ofNat 64 (4 * code) else trapBase (ccore s q i)) ∧
    ccInterrupt s q i code = { s with quarters := (ccInterrupt s q i code).quarters } :=
  ⟨ccore_setCcore_self _ _ _ _, setCcore_eq _ _ _ _⟩

/-- Settles O59: each access's arm where its premises hold; those that wait at a slice are log entry 89. -/
theorem controlCoresAccess : Obligations.ControlCoresAccess := by
  intro s q i a v n d op c b own sz w
  have runs := fun (acc : CcAccess) (hr : ccRuns s q i = true) => exec_of_ccRuns (a := a) hr acc
  have timer : exec (.machineTimerInterrupt q i) s = .next (doTimer s q i) := rfl
  refine ⟨?load, ?store, ?loadWaits, ?storeWaits, ?loadNone, ?storeNone, ?fetchOutside, ?fetch, ?fetchInterrupted, ?lr,
    ?scStores, ?scFails, ?amo, ?halted, ?amoOutside, ?amoMisaligned, ?mstatus, ?mie, ?csrIllegal, ?mret, ?timerPends,
    ?timerTakes, ?timerEarly⟩
  case load =>
    rintro hr ⟨hin, hp⟩ hn
    rw [runs _ hr, ccAccess_load hn (ccWaits_own hin _), ccLoad_own hin hp]
    rfl
  case store =>
    rintro hr ⟨hin, -⟩ hn
    rw [runs _ hr, ccAccess_store hn (ccWaits_own hin _), ccStore_own hin]
  case loadWaits => exact fun hr hw => (runs _ hr).trans (congrArg _ (ccAccess_load_waits hw))
  case storeWaits => exact fun hr hw => (runs _ hr).trans (congrArg _ (ccAccess_store_waits hw v))
  case loadNone =>
    intro hr hn hnone
    rw [runs _ hr, ccAccess_load hn (ccWaits_none hnone _), ccLoad_none hnone]
    rfl
  case storeNone =>
    intro hr hn hnone
    rw [runs _ hr, ccAccess_store hn (ccWaits_none hnone _), ccStore_none hnone]
    rfl
  case fetchOutside =>
    intro hr hp hout
    refine ⟨_, (runs .fetch hr).trans (congrArg _ (ccFetch_outside hp hout)), ?_⟩
    simp only [ccTrap, ccore_setCcore_self]
    exact ⟨rfl, rfl, rfl, rfl⟩
  case fetch =>
    rintro hr hp ⟨hin, hclean⟩
    refine ⟨_, (runs .fetch hr).trans (congrArg _ (ccFetch_own hp hin hclean)), ?_⟩
    rw [ccTake, ccore_setCcore_self, ccore_setCcore_self]
    exact ⟨rfl, rfl, rfl, by rw [setCcore_eq, setCcore_eq s]⟩
  case fetchInterrupted =>
    intro k hr hp
    rw [runs _ hr, ccAccess, ccFetch, hp]
  case lr => exact fun hr ⟨hin, hp⟩ ha => (runs _ hr).trans (congrArg _ (ccLr_reserves hin hp ha))
  case scStores =>
    rintro hr ⟨hin, hp⟩ ha hl
    obtain ⟨c', hlast, hlr, he⟩ := ccSc_stores hin hp ha v hl
    refine ⟨_, (runs _ hr).trans (congrArg _ he), ?_⟩
    rw [ccore_setCcore_self]
    exact ⟨hlast, hlr, rfl, rfl⟩
  case scFails => exact fun hr ⟨hin, hp⟩ ha hl => (runs _ hr).trans (congrArg _ (ccSc_fails hin hp ha v hl))
  case amo =>
    rintro hr ⟨hin, hp⟩ ha
    refine ⟨_, (runs _ hr).trans (congrArg _ (ccAmo_acts hin hp ha op v)), ?_⟩
    simp only [ccTake, ccore_setCcore_self]
    exact ⟨rfl, rfl⟩
  case halted => exact fun acc hr => exec_of_not_ccRuns hr acc
  case amoOutside =>
    intro hr hout
    rw [runs _ hr, ccAccess, ccAmo, ccAtomic_outside hout]
    rfl
  case amoMisaligned =>
    intro hr hin ha
    rw [runs _ hr, ccAccess, ccAmo, ccAtomic_misaligned hin ha]
    rfl
  case mstatus => exact fun hr => (runs _ hr).trans (congrArg _ (ccCsr_reads rfl))
  case mie => exact fun hr => (runs _ hr).trans (congrArg _ (ccCsr_reads rfl))
  case csrIllegal => exact fun k hr hk hf => (runs _ hr).trans (congrArg _ (ccCsr_illegal hk hf))
  case mret => exact fun hr => runs .mret hr
  case timerPends => exact fun hp ht hn => timer.trans (congrArg _ (doTimer_pends hp ht hn))
  case timerTakes =>
    intro ht hr hm hmt he
    obtain ⟨hcore, hframe⟩ := ccInterrupt_frame (setCcore s q i { ccore s q i with mtip := true }) q i cTimer
    refine ⟨_, timer.trans (congrArg _ (doTimer_takes hr ht (ccPending_timer ht hm hmt he))), ?_⟩
    rw [hcore, ccore_setCcore_self]
    exact ⟨rfl, rfl, rfl, hm, rfl, rfl, hframe.trans (by rw [setCcore_eq])⟩
  case timerEarly => exact fun ht => timer.trans (congrArg _ (doTimer_early ht))

end Sys2Proof.Machine

/-! Ticks of the town clock (R147, R240, R241): who is told of one, what an accepted, a refused and a missed one leave. -/

namespace Sys2Proof.Machine

/-! ### Bits that stay set -/

theorem keepsBit_trans {s t u : State} {o b : Nat} (h : keepsBit s t o b) (h' : keepsBit t u o b) : keepsBit s u o b := h' ∘ h

theorem keepsBit_ite {s t u : State} {o b : Nat} {c : Prop} [Decidable c] (h : keepsBit s t o b) (h' : keepsBit s u o b) :
    keepsBit s (if c then t else u) o b := by split <;> assumption

/-- An error that is raised clears no bit of its error register (R77). -/
theorem keepsBit_raise (s : State) (blk : Blk) (c low b : Nat) : keepsBit s (raise s blk c low) (errReg blk) b := by
  have hset := keepsBit_setErr s blk c low b (errRec_ne_errReg blk)
  have hfire : ∀ t, keepsBit t (fireEvent t (errEvent blk)) (errReg blk) b := fun t =>
    keepsBit_fireEvent_errReg t _ blk b
  unfold raise
  dsimp only
  cases blk with
  | qtr q =>
    have hirq : keepsBit s (ccIrq (setErr s (.qtr q) c low) q 5) (errReg (.qtr q)) b :=
      keepsBit_trans hset (keepsBit_of_keepsRegs (keepsRegs_ccIrq _ _ _) (by simp [errReg, aQtrErr, aQtrCcIrq]))
    exact keepsBit_ite hirq (keepsBit_trans hirq (hfire _))
  | _ => exact keepsBit_ite hset (keepsBit_trans hset (hfire _))

/-! ### Every quarter is told of a tick (R147) -/

theorem bit_ccIrq_self (s : State) (q : Nat) {b : Nat} (hb : b < 64) : bit (reg (ccIrq s q b) (aQtrCcIrq q)) b = true := by
  rw [ccIrq, reg_setReg_self, bit, BitVec.toNat_or, BitVec.toNat_ofNat,
    Nat.mod_eq_of_lt (Nat.pow_lt_pow_right (by decide) hb), Nat.testBit_or, Nat.testBit_two_pow_self, Bool.or_true]

theorem keepsBit_ccIrq (s : State) (p b q c : Nat) : keepsBit s (ccIrq s p b) (aQtrCcIrq q) c := by
  intro h
  rw [ccIrq, reg_setReg]
  split
  · next hq => rw [bit, BitVec.toNat_or, Nat.testBit_or, ← hq, ← bit, h, Bool.true_or]
  · exact h

theorem foldl_ccIrq_eq (l : List Nat) (s : State) :
    l.foldl (fun t q => ccIrq t q 3) s = { s with regs := (l.foldl (fun t q => ccIrq t q 3) s).regs } :=
  foldl_keep (P := fun t : State => t = { s with regs := t.regs }) l (fun t q h => by rw [ccIrq_eq, h]) rfl

theorem keepsBit_foldl_ccIrq (l : List Nat) (s : State) (q c : Nat) :
    keepsBit s (l.foldl (fun t p => ccIrq t p 3) s) (aQtrCcIrq q) c :=
  fun h => foldl_keep (P := fun t => bit (reg t (aQtrCcIrq q)) c = true) l (fun t p h => keepsBit_ccIrq t p 3 q c h) h

theorem bit_foldl_ccIrq {l : List Nat} (s : State) {q : Nat} (hq : q ∈ l) :
    bit (reg (l.foldl (fun t p => ccIrq t p 3) s) (aQtrCcIrq q)) 3 = true := by
  induction l generalizing s with
  | nil => exact absurd hq List.not_mem_nil
  | cons p l ih =>
    obtain rfl | hl := List.mem_cons.1 hq
    · exact keepsBit_foldl_ccIrq l _ q 3 (bit_ccIrq_self s q (by decide))
    · exact ih _ hl

/-- Below the quarters' registers no register changes when the quarters are told. -/
theorem reg_tellTick (s : State) {o : Nat} (ho : o < 0x1400000) : reg (tellTick s) o = reg s o :=
  foldl_keep (P := fun t => reg t o = reg s o) _
    (fun t q h => (keepsRegs_ccIrq t q 3 o (by simp only [List.mem_singleton, aQtrCcIrq]; omega)).trans h) rfl

/-- The state in which a tick on the parent's port is judged: its packet is taken, and every quarter is told of it. -/
def tickTold (s : State) (k : Pkt) (at_ : Nat) : State := tellTick (takePkt { s with now := max s.now at_ } k)

section
variable (s : State) (k : Pkt) (at_ : Nat)

theorem tickTold_eq : tickTold s k at_ = { s with
    now := max s.now at_, fab := (tickTold s k at_).fab, regs := (tickTold s k at_).regs } := by
  unfold tickTold tellTick
  rw [foldl_ccIrq_eq, takePkt_eq]

theorem reg_tickTold {o : Nat} (ho : o < 0x1400000) : reg (tickTold s k at_) o = reg s o := by
  rw [tickTold, reg_tellTick _ ho, takePkt_eq]
  rfl

theorem fld_tickTold {o : Nat} (ho : o < 0x1400000) (hi lo : Nat) : fld (tickTold s k at_) o hi lo = fld s o hi lo := by
  rw [fld, reg_tickTold s k at_ ho, ← fld]

theorem bit_tickTold {q : Nat} (hq : q ∈ quartersIn s) : bit (reg (tickTold s k at_) (aQtrCcIrq q)) 3 = true := by
  refine bit_foldl_ccIrq _ ?_
  rw [takePkt_eq]
  exact hq

theorem disp_tickTold : (tickTold s k at_).disp = s.disp := by rw [tickTold_eq]

theorem stopRuns_tickTold : stopRuns (tickTold s k at_) = stopRuns s := by
  simp only [stopRuns, fld_tickTold s k at_ (show aMgtStopStatus < 0x1400000 by decide)]

theorem inJob_tickTold : inJob (tickTold s k at_) = inJob s := by
  simp only [inJob, fld_tickTold s k at_ (show aClkBeatCtl < 0x1400000 by decide)]

theorem beatLen_tickTold : beatLen (tickTold s k at_) = beatLen s := by
  simp only [beatLen, fld_tickTold s k at_ (show aClkBeatCtl < 0x1400000 by decide)]

theorem alignNs_tickTold : alignNs (tickTold s k at_) = alignNs s := fld_tickTold s k at_ (by decide) _ _

theorem dlyNs_tickTold : dlyNs (tickTold s k at_) = dlyNs s := fld_tickTold s k at_ (by decide) _ _

theorem boundaryQ_tickTold (resid : Nat) : boundaryQ (tickTold s k at_) at_ resid = boundaryQ s at_ resid := by
  rw [boundaryQ, alignNs_tickTold, dlyNs_tickTold, ← boundaryQ]

theorem tickLate_tickTold (n bq : Nat) : tickLate (tickTold s k at_) n bq = tickLate s n bq := by
  have hnum : beatNum (tickTold s k at_) = beatNum s := by
    rw [beatNum, reg_tickTold s k at_ (by decide), ← beatNum]
  rw [tickLate, lastBoundary, disp_tickTold, hnum, beatLen_tickTold]
  rfl

end

/-! ### A tick in a job (R240, R241) -/

theorem forwardTick_eq (s : State) (k : Pkt) : forwardTick s k = { s with fab := (forwardTick s k).fab } :=
  foldl_keep (P := fun t : State => t = { s with fab := t.fab }) _ (fun t p h => by rw [pushCtrl, modFab, h]) rfl

section
variable {s : State} {k : Pkt} {at_ : Nat}

/-- An accepted tick but the first goes on to the children, and its boundary stands (R240). -/
theorem acceptTick_later {n : Nat} (hn : n ≠ 0) (bq resid chip : Nat) : ∃ f, acceptTick s n bq resid at_ chip =
    { s with fab := f, disp := { s.disp with miss := 0, ticks := s.disp.ticks ++ [(n, bq / 4)] } } :=
  ⟨_, by rw [acceptTick, if_pos hn, forwardTick_eq, modDisp]⟩

/-- In a job a tick that passes the checks of R241 is accepted. -/
theorem takeTick_accepts (hj : inJob s = true) (hs : stopRuns s = false) (hlen : bits (pword k 2) 13 0 = beatLen s / 1000)
    (hal : dlyNs s ≤ alignNs s)
    (hlate : tickLate s (pword k 1).toNat (boundaryQ s at_ (bits (pword k 2) 63 32)) = false) : takeTick s k at_ =
      acceptTick s (pword k 1).toNat (boundaryQ s at_ (bits (pword k 2) 63 32)) (bits (pword k 2) 63 32) at_
        (bits (pword k 3) 15 0) := by
  simp only [takeTick, hj, hs, hlen, hlate, decide_eq_false (Nat.not_lt.2 hal), bne_self_eq_false, Bool.not_true,
    Bool.false_and, Bool.and_false, Bool.or_self, Bool.false_eq_true, if_false]

/-- In a job a tick of another beat length is flagged, and nothing but errors comes of it (R241). -/
theorem takeTick_refuses (hj : inJob s = true) (hs : stopRuns s = false) (hlen : bits (pword k 2) 13 0 ≠ beatLen s / 1000) :
    bit (reg (takeTick s k at_) aClkErr) 4 = true ∧ keepsCore s (takeTick s k at_) ∧
    keepsRegs s (takeTick s k at_) (errRegs .clk) := by
  have hraise : ∀ (t : State) (c : Prop) [Decidable c] (b : Nat),
      keepsBit t (if c then raise t .clk b 0 else t) aClkErr 4 ∧ keepsCore t (if c then raise t .clk b 0 else t) ∧
      keepsRegs t (if c then raise t .clk b 0 else t) (errRegs .clk) := fun t c _ b =>
    ⟨keepsBit_ite (keepsBit_raise t .clk b 0 4) id, keepsCore_ite (keepsCore_raise _ _ _ _) (keepsCore_refl _),
      keepsRegs_ite (keepsRegs_raise _ _ _ _) (keepsRegs_refl _ _)⟩
  have hfirst : bit (reg (raise s .clk 4 0) aClkErr) 4 = true := bit_raise s .clk 0 (by decide)
  unfold takeTick
  simp only [hj, hs, bne_iff_ne.2 hlen, Bool.not_true, Bool.false_and, Bool.or_self, Bool.true_or, Bool.false_eq_true,
    if_true, if_false]
  obtain ⟨hbit, hcore, hregs⟩ := hraise (raise s .clk 4 0) (decide (alignNs s < dlyNs s) = true) 3
  generalize (if decide (alignNs s < dlyNs s) = true then raise (raise s .clk 4 0) .clk 3 0 else raise s .clk 4 0) = u at *
  obtain ⟨hbit', hcore', hregs'⟩ := hraise u ((!false && tickLate s (pword k 1).toNat
    (boundaryQ s at_ (bits (pword k 2) 63 32))) = true) 2
  exact ⟨hbit' (hbit hfirst), keepsCore_trans (keepsCore_trans (keepsCore_raise _ _ _ _) hcore) hcore',
    keepsRegs_join (keepsRegs_join (keepsRegs_raise _ _ _ _) hregs) hregs'⟩

/-- A tick on the parent's port is judged once the quarters are told of it (R147, R275). -/
theorem exec_tick {p : Fin 32} (hr : isRoot s = false) (hp : p.val = fld s aClkTree 4 0) (hrole : streetRole s p = true)
    (hwf : WF.pkt k = true) (hc : k.cls = 2) (ht : k.typ = 0) (hpsn : k.words.any (·.psn) = false) :
    exec (.tick p k at_) s = .next (takeTick (tickTold s k at_) k at_) := by
  have hacts : (!isRoot { s with now := max s.now at_ } && p.val == fld { s with now := max s.now at_ } aClkTree 4 0 &&
      streetRole { s with now := max s.now at_ } p) = true := by
    show (!isRoot s && p.val == fld s aClkTree 4 0 && streetRole s p) = true
    rw [hr, hp, beq_self_eq_true, ← hp, hrole]
    rfl
  refine (onPkt_next hwf _).trans (congrArg _ ?_)
  simp only [doTick, hacts, ctrlIn, hc, ht, hpsn, ne_eq, not_true_eq_false, or_self, Bool.not_true, if_false]
  rfl

end

/-! ### A missed tick (R241) -/

/-- The state after a missed tick, before a second miss in a row ends the job: the miss is flagged and counted, and the next
boundary is the predicted one. -/
def tickPredicted (s : State) : State :=
  modDisp (count (raise s .clk 1 0) 1414 1) fun d =>
    { d with miss := d.miss + 1, ticks := [(beatNum s + 1, d.beatStart + beatLen s)] }

theorem doTickMissed_predicts {s : State} (hj : inJob s = true) (hr : isRoot s = false) (hs : stopRuns s = false)
    (ht : s.disp.ticks = []) (hb : s.disp.stopBeat ≠ some (beatNum s)) : doTickMissed s =
      if (tickPredicted s).disp.miss = 2 then stopAtEnd (tickPredicted s) rTick else tickPredicted s := by
  simp only [doTickMissed, hj, hr, hs, ht, beq_false_of_ne hb, List.isEmpty_nil, Bool.not_true, Bool.or_self,
    Bool.false_eq_true, if_false]
  rfl

theorem tickPredicted_frame (s : State) : bit (reg (tickPredicted s) aClkErr) 1 = true ∧
    (tickPredicted s).disp.miss = s.disp.miss + 1 ∧
    (tickPredicted s).disp.ticks = [(beatNum s + 1, s.disp.beatStart + beatLen s)] ∧
    ∀ x, memByte (tickPredicted s) x = memByte s x := by
  have hcore : keepsCore s (count (raise s .clk 1 0) 1414 1) :=
    keepsCore_trans (keepsCore_raise _ _ _ _) (keepsCore_count _ _ _)
  have hdisp : (count (raise s .clk 1 0) 1414 1).disp = s.disp := by rw [hcore]
  refine ⟨?_, ?_, ?_, fun x => memByte_of_keepsCore hcore x⟩
  · show bit (reg (count (raise s .clk 1 0) 1414 1) aClkErr) 1 = true
    rw [keepsRegs_count _ _ _ _ (by decide)]
    exact bit_raise s .clk 0 (by decide)
  · rw [tickPredicted, modDisp, hdisp]
  · rw [tickPredicted, modDisp, hdisp]

/-- The end of the job at its beat's boundary is noted, and nothing else changes (R395). -/
theorem stopAtEnd_frame (s : State) (r : Nat) : ∃ e, stopAtEnd s r = { s with disp := { s.disp with endStop := e } } := by
  unfold stopAtEnd
  split
  · exact ⟨_, rfl⟩
  · exact ⟨s.disp.endStop, rfl⟩

theorem ccIrq_not_mem_errRegs_clk (q : Nat) : aQtrCcIrq q ∉ errRegs .clk := by
  simp only [errRegs, errReg, errRec, eventRegs, aClkErr, aQtrCcIrq, aHstBmeDrops, aHstPortErr, aHstPortErrRec, aMgtPmcOvf,
    Option.map_none, Option.toList_none, List.append_nil, List.cons_append, List.nil_append, List.mem_cons, List.not_mem_nil,
    or_false, not_or]
  omega

/-- Settles O35: a tick that comes is told, and then accepted or flagged; a missed one is predicted. -/
theorem ticksKeepTime : Obligations.TicksKeepTime := by
  intro s p k at_ hr hp hrole hs hj resid n bq
  have hj' := (inJob_tickTold s k at_).trans hj
  have hs' := (stopRuns_tickTold s k at_).trans hs
  refine ⟨fun hwf hc ht hpsn hlen hal hlate hn => ?_, fun hwf hc ht hpsn hlen => ?_, fun ht hb => ?_⟩
  · have hacc := takeTick_accepts (s := tickTold s k at_) (k := k) (at_ := at_) hj' hs' (by rw [beatLen_tickTold, hlen])
      (by rw [dlyNs_tickTold, alignNs_tickTold]; exact hal) (by rw [boundaryQ_tickTold, tickLate_tickTold]; exact hlate)
    obtain ⟨f, hf⟩ := acceptTick_later (s := tickTold s k at_) (at_ := at_) hn
      (boundaryQ (tickTold s k at_) at_ (bits (pword k 2) 63 32)) (bits (pword k 2) 63 32) (bits (pword k 3) 15 0)
    refine ⟨_, (exec_tick hr hp hrole hwf hc ht hpsn).trans (congrArg _ (hacc.trans hf)), ?_, ?_, fun x => ?_,
      fun q hq => bit_tickTold s k at_ hq⟩
    · rw [tickTold_eq]
    · rw [disp_tickTold, boundaryQ_tickTold]
    · show memByte (tickTold s k at_) x = memByte s x
      rw [tickTold_eq]
      rfl
  · obtain ⟨hbit, hcore, hregs⟩ := takeTick_refuses (s := tickTold s k at_) (k := k) (at_ := at_) hj' hs'
      (by rw [beatLen_tickTold]; exact hlen)
    refine ⟨_, exec_tick hr hp hrole hwf hc ht hpsn, hbit, ?_, fun q hq => ?_⟩
    · rw [hcore]
      exact disp_tickTold s k at_
    · rw [hregs _ (ccIrq_not_mem_errRegs_clk q)]
      exact bit_tickTold s k at_ hq
  · obtain ⟨hbit, hmiss, hticks, hmem⟩ := tickPredicted_frame s
    refine ⟨_, congrArg Host.Outcome.next (doTickMissed_predicts hj hr hs ht hb), ?_⟩
    obtain ⟨e, he⟩ := stopAtEnd_frame (tickPredicted s) rTick
    split
    · rw [he]
      exact ⟨hbit, hmiss, hticks, hmem⟩
    · exact ⟨hbit, hmiss, hticks, hmem⟩

end Sys2Proof.Machine

/-! Submissions to the projector (R143, R326, R329 to R331): how one joins, what serving the queue does to those that wait,
and how one ends. -/

namespace Sys2Proof.Machine

/-! ### Submissions that go on -/

/-- A submission that has gone on in the projector: it is the same operation's, and it stays queued. -/
def subAdvances (x y : Sub) : Prop := y.q = x.q ∧ y.op = x.op ∧ (x.queued = true → y.queued = true)

theorem subAdvances_refl (x : Sub) : subAdvances x x := ⟨rfl, rfl, id⟩

theorem subAdvances_trans {x y z : Sub} (h : subAdvances x y) (h' : subAdvances y z) : subAdvances x z := by
  obtain ⟨hq, hop, hqueued⟩ := h
  obtain ⟨hq', hop', hqueued'⟩ := h'
  exact ⟨hq'.trans hq, hop'.trans hop, hqueued' ∘ hqueued⟩

/-- Every submission of the first list has gone on to one of the second, and the second holds no other. -/
def subsAdvance (l m : List Sub) : Prop := (∀ x ∈ l, ∃ y ∈ m, subAdvances x y) ∧ ∀ y ∈ m, ∃ x ∈ l, subAdvances x y

theorem subsAdvance_refl (l : List Sub) : subsAdvance l l :=
  ⟨fun x hx => ⟨x, hx, subAdvances_refl x⟩, fun y hy => ⟨y, hy, subAdvances_refl y⟩⟩

theorem subsAdvance_trans {l m n : List Sub} (h : subsAdvance l m) (h' : subsAdvance m n) : subsAdvance l n := by
  refine ⟨fun x hx => ?_, fun z hz => ?_⟩
  · obtain ⟨y, hy, hxy⟩ := h.1 x hx
    obtain ⟨z, hz, hyz⟩ := h'.1 y hy
    exact ⟨z, hz, subAdvances_trans hxy hyz⟩
  · obtain ⟨y, hy, hyz⟩ := h'.2 z hz
    obtain ⟨x, hx, hxy⟩ := h.2 y hy
    exact ⟨x, hx, subAdvances_trans hxy hyz⟩

theorem subsAdvance_cons {x y : Sub} {l m : List Sub} (hxy : subAdvances x y) (h : subsAdvance l m) :
    subsAdvance (x :: l) (y :: m) := by
  refine ⟨List.forall_mem_cons.2 ⟨⟨y, List.mem_cons_self, hxy⟩, fun z hz => ?_⟩,
    List.forall_mem_cons.2 ⟨⟨x, List.mem_cons_self, hxy⟩, fun z hz => ?_⟩⟩
  · obtain ⟨w, hw, hzw⟩ := h.1 z hz
    exact ⟨w, List.mem_cons_of_mem _ hw, hzw⟩
  · obtain ⟨w, hw, hwz⟩ := h.2 z hz
    exact ⟨w, List.mem_cons_of_mem _ hw, hwz⟩

theorem subsAdvance_map {g : Sub → Sub} (hg : ∀ x, subAdvances x (g x)) (l : List Sub) : subsAdvance l (l.map g) := by
  refine ⟨fun x hx => ⟨g x, List.mem_map_of_mem hx, hg x⟩, fun y hy => ?_⟩
  obtain ⟨x, hx, rfl⟩ := List.mem_map.1 hy
  exact ⟨x, hx, hg x⟩

/-! ### The queue of 64 and the service positions (R329) -/

theorem subsAdvance_prjServeList (now n : Nat) (l : List Sub) : subsAdvance l (prjServeList now n l) := by
  induction l generalizing n with
  | nil => exact subsAdvance_refl []
  | cons x t ih =>
    unfold prjServeList
    split
    · exact subsAdvance_cons (subAdvances_refl x) (ih n)
    · split
      · exact subsAdvance_cons ⟨rfl, rfl, id⟩ (ih _)
      · exact subsAdvance_refl _

theorem subsAdvance_prjQueueList (n : Nat) (l : List Sub) : subsAdvance l (prjQueueList n l) := by
  induction l generalizing n with
  | nil => exact subsAdvance_refl []
  | cons x t ih =>
    unfold prjQueueList
    split
    · exact subsAdvance_cons (subAdvances_refl x) (ih n)
    · split
      · exact subsAdvance_cons ⟨rfl, rfl, fun _ => rfl⟩ (ih _)
      · exact subsAdvance_refl _

/-- A submission that is not queued takes no service position. -/
theorem mem_prjServeList_of_unqueued {now n : Nat} {l : List Sub} {u : Sub} (hu : u ∈ l) (hq : u.queued = false) :
    u ∈ prjServeList now n l := by
  induction l generalizing n with
  | nil => exact absurd hu List.not_mem_nil
  | cons x t ih =>
    unfold prjServeList
    rcases List.mem_cons.1 hu with rfl | ht
    · rw [if_pos (by rw [hq, Bool.not_false, Bool.or_true])]
      exact List.mem_cons_self
    · split
      · exact List.mem_cons_of_mem _ (ih ht)
      · split
        · exact List.mem_cons_of_mem _ (ih ht)
        · exact hu

/-- Behind submissions that are queued already, the first that is not takes a free place. -/
theorem prjQueueList_append {n : Nat} {l : List Sub} (hl : ∀ x ∈ l, x.queued = true) (hn : 0 < n) {u : Sub}
    (hu : u.queued = false) : prjQueueList n (l ++ [u]) = l ++ [{ u with queued := true }] := by
  induction l with
  | nil => simp only [List.nil_append, prjQueueList, hu, Bool.false_eq_true, if_false, if_pos hn]
  | cons x t ih =>
    obtain ⟨hx, ht⟩ := List.forall_mem_cons.1 hl
    rw [List.cons_append, prjQueueList, if_pos hx, ih ht, List.cons_append]

/-! ### What serving leaves -/

/-- Only registers, the host port, counters and the projector may differ. -/
def keepsBesidePrj (s t : State) : Prop := t = { s with regs := t.regs, host := t.host, pmc := t.pmc, prj := t.prj }

theorem keepsBesidePrj_trans {s t u : State} (h : keepsBesidePrj s t) (h' : keepsBesidePrj t u) : keepsBesidePrj s u := by
  unfold keepsBesidePrj at *
  rw [h', h]

theorem keepsBesidePrj_of_keepsCore {s t : State} (h : keepsCore s t) : keepsBesidePrj s t := by
  unfold keepsCore at h
  unfold keepsBesidePrj
  rw [h]

theorem keepsBesidePrj_modPrj (s : State) (f : Prj → Prj) : keepsBesidePrj s (modPrj s f) := rfl

theorem quarter_of_keepsBesidePrj {s t : State} (h : keepsBesidePrj s t) (q : Nat) : quarter t q = quarter s q := by
  rw [h]
  rfl

theorem square_of_keepsBesidePrj {s t : State} (h : keepsBesidePrj s t) (n : Nat) : square t n = square s n := by
  rw [h]
  rfl

section
variable (s : State)

theorem prjEnqueue_subs : (prjEnqueue s).prj.subs =
    if prjSettled s then prjQueueList (64 - (waitingSubs s).length) s.prj.subs else s.prj.subs := by
  unfold prjEnqueue
  split <;> rfl

theorem keepsBesidePrj_prjEnqueue : keepsBesidePrj s (prjEnqueue s) := by
  unfold prjEnqueue
  split
  · exact keepsBesidePrj_modPrj _ _
  · rfl

theorem subsAdvance_prjEnqueue : subsAdvance s.prj.subs (prjEnqueue s).prj.subs := by
  rw [prjEnqueue_subs]
  split
  · exact subsAdvance_prjQueueList _ _
  · exact subsAdvance_refl _

/-- A submission in service takes the flags of the conditions that hold (R333). -/
def noteSub (f : Nat) (x : Sub) : Sub := if x.serving then { x with flags := x.flags ||| f } else x

theorem subAdvances_noteSub (f : Nat) (x : Sub) : subAdvances x (noteSub f x) := by
  unfold noteSub
  split
  · exact ⟨rfl, rfl, id⟩
  · exact subAdvances_refl x

/-- The conditions of R333 flag what is in service, and set error bits. -/
theorem prjNote_frame : (∃ g, (∀ x, subAdvances x (g x)) ∧ (∀ x, x.serving = false → g x = x) ∧
    (prjNote s).prj.subs = s.prj.subs.map g) ∧ keepsBesidePrj s (prjNote s) := by
  have herr : ∀ (t : State) (c : Bool) (b : Nat),
      keepsCore t (if c then raiseP t b (prjSelSlot s) 0 else t) := fun t c b =>
    keepsCore_ite (keepsCore_raise _ _ _ _) (keepsCore_refl t)
  unfold prjNote
  split
  · exact ⟨⟨id, subAdvances_refl, fun _ _ => rfl, (List.map_id _).symm⟩, rfl⟩
  · have hcore := keepsCore_trans (keepsCore_trans
      (herr (modPrj s fun p => { p with subs := p.subs.map (noteSub (prjFlags s)) }) ((prjFlags s).testBit 1) 1)
      (herr _ ((prjFlags s).testBit 3) 2)) (herr _ ((prjFlags s).testBit 2) 3)
    refine ⟨⟨noteSub (prjFlags s), subAdvances_noteSub _, fun x hx => if_neg (by rw [hx]; decide), ?_⟩,
      keepsBesidePrj_trans (keepsBesidePrj_modPrj s _) (keepsBesidePrj_of_keepsCore hcore)⟩
    exact congrArg (fun t : State => t.prj.subs) hcore

theorem subsAdvance_prjNote : subsAdvance s.prj.subs (prjNote s).prj.subs := by
  obtain ⟨⟨g, hg, -, hsubs⟩, -⟩ := prjNote_frame s
  rw [hsubs]
  exact subsAdvance_map hg _

theorem keepsBesidePrj_prjCounts : keepsBesidePrj s (prjCounts s) :=
  keepsBesidePrj_of_keepsCore (keepsCore_trans (keepsCore_setReg _ _ _) (keepsCore_setReg _ _ _))

theorem prjCounts_prj : (prjCounts s).prj = s.prj := by rw [prjCounts, setFld_prj, setFld_prj]

/-- The service positions fill from the queue. -/
def prjFill4 (t : State) : State :=
  modPrj t fun p => { p with subs := prjServeList t.now (4 - (serving t).length) p.subs }

theorem prjServe_eq : prjServe s = prjNote (prjCounts (prjEnqueue (prjFill4 (prjEnqueue s)))) := rfl

theorem keepsBesidePrj_prjServe : keepsBesidePrj s (prjServe s) := by
  obtain ⟨-, hnote⟩ := prjNote_frame (prjCounts (prjEnqueue (prjFill4 (prjEnqueue s))))
  have hfill : keepsBesidePrj s (prjFill4 (prjEnqueue s)) :=
    keepsBesidePrj_trans (keepsBesidePrj_prjEnqueue s) (keepsBesidePrj_modPrj _ _)
  rw [prjServe_eq]
  exact keepsBesidePrj_trans (keepsBesidePrj_trans (keepsBesidePrj_trans hfill (keepsBesidePrj_prjEnqueue _))
    (keepsBesidePrj_prjCounts _)) hnote

/-- What the queue of 64 has taken stays in the projector while it serves. -/
theorem subsAdvance_prjServe_of_enqueued : subsAdvance (prjEnqueue s).prj.subs (prjServe s).prj.subs := by
  rw [prjServe_eq]
  refine subsAdvance_trans (m := (prjFill4 (prjEnqueue s)).prj.subs) (subsAdvance_prjServeList _ _ _) ?_
  refine subsAdvance_trans (subsAdvance_prjEnqueue _) ?_
  rw [← prjCounts_prj]
  exact subsAdvance_prjNote _

theorem subsAdvance_prjServe : subsAdvance s.prj.subs (prjServe s).prj.subs :=
  subsAdvance_trans (subsAdvance_prjEnqueue s) (subsAdvance_prjServe_of_enqueued s)

variable {s} {u : Sub}

/-- Before SETTLED is 1 a submission waits in flight as it came (R326, R329). -/
theorem mem_prjServe_of_unsettled (hs : prjSettled s = false) (hu : u ∈ s.prj.subs) (hq : u.queued = false)
    (hv : u.serving = false) : u ∈ (prjServe s).prj.subs := by
  have henq : ∀ t, prjSettled t = false → prjEnqueue t = t := fun t ht => by rw [prjEnqueue, ht]; rfl
  have hfill : prjSettled (prjFill4 s) = false := hs
  have hmem : u ∈ (prjFill4 s).prj.subs := mem_prjServeList_of_unqueued hu hq
  obtain ⟨⟨g, -, hg, hsubs⟩, -⟩ := prjNote_frame (prjCounts (prjFill4 s))
  rw [prjServe_eq, henq s hs, henq _ hfill, hsubs, prjCounts_prj]
  exact List.mem_map.2 ⟨u, hmem, hg u hv⟩

/-- With SETTLED at 1 a new submission behind queued ones takes a free place of the 64 (R329). -/
theorem queued_prjServe_of_settled {l : List Sub} (hs : prjSettled s = true) (hsubs : s.prj.subs = l ++ [u])
    (hl : ∀ x ∈ l, x.queued = true) (hu : u.queued = false) (hw : (waitingSubs s).length < 64) :
    ∃ x ∈ (prjServe s).prj.subs, x.q = u.q ∧ x.op = u.op ∧ x.queued = true := by
  have hmem : { u with queued := true } ∈ (prjEnqueue s).prj.subs := by
    rw [prjEnqueue_subs, if_pos hs, hsubs, prjQueueList_append hl (by omega) hu]
    exact List.mem_append_right _ (List.mem_singleton.2 rfl)
  obtain ⟨x, hx, hq, hop, hqueued⟩ := (subsAdvance_prjServe_of_enqueued s).1 _ hmem
  exact ⟨x, hx, hq, hop, hqueued rfl⟩

end

/-! ### PRJSUB (R143, R326) -/

section
variable (s : State) (q : Nat) (f : Fetched) (b : W512)

/-- The submission as a PRJSUB brings it. -/
def newSub : Sub := ⟨q, nextOpId s q, b, false, false, 0, 0⟩

/-- The PRJSUB at the head has taken its slot, and its submission has joined the projector. -/
def prjJoined : State :=
  modPrj (amendOp (startOp (popHead s q 13) q 13 f true false none [] .here []) q fun o =>
    { o with busy := pbRanges s q b }) fun p => { p with subs := p.subs ++ [newSub s q b] }

theorem prjJoined_frame : (prjJoined s q f b).prj.subs = s.prj.subs ++ [newSub s q b] ∧
    (strm (prjJoined s q f b) q 13).queue = (strm s q 13).queue.drop 1 ∧
    (quarter (prjJoined s q f b) q).ops.length = (quarter s q).ops.length + 1 ∧
    prjJoined s q f b = { s with prj := (prjJoined s q f b).prj, quarters := (prjJoined s q f b).quarters } := by
  have hstrm : ∀ t g j, strm (modPrj t g) q j = strm t q j := fun _ _ _ => rfl
  have hquarter : ∀ t g, quarter (modPrj t g) q = quarter t q := fun _ _ => rfl
  have hamend : ∀ t g, amendOp t q g = { t with quarters := (amendOp t q g).quarters } := fun _ _ => rfl
  refine ⟨rfl, ?_, ?_, ?_⟩
  · rw [prjJoined, hstrm, strm_amendOp, strm_startOp, strm_popHead_self]
  · rw [prjJoined, hquarter, length_ops_amendOp, length_ops_startOp, ops_popHead]
  · rw [prjJoined, modPrj, hamend, startOp_eq, popHead_eq]

variable {s q f b}

/-- A PRJSUB whose checks pass joins the projector, which then serves its queue. -/
theorem doPrjsub_joins {isOp : W128 → Bool} (hh : headOf s q 13 isOp = .ok f true) (hslot : slotFree s q 13 = true)
    (hb : readBlock s q (wPb f.word) pbReserved = .ok b) (hc : pbStatus s b = none)
    (hhold : streamHolds s q 13 (pbTouches q s f) = false) : doPrjsub s q isOp = prjServe (prjJoined s q f b) := by
  simp only [doPrjsub, hh, hslot, hhold, hb, hc, Bool.not_true, Bool.false_eq_true, if_false]
  rfl

end

/-! ### The writes of a submission (R327) -/

section
variable (s : State)

theorem noteDropped_squares (a n : Nat) : (noteDropped s a n).squares = s.squares := by
  obtain ⟨r, hr⟩ := noteDropped_regs s a n
  rw [hr]

theorem writeNat_squares (a n v : Nat) : (writeNat s a n v).squares = s.squares := by
  rw [writeNat, writeBytes, writeLoop_eq]
  exact noteDropped_squares _ _ _

theorem poisonRange_squares (a n : Nat) : (poisonRange s a n).squares = s.squares := by
  unfold poisonRange
  split
  · rfl
  · exact foldl_keep (P := fun t : State => t.squares = s.squares) _ (fun t i h => by rw [poisonPart_eq]; exact h)
      (noteDropped_squares _ _ _)

theorem prjFill_squares (base rows c : Nat) : (prjFill s base rows c).squares = s.squares :=
  foldl_keep (P := fun t : State => t.squares = s.squares) _ (fun t _ h => (writeNat_squares t _ _ _).trans h) rfl

theorem prjElem_squares (sc a : W32) (base : Nat) (x : PrjAcc) (p : Nat × Int) :
    (prjElem sc a base x p).s.squares = x.s.squares := writeNat_squares _ _ _ _

/-- The vectors of a submission write memory, and no square. -/
theorem prjVec_squares (q rows : Nat) (b : W512) (sc : W32) (x : PrjAcc) (v : Nat) :
    (prjVec q rows b sc x v).s.squares = x.s.squares := by
  unfold prjVec
  dsimp only
  split
  · exact poisonRange_squares _ _ _
  · split
    · exact prjFill_squares _ _ _ _
    · split
      · exact prjFill_squares _ _ _ _
      · exact foldl_keep (P := fun y : PrjAcc => y.s.squares = x.s.squares) _
          (fun y _ h => (prjElem_squares _ _ _ y _).trans h) rfl

end

/-! ### The end of a submission (R329, R330) -/

section
variable (s : State) (u : Sub)

/-- What a submission in service computes. -/
def prjComputed : PrjAcc :=
  (List.range (pbN u.blk)).foldl (prjVec u.q (pbRows s (prjSelSlot s) u.blk) u.blk
    (BitVec.ofNat 32 (fld s (aPrjSlot (prjSelSlot s)) 31 0))) ⟨s, 0, 0, 0, false⟩

theorem prjComputed_squares : (prjComputed s u).s.squares = s.squares :=
  foldl_keep (P := fun x : PrjAcc => x.s.squares = s.squares) _ (fun x v h => (prjVec_squares _ _ _ _ x v).trans h) rfl

/-- The operation of a submission that has ended has its result word to write, and may retire. -/
def endedOp (recs : List (Nat × Byte)) (o : Op) : Op :=
  if o.id = u.op then { o with fin := true, recs := recs, busy := [] } else o

theorem fin_endedOp {recs : List (Nat × Byte)} {o : Op} (h : (endedOp u recs o).id = u.op) : (endedOp u recs o).fin = true := by
  unfold endedOp at h ⊢
  split at h
  · next ho => rw [if_pos ho]
  · next ho => exact absurd h ho

/-- The bytes of the result word of R330, at their addresses. -/
def resultWrites : List (Nat × Byte) :=
  (leBytes 8 (prjResult (prjComputed s u) u.flags)).zipIdx.map fun p => (lsBase u.q + pbFlag u.blk + p.2, p.1)

/-- A submission has computed, and its operation has ended. -/
def prjFinished : State :=
  modQuarter (prjComputed s u).s u.q fun y => { y with ops := y.ops.map (endedOp u (resultWrites s u)) }

/-- A submission that has ended is counted: its vectors, what was clipped, what saturated, and whether it was degraded. -/
def prjCounted : State :=
  let t := count (count (count (prjFinished s u) 1398 (pbN u.blk)) 1401 (prjComputed s u).clipped) 1402 (prjComputed s u).sat
  if u.flags = 0 then t else count t 1400 1

theorem keepsCore_prjCounted : keepsCore (prjFinished s u) (prjCounted s u) := by
  have hcounts := keepsCore_trans (keepsCore_trans (keepsCore_count (prjFinished s u) 1398 (pbN u.blk))
    (keepsCore_count _ 1401 (prjComputed s u).clipped)) (keepsCore_count _ 1402 (prjComputed s u).sat)
  exact keepsCore_ite hcounts (keepsCore_trans hcounts (keepsCore_count _ _ _))

variable {s u}

/-- The submission that ends first computes, finishes its operation and leaves the projector; what waits is then served. -/
theorem doPrjEnd_ends (h : firstEnd (serving (prjNote s)) = some u) : doPrjEnd s =
    prjServe (modPrj (prjCounted (prjNote s) u) fun p => { p with subs := p.subs.filter fun y => !(y.q == u.q && y.op == u.op) }) := by
  unfold doPrjEnd
  simp only [h]
  rfl

end

/-- Settles O25: how a submission joins, before and after the settle, and how the one that ends first leaves. -/
theorem submissionsServe : Obligations.SubmissionsServe := by
  intro s q f b hslot hb hc hhold joins
  have joinsAll : ∀ cmd, exec cmd s = .next (prjServe (prjJoined s q f b)) → joins cmd := by
    intro cmd hexec
    obtain ⟨hsubs, hqueue, hops, hframe⟩ := prjJoined_frame s q f b
    have hresult : ∀ t, exec cmd s = .next t → prjServe (prjJoined s q f b) = t := fun t ht =>
      Host.Outcome.next.inj (hexec.symm.trans ht)
    have hsettled : prjSettled (prjJoined s q f b) = prjSettled s := by rw [hframe]; rfl
    refine ⟨⟨_, hexec, hsubs, hqueue, hops, hframe⟩, fun hs t ht => ?_, fun hs hw hq t ht => ?_⟩
    · rw [← hresult t ht]
      exact mem_prjServe_of_unsettled (hsettled.trans hs) (by rw [hsubs]; exact List.mem_append_right _ (List.mem_singleton.2 rfl))
        rfl rfl
    · rw [← hresult t ht]
      have hwait : waitingSubs (prjJoined s q f b) = waitingSubs s := by
        rw [waitingSubs, hsubs, List.filter_append]
        exact List.append_nil _
      exact queued_prjServe_of_settled (u := newSub s q b) (hsettled.trans hs) hsubs hq rfl (by rw [hwait]; exact hw)
  refine ⟨fun hh => joinsAll _ (congrArg _ (doPrjsub_joins hh hslot hb hc hhold)),
    fun hh => joinsAll _ (congrArg _ (doPrjsub_joins hh hslot hb hc hhold)), fun u hu => ?_⟩
  have hserve := keepsBesidePrj_trans (keepsBesidePrj_of_keepsCore (keepsCore_prjCounted (prjNote s) u))
    (keepsBesidePrj_trans (keepsBesidePrj_modPrj _ fun p =>
      { p with subs := p.subs.filter fun y => !(y.q == u.q && y.op == u.op) }) (keepsBesidePrj_prjServe _))
  refine ⟨_, congrArg Host.Outcome.next (doPrjEnd_ends hu), fun x hx ⟨hq, hop⟩ => ?_, fun o ho hid => ?_, fun n => ?_⟩
  · obtain ⟨y, hy, hyq, hyop, -⟩ := (subsAdvance_prjServe _).2 x hx
    have hne := (List.mem_filter.1 hy).2
    rw [← hyq, ← hyop, hq, hop, beq_self_eq_true, beq_self_eq_true] at hne
    contradiction
  · rw [quarter_of_keepsBesidePrj hserve, prjFinished, quarter_modQuarter_self] at ho
    obtain ⟨p, -, rfl⟩ := List.mem_map.1 ho
    exact fin_endedOp u hid
  · rw [square_of_keepsBesidePrj hserve, prjFinished, square, modQuarter_squares, prjComputed_squares, ← square]
    exact square_of_keepsBesidePrj (prjNote_frame s).2 n

end Sys2Proof.Machine

/-! Training numerics (06): the rule that a close applies to an entry of the gradient format table, and the bounds that it keeps
(R160). -/

namespace Sys2Proof.Machine

/-! ### The rule of an entry (R160) -/

section

/-- A level after a move: at most one from where it was, within the limits, and where it was while the entry holds. -/
def levelMoved (g : GftSet) (e x : GftEntry) : Prop :=
  x.level ≤ e.level + 1 ∧ e.level ≤ x.level + 1 ∧ g.minLevel ≤ x.level ∧ x.level ≤ g.maxLevel ∧
    (0 < e.hold → x.level = e.level)

variable {g : GftSet} {e : GftEntry}

theorem levelMoved_of_level_eq {x : GftEntry} (hlo : g.minLevel ≤ e.level) (hhi : e.level ≤ g.maxLevel) (h : x.level = e.level) :
    levelMoved g e x := by
  rw [levelMoved, h]
  exact ⟨Nat.le_succ _, Nat.le_succ _, hlo, hhi, fun _ => rfl⟩

/-- An entry that holds keeps its level; else it goes up one below MAX_LEVEL, down one above MIN_LEVEL, or stays. -/
theorem levelMoved_gftMove (hlo : g.minLevel ≤ e.level) (hhi : e.level ≤ g.maxLevel) : levelMoved g e (gftMove g e) := by
  unfold gftMove
  split
  case isTrue => exact levelMoved_of_level_eq hlo hhi rfl
  case isFalse hfree =>
    split
    case isTrue hup =>
      have hbelow : e.level < g.maxLevel := of_decide_eq_true (Bool.and_eq_true_iff.1 hup).2
      refine ⟨?_, ?_, ?_, ?_, fun h => absurd h hfree⟩ <;> dsimp only <;> omega
    case isFalse =>
      split
      case isTrue hdown =>
        have habove : g.minLevel < e.level := of_decide_eq_true (Bool.and_eq_true_iff.1 hdown).2
        refine ⟨?_, ?_, ?_, ?_, fun h => absurd h hfree⟩ <;> dsimp only <;> omega
      case isFalse => exact levelMoved_of_level_eq hlo hhi rfl

/-- A move looks at the level and the hold of an entry, whatever its histories. -/
theorem levelMoved_gftMove_of_eq {y : GftEntry} (hlo : g.minLevel ≤ e.level) (hhi : e.level ≤ g.maxLevel)
    (hl : y.level = e.level) (hh : y.hold = e.hold) : levelMoved g e (gftMove g y) := by
  have h := levelMoved_gftMove (hl ▸ hlo : g.minLevel ≤ y.level) (hl ▸ hhi)
  rwa [levelMoved, hl, hh] at h

/-- What a step records in the histories is no part of the level. -/
theorem levelMoved_gftStep (hlo : g.minLevel ≤ e.level) (hhi : e.level ≤ g.maxLevel) : levelMoved g e (gftStep g e) := by
  unfold gftStep
  split
  case isTrue => exact levelMoved_gftMove_of_eq hlo hhi rfl rfl
  case isFalse => exact levelMoved_of_level_eq hlo hhi rfl

/-- The last clamp of a close changes nothing: the step has left the level within its limits. -/
theorem level_gftClose (hlo : g.minLevel ≤ e.level) (hhi : e.level ≤ g.maxLevel) : (gftClose g e).level = (gftStep g e).level := by
  obtain ⟨-, -, hmin, hmax, -⟩ := levelMoved_gftStep hlo hhi
  calc min (max (gftStep g e).level g.minLevel) g.maxLevel
      _ = min (gftStep g e).level g.maxLevel := by rw [max_eq_left hmin]
      _ = (gftStep g e).level := min_eq_left hmax

end

/-- Settles O41: the moves of a recorded step, which the clamp of the close leaves as they are. -/
theorem levelsMoveByOne : Obligations.LevelsMoveByOne := by
  intro g e hlo hhi
  obtain ⟨hup, hdown, hmin, hmax, hhold⟩ := levelMoved_gftStep hlo hhi
  rw [level_gftClose hlo hhi]
  exact ⟨hup, hdown, hmin, hmax, hhold, rfl, rfl, rfl, rfl⟩

end Sys2Proof.Machine

/-! Training numerics (06): the close of the gradient format table, entry by entry (R160, R161). -/

namespace Sys2Proof.Machine

/-! ### Frames -/

/-- Only registers may differ. -/
def keepsBesideRegs (s t : State) : Prop := t = { s with regs := t.regs }

theorem keepsBesideRegs_setFld (s : State) (o hi lo v : Nat) : keepsBesideRegs s (setFld s o hi lo v) := setFld_eq _ _ _ _ _

theorem keepsBesideRegs_trans {s t u : State} (h : keepsBesideRegs s t) (h' : keepsBesideRegs t u) : keepsBesideRegs s u := by
  unfold keepsBesideRegs at *
  rw [h', h]

/-! ### The registers of an entry -/

/-- The registers of entry n of the gradient format table. -/
def gftRegs (n : Nat) : List Nat := [aMgtGftCnta n, aMgtGftCntb n, aMgtGftState n]

/-- The registers of an entry stand in its own 32 bytes of the table. -/
theorem mem_gftRegs_bounds {o n : Nat} (h : o ∈ gftRegs n) : 0x80000 + 0x20 * n ≤ o ∧ o < 0x80020 + 0x20 * n := by
  simp only [gftRegs, List.mem_cons, List.not_mem_nil, or_false, aMgtGftCnta, aMgtGftCntb, aMgtGftState] at h
  omega

theorem cnta_mem_gftRegs (n : Nat) : aMgtGftCnta n ∈ gftRegs n := List.mem_cons_self
theorem cntb_mem_gftRegs (n : Nat) : aMgtGftCntb n ∈ gftRegs n := List.mem_cons_of_mem _ List.mem_cons_self
theorem state_mem_gftRegs (n : Nat) : aMgtGftState n ∈ gftRegs n :=
  List.mem_cons_of_mem _ (List.mem_cons_of_mem _ List.mem_cons_self)

theorem notMem_gftRegs_of_ne {o m n : Nat} (h : o ∈ gftRegs m) (hne : m ≠ n) : o ∉ gftRegs n := fun h' => by
  have := mem_gftRegs_bounds h
  have := mem_gftRegs_bounds h'
  omega

/-- A register below the table is no entry's. -/
theorem notMem_gftRegs_of_lt {o : Nat} (h : o < 0x80000) (n : Nat) : o ∉ gftRegs n := fun h' => by
  have := mem_gftRegs_bounds h'
  omega

/-! ### The close of an entry -/

section
variable {s t : State} {n : Nat}

/-- Entry n stands in t as a close of s leaves it: the rule applied, the counts 0. -/
def gftClosed (s t : State) (n : Nat) : Prop :=
  reg t (aMgtGftCnta n) = 0 ∧ reg t (aMgtGftCntb n) = 0 ∧
    reg t (aMgtGftState n) = gftStateWord (gftClose (gftSet s) (gftEntry s n)) (reg s (aMgtGftState n))

theorem gftClosed_closeEntry (s : State) (n : Nat) : gftClosed s (closeEntry s n) n := by
  have hab : aMgtGftCnta n ≠ aMgtGftCntb n := by simp only [aMgtGftCnta, aMgtGftCntb]; omega
  have has : aMgtGftCnta n ≠ aMgtGftState n := by simp only [aMgtGftCnta, aMgtGftState]; omega
  have hbs : aMgtGftCntb n ≠ aMgtGftState n := by simp only [aMgtGftCntb, aMgtGftState]; omega
  refine ⟨?_, ?_, reg_setReg_self _ _ _⟩
  · rw [closeEntry, reg_setReg_ne _ _ has, reg_setReg_ne _ _ hab, reg_setReg_self]
  · rw [closeEntry, reg_setReg_ne _ _ hbs, reg_setReg_self]

theorem keepsRegs_closeEntry (s : State) (n : Nat) : keepsRegs s (closeEntry s n) (gftRegs n) :=
  keepsRegs_join (keepsRegs_join (keepsRegs_setReg_mem _ _ _ (cnta_mem_gftRegs n)) (keepsRegs_setReg_mem _ _ _ (cntb_mem_gftRegs n)))
    (keepsRegs_setReg_mem _ _ _ (state_mem_gftRegs n))

theorem keepsBesideRegs_closeEntry (s : State) (n : Nat) : keepsBesideRegs s (closeEntry s n) := rfl

/-- The close of an entry reads no registers but the settings and the entry's own. -/
theorem gftClosed_of_reads {r : State} (hc : reg r aMgtGftCtl = reg s aMgtGftCtl) (ht : reg r aMgtGftThr = reg s aMgtGftThr)
    (he : ∀ o ∈ gftRegs n, reg r o = reg s o) (h : gftClosed r t n) : gftClosed s t n := by
  have hset : gftSet r = gftSet s := by simp only [gftSet, hc, ht]
  have hentry : gftEntry r n = gftEntry s n := by
    simp only [gftEntry, he _ (cnta_mem_gftRegs n), he _ (cntb_mem_gftRegs n), he _ (state_mem_gftRegs n)]
  rwa [gftClosed, hset, hentry, he _ (state_mem_gftRegs n)] at h

/-- A closed entry stays as it is while its own registers do. -/
theorem gftClosed_of_keeps {u : State} (h : gftClosed s t n) (hk : ∀ o ∈ gftRegs n, reg u o = reg t o) : gftClosed s u n := by
  rwa [gftClosed, hk _ (cnta_mem_gftRegs n), hk _ (cntb_mem_gftRegs n), hk _ (state_mem_gftRegs n)]

end

/-! ### The close of the table -/

section
variable (s : State) (k : Nat)

/-- The state after the close of entries 0 to k - 1. -/
def closeEntries (s : State) (k : Nat) : State := (List.range k).foldl closeEntry s

theorem closeEntries_succ : closeEntries s (k + 1) = closeEntry (closeEntries s k) k := by
  rw [closeEntries, List.range_succ, List.foldl_append]
  rfl

theorem keepsBesideRegs_closeEntries : keepsBesideRegs s (closeEntries s k) :=
  foldl_keep _ (fun t n h => keepsBesideRegs_trans h (keepsBesideRegs_closeEntry t n)) rfl

/-- The close of the first k entries changes no register but theirs. -/
theorem reg_closeEntries {o : Nat} (h : ∀ n < k, o ∉ gftRegs n) : reg (closeEntries s k) o = reg s o := by
  induction k with
  | zero => rfl
  | succ k ih =>
    rw [closeEntries_succ, keepsRegs_closeEntry _ k o (h k (Nat.lt_succ_self k))]
    exact ih fun n hn => h n (Nat.lt_succ_of_lt hn)

/-- Each of the first k entries is closed from its own counts: the entries before it leave its registers and the settings. -/
theorem gftClosed_closeEntries {n : Nat} (h : n < k) : gftClosed s (closeEntries s k) n := by
  induction k with
  | zero => exact absurd h (Nat.not_lt_zero n)
  | succ k ih =>
    rw [closeEntries_succ]
    rcases Nat.lt_succ_iff_lt_or_eq.1 h with hlt | rfl
    · exact gftClosed_of_keeps (ih hlt) fun o ho => keepsRegs_closeEntry _ k o (notMem_gftRegs_of_ne ho (Nat.ne_of_lt hlt))
    · have hsettings : ∀ o < 0x80000, reg (closeEntries s n) o = reg s o := fun o ho =>
        reg_closeEntries s n fun m _ => notMem_gftRegs_of_lt ho m
      refine gftClosed_of_reads (hsettings _ (by decide)) (hsettings _ (by decide)) (fun o ho => ?_) (gftClosed_closeEntry _ n)
      exact reg_closeEntries s n fun m hm => notMem_gftRegs_of_ne ho (Nat.ne_of_gt hm)

end

/-! ### CLOSE (R160, R161) -/

section
variable {s : State}

/-- A CLOSE while none runs closes the 4096 entries, marks the close as running and counts it. -/
theorem doClose_closes (h : fld s aMgtGftCtl 2 2 = 0) :
    doClose s = addFld (setFld (closeEntries s 4096) aMgtGftCtl 2 2 1) aMgtGftCtl 63 32 1 := by
  rw [doClose, h]
  rfl

theorem doClose_runs (h : fld s aMgtGftCtl 2 2 = 1) : doClose s = rwiErr s .mgt aMgtGftCtl := if_pos h

/-- The error of an ignored CLOSE reaches no entry's STATE. -/
theorem state_notMem_errRegs {n : Nat} (hn : n < 4096) : aMgtGftState n ∉ errRegs .mgt := by
  have hlist : ∀ o ∈ errRegs .mgt, o < 0x80000 ∨ 0xA0000 ≤ o := by decide
  intro h
  have := hlist _ h
  simp only [aMgtGftState] at this
  omega

end

/-- Settles O40: the close of every entry, the error of a CLOSE that is ignored, and the end of a close. -/
theorem gradientTableCloses : Obligations.GradientTableCloses := by
  intro s
  refine ⟨fun h => ⟨_, congrArg Host.Outcome.next (doClose_closes h), ?running, ?seq, fun n hn => ?entry, ?frame⟩,
    fun h => ⟨_, congrArg Host.Outcome.next (doClose_runs h), bit_raise _ .mgt _ (by decide),
      fun n hn => keepsRegs_raise _ _ _ _ _ (state_notMem_errRegs hn), keepsCore_raise _ _ _ _⟩,
    _, rfl, fld_setFld_self _ _ _ _ _ (by decide) (by decide), keepsRegs_setReg _ _ _, setFld_eq _ _ _ _ _⟩
  case running =>
    rw [addFld, fld_setFld_ne _ _ _ _ _ _ _ _ (by decide) (by decide) (by decide),
      fld_setFld_self _ _ _ _ _ (by decide) (by decide)]
    rfl
  case seq =>
    have hctl : fld (closeEntries s 4096) aMgtGftCtl 63 32 = fld s aMgtGftCtl 63 32 := by
      rw [fld, reg_closeEntries s 4096 fun n _ => notMem_gftRegs_of_lt (by decide) n, ← fld]
    rw [fld_addFld _ _ (by decide) (by decide), fld_setFld_ne _ _ _ _ _ _ _ _ (by decide) (by decide) (by decide), hctl]
  case entry =>
    refine gftClosed_of_keeps (gftClosed_closeEntries s 4096 hn) fun o ho => ?_
    have hne : o ≠ aMgtGftCtl := by
      rintro rfl
      exact notMem_gftRegs_of_lt (by decide) n ho
    rw [addFld, reg_setFld_ne _ _ _ _ hne, reg_setFld_ne _ _ _ _ hne]
  case frame =>
    exact keepsBesideRegs_trans (keepsBesideRegs_trans (keepsBesideRegs_closeEntries s 4096) (keepsBesideRegs_setFld _ _ _ _ _))
      (keepsBesideRegs_setFld _ _ _ _ _)

end Sys2Proof.Machine

/-! Training numerics (06): the loss watch (R164, R165): what an accepted loss, a refused one, RESTART and GRAD_NF write. -/

namespace Sys2Proof.Machine

/-! ### A loss that is kept out -/

section
variable (s : State) (x : W32)

/-- A loss that is kept out: its flag, bit b of MGT_LW_STATUS, is set, and CONSEC counts. -/
def lwRefuse (s : State) (b : Nat) : State := lwConsec (setFld s aMgtLwStatus b b 1)

theorem fld_lwRefuse_flag {b : Nat} (hb : b < 32) : fld (lwRefuse s b) aMgtLwStatus b b = 1 := by
  rw [lwRefuse, lwConsec, addFld, fld_setFld_ne _ _ _ _ _ _ _ _ (by decide) (by decide) (.inr (.inl hb)),
    fld_setFld_self _ _ _ _ _ le_rfl (by omega), Nat.add_sub_cancel_left]
  rfl

theorem fld_lwRefuse_consec {b : Nat} (hb : b < 32) :
    fld (lwRefuse s b) aMgtLwStatus 47 32 = min (fld s aMgtLwStatus 47 32 + 1) 65535 := by
  rw [lwRefuse, lwConsec, fld_addFld _ _ (by decide) (by decide), fld_setFld_ne _ _ _ _ _ _ _ _ le_rfl (by omega) (.inr (.inr hb))]
  rfl

theorem keepsRegs_lwRefuse (b : Nat) : keepsRegs s (lwRefuse s b) [aMgtLwStatus] :=
  keepsRegs_join (keepsRegs_setReg _ _ _) (keepsRegs_setReg _ _ _)

theorem keepsBesideRegs_lwRefuse (b : Nat) : keepsBesideRegs s (lwRefuse s b) :=
  keepsBesideRegs_trans (keepsBesideRegs_setFld _ _ _ _ _) (keepsBesideRegs_setFld _ _ _ _ _)

/-! ### The counts and the statistics -/

/-- N is n, CONSEC is 0, and the flags are as they were. -/
def lwCounts (s t : State) (n : Nat) : Prop :=
  fld t aMgtLwN 31 0 = n ∧ fld t aMgtLwStatus 47 32 = 0 ∧ fld t aMgtLwStatus 2 0 = fld s aMgtLwStatus 2 0

/-- CONSEC is cleared and N becomes n: what an accepted loss and RESTART have in common. -/
def lwCounted (s : State) (n : Nat) : State := setFld (setFld s aMgtLwStatus 47 32 0) aMgtLwN 31 0 n

theorem lwCounts_lwCounted {n : Nat} (hn : n < 2 ^ 32) : lwCounts s (lwCounted s n) n := by
  refine ⟨(fld_setFld_self _ _ _ _ _ (by decide) (by decide)).trans (Nat.mod_eq_of_lt hn), ?_, ?_⟩
  · rw [lwCounted, fld_setFld_ne _ _ _ _ _ _ _ _ (by decide) (by decide) (by decide),
      fld_setFld_self _ _ _ _ _ (by decide) (by decide), Nat.zero_mod]
  · rw [lwCounted, fld_setFld_ne _ _ _ _ _ _ _ _ (by decide) (by decide) (by decide),
      fld_setFld_ne _ _ _ _ _ _ _ _ (by decide) (by decide) (by decide)]

theorem keepsRegs_lwCounted (n : Nat) : keepsRegs s (lwCounted s n) [aMgtLwN, aMgtLwStatus, aMgtLwState] :=
  keepsRegs_join (keepsRegs_setReg_mem _ _ _ (by decide)) (keepsRegs_setReg_mem _ _ _ (by decide))

theorem keepsBesideRegs_lwCounted (n : Nat) : keepsBesideRegs s (lwCounted s n) :=
  keepsBesideRegs_trans (keepsBesideRegs_setFld _ _ _ _ _) (keepsBesideRegs_setFld _ _ _ _ _)

/-- MEAN and VAR become m and v. -/
def lwStats (s : State) (m v : W32) : State := setFld (setFld s aMgtLwState 31 0 m.toNat) aMgtLwState 63 32 v.toNat

section
variable (m v : W32)

theorem fld_lwStats_mean : fld (lwStats s m v) aMgtLwState 31 0 = m.toNat := by
  rw [lwStats, fld_setFld_ne _ _ _ _ _ _ _ _ (by decide) (by decide) (by decide),
    fld_setFld_self _ _ _ _ _ (by decide) (by decide), Nat.mod_eq_of_lt m.isLt]

theorem fld_lwStats_var : fld (lwStats s m v) aMgtLwState 63 32 = v.toNat :=
  (fld_setFld_self _ _ _ _ _ (by decide) (by decide)).trans (Nat.mod_eq_of_lt v.isLt)

theorem keepsRegs_lwStats : keepsRegs s (lwStats s m v) [aMgtLwState] :=
  keepsRegs_join (keepsRegs_setReg _ _ _) (keepsRegs_setReg _ _ _)

theorem keepsBesideRegs_lwStats : keepsBesideRegs s (lwStats s m v) :=
  keepsBesideRegs_trans (keepsBesideRegs_setFld _ _ _ _ _) (keepsBesideRegs_setFld _ _ _ _ _)

end

variable {s x}

/-- The counts stand while only MGT_LW_STATE changes. -/
theorem lwCounts_of_keeps {t u : State} {n : Nat} (h : lwCounts s t n) (hk : keepsRegs t u [aMgtLwState]) : lwCounts s u n := by
  rwa [lwCounts, fld_of_keepsRegs hk (by decide), fld_of_keepsRegs hk (by decide), fld_of_keepsRegs hk (by decide)]

/-- The frame of the loss watch: the counts first, then what changes MGT_LW_STATE. -/
theorem keepsRegs_of_lwCounted {u : State} {n : Nat} (hk : keepsRegs (lwCounted s n) u [aMgtLwState]) :
    keepsRegs s u [aMgtLwN, aMgtLwStatus, aMgtLwState] :=
  keepsRegs_join (keepsRegs_lwCounted s n) (keepsRegs_mono hk (by decide))

/-! ### What LOSS and RESTART do -/

theorem lwAccept_eq_lwStats :
    let n := min (fld s aMgtLwN 31 0 + 1) 0xFFFFFFFF
    let a := lwAlpha n (fld s aMgtLwCtl 31 16) (fld s aMgtLwCtl 11 8)
    let d := f32Sub x (BitVec.ofNat 32 (fld s aMgtLwState 31 0))
    lwAccept s x = lwStats (lwCounted s n) (lwMean (BitVec.ofNat 32 (fld s aMgtLwState 31 0)) a d)
      (lwVar (BitVec.ofNat 32 (fld s aMgtLwState 63 32)) a d) := rfl

theorem doRestart_eq_setReg : doRestart s = setReg (lwCounted s 0) aMgtLwState 0 := rfl

theorem lwSpikes_iff : lwSpikes s x = true ↔ fld s aMgtLwCtl 31 16 ≤ fld s aMgtLwN 31 0 ∧
    f32Lt (f32Add (BitVec.ofNat 32 (fld s aMgtLwState 31 0)) (f32Mul (BitVec.ofNat 32 (fld s aMgtLwCtl 63 32))
      (f32Sqrt (BitVec.ofNat 32 (fld s aMgtLwState 63 32))))) x = true := by
  rw [lwSpikes, Bool.and_eq_true, decide_eq_true_iff]
  rfl

theorem doLoss_off (h : fld s aMgtLwCtl 0 0 = 0) : doLoss s x = s := if_pos h

theorem doLoss_nonfinite (h : fld s aMgtLwCtl 0 0 = 1) (hx : f32IsFinite x = false) : doLoss s x = lwRefuse s 2 := by
  simp [doLoss, h, hx, lwRefuse]

theorem doLoss_spikes (h : fld s aMgtLwCtl 0 0 = 1) (hx : f32IsFinite x = true) (hs : lwSpikes s x = true) :
    doLoss s x = lwRefuse s 1 := by simp [doLoss, h, hx, hs, lwRefuse]

theorem doLoss_accepts (h : fld s aMgtLwCtl 0 0 = 1) (hx : f32IsFinite x = true) (hs : ¬ lwSpikes s x = true) :
    doLoss s x = lwAccept s x := by simp [doLoss, h, hx, hs]

/-- A loss that is kept out sets the flag of its kind. -/
theorem doLoss_refuses (h : fld s aMgtLwCtl 0 0 = 1) (hx : f32IsFinite x = false ∨ lwSpikes s x = true) :
    doLoss s x = lwRefuse s (if f32IsFinite x then 1 else 2) := by
  cases hf : f32IsFinite x
  · exact doLoss_nonfinite h hf
  · exact doLoss_spikes h hf (hx.resolve_left (by simp [hf]))

end

/-- Settles O39: what LOSS writes for an accepted loss and for one that is kept out, then RESTART and GRAD_NF. -/
theorem lossWatchFollows : Obligations.LossWatchFollows := by
  intro s x n mean var a spikes
  refine ⟨fun h hx hs => ?accepted, fun h hx => ?refused, fun h => congrArg Host.Outcome.next (doLoss_off h), ?restart, ?gradNf⟩
  case accepted =>
    have haccept := (doLoss_accepts h hx (mt lwSpikes_iff.1 hs)).trans lwAccept_eq_lwStats
    have hkeep := keepsRegs_lwStats (lwCounted s n) (lwMean mean a (f32Sub x mean)) (lwVar var a (f32Sub x mean))
    obtain ⟨hN, hconsec, hflags⟩ := lwCounts_of_keeps (lwCounts_lwCounted s (n := n) (by omega)) hkeep
    exact ⟨_, congrArg Host.Outcome.next haccept, hN, hconsec, hflags, fld_lwStats_mean _ _ _, fld_lwStats_var _ _ _,
      keepsRegs_of_lwCounted hkeep, keepsBesideRegs_trans (keepsBesideRegs_lwCounted s n) (keepsBesideRegs_lwStats _ _ _)⟩
  case refused =>
    have hb : (if f32IsFinite x then 1 else 2) < 32 := by split <;> decide
    exact ⟨_, congrArg Host.Outcome.next (doLoss_refuses h (hx.imp_right lwSpikes_iff.2)), fld_lwRefuse_flag s hb,
      fld_lwRefuse_consec s hb, keepsRegs_lwRefuse s _, keepsBesideRegs_lwRefuse s _⟩
  case restart =>
    have hkeep := keepsRegs_setReg (lwCounted s 0) aMgtLwState 0
    obtain ⟨hN, hconsec, hflags⟩ := lwCounts_of_keeps (lwCounts_lwCounted s (by decide)) hkeep
    exact ⟨_, congrArg Host.Outcome.next doRestart_eq_setReg, hN, reg_setReg_self _ _ _, hconsec, hflags,
      keepsRegs_of_lwCounted hkeep, keepsBesideRegs_trans (keepsBesideRegs_lwCounted s 0) (setReg_eq _ _ _)⟩
  case gradNf =>
    exact ⟨_, rfl, fld_setFld_self _ _ _ _ _ (by decide) (by decide),
      fld_setFld_ne _ _ _ _ _ _ _ _ (by decide) (by decide) (by decide), keepsRegs_setReg _ _ _, setFld_eq _ _ _ _ _⟩

end Sys2Proof.Machine

/-! Descriptors in their beat (R171, R173, R230 to R232): the units that a COPY moves, the square of a SIGNAL, and the start of an
UPDATE and a STOP. -/

namespace Sys2Proof.Machine

/-- An admitted descriptor starts to run. -/
def admStarts (s : State) (a : Adm) : State := modAdm s a.id fun x => { x with started := true }

/-! ### COPY (R230) -/

section
variable {s : State} {a : Adm} {d : Answer (List W512)} {n : Nat} (ha : copyNext s = some a)
include ha

/-- A COPY whose units wait at a slice comes again (log entry 89). -/
theorem doCopy_waits (hw : copyWaits s a d n = true) : doCopy s d n = s := by simp only [doCopy, ha, hw, if_true]

theorem doCopy_toHost (hw : copyWaits s a d n = false) (hto : cpToHost a.raw = true) :
    let m := min n (cpUnits a.raw - a.moved)
    doCopy s d n = copyMoved (copyOut a a.moved m (admStarts s a)) a (a.moved + m) := by
  simp only [doCopy, ha, hw, hto, Bool.false_eq_true, if_false, if_true, admStarts]

theorem doCopy_fromHost {us : List W512} (hw : copyWaits s a (.data us) n = false) (hto : cpToHost a.raw = false)
    (hbme : s.host.bme = true) :
    let l := us.take (cpUnits a.raw - a.moved)
    doCopy s (.data us) n = copyMoved (count (copyIn (admStarts s a) (cpDaddr a.raw + 64 * a.moved) l) 1410 l.length) a
      (a.moved + l.length) := by
  simp only [doCopy, ha, hw, hto, hbme, Bool.false_eq_true, if_false, Bool.not_true, admStarts]

/-- Without Bus Master Enable nothing is read from the host (R349). -/
theorem doCopy_noBusMaster (hw : copyWaits s a d n = false) (hto : cpToHost a.raw = false) (hbme : s.host.bme = false) :
    doCopy s d n = admEnd (admStarts s a) a.id sHostErr a.moved := by
  simp only [doCopy, ha, hw, hto, hbme, Bool.false_eq_true, if_false, Bool.not_false, if_true, admStarts]

end

/-! ### SIGNAL, UPDATE and STOP (R171, R231, R232) -/

section
variable {s : State} {a : Adm}

section
variable (ha : firstAdm s 3 (fun _ => !s.disp.cut) = some a)
include ha

theorem doSignal_sets (hset : sgSet a.raw = true) :
    doSignal s = admEnd (sqPut (admStarts s a) (sgSq a.raw) (sgValue a.raw)) a.id 0 0 := by
  simp only [doSignal, ha, hset, if_true, admStarts]

theorem doSignal_adds (hset : sgSet a.raw = false) (hr : sgRemote a.raw = false ∨ sgChip a.raw = thisChip s) :
    doSignal s = admEnd (sqAdd (admStarts s a) (sgSq a.raw) (sgAmount a.raw)) a.id 0 0 := by
  have hhere : (sgRemote a.raw && sgChip a.raw != thisChip s) = false := by
    obtain hr | hr := hr <;> simp [hr]
  simp only [doSignal, ha, hset, hhere, Bool.false_eq_true, if_false, admStarts]

theorem doSignal_sends (hset : sgSet a.raw = false) (hr : sgRemote a.raw = true) (hchip : sgChip a.raw ≠ thisChip s) :
    doSignal s = sendSignal (admStarts s a) (sgChip a.raw) 192 (sgSq a.raw) (sgAmount a.raw) 97 a.id none := by
  have haway : (sgRemote a.raw && sgChip a.raw != thisChip s) = true := by simp [hr, hchip]
  simp only [doSignal, ha, hset, haway, Bool.false_eq_true, if_false, if_true, admStarts]

end

theorem exec_update_of_firstAdm (ha : firstAdm s 4 (fun _ => !s.disp.cut) = some a) : exec .update s = .next (updStart s a) := by
  have hexec : exec .update s = execUpdate s := rfl
  rw [hexec, execUpdate, ha]

theorem doStop_starts (ha : firstAdm s 7 (fun _ => true) = some a) : doStop s = admStarts s a := by
  rw [doStop, ha, admStarts]

end

/-- Settles O30: each command's arm on the descriptor that comes next; a COPY that waits at a slice is log entry 89. -/
theorem descriptorsRun : Obligations.DescriptorsRun := by
  intro s a us n
  refine ⟨fun d ha hw => ?waits, fun ha hw hto hbme => ?fromHost, fun ha hw hto => ?toHost,
    fun d ha hw hto hbme => ?noBusMaster, fun ha hset => ?signalSets, fun ha hset hr => ?signalAdds,
    fun ha hset hr hchip => ?signalSends, exec_update_of_firstAdm, fun ha => ?stop⟩
  case waits => exact congrArg Host.Outcome.next (doCopy_waits ha hw)
  case fromHost => exact congrArg Host.Outcome.next (doCopy_fromHost ha hw hto hbme)
  case toHost => exact congrArg Host.Outcome.next (doCopy_toHost ha hw hto)
  case noBusMaster => exact congrArg Host.Outcome.next (doCopy_noBusMaster ha hw hto hbme)
  case signalSets => exact congrArg Host.Outcome.next (doSignal_sets ha hset)
  case signalAdds => exact congrArg Host.Outcome.next (doSignal_adds ha hset hr)
  case signalSends => exact congrArg Host.Outcome.next (doSignal_sends ha hset hr hchip)
  case stop => exact congrArg Host.Outcome.next (doStop_starts ha)

end Sys2Proof.Machine

/-! The update sequencer (R171 to R182): the plan that PASS1_START reads, the chiplets that report a refused one, the end of
pass 1, the records of the chain, pass 2 and the ends of an UPDATE. -/

namespace Sys2Proof.Machine

/-! ### The report of a refused plan (R172) -/

section
variable (s : State) (ks : List Nat) (pa : Nat)

theorem keepsCore_planErr : keepsCore s (planErr s ks pa) := keepsCore_foldl (fun _ _ => keepsCore_raise _ _ _ _) _ _

/-- An error of a chiplet clears no bit of any chiplet's error register. -/
theorem keepsBit_raiseU (j b group addr : Nat) {k : Nat} (hk : k < 8) (c : Nat) :
    keepsBit s (raiseU s j b group addr) (aUpdErr k) c := by
  by_cases hj : k = j
  · rw [hj]
    exact keepsBit_raise _ (.upd j) _ _ _
  · refine keepsBit_of_keepsRegs (keepsRegs_raise _ _ _ _) ?_
    simp only [errRegs, errReg, errRec, eventRegs, Option.map_some, Option.toList_some, List.append_nil, List.cons_append,
      List.nil_append, List.mem_cons, List.not_mem_nil, or_false, aUpdErr, aUpdErrRec, aHstBmeDrops, aHstPortErr,
      aHstPortErrRec, aMgtPmcOvf]
    omega

variable {ks}

/-- UPD_ERR.HDR is set in every chiplet that reports a plan. -/
theorem bit_planErr {k : Nat} (hk : k ∈ ks) (h8 : k < 8) : bit (reg (planErr s ks pa) (aUpdErr k)) 3 = true := by
  unfold planErr
  induction ks generalizing s with
  | nil => exact absurd hk List.not_mem_nil
  | cons j l ih =>
    obtain rfl | hl := List.mem_cons.1 hk
    · exact foldl_keep (P := fun t => bit (reg t (aUpdErr k)) 3 = true) l (fun t i => keepsBit_raiseU t i _ _ _ h8 3)
        (bit_raise s (.upd k) _ (by decide))
    · exact ih _ hl

end

theorem lt_of_mem_plKs {s : State} {p k : Nat} (h : k ∈ plKs s p) : k < 8 := List.mem_range.1 (List.mem_filter.1 h).1

/-! ### PASS1_START (R171, R172, R174) -/

/-- The state in which the plan at pa is read. -/
def planTouched (s : State) (pa : Nat) : State := touch s clUpd pa 224 false

/-- The plan p comes to hand, with the chiplets that take part. -/
def planTaken (r : State) (p : Nat) : State :=
  setFld (modCur r fun x => { x with plan := p, ks := plKs r p }) aUpdSeqStatus 15 0 (plTag p)

/-- A plan whose chain fields fail ends with CODE 8, and the chiplets that take part report it (R172). -/
def planRefused (r : State) (p pa : Nat) : State :=
  planErr (modCur (planTaken r p) fun x => { x with phase := 4, code := some 8 }) (plKs r p) pa

/-- Pass 1 runs in the chiplets that take part, which report a plan whose other fields fail (R172, R174). -/
def pass1Runs (r : State) (p pa : Nat) : State :=
  (plKs r p).foldl (pass1 p) (planErr (modCur (planTaken r p) fun x => { x with phase := 1, planBad := plBad r p })
    (if plBad r p then plKs r p else []) pa)

section
variable (s : State) (pa : Nat)

theorem planTouched_eq : planTouched s pa = { s with
    regs := (planTouched s pa).regs, stk := (planTouched s pa).stk, host := (planTouched s pa).host,
    pmc := (planTouched s pa).pmc } := (keepsCache_touch s clUpd pa 224 false).1

theorem planTouched_upd : (planTouched s pa).upd = s.upd := by rw [planTouched_eq]

theorem memByte_planTouched (x : Nat) : memByte (planTouched s pa) x = memByte s x := by
  rw [planTouched_eq]
  rfl

end

section
variable (r : State) (p pa : Nat)

theorem cur_planRefused {c : UpdCur} (hc : r.upd.cur = some c) : (planRefused r p pa).upd.cur =
    some { c with plan := p, ks := plKs r p, phase := 4, code := some 8 } := by
  rw [planRefused, keepsCore_planErr]
  simp only [planTaken, modCur, modUpd_upd, setFld_upd, hc, Option.map_some]

theorem memByte_planRefused (x : Nat) : memByte (planRefused r p pa) x = memByte r x :=
  memByte_of_keepsCore (keepsCore_planErr _ _ _) x

end

section
variable {s : State} {c : UpdCur} {a : Adm} (hc : s.upd.cur = some c)
include hc

section
variable (ha : admOf s c.id = some a)
include ha

/-- A read of the plan that waits at its slice comes again (log entry 89). -/
theorem doPass1Start_waits (ue : List (BitVec 40)) (hw : sliceWaits s (planAddr a) 224 false = true) :
    doPass1Start s ue = s := by
  simp only [doPass1Start, hc, ha, hw, or_true, if_true]

/-- A plan without poison is refused where a chain field fails, and otherwise run. -/
theorem doPass1Start_reads (hphase : c.phase = 0) (hover : updWaitOver s a = true)
    (hw : sliceWaits s (planAddr a) 224 false = false)
    (hp : anyPsn (planTouched s (planAddr a)) (planAddr a) 224 = false) :
    let r := planTouched s (planAddr a)
    let p := readNat r (planAddr a) 224
    doPass1Start s [] = if plChainBad r p then planRefused r p (planAddr a)
      else if (plKs r p).isEmpty then updReady (pass1Runs r p (planAddr a)) else pass1Runs r p (planAddr a) := by
  have hfirst : wordPsn (planTouched s (planAddr a)) (planAddr a) = false := by
    have hmem : planAddr a / 8 ∈ wordsIn (planAddr a) 224 := mem_wordsIn.2 (by omega)
    rw [← wordPsn_word, Nat.mul_comm]
    exact wordPsn_of_anyPsn hp hmem
  unfold planTouched at *
  simp only [doPass1Start, loseWords, List.foldl_nil, hc, ha, hphase, hover, hw, hp, hfirst, ne_eq, not_true_eq_false,
    Bool.not_true, Bool.false_eq_true, or_self, if_false, Bool.false_or, planRefused, pass1Runs, planTaken]

end

/-! ### PASS1_END and PASS2_START (R176, R180) -/

/-- The last chiplet of pass 1 makes the record ready (R176). -/
theorem doPass1End_ends {k : Nat} (hphase : c.phase = 1) (hk : k ∈ c.ks) (hchip : (updChip s k).phase = 1) :
    let t := setChip s k { updChip s k with phase := 2 }
    doPass1End s k = if c.ks.all fun j => (updChip t j).phase == 2 then updReady t else t := by
  simp [doPass1End, hc, hphase, hk, hchip]

theorem doPass2Start_runs {k : Nat} (blocks : Nat) (hphase : c.phase = 3) (hk : k ∈ c.ks) (hchip : (updChip s k).phase ≠ 4) :
    doPass2Start s k blocks [] = p2Run k (updNovf s c) c.clip blocks
      (setChip (modCur s fun x => { x with ue := x.ue || false }) k { updChip s k with phase := 3 }) := by
  have hruns : ¬ (c.phase ≠ 3 ∨ !c.ks.contains k ∨ (updChip s k).phase = 4) := by simp [hphase, hk, hchip]
  simp only [doPass2Start, hc, if_neg hruns]
  rfl

/-! ### The ends of an UPDATE (R178, R182) -/

theorem doUpdateEnd_ends (hd : updDone s c = true) : doUpdateEnd s =
    if c.ue then stopHere (updEnd s true) rUe else updEnd s true := by
  simp only [doUpdateEnd, hc, hd, Bool.not_true, Bool.false_eq_true, if_false]

theorem doChainTo_ends (hw : chainWaits c = true) : doChainTo s = stopHere (updEnd (c.ks.foldl (fun t k => raiseU t k 4 0xFFFF 0)
    (modCur s fun x => { x with code := some 7, phase := 4 })) true) rChainTo := by
  simp only [doChainTo, hc, hw, Bool.not_true, Bool.false_eq_true, if_false]

end

/-- A record that its circuit brings to the sequencer without poison is taken (R176). -/
theorem doSeqrec_takes {s : State} {n : Nat} {cell : List CWord} (ht : (sinkCtl s n cell 3).2 = true)
    (hp : cell.any (·.psn) = false) : doSeqrec s n cell =
      recIn (sinkFree (modSink (sinkCtl s n cell 3).1 n fun k => { k with skip := false }) n 1) (recOfWords cell) := by
  simp only [doSeqrec, ht, hp, Bool.not_true, Bool.false_eq_true, if_false]

/-- Settles O37: the branches of PASS1_START and PASS1_END; a read of the plan that waits is log entry 89. -/
theorem updatePassOne : Obligations.UpdatePassOne := by
  intro s c a k hc pa r p goes
  refine ⟨?waits, ?runs, ?refuses, fun hphase hk hchip => ?ends⟩
  case waits =>
    rintro ⟨hphase, ha, hover⟩ hw
    exact congrArg Host.Outcome.next (doPass1Start_waits hc ha [] hw)
  case runs =>
    rintro ⟨hphase, ha, hover⟩ hw hp hchain
    have hread := (doPass1Start_reads hc ha hphase hover hw hp).trans (if_neg (ne_true_of_eq_false hchain))
    exact congrArg Host.Outcome.next hread
  case refuses =>
    rintro ⟨hphase, ha, hover⟩ hw hp hchain
    have hread := (doPass1Start_reads hc ha hphase hover hw hp).trans (if_pos hchain)
    have hcur : r.upd.cur = some c := (congrArg Upd.cur (planTouched_upd s pa)).trans hc
    refine ⟨_, congrArg Host.Outcome.next hread, ?_, fun j hj => bit_planErr _ _ hj (lt_of_mem_plKs hj),
      fun x => (memByte_planRefused r p pa x).trans (memByte_planTouched s pa x)⟩
    exact congrArg (Option.map _) (cur_planRefused r p pa hcur)
  case ends => exact congrArg Host.Outcome.next (doPass1End_ends hc hphase hk hchip)

/-- Settles O38: each command's arm where its premises hold. -/
theorem updateEnds : Obligations.UpdateEnds := by
  intro s c k n cell blocks hc
  refine ⟨fun hwf ht hp => ?seqrec, fun hphase hk hchip => ?pass2, fun hd hue => ?done, fun hd hue => ?lost, fun hw => ?late⟩
  case seqrec =>
    have hexec : exec (.seqrec n cell) s = if WF.cell cell then .next (doSeqrec s n cell) else .fault .illFormed := rfl
    rw [hexec, if_pos hwf, doSeqrec_takes ht hp]
  case pass2 => exact congrArg Host.Outcome.next (doPass2Start_runs hc blocks hphase hk hchip)
  case done => exact congrArg Host.Outcome.next ((doUpdateEnd_ends hc hd).trans (if_neg (by simp [hue])))
  case lost => exact congrArg Host.Outcome.next ((doUpdateEnd_ends hc hd).trans (if_pos hue))
  case late => exact congrArg Host.Outcome.next (doChainTo_ends hc hw)

end Sys2Proof.Machine

/-! Stacks (08): temperature samples, drift tracking, and the retrains of channels. -/

namespace Sys2Proof.Machine

/-- Only registers and the stacks' own state may differ. -/
def keepsBesideStk (s t : State) : Prop := t = { s with regs := t.regs, stk := t.stk }

theorem keepsBesideStk_setFld (s : State) (o hi lo v : Nat) : keepsBesideStk s (setFld s o hi lo v) := rfl

theorem keepsBesideStk_modStk (s : State) (f : Stk → Stk) : keepsBesideStk s (modStk s f) := rfl

theorem keepsBesideStk_trans {s t u : State} (h : keepsBesideStk s t) (h' : keepsBesideStk t u) : keepsBesideStk s u := by
  unfold keepsBesideStk at *
  rw [h', h]

theorem fld_modStk (s : State) (f : Stk → Stk) (o hi lo : Nat) : fld (modStk s f) o hi lo = fld s o hi lo := rfl

/-! ### Temperature (R193) -/

section
variable (s : State) (k : Nat) (x : Int)

/-- The filtered temperature that a sample x in range leads to. -/
def sampleMedian : Int := median ((x :: smGet [] s.stk.temps k).take 5)

/-- A sample in range is entered and TEMP shows the median; HOT has not moved yet. -/
def sampleTaken : State :=
  setFld (modStk s fun t => { t with
      temps := smSet [] t.temps k ((x :: smGet [] s.stk.temps k).take 5), discards := smSet 0 t.discards k 0 })
    (aMemStatus k) 15 8 (tempByte (some (sampleMedian s k x)))

/-- MEM_STATUS reports the sample x: HOT is `hot`, TEMP is the median, and no other register differs. -/
def sampleShown (t : State) (hot : Nat) : Prop :=
  fld t (aMemStatus k) 29 29 = hot ∧ fld t (aMemStatus k) 15 8 = tempByte (some (sampleMedian s k x)) % 256 ∧
    keepsRegs s t [aMemStatus k] ∧ keepsBesideStk s t

theorem sampleShown_sampleTaken : sampleShown s k x (sampleTaken s k x) (fld s (aMemStatus k) 29 29) :=
  ⟨fld_setFld_ne _ _ _ _ _ _ _ _ (by decide) (by decide) (.inr (.inr (by decide))),
    fld_setFld_self _ _ _ _ _ (by decide) (by decide),
    keepsRegs_join (t := modStk s _) (keepsRegs_of_regs rfl _) (keepsRegs_setReg _ _ _),
    keepsBesideStk_trans (keepsBesideStk_modStk s _) (keepsBesideStk_setFld _ _ _ _ _)⟩

theorem sampleShown_setHot {hot : Nat} (h : hot < 2) :
    sampleShown s k x (setFld (sampleTaken s k x) (aMemStatus k) 29 29 hot) hot := by
  obtain ⟨-, htemp, hregs, hframe⟩ := sampleShown_sampleTaken s k x
  refine ⟨(fld_setFld_self _ _ _ _ _ (by decide) (by decide)).trans (Nat.mod_eq_of_lt h), ?_,
    keepsRegs_join hregs (keepsRegs_setReg _ _ _), keepsBesideStk_trans hframe (keepsBesideStk_setFld _ _ _ _ _)⟩
  rwa [fld_setFld_ne _ _ _ _ _ _ _ _ (by decide) (by decide) (.inr (.inl (by decide)))]

variable {s k}

/-- HOT follows the median, with its hysteresis between 83 and 85 degrees. -/
theorem sampleShown_stackGood (hf : smGet false s.stk.failed k = false) : sampleShown s k x (stackGood s k x)
    (if 85000 < sampleMedian s k x then 1 else if sampleMedian s k x ≤ 83000 then 0 else fld s (aMemStatus k) 29 29) := by
  have hgood : stackGood s k x =
      if 85000 < sampleMedian s k x then setFld (sampleTaken s k x) (aMemStatus k) 29 29 1
      else if sampleMedian s k x ≤ 83000 then setFld (sampleTaken s k x) (aMemStatus k) 29 29 0
      else sampleTaken s k x := by
    have hc : (sampleMedian s k x ≤ 83000 ∧ (!smGet false s.stk.failed k) = true) ↔ sampleMedian s k x ≤ 83000 := by
      simp [hf]
    exact if_congr .rfl rfl (if_congr hc rfl rfl)
  rw [hgood]
  split
  · exact sampleShown_setHot s k x (by decide)
  · split
    · exact sampleShown_setHot s k x (by decide)
    · exact sampleShown_sampleTaken s k x

/-- A sample out of range that is not the fifth in a row is counted, and nothing more. -/
theorem stackBad_counts (h : smGet 0 s.stk.discards k ≠ 4) : stackBad s k =
    modStk (addFld s (aMemStatus k) 7 0 1) fun t => { t with
      discards := smSet 0 t.discards k (smGet 0 s.stk.discards k + 1) } :=
  if_neg (by omega)

end

/-! ### Triggers (R209, R211) -/

section
variable {s : State} {k c : Nat}

theorem chanSt_setChan_self (v : Nat) : chanSt (setChan s k c v) k c = v := smGet_set_self _ _ _ _

theorem trigger_starts (hin : chanSt s k c = 0) (hr : retraining s k = false) (hw : s.stk.window ≠ some k) :
    trigger s k c = startRetrain s k c := by
  simp [trigger, hin, hr, hw]

/-- A lane within its taps is moved, and no more. -/
theorem doDrift_moves (lane : Nat) (up : Bool) (hin : chanSt s k c = 0) :
    let v := smGet 0 s.stk.drift (chanKey k c * 32 + lane) + (if up then 1 else -1)
    v.natAbs ≠ 12 → v.natAbs < 16 →
      doDrift s k c lane up = modStk s fun t => { t with drift := smSet 0 t.drift (chanKey k c * 32 + lane) v } := by
  intro v h12 h16
  exact (if_neg (not_not.2 hin)).trans ((if_neg h12).trans (if_neg (Nat.not_le.2 h16)))

theorem memByte_startRetrain (a : Nat) : memByte (startRetrain s k c) a = memByte s a :=
  memByte_of_keepsCore (keepsCore_raise s (.mem k) 4 _) a

end

/-! ### Trained channels (R191, R209, R211) -/

/-- An index that a filter takes out reads as the default. -/
theorem smGet_filter_of_false {α : Type} (d : α) (m : SMap α) {f : Nat × α → Bool} {i : Nat}
    (h : ∀ v, f (i, v) = false) : smGet d (m.filter f) i = d := by
  by_contra hne
  have hf := (List.mem_filter.1 (mem_of_smGet_ne hne)).2
  rw [h] at hf
  exact Bool.false_ne_true hf

section
variable (s : State) (k c : Nat)

theorem drift_chanTrained {l : Nat} (hl : l < 32) : smGet 0 (chanTrained s k c).stk.drift (chanKey k c * 32 + l) = 0 :=
  smGet_filter_of_false _ _ fun _ => by
    have hdiv : (chanKey k c * 32 + l) / 32 = chanKey k c := by omega
    simp [hdiv]

theorem mark_chanTrained : fld (chanTrained s k c) (aMemChStatus k c) 5 5 = 0 :=
  fld_setFld_self _ _ _ _ _ (by decide) (by decide)

/-- Of the stacks' state only offsets differ, and MEM_STATUS of stack k is as before. -/
def trainsOnly (s t : State) (k : Nat) : Prop :=
  t = { s with regs := t.regs, stk := { s.stk with drift := t.stk.drift } } ∧ reg t (aMemStatus k) = reg s (aMemStatus k)

theorem keepsBesideStk_of_trainsOnly {s t : State} {k : Nat} (h : trainsOnly s t k) : keepsBesideStk s t := by
  unfold keepsBesideStk
  rw [h.1]

theorem stk_of_trainsOnly {s t : State} {k : Nat} (h : trainsOnly s t k) : t.stk = { s.stk with drift := t.stk.drift } := by
  rw [h.1]

theorem trainsOnly_refl : trainsOnly s s k := ⟨rfl, rfl⟩

theorem trainsOnly_trans {s t u : State} {k : Nat} (h : trainsOnly s t k) (h' : trainsOnly t u k) : trainsOnly s u k := by
  obtain ⟨ht, hreg⟩ := h
  obtain ⟨hu, hreg'⟩ := h'
  refine ⟨?_, hreg'.trans hreg⟩
  rw [hu, ht]

theorem trainsOnly_chanTrained : trainsOnly s (chanTrained s k c) k :=
  ⟨rfl, reg_setFld_ne _ _ _ _ (by unfold aMemStatus aMemChStatus; omega)⟩

variable {s k c}

/-- Where no lane needs a spare and no spare failed, none is switched. -/
theorem switchSpares_same {bad : List Nat} (hneed : lanesToMove s k c bad = []) (hbad : ∀ b ∈ bad, b < 18) :
    switchSpares s k c bad = some s := by
  have hkeep : ∀ i, 18 + i ∉ bad := fun i hmem => by
    have := hbad _ hmem
    omega
  simp [switchSpares, hneed, hkeep]

/-- An eye test that no lane fails moves nothing to a spare. -/
theorem lanesToMove_nil : lanesToMove s k c [] = [] := by
  refine List.filter_eq_nil_iff.2 fun l _ => ?_
  dsimp only
  split <;> simp

theorem trainsOnly_fullChan (s : State) (k c : Nat) : trainsOnly s (fullChan k [] s c) k := by
  have hsame : switchSpares s k c [] = some s := switchSpares_same lanesToMove_nil (by simp)
  have hfull : fullChan k [] s c = chanTrained s k c := by simp [fullChan, hsame]
  exact hfull ▸ trainsOnly_chanTrained s k c

/-! ### The ends of a retrain and of a window (R210, R211) -/

/-- Where no window and no trigger waits, nothing starts. -/
theorem stackNext_of_none (hq : smGet [] s.stk.retrainQ k = []) (hw : s.stk.windowQ = []) : stackNext s k = s := by
  have hwin : nextWindow s = s := by simp [nextWindow, hw]
  rw [stackNext, hwin, nextRetrain, hq, ite_self]

/-- A retrain whose lanes need no spare leaves its channel in service and trained. -/
theorem doRetrainEnd_trains {bad : List Nat} (hrun : chanSt s k c = 1) (hq : smGet [] s.stk.retrainQ k = [])
    (hw : s.stk.windowQ = []) (hneed : lanesToMove s k c bad = []) (hbad : ∀ b ∈ bad, b < 18) :
    doRetrainEnd s k c bad = chanTrained (setChan s k c 0) k c := by
  have hsame : switchSpares (setChan s k c 0) k c bad = some (setChan s k c 0) := switchSpares_same hneed hbad
  simp only [doRetrainEnd, hrun, ne_eq, not_true_eq_false, if_false, hsame]
  exact stackNext_of_none hq hw

/-- The window of stack k has ended. -/
def windowOff (s : State) (k : Nat) : State := modStk (setFld s (aMemStatus k) 28 28 0) fun t => { t with window := none }

theorem maint_windowOff (s : State) (k : Nat) : fld (windowOff s k) (aMemStatus k) 28 28 = 0 := by
  rw [windowOff, fld_modStk, fld_setFld_self _ _ _ _ _ (by decide) (by decide), Nat.zero_mod]

theorem keepsBesideStk_windowOff (s : State) (k : Nat) : keepsBesideStk s (windowOff s k) :=
  keepsBesideStk_trans (keepsBesideStk_setFld s _ _ _ _) (keepsBesideStk_modStk _ _)

/-- The channels of stack k in service after a full retrain in which no lane fails. -/
def fullTrained (s : State) (k : Nat) : State :=
  ((List.range 128).filter fun d => chanSt s k d == 0).foldl (fullChan k []) s

theorem trainsOnly_fullTrained : trainsOnly s (fullTrained s k) k :=
  foldl_keep (P := fun t => trainsOnly s t k) _ (fun t d ht => trainsOnly_trans ht (trainsOnly_fullChan t k d))
    (trainsOnly_refl s k)

/-- Where no lane fails and nothing waits, the end of a window trains the channels in service. -/
theorem doFullEnd_trains (hrun : s.stk.window = some k) (hq : smGet [] s.stk.retrainQ k = []) (hw : s.stk.windowQ = []) :
    doFullEnd s k [] = fullTrained (windowOff s k) k := by
  have hstk := stk_of_trainsOnly (trainsOnly_fullTrained (s := windowOff s k) (k := k))
  have hend : doFullEnd s k [] = stackNext (fullTrained (windowOff s k) k) k := if_neg (not_not.2 hrun)
  rw [hend, stackNext_of_none (by rw [hstk]; exact hq) (by rw [hstk]; exact hw)]

end

/-- Settles O42: the branches of the samples, of drift tracking and of the retrains. -/
theorem stacksKeepTrained : Obligations.StacksKeepTrained := by
  intro s k c lane up x bad
  refine ⟨fun hx hf => ?good, fun hx hn => ?discarded, fun hin => ?drift, fun hdue => ?quiet,
    fun hdue hin hr hw => ?starts, fun hrun hq hw hneed hbad => ?ends, fun hrun hq hw => ?window⟩
  case good => exact ⟨_, congrArg Host.Outcome.next (if_pos hx), sampleShown_stackGood x hf⟩
  case discarded =>
    refine ⟨_, congrArg Host.Outcome.next ((if_neg (ne_true_of_eq_false hx)).trans (stackBad_counts hn)), ?_, ?_, rfl, ?_⟩
    · rw [fld_modStk, fld_addFld _ _ (by decide) (by decide)]
      rfl
    · rw [fld_modStk, addFld, fld_setFld_ne _ _ _ _ _ _ _ _ (by decide) (by decide) (.inr (.inr (by decide)))]
    · exact keepsRegs_join (t := addFld s _ _ _ _) (keepsRegs_setReg s _ _) (keepsRegs_of_regs rfl _)
  case drift =>
    intro key v h12 h16
    exact congrArg Host.Outcome.next (doDrift_moves lane up hin h12 h16)
  case quiet => exact congrArg Host.Outcome.next (if_neg (ne_true_of_eq_false hdue))
  case starts =>
    exact ⟨_, congrArg Host.Outcome.next ((if_pos hdue).trans (trigger_starts hin hr hw)), chanSt_setChan_self 1,
      bit_raise s (.mem k) _ (by decide), fun _ => memByte_startRetrain _⟩
  case ends =>
    have hbad' : ∀ b ∈ bad.map (·.val), b < 18 := by simpa using hbad
    refine ⟨_, congrArg Host.Outcome.next (doRetrainEnd_trains hrun hq hw hneed hbad'), chanSt_setChan_self 0,
      fun l => drift_chanTrained _ _ _ (by omega), mark_chanTrained _ _ _, ?_⟩
    exact keepsBesideStk_trans (keepsBesideStk_modStk s _) (keepsBesideStk_of_trainsOnly (trainsOnly_chanTrained _ _ _))
  case window =>
    have hexec : exec (.fullRetrainEnd k []) s = .next (fullTrained (windowOff s k) k) :=
      congrArg Host.Outcome.next (doFullEnd_trains hrun hq hw)
    have htrain : trainsOnly (windowOff s k) (fullTrained (windowOff s k) k) k := trainsOnly_fullTrained
    have hstk := stk_of_trainsOnly htrain
    refine ⟨_, hexec, ?_, (congrArg (bits · 28 28) htrain.2).trans (maint_windowOff s k), fun d => ?_,
      keepsBesideStk_trans (keepsBesideStk_windowOff s k) (keepsBesideStk_of_trainsOnly htrain)⟩
    · rw [hstk]
      rfl
    · rw [chanSt, hstk]
      rfl

end Sys2Proof.Machine

/-! Words in error and requests that fail (08, 15): a corrected word of a fill, a word of a local store; runs of the traffic
generators. -/

namespace Sys2Proof.Machine

/-! ### A corrected word of a fill (R206, R211, R377) -/

theorem memByte_of_keepsCache {s t : State} (h : keepsCache s t) (a : Nat) : memByte t a = memByte s a := by rw [h.1]; rfl

theorem aMemErr_not_mem_eventRegs (k : Nat) : aMemErr k ∉ eventRegs := not_mem_eventRegs_of_le (by unfold aMemErr; omega)

section
variable (s : State) (k c : Nat)

/-- A trigger clears no bit of its stack's errors, whether the retrain starts or waits. -/
theorem keepsBit_trigger (b : Nat) : keepsBit s (trigger s k c) (aMemErr k) b :=
  keepsBit_ite id (keepsBit_ite id (keepsBit_raise s (.mem k) 4 _ b))

theorem memByte_trigger (a : Nat) : memByte (trigger s k c) a = memByte s a := by
  unfold trigger
  split
  · rfl
  · split
    · rfl
    · exact memByte_startRetrain a

variable (a : Nat)

/-- A corrected word of a fill is counted in its channel: CE and the counter of its stack. -/
def fixedCounted : State :=
  count (addFld (raiseM s (locate s a).1 1 (locate s a).2.1 a) (aMemChCe (locate s a).1 (locate s a).2.1) 31 0 1)
    (cMem (locate s a).1 2) 1

/-- It counts in the running interval too, and its line is dirty. -/
def fixedMarked : State :=
  touchLine (modStk (fixedCounted s a) fun t => { t with
      ceIn := smSet (0, 0) t.ceIn (chanKey (locate s a).1 (locate s a).2.1)
        (msNow s, ceNow s (locate s a).1 (locate s a).2.1 + 1) })
    clQtr (a / 256) (2 ^ (a / 64 % 4)) true false

theorem fixedWord_eq : fixedWord s a =
    if fld (fixedMarked s a) (aMemCtl (locate s a).1) 15 8 ≤ ceNow (fixedMarked s a) (locate s a).1 (locate s a).2.1
    then trigger (fixedMarked s a) (locate s a).1 (locate s a).2.1 else fixedMarked s a := rfl

theorem bit_fixedCounted : bit (reg (fixedCounted s a) (aMemErr (locate s a).1)) 1 = true := by
  have hraise := bit_raise s (.mem (locate s a).1) ((locate s a).2.1 * 2 ^ 40 + a % 2 ^ 40) (b := 1) (by decide)
  have hce : aMemErr (locate s a).1 ≠ aMemChCe (locate s a).1 (locate s a).2.1 := by
    unfold aMemErr aMemChCe
    omega
  rw [fixedCounted, keepsRegs_count _ _ _ _ (aMemErr_not_mem_eventRegs _), addFld, reg_setFld_ne _ _ _ _ hce]
  exact hraise

theorem memByte_fixedCounted (y : Nat) : memByte (fixedCounted s a) y = memByte s y :=
  memByte_of_keepsCore (keepsCore_trans (keepsCore_trans (keepsCore_raise s _ _ _) (keepsCore_setReg _ _ _))
    (keepsCore_count _ _ _)) y

theorem keepsCache_fixedMarked : keepsCache (fixedCounted s a) (fixedMarked s a) :=
  keepsCache_trans (keepsCache_modStk _ _ rfl) (keepsCache_touchLine _ _ _ _ _ _)

/-- A corrected word sets CE, and no byte of memory differs. -/
theorem fixedWord_reports :
    bit (reg (fixedWord s a) (aMemErr (locate s a).1)) 1 = true ∧ ∀ y, memByte (fixedWord s a) y = memByte s y := by
  have hmark := keepsCache_fixedMarked s a
  have hbit : bit (reg (fixedMarked s a) (aMemErr (locate s a).1)) 1 = true :=
    keepsBit_of_keepsRegs hmark.2.2 (aMemErr_not_mem_eventRegs _) (bit_fixedCounted s a)
  have hmem : ∀ y, memByte (fixedMarked s a) y = memByte s y := fun y =>
    (memByte_of_keepsCache hmark y).trans (memByte_fixedCounted s a y)
  rw [fixedWord_eq]
  split
  · exact ⟨keepsBit_trigger _ _ _ _ hbit, fun y => (memByte_trigger _ _ _ y).trans (hmem y)⟩
  · exact ⟨hbit, hmem⟩

end

/-! ### A word of a local store (R377, R381) -/

/-- A word of an in-service quarter's populated local store (R47): corrected and reported, or poisoned with a stop to come. -/
theorem storeError_at {s : State} {q off : Nat} (hq : qtrPresent s q = true) (ho : off < lsSize) (src : Nat) (fixed : Bool) :
    storeError s (lsBase q + off) src fixed =
      if fixed then raiseQ s q eLsCe src (lsBase q + off)
      else stopAtEnd (raiseQ (poisonWord s ((lsBase q + off) / 8)) q eLsUe src (lsBase q + off)) rUe := by
  have hquarter : (lsBase q + off - stackEnd) / 0x400000 = q := by
    unfold lsBase stackEnd lsSize at *
    omega
  have hoff : (lsBase q + off - stackEnd) % 0x400000 = off := by
    unfold lsBase stackEnd lsSize at *
    omega
  have hlow : ¬ lsBase q + off < stackEnd := by
    unfold lsBase stackEnd
    omega
  simp only [storeError, hquarter, hoff, hlow, hq, Nat.not_le.2 ho, Bool.not_true, Bool.false_eq_true, or_self, if_false]

/-! ### Traffic generators (R214) -/

/-- No row of the register table before MEM_CHc_TG_CTL holds a register at one of its offsets. -/
theorem fldsAt_tgCtl {k c : Nat} (hk : k < 8) (hc : c < 128) : fldsAt (aMemChTgCtl k c) =
    [⟨63, 32, .rw⟩, ⟨31, 16, .rw⟩, ⟨15, 12, .rw⟩, ⟨9, 8, .rw⟩, ⟨1, 1, .wo⟩, ⟨0, 0, .ro⟩] := by
  unfold fldsAt
  simp (disch := omega) only [regTable, regRows0, regRows1, regRows2, regRows3, List.cons_append, List.nil_append, regFind,
    regRowAt, aMemChTgCtl, if_pos, if_neg, if_true]

theorem bit_start (v : W64) : bit (putBits v 1 1 1) 1 = true := by
  rw [bit_putBits_mem v 1 (by decide) le_rfl le_rfl]
  rfl

/-- START has no part in the range of TG_CTL. -/
theorem tgLegal_start (v : W64) : tgLegal (putBits v 1 1 1) = tgLegal v := by
  have hfld : ∀ h l, 1 < l → bits (putBits v 1 1 1) h l = bits v h l := fun h l hl =>
    bits_putBits_ne _ _ _ _ _ _ le_rfl (by decide) (.inr hl)
  simp only [tgLegal, hfld 63 32 (by decide), hfld 15 12 (by decide), hfld 9 8 (by decide), hfld 31 16 (by decide)]

/-- TG_CTL as a write in range leaves it. -/
def putTgCtl (w v : W64) : W64 :=
  putBits (putBits (putBits (putBits w 63 32 (bits v 63 32)) 31 16 (bits v 31 16)) 15 12 (bits v 15 12)) 9 8 (bits v 9 8)

theorem bits_putTgCtl_bursts (w v : W64) : bits (putTgCtl w v) 63 32 = bits v 63 32 := by
  rw [putTgCtl, bits_putBits_ne _ _ _ _ _ _ (by decide) (by decide) (.inr (by decide)),
    bits_putBits_ne _ _ _ _ _ _ (by decide) (by decide) (.inr (by decide)),
    bits_putBits_ne _ _ _ _ _ _ (by decide) (by decide) (.inr (by decide)), bits_putBits_bits _ _ (by decide) (by decide)]

/-- The three registers of a channel's generator lie apart. -/
theorem tgRegs_apart (k c : Nat) : aMemChTgCtl k c ≠ aMemChTgRes k c ∧ aMemChTgCtl k c ≠ aMemChTgFirst k c ∧
    aMemChTgRes k c ≠ aMemChTgFirst k c := by
  unfold aMemChTgCtl aMemChTgRes aMemChTgFirst
  omega

section
variable (s : State) (k c : Nat)

/-- The registers of a channel's generator. -/
def tgRegs : List Nat := [aMemChTgCtl k c, aMemChTgRes k c, aMemChTgFirst k c]

/-- TG_CTL and TG_RES hold these words. -/
def tgShown (ctl res : W64) : State := setReg (setReg s (aMemChTgCtl k c) ctl) (aMemChTgRes k c) res

variable {s k c}

/-- What follows a change of TG_CTL and TG_RES touches TG_FIRST at most. -/
theorem regs_of_tgShown {ctl res : W64} {t : State} (h : keepsRegs (tgShown s k c ctl res) t [aMemChTgFirst k c]) :
    reg t (aMemChTgCtl k c) = ctl ∧ reg t (aMemChTgRes k c) = res ∧ keepsRegs s t (tgRegs k c) := by
  obtain ⟨hcr, hcf, hrf⟩ := tgRegs_apart k c
  refine ⟨?_, ?_, keepsRegs_join (keepsRegs_join (keepsRegs_setReg_mem _ _ _ ?_) (keepsRegs_setReg_mem _ _ _ ?_))
    (keepsRegs_mono h ?_)⟩
  · rw [h _ (by simpa using hcf), tgShown, reg_setReg_ne _ _ hcr, reg_setReg_self]
  · rw [h _ (by simpa using hrf), tgShown, reg_setReg_self]
  all_goals simp [tgRegs]

theorem keepsBesideRegs_tgShown (ctl res : W64) : keepsBesideRegs s (tgShown s k c ctl res) :=
  keepsBesideRegs_trans (setReg_eq s _ _) (setReg_eq _ _ _)

end

section
variable {s : State} {k c : Nat} {v : W64}

/-- A write that starts a run: TG_CTL as written, with BUSY, and no result yet. -/
def tgStarted (s : State) (k c : Nat) (v : W64) : State :=
  let off := aMemChTgCtl k c
  let w := putTgCtl (reg s off) (putBits v 1 1 1)
  setReg (tgShown (setReg s off w) k c (putBits (reg (setReg s off w) off) 0 0 1) 0) (aMemChTgFirst k c) 0

/-- TG_CTL as a write in range leaves it before a run starts. -/
theorem regPut_tgCtl (hk : k < 8) (hc : c < 128) :
    regPut s (.mem k) (aMemChTgCtl k c) (fldsAt (aMemChTgCtl k c)) true true v =
      setReg s (aMemChTgCtl k c) (putTgCtl (reg s (aMemChTgCtl k c)) v) := by
  rw [regPut_idle_legal, fldsAt_tgCtl hk hc]
  rfl

/-- A legal START in diagnostic mode, while no run goes on, starts one; a run that only reads writes no burst. -/
theorem tgWrite_starts (hk : k < 8) (hc : c < 128) (hv : tgLegal v = true) (hmode : fld s (aMemCtl k) 0 0 = 1)
    (hidle : fld s (aMemChTgCtl k c) 0 0 = 0) (hread : bits v 9 8 = 1) :
    tgWrite s k c (putBits v 1 1 1) = tgStarted s k c v := by
  have hdir : bits (putBits v 1 1 1) 9 8 = 1 :=
    (bits_putBits_ne _ _ _ _ _ _ le_rfl (by decide) (.inr (by decide))).trans hread
  simp only [tgWrite, tgLegal_start, hv, bit_start, hmode, hidle, hdir, regPut_tgCtl hk hc]
  rfl

/-- Outside diagnostic mode a START is refused. -/
theorem tgWrite_refuses (hk : k < 8) (hc : c < 128) (hv : tgLegal v = true) (hmode : fld s (aMemCtl k) 0 0 = 0) :
    tgWrite s k c (putBits v 1 1 1) = rangeErr
      (setReg s (aMemChTgCtl k c) (putTgCtl (reg s (aMemChTgCtl k c)) (putBits v 1 1 1))) (.mem k) (aMemChTgCtl k c) := by
  simp only [tgWrite, tgLegal_start, hv, bit_start, hmode, regPut_tgCtl hk hc]
  rfl

/-- What a run that has started shows. -/
theorem tgStarted_shows : fld (tgStarted s k c v) (aMemChTgCtl k c) 0 0 = 1 ∧
    fld (tgStarted s k c v) (aMemChTgCtl k c) 63 32 = bits v 63 32 ∧ reg (tgStarted s k c v) (aMemChTgRes k c) = 0 ∧
    reg (tgStarted s k c v) (aMemChTgFirst k c) = 0 ∧ keepsRegs s (tgStarted s k c v) (tgRegs k c) ∧
    keepsBesideRegs s (tgStarted s k c v) := by
  obtain ⟨hctl, hres, hregs⟩ :=
    regs_of_tgShown (s := setReg s (aMemChTgCtl k c) _) (t := tgStarted s k c v) (keepsRegs_setReg _ _ _)
  refine ⟨?_, ?_, hres, reg_setReg_self _ _ _, ?_, ?_⟩
  · rw [fld, hctl, bits_putBits_self _ _ _ _ le_rfl (by decide)]
    rfl
  · rw [fld, hctl, bits_putBits_ne _ _ _ _ _ _ le_rfl (by decide) (.inr (by decide)), reg_setReg_self, bits_putTgCtl_bursts,
      bits_putBits_ne _ _ _ _ _ _ le_rfl (by decide) (.inr (by decide))]
  · exact keepsRegs_join (keepsRegs_setReg_mem _ _ _ (by simp [tgRegs])) hregs
  · exact keepsBesideRegs_trans (setReg_eq s _ _) (keepsBesideRegs_trans (keepsBesideRegs_tgShown _ _) (setReg_eq _ _ _))

/-- TG_RES at the end of a run. -/
def tgResult (errors : W32) (lanes : BitVec 20) : W64 :=
  BitVec.ofNat 64 ((if errors = 0 then 0 else 2 ^ 63) + lanes.toNat * 2 ^ 32 + errors.toNat)

theorem bits_tgResult (errors : W32) (lanes : BitVec 20) : bits (tgResult errors lanes) 31 0 = errors.toNat ∧
    bits (tgResult errors lanes) 51 32 = lanes.toNat ∧ bits (tgResult errors lanes) 63 63 = (if errors = 0 then 0 else 1) := by
  have he := errors.isLt
  have hl := lanes.isLt
  simp only [tgResult, bits, BitVec.toNat_ofNat, Nat.shiftRight_eq_div_pow]
  split <;> omega

/-- The end of a run: TG_FIRST is written where a burst failed. -/
def tgEnded (s : State) (k c : Nat) (errors : W32) (lanes : BitVec 20) (first : BitVec 30) : State :=
  let u := tgShown s k c (putBits (reg s (aMemChTgCtl k c)) 0 0 0) (tgResult errors lanes)
  if errors = 0 then u else setReg u (aMemChTgFirst k c) (BitVec.ofNat 64 first.toNat)

theorem doTgEnd_ends (errors : W32) (lanes : BitVec 20) (first : BitVec 30) (hbusy : fld s (aMemChTgCtl k c) 0 0 = 1) :
    doTgEnd s k c errors lanes first = tgEnded s k c errors lanes first := if_neg (by omega)

/-- What a run that has ended shows. -/
theorem tgEnded_shows (errors : W32) (lanes : BitVec 20) (first : BitVec 30) :
    let t := tgEnded s k c errors lanes first
    fld t (aMemChTgCtl k c) 0 0 = 0 ∧ fld t (aMemChTgRes k c) 31 0 = errors.toNat ∧
      fld t (aMemChTgRes k c) 51 32 = lanes.toNat ∧ fld t (aMemChTgRes k c) 63 63 = (if errors = 0 then 0 else 1) ∧
      (errors ≠ 0 → (reg t (aMemChTgFirst k c)).toNat = first.toNat) ∧ keepsRegs s t (tgRegs k c) ∧ keepsBesideRegs s t := by
  intro t
  have hshown : keepsRegs (tgShown s k c (putBits (reg s (aMemChTgCtl k c)) 0 0 0) (tgResult errors lanes)) t
      [aMemChTgFirst k c] := keepsRegs_ite (keepsRegs_refl _ _) (keepsRegs_setReg _ _ _)
  obtain ⟨hctl, hres, hregs⟩ := regs_of_tgShown hshown
  obtain ⟨herrors, hlanes, hvalid⟩ := bits_tgResult errors lanes
  refine ⟨?_, by rw [fld, hres, herrors], by rw [fld, hres, hlanes], by rw [fld, hres, hvalid], fun hne => ?_, hregs, ?_⟩
  · rw [fld, hctl, bits_putBits_self _ _ _ _ le_rfl (by decide)]
    rfl
  · have hfirst : t = setReg _ (aMemChTgFirst k c) (BitVec.ofNat 64 first.toNat) := if_neg hne
    rw [hfirst, reg_setReg_self, BitVec.toNat_ofNat, Nat.mod_eq_of_lt (lt_trans first.isLt (by decide))]
  · show keepsBesideRegs s (if _ then _ else _)
    split
    · exact keepsBesideRegs_tgShown _ _
    · exact keepsBesideRegs_trans (keepsBesideRegs_tgShown _ _) (setReg_eq _ _ _)

end

/-- Settles O43: each place of a word in error, a request that fails, and a run of a generator from START to its end. -/
theorem stackFaultsReport : Obligations.StackFaultsReport := by
  intro s a rd n k c v errors lanes first good x seen
  refine ⟨fun ha => ?reread, fun ha => ?recovery, fun ha => ?corrected, fun q off src hq ho ha => ?store,
    fun _ => rfl, fun _ _ _ => rfl, rfl, fun ha hn => ?expired, fun hv hmode hidle hread => ?runs, fun hv hmode => ?refused,
    fun hbusy => ?ends⟩
  case reread => exact congrArg Host.Outcome.next (if_neg (Nat.not_le.2 ha))
  case recovery => exact congrArg Host.Outcome.next (if_neg (Nat.not_le.2 ha))
  case corrected => exact ⟨_, congrArg Host.Outcome.next (if_neg (Nat.not_le.2 ha)), fixedWord_reports s a.toNat⟩
  case store =>
    have hexec : ∀ fixed, exec (.ueReread a (.store src) fixed) s = .next (storeError s a.toNat src.toNat fixed) := fun _ => rfl
    rw [hexec, hexec, ha, storeError_at hq ho, storeError_at hq ho]
    exact ⟨rfl, rfl⟩
  case expired => exact congrArg Host.Outcome.next (if_neg (by omega))
  case runs =>
    exact ⟨_, congrArg Host.Outcome.next (tgWrite_starts k.isLt c.isLt hv hmode hidle hread), tgStarted_shows⟩
  case refused =>
    exact ⟨_, congrArg Host.Outcome.next (tgWrite_refuses k.isLt c.isLt hv hmode), bit_raise _ (.mem k) _ (by decide),
      memByte_of_keepsCore (keepsCore_trans (keepsCore_setReg s _ _) (keepsCore_raise _ _ _ _))⟩
  case ends =>
    exact ⟨_, congrArg Host.Outcome.next (doTgEnd_ends errors lanes first hbusy), tgEnded_shows errors lanes first⟩

end Sys2Proof.Machine

/-! Rings (R216 to R222): the words that CFG registers take, and what a write of each ring register leaves. -/

namespace Sys2Proof.Machine

/-! ### The CFG word of a ring (R220, R222) -/

section
variable (w v : W64) {hi : Nat}

/-- A ring's CFG after a write in range of an idle ring: EN, SIZE_LOG2, and the field that ends at bit hi, which is CQ of a
submission ring and VEC of a completion ring. -/
def putRingCfg (w v : W64) (hi : Nat) : W64 :=
  putBits (putBits (putBits w 31 31 (bits v 31 31)) hi 16 (bits v hi 16)) 4 0 (bits v 4 0)

theorem bits_putRingCfg_size : bits (putRingCfg w v hi) 4 0 = bits v 4 0 := bits_putBits_bits _ _ (by decide) (by decide)

section
variable (h1 : 16 ≤ hi) (h2 : hi < 31)
include h1 h2

theorem bits_putRingCfg_mid : bits (putRingCfg w v hi) hi 16 = bits v hi 16 := by
  rw [putRingCfg, bits_putBits_ne _ _ _ _ _ _ (by decide) (by decide) (by omega), bits_putBits_bits _ _ h1 (by omega)]

theorem bits_putRingCfg_en : bits (putRingCfg w v hi) 31 31 = bits v 31 31 := by
  rw [putRingCfg, bits_putBits_ne _ _ _ _ _ _ (by decide) (by decide) (by omega),
    bits_putBits_ne _ _ _ _ _ _ h1 (by omega) (by omega), bits_putBits_bits _ _ (by decide) (by decide)]

end

theorem bits_putBits_en_self (en : Nat) : bits (putBits v 31 31 en) 31 31 = en % 2 :=
  bits_putBits_self _ _ _ _ (by decide) (by decide)

/-- The fields of the host's datum that stand beside EN. -/
theorem bits_putBits_en (w : W32) (en lo : Nat) {hi : Nat} (h : hi < 31) :
    bits (putBits (w.setWidth 64) 31 31 en) hi lo = bits w hi lo :=
  (bits_putBits_ne _ _ _ _ _ _ (by decide) (by decide) (.inl h)).trans (bits_setWidth w)

end

/-- A field of one bit holds that bit. -/
theorem bits_beq_one {n : Nat} (w : BitVec n) (b : Nat) : (bits w b b == 1) = bit w b := by
  have hmod : bits w b b = w.toNat / 2 ^ b % 2 := by
    rw [bits, Nat.shiftRight_eq_div_pow, Nat.add_sub_cancel_left, Nat.pow_one]
  rw [hmod, bit, Nat.testBit_eq_decide_div_mod_eq]
  exact Bool.beq_eq_decide_eq _ _

/-! ### Registers apart -/

theorem reg_setReg_reg (s : State) (o p : Nat) : reg (setReg s o (reg s o)) p = reg s p := by
  rw [reg_setReg]
  split
  · next h => rw [h]
  · rfl

/-- The rings' registers are none of those that an error of the queues changes. -/
theorem notMem_errRegs_hstQ {o : Nat} (h : 0x100400 ≤ o) : o ∉ errRegs .hstQ := by
  simp only [errRegs, errReg, errRec, Option.map_none, Option.toList_none, List.append_nil, List.cons_append, List.nil_append,
    List.mem_cons, not_or]
  exact ⟨by unfold aHstQErr; omega, not_mem_eventRegs_of_le h⟩

/-- Two registers written, one after the other, and nothing else. -/
theorem keepsRegs_setReg_pair (s : State) (o p : Nat) (v w : W64) : keepsRegs s (setReg (setReg s o v) p w) [o, p] :=
  keepsRegs_join (keepsRegs_setReg_mem _ _ _ (by simp)) (keepsRegs_setReg_mem _ _ _ (by simp))

theorem reg_setReg_pair_fst (s : State) {o p : Nat} (v w : W64) (h : o ≠ p) : reg (setReg (setReg s o v) p w) o = v := by
  rw [reg_setReg_ne _ _ h, reg_setReg_self]

theorem setReg_pair_eq (s : State) (o p : Nat) (v w : W64) :
    setReg (setReg s o v) p w = { s with regs := (setReg (setReg s o v) p w).regs } := rfl

/-! ### Submission rings (R220, R221) -/

section
variable {s : State} {n : Nat} (v : W64)

theorem sqBaseWrite_of_idle (hi : sqIdle s n = true) : sqBaseWrite s n v =
    setReg (setReg s (aHstSqBase n) (putBits (reg s (aHstSqBase n)) 63 12 (bits v 63 12))) (aHstSqPtr n) 0 := by
  simp only [sqBaseWrite, hi, if_true, regPut_idle_legal]
  rfl

/-- While the ring is not idle a write of BASE changes no register of the rings (R7, R221). -/
theorem reg_sqBaseWrite_of_busy (hi : sqIdle s n = false) {o : Nat} (ho : 0x100400 ≤ o) :
    reg (sqBaseWrite s n v) o = reg s o := by
  have hput : sqBaseWrite s n v = if (false || bits (reg s (aHstSqBase n)) 63 12 != bits v 63 12) = true
      then rwiErr (setReg s (aHstSqBase n) (reg s (aHstSqBase n))) .hstQ (aHstSqBase n)
      else setReg s (aHstSqBase n) (reg s (aHstSqBase n)) := by
    simp only [sqBaseWrite, hi, Bool.false_eq_true, if_false]
    rfl
  rw [hput]
  split
  · exact (keepsRegs_raise _ _ _ _ o (notMem_errRegs_hstQ ho)).trans (reg_setReg_reg _ _ _)
  · exact reg_setReg_reg _ _ _

theorem keepsCore_sqBaseWrite_of_busy (hi : sqIdle s n = false) : keepsCore s (sqBaseWrite s n v) := by
  simp only [sqBaseWrite, hi, Bool.false_eq_true, if_false]
  exact keepsCore_regPut _ _ _ _ _ _ _

/-- A new size of an idle ring, with its completion ring enabled: the CFG word is stored, and the pointers are cleared. -/
theorem sqCfgWrite_resizes (hn : n < 64) (hi : sqIdle s n = true) (hl : 4 ≤ bits v 4 0 ∧ bits v 4 0 ≤ 16)
    (hcq : cqEn s (bits v 21 16) = true) (hnew : bits v 4 0 ≠ fld s (aHstSqCfg n) 4 0) : sqCfgWrite s n v =
    setReg (setReg s (aHstSqCfg n) (putRingCfg (reg s (aHstSqCfg n)) v 21)) (aHstSqPtr n) 0 := by
  have hput : ∀ old, (writeFlds [⟨31, 31, .rw⟩, ⟨21, 16, .rwi⟩, ⟨4, 0, .rwi⟩] true old v).1 = putRingCfg old v 21 :=
    fun _ => rfl
  have hon : cqEn (setReg (setReg s (aHstSqCfg n) (putRingCfg (reg s (aHstSqCfg n)) v 21)) (aHstSqPtr n) 0)
      (bits v 21 16) = true := by
    rw [cqEn, fld, reg_setReg_ne _ _ (by unfold aHstCqCfg aHstSqPtr; omega),
      reg_setReg_ne _ _ (by unfold aHstCqCfg aHstSqCfg; omega)]
    exact hcq
  have hsize : bits (reg s (aHstSqCfg n)) 4 0 ≠ bits v 4 0 := fun h => hnew h.symm
  simp only [sqCfgWrite, hi, hl.1, hl.2, decide_true, Bool.and_true, regPut_idle_legal, hput, reg_setReg_self,
    bits_putRingCfg_size, bits_putRingCfg_mid _ _ (show 16 ≤ 21 by decide) (by decide), hsize, ne_eq, not_false_eq_true, or_true,
    if_true, hon, Bool.not_true, Bool.and_false, Bool.false_eq_true, if_false]

end

/-! ### Completion rings (R222) -/

section
variable {s : State} {n : Nat} {v : W64} (hl : 4 ≤ bits v 4 0 ∧ bits v 4 0 ≤ 16)

section
include hl

/-- A completion ring that is enabled starts empty: HEAD and TAIL 0, PHASE 1. -/
theorem cqCfgWrite_enables (hoff : cqEn s n = false) (hon : bits v 31 31 = 1) : cqCfgWrite s n v =
    setReg (setReg s (aHstCqCfg n) (putRingCfg (reg s (aHstCqCfg n)) v 23)) (aHstCqPtr n) (BitVec.ofNat 64 (2 ^ 32)) := by
  have hput : ∀ old, (writeFlds [⟨31, 31, .rw⟩, ⟨23, 16, .rwi⟩, ⟨4, 0, .rwi⟩] true old v).1 = putRingCfg old v 23 :=
    fun _ => rfl
  have hen : cqEn (setReg s (aHstCqCfg n) (putRingCfg (reg s (aHstCqCfg n)) v 23)) n = true := by
    rw [cqEn, fld, reg_setReg_self, bits_putRingCfg_en _ _ (by decide) (by decide), hon, beq_self_eq_true]
  simp only [cqCfgWrite, hoff, hl.1, hl.2, decide_true, Bool.and_true, Bool.false_and, Bool.not_false, regPut_idle_legal, hput, hen,
    Bool.false_eq_true, if_false, if_true]

/-- A completion ring that nothing needs is disabled by a write that leaves its size and its vector. -/
theorem cqCfgWrite_disables (hon : cqEn s n = true) (hneed : cqNeeded s n = false) (hsize : bits v 4 0 = fld s (aHstCqCfg n) 4 0)
    (hvec : bits v 23 16 = fld s (aHstCqCfg n) 23 16) : cqCfgWrite s n v =
    setReg s (aHstCqCfg n) (putBits (reg s (aHstCqCfg n)) 31 31 (bits v 31 31)) := by
  have hput : ∀ old, bits v 4 0 = bits old 4 0 → bits v 23 16 = bits old 23 16 →
      writeFlds [⟨31, 31, .rw⟩, ⟨23, 16, .rwi⟩, ⟨4, 0, .rwi⟩] false old v = (putBits old 31 31 (bits v 31 31), false) := by
    intro old h4 h23
    have hbits : ∀ hi lo, hi < 31 → bits (putBits old 31 31 (bits v 31 31)) hi lo = bits old hi lo := fun hi lo h =>
      bits_putBits_ne _ _ _ _ _ _ (by decide) (by decide) (.inl h)
    simp only [writeFlds, List.foldl, writeFld, hbits _ _ (show 4 < 31 by decide), hbits _ _ (show 23 < 31 by decide), h4, h23,
      bne_self_eq_false, Bool.or_self, Bool.false_eq_true, if_false]
  simp only [cqCfgWrite, hon, hneed, hl.1, hl.2, regPut, hput _ hsize hvec, decide_true, Bool.and_true, Bool.and_false,
    Bool.not_true, Bool.false_and, Bool.false_eq_true, if_false]

end

/-- A completion ring that something needs stays enabled, and the write is flagged. -/
theorem cqCfgWrite_refuses (hon : cqEn s n = true) (hneed : cqNeeded s n = true) (hoff : bit v 31 = false) :
    cqCfgWrite s n v = rwiErr s .hstQ (aHstCqCfg n) := by
  simp only [cqCfgWrite, hon, hneed, hoff, Bool.not_false, Bool.and_self, if_true]

end

/-- Settles O28: a write of each ring register, by what the ring's state makes of it. -/
theorem ringRegistersTakeWrites : Obligations.RingRegistersTakeWrites := by
  intro s n v w legal
  have hsq : aHstSqCfg n ≠ aHstSqPtr n := by unfold aHstSqCfg aHstSqPtr; omega
  have hcq : aHstCqCfg n ≠ aHstCqPtr n := by unfold aHstCqCfg aHstCqPtr; omega
  refine ⟨fun hi => ?base, fun hi => ?busy, fun hi hl hon hnew => ?resize, fun hoff hl => ?enable,
    fun hon hneed hl hsize hvec => ?disable, fun hon hneed => ?needed⟩
  case base =>
    refine ⟨_, congrArg Host.Outcome.next (sqBaseWrite_of_idle v hi), ?_, reg_setReg_self _ _ _,
      keepsRegs_setReg_pair _ _ _ _ _, setReg_pair_eq _ _ _ _ _⟩
    rw [fld, reg_setReg_pair_fst _ _ _ (by unfold aHstSqBase aHstSqPtr; omega), bits_putBits_bits _ _ (by decide) (by decide)]
  case busy =>
    exact ⟨_, rfl, reg_sqBaseWrite_of_busy v hi (by unfold aHstSqBase; omega),
      reg_sqBaseWrite_of_busy v hi (by unfold aHstSqPtr; omega), keepsCore_sqBaseWrite_of_busy v hi⟩
  case resize =>
    rw [← bits_setWidth] at hon hnew
    refine ⟨_, congrArg Host.Outcome.next (sqCfgWrite_resizes _ n.isLt hi (by rw [bits_setWidth]; exact hl) hon hnew), ?_, ?_, ?_,
      reg_setReg_self _ _ _, keepsRegs_setReg_pair _ _ _ _ _, setReg_pair_eq _ _ _ _ _⟩
    · rw [sqSize, fld, reg_setReg_pair_fst _ _ _ hsq, bits_putRingCfg_size, bits_setWidth]
    · rw [sqCq, fld, reg_setReg_pair_fst _ _ _ hsq, bits_putRingCfg_mid _ _ (by decide) (by decide), bits_setWidth]
    · rw [sqEn, fld, reg_setReg_pair_fst _ _ _ hsq, bits_putRingCfg_en _ _ (by decide) (by decide), bits_setWidth, bits_beq_one]
  case enable =>
    refine ⟨_, congrArg Host.Outcome.next (cqCfgWrite_enables (by rw [bits_putBits_en _ _ _ (by decide)]; exact hl) hoff
      (by rw [bits_putBits_en_self])), ?_, ?_, ?_,
      reg_setReg_self _ _ _, keepsRegs_setReg_pair _ _ _ _ _, setReg_pair_eq _ _ _ _ _⟩
    · rw [cqEn, fld, reg_setReg_pair_fst _ _ _ hcq, bits_putRingCfg_en _ _ (by decide) (by decide), bits_putBits_en_self,
        beq_self_eq_true]
    · rw [cqSize, fld, reg_setReg_pair_fst _ _ _ hcq, bits_putRingCfg_size, bits_putBits_en _ _ _ (by decide)]
    · rw [fld, reg_setReg_pair_fst _ _ _ hcq, bits_putRingCfg_mid _ _ (by decide) (by decide), bits_putBits_en _ _ _ (by decide)]
  case disable =>
    refine ⟨_, congrArg Host.Outcome.next (cqCfgWrite_disables (by rw [bits_putBits_en _ _ _ (by decide)]; exact hl) hon hneed
      (by rw [bits_putBits_en _ _ _ (by decide), hsize]) (by rw [bits_putBits_en _ _ _ (by decide), hvec])), ?_,
      keepsRegs_setReg _ _ _, setReg_eq _ _ _⟩
    rw [cqEn, fld, reg_setReg_self, bits_putBits_bits _ _ (by decide) (by decide), bits_putBits_en_self]
    rfl
  case needed =>
    have hoff : bit (putBits (w.setWidth 64) 31 31 0) 31 = false := by
      rw [← bits_beq_one, bits_putBits_en_self]
      rfl
    refine ⟨_, congrArg Host.Outcome.next (cqCfgWrite_refuses hon hneed hoff), ?_, bit_raise s .hstQ _ (by decide),
      keepsCore_raise _ _ _ _⟩
    have hk : keepsRegs s (rwiErr s .hstQ (aHstCqCfg n)) (errRegs .hstQ) := keepsRegs_raise _ _ _ _
    rw [cqEn, fld_of_keepsRegs hk (notMem_errRegs_hstQ (by unfold aHstCqCfg; omega))]
    exact hon

end Sys2Proof.Machine

/-! Fetching descriptors (R218, R226, R227, R245): what a fetch leaves before the descriptor is judged, what a rejection and an
admission leave, and which of them comes. -/

namespace Sys2Proof.Machine

/-! ### What may differ -/

theorem disp_of_keepsCore {s t : State} (h : keepsCore s t) : t.disp = s.disp := by rw [h]

/-- Only registers, the host port, counters and the dispatcher may differ. -/
def keepsBesideDisp (s t : State) : Prop := t = { s with regs := t.regs, host := t.host, pmc := t.pmc, disp := t.disp }

theorem keepsBesideDisp_trans {s t u : State} (h : keepsBesideDisp s t) (h' : keepsBesideDisp t u) : keepsBesideDisp s u := by
  unfold keepsBesideDisp at *
  rw [h', h]

theorem keepsBesideDisp_of_keepsCore {s t : State} (h : keepsCore s t) : keepsBesideDisp s t := by
  unfold keepsCore at h
  unfold keepsBesideDisp
  rw [h]

/-! ### A fetch (R218) -/

section
variable {s : State} {n : Nat}

theorem nextRing_lt (h : nextRing s = some n) : n < 64 := by
  have hmem : n ∈ (List.range 64).filter (eligible s) := by
    obtain hfirst | ⟨-, hhead⟩ := (Option.orElse_eq_some _ _ _).1 h
    · exact List.mem_of_find?_eq_some hfirst
    · exact List.mem_of_mem_head? hhead
  exact List.mem_range.1 (List.mem_filter.1 hmem).1

/-- Ring n's descriptor is read, and counted: what is judged is judged in this state. -/
def slotFetched (s : State) (n : Nat) : State := count (count (advanceSq s n) 1405 1) 1410 1

theorem keepsCore_slotFetched : keepsCore (advanceSq s n) (slotFetched s n) :=
  keepsCore_trans (keepsCore_count _ _ _) (keepsCore_count _ _ _)

theorem keepsRegs_slotFetched : keepsRegs (advanceSq s n) (slotFetched s n) eventRegs :=
  keepsRegs_join (keepsRegs_count _ _ _) (keepsRegs_count _ _ _)

theorem keepsBesideDisp_slotFetched : keepsBesideDisp s (slotFetched s n) :=
  keepsBesideDisp_trans (t := { s with disp := { s.disp with rr := n + 1 } }) rfl
    (keepsBesideDisp_of_keepsCore (keepsCore_trans (keepsCore_setReg _ _ _) keepsCore_slotFetched))

theorem disp_slotFetched : (slotFetched s n).disp = { s.disp with rr := n + 1 } := disp_of_keepsCore keepsCore_slotFetched

/-- FETCH advances (R218). -/
theorem fetch_slotFetched (hsize : fld s (aHstSqCfg n) 4 0 ≤ 16) :
    fld (slotFetched s n) (aHstSqPtr n) 31 16 = (fld s (aHstSqPtr n) 31 16 + 1) % sqSize s n := by
  have hpow : sqSize s n ≤ 2 ^ 16 := Nat.pow_le_pow_right (by decide) hsize
  rw [fld_of_keepsRegs keepsRegs_slotFetched (not_mem_eventRegs_of_le (by unfold aHstSqPtr; omega)), advanceSq,
    fld_setFld_self _ _ _ _ _ (by decide) (by decide)]
  exact Nat.mod_eq_of_lt (lt_of_lt_of_le (Nat.mod_lt _ (Nat.pow_pos (by decide))) hpow)

section
variable (hnext : nextRing s = some n) (hopen : fetchOpen s = true)
include hnext hopen

theorem fetchOne_reads (b : W512) :
    fetchOne s (.ok b) = take (slotFetched s n) n (fld s (aHstSqPtr n) 31 16) (sqCq s n) b := by
  simp only [fetchOne, hnext, hopen, Bool.not_true, Bool.false_eq_true, if_false, slotFetched]

theorem fetchOne_fails (report : State → State) : fetchOne s (.error report) =
    reject (raise (report (slotFetched s n)) .hstQ 4 0) n (fld s (aHstSqPtr n) 31 16) (sqCq s n) sFetchErr 0 false := by
  simp only [fetchOne, hnext, hopen, Bool.not_true, Bool.false_eq_true, if_false, slotFetched]

end

end

/-! ### Checks and placement (R226, R227, R245) -/

section
variable {u : State} {n slot cq : Nat} {b : W512}

theorem take_of_status {st : Nat} (hst : descStatus u b = some st) :
    take u n slot cq b = reject u n slot cq st (if st = sIllegalType then 0 else detail0 b) (dIrq b) := by
  simp only [take, hst]

theorem take_unplaced {st : Nat} (hst : descStatus u b = none) (hp : place u n b = .error st) :
    take u n slot cq b = reject u n slot cq st (detail0 b) (dIrq b) := by
  simp only [take, hst, hp]

theorem take_placed {beat : Nat} (hst : descStatus u b = none) (hp : place u n b = .ok beat)
    (hsel : secondSelect u b beat = false) : take u n slot cq b = admitDesc u n slot cq b beat := by
  simp only [take, hst, hp, hsel, Bool.false_eq_true, if_false]

end

/-! ### An admission (R245) -/

section
variable (u : State) (n slot cq : Nat) (b : W512) (beat : Nat)

/-- The descriptor as it joins its beat. -/
def newAdm : Adm :=
  ⟨u.disp.nextId, n, slot, cq, b, beat, false, (if dType b = 1 then dQuarters b else []), false, none, 0, none, 0⟩

/-- A descriptor has joined its beat, before that is counted; a FLIP has its bank announced (R278). -/
def admJoined : State :=
  let t := { u with disp := { u.disp with
    nextId := u.disp.nextId + 1, adms := u.disp.adms ++ [newAdm u n slot cq b beat],
    lastBeat := smSet 0 u.disp.lastBeat n beat, stopBeat := if dType b = 7 then some beat else u.disp.stopBeat } }
  if dType b = 6 ∧ fcOp b = 3 then setFld t aFabRtCtl 1 1 1 else t

theorem admitDesc_eq : admitDesc u n slot cq b beat = count (admJoined u n slot cq b beat) 1406 1 := rfl

theorem keepsBesideDisp_admJoined : keepsBesideDisp u (admJoined u n slot cq b beat) := by
  unfold admJoined
  dsimp only
  split <;> rfl

theorem keepsRegs_admJoined : keepsRegs u (admJoined u n slot cq b beat) [aFabRtCtl] :=
  keepsRegs_ite (keepsRegs_join (t := { u with disp := _ }) (keepsRegs_of_regs rfl _) (keepsRegs_setReg _ _ _))
    (keepsRegs_of_regs rfl _)

theorem disp_admJoined : (admJoined u n slot cq b beat).disp = { u.disp with
    nextId := u.disp.nextId + 1, adms := u.disp.adms ++ [newAdm u n slot cq b beat],
    lastBeat := smSet 0 u.disp.lastBeat n beat, stopBeat := if dType b = 7 then some beat else u.disp.stopBeat } := by
  unfold admJoined
  dsimp only
  split <;> rfl

end

/-! ### A rejection (R233, R245) -/

section
variable (s : State) (ring slot cq status detail : Nat) (irq : Bool)

theorem keepsCore_cqPut (time beat sq idx : Nat) : keepsCore s (cqPut s cq time beat detail status sq idx) :=
  keepsCore_trans (keepsCore_trans (keepsCore_hostWrite _ _ _ _ _ _)
    (keepsCore_trans (keepsCore_setReg _ _ _) (keepsCore_ite (keepsCore_setReg _ _ _) (keepsCore_refl _)))) (keepsCore_count _ _ _)

theorem keepsCore_raiseBatch (cqs : List Nat) : keepsCore s (raiseBatch s cqs) := keepsCore_foldl keepsCore_msixRaise _ _

/-- A completion that is written changes no descriptor (R233). -/
theorem keepsCore_reject : keepsCore s (reject s ring slot cq status detail irq) :=
  keepsCore_trans (keepsCore_trans (keepsCore_cqPut s cq status detail _ _ ring slot)
    (keepsCore_ite (keepsCore_raiseBatch _ _) (keepsCore_refl _))) (keepsCore_count _ _ _)

theorem keepsRegs_hostWrite (addr n : Nat) (v : W512) (ep ro : Bool) : keepsRegs s (hostWrite s addr n v ep ro) eventRegs :=
  keepsRegs_ite (keepsRegs_join (t := hostPush s _) (keepsRegs_of_regs rfl _) (keepsRegs_count _ _ _))
    (keepsRegs_join (keepsRegs_setReg_mem _ _ _ (by decide)) (keepsRegs_mono (keepsRegs_raise _ .hst 5 0) (by decide)))

theorem keepsRegs_cons_of_eventRegs {s t : State} (h : keepsRegs s t eventRegs) (o : Nat) : keepsRegs s t (o :: eventRegs) :=
  keepsRegs_mono h (List.subset_cons_self _ _)

theorem keepsRegs_cqPut (time beat sq idx : Nat) :
    keepsRegs s (cqPut s cq time beat detail status sq idx) (aHstCqPtr cq :: eventRegs) := by
  have hptr : ∀ t v, keepsRegs t (setReg t (aHstCqPtr cq) v) (aHstCqPtr cq :: eventRegs) := fun t v =>
    keepsRegs_setReg_mem _ _ _ List.mem_cons_self
  exact keepsRegs_join (keepsRegs_join (keepsRegs_cons_of_eventRegs (keepsRegs_hostWrite _ _ _ _ _ _) _)
    (keepsRegs_join (hptr _ _) (keepsRegs_ite (hptr _ _) (keepsRegs_refl _ _))))
    (keepsRegs_cons_of_eventRegs (keepsRegs_count _ _ _) _)

/-- Beside those of events, a rejection changes the pointers of its completion ring alone. -/
theorem keepsRegs_reject : keepsRegs s (reject s ring slot cq status detail irq) (aHstCqPtr cq :: eventRegs) :=
  keepsRegs_join (keepsRegs_join (keepsRegs_cqPut s cq status detail _ _ ring slot)
    (keepsRegs_ite (keepsRegs_cons_of_eventRegs (keepsRegs_foldl keepsRegs_msixRaise _ _) _) (keepsRegs_refl _ _)))
    (keepsRegs_cons_of_eventRegs (keepsRegs_count _ _ _) _)

end

/-! ### DESCRIPTOR_FETCH -/

theorem keepsCore_pcieReport (s : State) (e : PcieErr) : keepsCore s (pcieReport s e) := keepsCore_ite rfl rfl

theorem regs_pcieReport (s : State) (e : PcieErr) : (pcieReport s e).regs = s.regs := by
  unfold pcieReport
  dsimp only
  split <;> rfl

/-- A fetch that brings no descriptor reports its error, and the descriptor is rejected with FETCH_ERR (R227, R349). -/
theorem descriptorFetch_fails {s : State} {n : Nat} (hnext : nextRing s = some n) (hopen : fetchOpen s = true)
    (d : Answer W512) (hd : ∀ x, d ≠ .data x) : ∃ r,
    keepsCore (slotFetched s n) r ∧ keepsRegs (slotFetched s n) r eventRegs ∧ exec (.descriptorFetch d) s =
      .next (reject (raise r .hstQ 4 0) n (fld s (aHstSqPtr n) 31 16) (sqCq s n) sFetchErr 0 false) := by
  cases d with
  | data x => exact absurd rfl (hd x)
  | poison =>
    exact ⟨poisonRx (slotFetched s n) 0, poisonRx_eq _ _, keepsRegs_poisonRx _ _,
      congrArg Host.Outcome.next (fetchOne_fails hnext hopen _)⟩
  | error e =>
    exact ⟨pcieReport (slotFetched s n) e, keepsCore_pcieReport _ _, keepsRegs_of_regs (regs_pcieReport _ _) _,
      congrArg Host.Outcome.next (fetchOne_fails hnext hopen _)⟩

/-- Settles O29: a descriptor admitted, refused by a check, not placed, and not read. -/
theorem descriptorFetchAdmits : Obligations.DescriptorFetchAdmits := by
  intro s n b d hnext hopen hsize slot u cq
  have hn := nextRing_lt hnext
  have hptr := not_mem_eventRegs_of_le (o := aHstSqPtr n) (by unfold aHstSqPtr; omega)
  have hread : exec (.descriptorFetch (.data b)) s = .next (take u n slot cq b) := congrArg _ (fetchOne_reads hnext hopen b)
  refine ⟨fun beat hst hp hsel => ?admitted, fun st hst => hread.trans (congrArg _ (take_of_status hst)),
    fun st hst hp => hread.trans (congrArg _ (take_unplaced hst hp)), fun hd => ?failed⟩
  case admitted =>
    have hcore := keepsCore_count (admJoined u n slot cq b beat) 1406 1
    have hdisp := (disp_of_keepsCore hcore).trans (disp_admJoined u n slot cq b beat)
    have hu : u.disp = { s.disp with rr := n + 1 } := disp_slotFetched
    have hregs : keepsRegs (slotFetched s n) (admitDesc u n slot cq b beat) (aFabRtCtl :: eventRegs) :=
      keepsRegs_join (keepsRegs_mono (keepsRegs_admJoined u n slot cq b beat) (by simp))
        (keepsRegs_cons_of_eventRegs (keepsRegs_count _ _ _) _)
    refine ⟨admitDesc u n slot cq b beat, hread.trans (congrArg _ (take_placed hst hp hsel)), ?_, ?_, ?_, ?_, ?_⟩
    · rw [fld_of_keepsRegs hregs (List.not_mem_cons_of_ne_of_not_mem (by unfold aHstSqPtr aFabRtCtl; omega) hptr)]
      exact fetch_slotFetched hsize
    · rw [admitDesc_eq, hdisp, newAdm, hu]
    · rw [admitDesc_eq, hdisp]
      exact smGet_set_self _ _ _ _
    · rw [admitDesc_eq, hdisp, hu]
    · exact keepsBesideDisp_trans keepsBesideDisp_slotFetched
        (keepsBesideDisp_trans (keepsBesideDisp_admJoined u n slot cq b beat) (keepsBesideDisp_of_keepsCore hcore))
  case failed =>
    obtain ⟨r, hrcore, hrregs, hexec⟩ := descriptorFetch_fails hnext hopen d hd
    have hkeep := keepsRegs_reject (raise r .hstQ 4 0) n slot cq sFetchErr 0 false
    refine ⟨_, hexec, ?_, ?_, ?_⟩
    · rw [hkeep aHstQErr (List.not_mem_cons_of_ne_of_not_mem (by unfold aHstQErr aHstCqPtr; omega) (by decide))]
      exact bit_raise r .hstQ 0 (by decide)
    · rw [disp_of_keepsCore (keepsCore_reject _ _ _ _ _ _ _), disp_of_keepsCore (keepsCore_raise _ _ _ _),
        disp_of_keepsCore hrcore, disp_slotFetched]
    · rw [fld_of_keepsRegs hkeep (List.not_mem_cons_of_ne_of_not_mem (by unfold aHstSqPtr aHstCqPtr; omega) hptr),
        fld_of_keepsRegs (keepsRegs_raise r .hstQ 4 0) (notMem_errRegs_hstQ (by unfold aHstSqPtr; omega)),
        fld_of_keepsRegs hrregs hptr]
      exact fetch_slotFetched hsize

end Sys2Proof.Machine

/-! Job start (R239, R240): START on the town-clock chip and elsewhere, and the tick that is due. -/

namespace Sys2Proof.Machine

section
variable {s : State}

/-- START with nothing in its way sets the first tick 100 us ahead (R239). -/
theorem doStart_starts (hroot : isRoot s = true) (hjob : jobNear s = false) (hstop : stopRuns s = false)
    (hfit : unfit s = false) (hmatch : matched s = true) :
    doStart s = { s with disp := { s.disp with startAt := some (s.now + 100000), nextTick := 0 } } := by
  simp only [doStart, hroot, hjob, hstop, hfit, hmatch, Bool.not_true, Bool.or_self, Bool.false_eq_true, if_false]
  rfl

theorem doStart_elsewhere (hroot : isRoot s = false) : doStart s = raise s .clk 0 0 := by
  simp only [doStart, hroot, Bool.not_false, if_true]

/-- The tick that is due goes to the children, and beside them only the clock and its ticks change (R239, R240). -/
theorem doTickSend_sends {t : Nat} (hdue : s.disp.startAt = some t) (hjob : (pastStop s s.disp.nextTick && inJob s) = false) :
    ∃ f, doTickSend s = { s with now := max s.now t, fab := f, disp := { s.disp with
      startAt := some (t + beatLen s), nextTick := s.disp.nextTick + 1,
      ticks := s.disp.ticks ++ [(s.disp.nextTick, t + alignNs s)] } } := by
  simp only [doTickSend, hdue, hjob, Bool.false_eq_true, if_false]
  rw [forwardTick_eq]
  exact ⟨_, rfl⟩

end

/-- Settles O34: START where it is taken and where it is flagged, and the tick that is due. -/
theorem jobsStart : Obligations.JobsStart := by
  intro s t
  refine ⟨fun hroot hjob hstop hfit hmatch => congrArg Host.Outcome.next (doStart_starts hroot hjob hstop hfit hmatch),
    fun hroot => ?elsewhere, fun hdue hjob => ?tick⟩
  case elsewhere =>
    have hcore := keepsCore_raise s .clk 0 0
    exact ⟨_, congrArg Host.Outcome.next (doStart_elsewhere hroot), bit_raise s .clk 0 (by decide),
      disp_of_keepsCore hcore, hcore⟩
  case tick =>
    obtain ⟨f, hsent⟩ := doTickSend_sends hdue hjob
    exact ⟨_, congrArg Host.Outcome.next hsent, rfl, rfl, rfl, fun _ => rfl⟩

end Sys2Proof.Machine

/-! Control packets (R275, R294, R295): the port that acts on them, and what STOP, ECHO and ECHO_REPLY do there. -/

namespace Sys2Proof.Machine

/-! ### A control packet on its port (R275) -/

section
variable (s : State) {k : Pkt} {typ : Nat} (act : State → State)

/-- A packet of its type on a port that acts on it is taken, and acts. -/
theorem ctrlIn_acts (hc : k.cls = 2) (ht : k.typ = typ) (hpsn : k.words.any (·.psn) = false) :
    ctrlIn s k typ true act = act (takePkt s k) := by
  simp [ctrlIn, hc, ht, hpsn]

/-- On a port that does not act on it, it is discarded. -/
theorem ctrlIn_discards (hc : k.cls = 2) (ht : k.typ = typ) : ctrlIn s k typ false act = takePkt s k := by
  simp [ctrlIn, hc, ht]

end

/-! ### Echoes (R240, R294) -/

section
variable {s : State} {k : Pkt}

theorem echoes_freeBuf (x : QPkt) : (freeBuf s x).fab.echoes = s.fab.echoes := by
  unfold freeBuf addRet; split_ifs <;> rfl

theorem echoes_takePkt : (takePkt s k).fab.echoes = s.fab.echoes := by
  unfold takePkt
  split
  · rfl
  · exact echoes_freeBuf _

/-- An echo of this chip is over. -/
def echoOver (t : State) (e : Nat × Nat × Nat) : State := modFab t fun f => { f with echoes := f.echoes.erase e }

/-- The echo is over, and DLY_NS is d: a boundary that waits for tick 0 moves with it. -/
def echoAnswered (t : State) (e : Nat × Nat × Nat) (d : Nat) : State :=
  moveBoundary (setFld (echoOver t e) aClkAlign 63 32 d) (fld t aClkAlign 63 32) d

theorem doEchoReply_answers {p rtt dly : Nat} {e : Nat × Nat × Nat} (hc : k.cls = 2) (ht : k.typ = 5)
    (hpsn : k.words.any (·.psn) = false) (hon : streetOn s p = true)
    (he : (s.fab.echoes.find? fun x => x.1 == p && x.2.1 == (pword k 1).toNat) = some e) :
    doEchoReply s p k rtt dly = echoAnswered (takePkt s k) e (dly + (rtt - (pword k 2).toNat) / 8) := by
  rw [doEchoReply, hon, ctrlIn_acts s _ hc ht hpsn, echoes_takePkt, he]
  rfl

theorem echoAnswered_shows (t : State) (e : Nat × Nat × Nat) (d : Nat) :
    fld (echoAnswered t e d) aClkAlign 63 32 = d % 2 ^ 32 ∧ (echoAnswered t e d).fab.echoes = t.fab.echoes.erase e ∧
    keepsRegs t (echoAnswered t e d) [aClkAlign] ∧ echoAnswered t e d = { t with
      regs := (echoAnswered t e d).regs, fab := (echoAnswered t e d).fab, disp := (echoAnswered t e d).disp } := by
  have hover : keepsRegs t (echoOver t e) [aClkAlign] := keepsRegs_of_regs rfl _
  have hfld := fld_setFld_self (echoOver t e) aClkAlign 63 32 d (by decide) (by decide)
  have hset := setFld_eq (echoOver t e) aClkAlign 63 32 d
  have hregs : keepsRegs _ (setFld (echoOver t e) aClkAlign 63 32 d) [aClkAlign] := keepsRegs_setReg _ _ _
  unfold echoAnswered
  generalize setFld (echoOver t e) aClkAlign 63 32 d = u at *
  refine ⟨hfld, ?_, keepsRegs_join hover hregs, ?_⟩
  · show u.fab.echoes = _
    rw [hset]
    rfl
  · rw [moveBoundary, modDisp, hset]
    rfl

end

/-- Settles O50: each control packet where its port acts on it, and where it does not. -/
theorem controlPacketsTake : Obligations.ControlPacketsTake := by
  intro s p k turn rtt dly hwf hc hpsn
  refine ⟨fun ht hon => ?stop, fun ht hon => ?echo, fun e ht hon he => ?reply, fun ht hoff => ?noStop, fun ht hoff => ?noEcho,
    fun ht hoff => ?noReply⟩
  case stop =>
    refine (onPkt_next hwf _).trans (congrArg Host.Outcome.next ?_)
    rw [doStopCell, hon, ctrlIn_acts s _ hc ht hpsn]
  case echo =>
    refine (onPkt_next hwf _).trans (congrArg Host.Outcome.next ?_)
    rw [doEcho, hon, ctrlIn_acts s _ hc ht hpsn]
  case reply =>
    obtain ⟨hdly, hechoes, hregs, hframe⟩ := echoAnswered_shows (takePkt s k) e (dly + (rtt - (pword k 2).toNat) / 8)
    refine ⟨_, (onPkt_next hwf _).trans (congrArg Host.Outcome.next (doEchoReply_answers hc ht hpsn hon he)), hdly, ?_, ?_, ?_⟩
    · rw [hechoes, echoes_takePkt]
    · exact keepsRegs_join (keepsRegs_of_regs (by rw [takePkt_eq]) _) hregs
    · rw [hframe, takePkt_eq]
  case noStop =>
    refine (onPkt_next hwf _).trans (congrArg Host.Outcome.next ?_)
    rw [doStopCell, hoff, ctrlIn_discards s _ hc ht]
  case noEcho =>
    refine (onPkt_next hwf _).trans (congrArg Host.Outcome.next ?_)
    rw [doEcho, hoff, ctrlIn_discards s _ hc ht]
  case noReply =>
    refine (onPkt_next hwf _).trans (congrArg Host.Outcome.next ?_)
    rw [doEchoReply, hoff, ctrlIn_discards s _ hc ht]

end Sys2Proof.Machine

/-! The cut (R184, R250, R331): what it leaves of the dispatcher, whose descriptors it may end, and that no instruction starts
after it. -/

namespace Sys2Proof.Machine

/-! ### Stores leave the dispatcher as it is -/

section
variable (s : State)

theorem disp_of_keepsCache {s t : State} (h : keepsCache s t) : t.disp = s.disp := by rw [h.1]

theorem disp_foldl {β : Type} {g : State → β → State} (hg : ∀ t x, (g t x).disp = t.disp) (l : List β) :
    (l.foldl g s).disp = s.disp :=
  foldl_keep (P := fun t : State => t.disp = s.disp) l (fun t x h => (hg t x).trans h) rfl

theorem disp_noteDropped (a n : Nat) : (noteDropped s a n).disp = s.disp := by
  obtain ⟨r, hr⟩ := noteDropped_regs s a n
  rw [hr]

theorem disp_poisonPart (w : Nat) : (poisonPart s w).disp = s.disp := by rw [poisonPart_eq]

theorem disp_poisonWord (w : Nat) : (poisonWord s w).disp = s.disp := (disp_poisonPart _ _).trans (disp_noteDropped _ _ _)

theorem disp_poisonRange (a n : Nat) : (poisonRange s a n).disp = s.disp := by
  unfold poisonRange
  split
  · rfl
  · exact (disp_foldl _ (fun t _ => disp_poisonPart t _) _).trans (disp_noteDropped _ _ _)

theorem disp_writeNat (a n v : Nat) : (writeNat s a n v).disp = s.disp := by
  rw [writeNat, writeBytes, writeLoop_eq]
  exact disp_noteDropped _ _ _

theorem disp_sqAdd (n amt : Nat) : (sqAdd s n amt).disp = s.disp := by rw [sqAdd_eq]

end

/-! ### Descriptors that end -/

/-- Of the dispatcher, descriptors may end and give a reason to stop the job; where none is admitted it stays as it is. -/
def endsAdms (s t : State) : Prop :=
  t.disp = { s.disp with adms := t.disp.adms, endStop := t.disp.endStop } ∧ (s.disp.adms = [] → t.disp = s.disp)

theorem endsAdms_of_disp {s t : State} (h : t.disp = s.disp) : endsAdms s t := ⟨by rw [h], fun _ => h⟩

theorem endsAdms_trans {s t u : State} (h : endsAdms s t) (h' : endsAdms t u) : endsAdms s u := by
  refine ⟨?_, fun hs => ?_⟩
  · rw [h'.1, h.1]
  · have ht := h.2 hs
    rw [h'.2 (by rw [ht]; exact hs), ht]

theorem endsAdms_ite {s t u : State} {c : Prop} [Decidable c] (h : endsAdms s t) (h' : endsAdms s u) :
    endsAdms s (if c then t else u) := by split <;> assumption

theorem endsAdms_foldl {β : Type} {g : State → β → State} (hg : ∀ t x, endsAdms t (g t x)) (l : List β) (s : State) :
    endsAdms s (l.foldl g s) :=
  foldl_keep (P := endsAdms s) l (fun t x h => endsAdms_trans h (hg t x)) (endsAdms_of_disp rfl)

/-- Only a descriptor that is admitted gives a reason to stop (R251). -/
theorem endsAdms_noteOverrun (s : State) (id code : Nat) : endsAdms s (noteOverrun s id code) := by
  unfold noteOverrun
  split
  · next h =>
    obtain ⟨-, -, -, hadm⟩ := h
    refine ⟨rfl, fun hs => ?_⟩
    rw [admOf, hs] at hadm
    exact absurd hadm Bool.false_ne_true
  · exact endsAdms_of_disp rfl

theorem endsAdms_admEnd (s : State) (id code detail : Nat) : endsAdms s (admEnd s id code detail) := by
  refine endsAdms_trans (endsAdms_noteOverrun s id code) ⟨rfl, fun hs => ?_⟩
  unfold admEnd modAdm
  dsimp only
  rw [hs, List.map_nil, ← hs]

/-! ### The parts of a cut (R184, R250, R331) -/

section
variable (s : State)

theorem disp_cutBank (q : Nat) (o : Op) : (cutBank q s o).disp = s.disp := by
  unfold cutBank setBank
  split_ifs <;> rfl

theorem disp_cutRecs (o : Op) : (cutRecs s o).disp = s.disp := by
  unfold cutRecs
  split
  · rfl
  · exact disp_foldl _ (fun t _ => disp_poisonWord t _) _

theorem disp_cutDst (o : Op) : (cutDst s o).disp = s.disp := by
  unfold cutDst
  split
  · rfl
  · exact disp_foldl { s with free := s.free + 1 } (fun t _ => disp_poisonWord t _) _

theorem disp_cutQuarter (q : Nat) : (cutQuarter s q).disp = s.disp := by
  have hops : ∀ ops : List Op, (ops.foldl cutRecs (ops.foldl cutDst (ops.foldl (cutBank q) s))).disp = s.disp := fun ops =>
    (disp_foldl _ disp_cutRecs ops).trans ((disp_foldl _ disp_cutDst ops).trans (disp_foldl _ (fun t o => disp_cutBank t q o) ops))
  unfold cutQuarter
  dsimp only
  split
  · exact hops _
  · exact hops _

theorem disp_cutReqs : (cutReqs s).disp = s.disp := disp_foldl s (fun t _ => disp_poisonRange t _ _) _

/-- The cut of a submission (R331). -/
def cutSub (t : State) (u : Sub) : State :=
  modQuarter (poisonRange t (lsBase u.q + pbDst u.blk) (pbN u.blk * 2 * pbRows t (prjSelSlot t) u.blk)) u.q fun y =>
    { y with ops := y.ops.map fun o => if o.id = u.op then { o with fin := true, dead := true, busy := [] } else o }

theorem prjCut_eq : prjCut s = prjCounts (modPrj (s.prj.subs.foldl cutSub s) fun p => { p with subs := [] }) := rfl

theorem disp_prjCut : (prjCut s).disp = s.disp := by
  rw [prjCut_eq, prjCounts, setFld_disp, setFld_disp]
  exact disp_foldl s (g := cutSub) (fun t _ => disp_poisonRange t _ _) s.prj.subs

theorem endsAdms_cutCopies : endsAdms s (cutCopies s) := endsAdms_foldl (fun t _ => endsAdms_admEnd t _ _ _) _ _

theorem disp_spoilGroups (k : Nat) : (spoilGroups s k).disp = s.disp :=
  disp_foldl s (fun t _ => (disp_of_keepsCache (keepsCache_dropLines _ _ _)).trans (disp_poisonWord t _)) _

theorem disp_updNext : (updNext s).disp = s.disp := by
  unfold updNext
  split <;> rfl

section
variable (c : UpdCur) (read : Bool)

/-- The address of an UPDATE's plan. -/
def updPlan : Nat :=
  match admOf s c.id with
  | some a => planAddr a
  | none => 0

/-- The result words of an UPDATE, written where its plan was read (R182). -/
def updResults : State :=
  if read then c.ks.foldl (fun t k => touch (writeNat t (updPlan s c + 48 + 24 * k) 8 (resultWord s c k)) clUpd
    (updPlan s c + 48 + 24 * k) 8 true) s else s

/-- Its square is signalled after its results. -/
def updSignalled : State :=
  if read && !wordPsn s (updPlan s c + 16) then sqAdd (updResults s c read) (plDoneSq c.plan) 1 else updResults s c read

theorem disp_updResults : (updResults s c read).disp = s.disp := by
  unfold updResults
  split
  · exact disp_foldl s (fun t _ => (disp_of_keepsCache (keepsCache_touch _ _ _ _ _)).trans (disp_writeNat t _ _ _)) c.ks
  · rfl

theorem disp_updSignalled : (updSignalled s c read).disp = s.disp := by
  unfold updSignalled
  split
  · exact (disp_sqAdd _ _ _).trans (disp_updResults s c read)
  · exact disp_updResults s c read

/-- The end of an UPDATE in hand: results, signal, completion, counts, and the next one's turn (R182). -/
theorem updEnd_of_cur {s : State} {c : UpdCur} (hc : s.upd.cur = some c) : ∃ (code detail : Nat) (f : Nat → Nat),
    updEnd s read = updNext (modUpd (c.ks.foldl (fun t k => count t (f k) 1) (admEnd (updSignalled s c read) c.id code detail))
      fun u => { u with cur := none, chips := [] }) := by
  simp only [updEnd, hc]
  split
  · exact ⟨_, _, _, rfl⟩
  · exact ⟨_, _, _, rfl⟩

end

theorem endsAdms_updEnd (read : Bool) : endsAdms s (updEnd s read) := by
  cases hc : s.upd.cur with
  | none =>
    simp only [updEnd, hc]
    exact endsAdms_of_disp rfl
  | some c =>
    obtain ⟨code, detail, f, hend⟩ := updEnd_of_cur read hc
    rw [hend]
    refine endsAdms_trans (endsAdms_trans (endsAdms_of_disp (disp_updSignalled s c read)) (endsAdms_admEnd _ c.id code detail))
      (endsAdms_of_disp ((disp_updNext _).trans ?_))
    exact disp_foldl _ (fun t k => disp_of_keepsCore (keepsCore_count t (f k) 1)) c.ks

theorem endsAdms_cutCur : endsAdms s (cutCur s) := by
  unfold cutCur
  split
  · exact endsAdms_of_disp rfl
  · next c _ =>
    have hspoil : (if c.phase = 3 then c.ks.foldl spoilGroups s else s).disp = s.disp := by
      split
      · exact disp_foldl s disp_spoilGroups _
      · rfl
    exact endsAdms_ite (endsAdms_updEnd s true) (endsAdms_trans (endsAdms_of_disp hspoil) (endsAdms_updEnd _ _))

theorem endsAdms_cutUpdate : endsAdms s (cutUpdate s) :=
  endsAdms_trans (endsAdms_foldl (fun t id => endsAdms_admEnd t id _ _) s.upd.queue s) (endsAdms_cutCur _)

end

/-! ### The cut (R250) -/

section
variable (s : State)

/-- The cut has begun. -/
def cutBegun (s : State) : State := modDisp s fun d => { d with cut := true }

/-- The cut comes to every quarter. -/
def cutQuarters (s : State) : State := (List.range 96).foldl cutQuarter s

theorem disp_cutQuarters : (cutQuarters s).disp = s.disp := disp_foldl s disp_cutQuarter _

theorem cut_of_running (h : s.disp.cut = false) : cut s =
    cutUpdate (prjCut (cutCopies (cutCircuits (cutReqs (cutPkts (cutQuarters (cutBegun s))))))) :=
  if_neg (by rw [h]; exact Bool.false_ne_true)

theorem cut_of_cut (h : s.disp.cut = true) : cut s = s := if_pos h

theorem endsAdms_cut : endsAdms (cutBegun s) (cut s) := by
  cases h : s.disp.cut with
  | true =>
    rw [cut_of_cut s h]
    refine endsAdms_of_disp ?_
    rw [cutBegun, modDisp, ← h]
  | false =>
    rw [cut_of_running s h]
    have hquarters : endsAdms (cutBegun s) (cutQuarters (cutBegun s)) := endsAdms_of_disp (disp_cutQuarters _)
    have hfabric : ∀ t, endsAdms t (cutCircuits (cutReqs (cutPkts t))) := fun t => endsAdms_of_disp (disp_cutReqs (cutPkts t))
    have hcopies := endsAdms_trans (endsAdms_trans hquarters (hfabric _)) (endsAdms_cutCopies _)
    exact endsAdms_trans (endsAdms_trans hcopies (endsAdms_of_disp (disp_prjCut _))) (endsAdms_cutUpdate _)

theorem cut_cut : (cut s).disp.cut = true := by rw [(endsAdms_cut s).1]; rfl

/-- The start of JOB_STOP is told to the host, to the quarters and to the partners (R295, R391, R392). -/
def stopTold (reason origin beat : Nat) : State :=
  let s1 := modDisp (setReg s aMgtStopStatus (BitVec.ofNat 64 (stopWord s origin reason beat))) fun d =>
    { d with ticks := [], startAt := none, endStop := none }
  let s2 := fireEvent (count s1 1416 1) 9
  sendStops ((quartersIn s2).foldl (fun t q => ccIrq t q 4) s2) origin reason beat

theorem startStop_eq (reason origin beat : Nat) : startStop s reason origin beat =
    if (isStopped s || !jobNear s) = true then s else cut (stopTold s reason origin beat) := rfl

theorem cut_startStop (reason origin beat : Nat) (h : s.disp.cut = true) : (startStop s reason origin beat).disp.cut = true := by
  rw [startStop_eq]
  split
  · exact h
  · exact cut_cut _

theorem cut_doCut : (doCut s).disp.cut = true := by
  unfold doCut
  split
  · assumption
  · split
    · exact cut_startStop _ _ _ _ (cut_cut s)
    · exact cut_cut s

/-- After the cut no quarter starts an instruction (R250). -/
theorem mayStart_of_cut {s : State} (h : s.disp.cut = true) (q : Nat) : mayStart s q = false := by
  rw [mayStart, h, Bool.not_true, Bool.and_false]

end

end Sys2Proof.Machine

/-! Beat boundaries (R242, R248): a beat with nothing left open ends, and the next one opens. -/

namespace Sys2Proof.Machine

/-! ### The end of a beat with nothing open -/

/-- No descriptor is admitted, and nothing asks for JOB_STOP at the end of the beat. -/
def noneOpen (s : State) : Prop := s.disp.adms = [] ∧ s.disp.endStop = none

theorem noneOpen_of_disp {s t : State} (h : t.disp = s.disp) (hs : noneOpen s) : noneOpen t := by
  unfold noneOpen
  rw [h]
  exact hs

section
variable {s : State}

theorem noneOpen_cut (hs : noneOpen s) : noneOpen (cut s) :=
  noneOpen_of_disp (s := cutBegun s) ((endsAdms_cut s).2 hs.1) hs

/-- A batch of no completions leaves what is not open. -/
theorem noneOpen_completeAll_nil (hs : noneOpen s) : noneOpen (completeAll s []) := by
  obtain ⟨hadms, hend⟩ := hs
  refine noneOpen_of_disp (s := modDisp s fun d => { d with adms := d.adms.filter fun a => !([] : List Nat).contains a.id })
    (disp_of_keepsCore (keepsCore_raiseBatch _ _)) ⟨?_, hend⟩
  show s.disp.adms.filter _ = []
  rw [hadms, List.filter_nil]

theorem disp_dropFrames (p : Nat) (s : State) (l : Nat) : (dropFrames p s l).disp = s.disp := by
  have hraised : (if linkUp s p l then raiseO s 11 p l 0 else s).disp = s.disp := by
    split
    · exact disp_of_keepsCore (keepsCore_raise _ _ _ _)
    · rfl
  have hcounted : ∀ (t : State) (n : Nat), (if n = 0 then t else count t 1403 n).disp = t.disp := fun t n => by
    split
    · rfl
    · exact disp_of_keepsCore (keepsCore_count _ _ _)
  exact (hcounted _ _).trans hraised

theorem disp_dropQueue (s : State) (k : Nat) : (dropQueue s k).disp = s.disp := by
  unfold dropQueue modFab
  dsimp only
  split
  · rfl
  · exact disp_of_keepsCore (keepsCore_count _ _ _)

/-- Avenue cells that are dropped at a boundary are none of the dispatcher's (R318). -/
theorem disp_avenueDrop (s : State) : (avenueDrop s).disp = s.disp := by
  have hframes := disp_foldl s (fun t p => disp_foldl t (disp_dropFrames p) (List.range 8)) (avPorts s)
  unfold avenueDrop modFab
  dsimp only
  split
  · exact hframes
  · exact (disp_foldl _ disp_dropQueue _).trans hframes

theorem disp_beatPower (s : State) : (beatPower s).disp = s.disp := by
  simp only [beatPower, modMgt]
  split
  · simp only [setFld_disp]
  · simp only [setFld_disp]

theorem disp_dropLaunches (s : State) : (dropLaunches s).disp = s.disp := by rw [dropLaunches]

theorem noneOpen_endBeat (hs : noneOpen s) (hcur : s.upd.cur = none) : noneOpen (endBeat s) := by
  have hlost : (!s.disp.cut && (s.upd.cur.map (·.ue)).getD false) = false := by rw [hcur]; exact Bool.and_false _
  have hcut := noneOpen_cut hs
  simp only [endBeat, hlost, hcut.1, Bool.false_eq_true, if_false, List.foldl_nil, List.filter_nil]
  have hdone : noneOpen (dropLaunches (completeAll (cut s) [])) :=
    noneOpen_of_disp (disp_dropLaunches _) (noneOpen_completeAll_nil hcut)
  generalize dropLaunches (completeAll (cut s) []) = t at *
  refine noneOpen_of_disp (disp_beatPower _) ?_
  split
  · exact noneOpen_of_disp (disp_avenueDrop t) hdone
  · exact hdone

theorem noneOpen_leaveJob (hs : noneOpen s) : noneOpen (leaveJob s) := by
  have hdone := noneOpen_completeAll_nil hs
  simp only [leaveJob, hs.1, List.foldl_nil, List.filter_nil]
  split
  · simp only [noneOpen, modFab, modDisp, setFld_disp]
    exact hdone
  · exact hs

/-! ### A job that starts with the beat (R242) -/

theorem disp_setFwQuota (s : State) (on : Nat) : (setFwQuota s on).disp = s.disp :=
  disp_foldl s (fun t k => by simp only [setFld_disp]) _

/-- What a job brings in with its first beat, beside the dispatcher's part. -/
def jobQuarters (s : State) : State :=
  let s1 := setFwQuota (setFld s aClkBeatCtl 29 29 1) 0
  (quartersIn s1).foldl (fun t q => setFld t (aQtrCtl q) 0 0 1) s1

theorem disp_jobQuarters (s : State) : (jobQuarters s).disp = s.disp := by
  have hset : ∀ t q, (setFld t (aQtrCtl q) 0 0 1).disp = t.disp := fun t q => setFld_disp ..
  exact (disp_foldl _ hset _).trans ((disp_setFwQuota _ _).trans (setFld_disp ..))

theorem enterJob_eq (s : State) : enterJob s = modDisp (jobQuarters s) fun d => { d with
    seed := some (reg (jobQuarters s) aMgtRngSeed), lastBeat := [], stopBeat := none, miss := 0,
    adms := d.adms.map fun a => { a with beat := 0 } } := rfl

theorem noneOpen_enterJob (hs : noneOpen s) : noneOpen (enterJob s) := by
  obtain ⟨hadms, hend⟩ := noneOpen_of_disp (disp_jobQuarters s) hs
  rw [enterJob_eq]
  exact ⟨by simp only [modDisp, hadms, List.map_nil], hend⟩

end

/-! ### The beat that opens -/

/-- The dispatcher and the running beat's number stay as they are. -/
def keepsBeat (s t : State) : Prop := t.disp = s.disp ∧ reg t aClkBeatNum = reg s aClkBeatNum

theorem keepsBeat_refl (s : State) : keepsBeat s s := ⟨rfl, rfl⟩

theorem keepsBeat_trans {s t u : State} (h : keepsBeat s t) (h' : keepsBeat t u) : keepsBeat s u :=
  ⟨h'.1.trans h.1, h'.2.trans h.2⟩

theorem keepsBeat_ite {s t u : State} {c : Prop} [Decidable c] (h : keepsBeat s t) (h' : keepsBeat s u) :
    keepsBeat s (if c then t else u) := by split <;> assumption

theorem keepsBeat_foldl {β : Type} {g : State → β → State} (hg : ∀ t x, keepsBeat t (g t x)) (l : List β) (s : State) :
    keepsBeat s (l.foldl g s) :=
  foldl_keep (P := keepsBeat s) l (fun t x h => keepsBeat_trans h (hg t x)) (keepsBeat_refl s)

section
variable (s : State)

theorem keepsBeat_setReg {o : Nat} (v : W64) (h : aClkBeatNum ≠ o) : keepsBeat s (setReg s o v) := ⟨rfl, reg_setReg_ne _ _ h⟩

theorem keepsBeat_setFld {o : Nat} (hi lo v : Nat) (h : aClkBeatNum ≠ o) : keepsBeat s (setFld s o hi lo v) :=
  keepsBeat_setReg s _ h

theorem keepsBeat_modFab (f : Fab → Fab) : keepsBeat s (modFab s f) := ⟨rfl, rfl⟩

theorem keepsBeat_modOpt (f : Opt → Opt) : keepsBeat s (modOpt s f) := ⟨rfl, rfl⟩

theorem keepsBeat_modStk (f : Stk → Stk) : keepsBeat s (modStk s f) := ⟨rfl, rfl⟩

theorem keepsBeat_modPrj (f : Prj → Prj) : keepsBeat s (modPrj s f) := ⟨rfl, rfl⟩

theorem keepsBeat_raiseP (b slot a : Nat) : keepsBeat s (raiseP s b slot a) :=
  ⟨disp_of_keepsCore (keepsCore_raise _ _ _ _), keepsRegs_raise s .prj b _ _ (by decide)⟩

/-- The epoch that a FLIP left behind closes (R278). -/
theorem keepsBeat_closeOld : keepsBeat s (closeOld s) :=
  keepsBeat_trans (keepsBeat_ite (keepsBeat_setFld s _ _ _ (by decide)) (keepsBeat_refl s)) (keepsBeat_modFab _ _)

theorem keepsBeat_prjNote : keepsBeat s (prjNote s) := by
  have herr : ∀ (t : State) (c : Bool) (b : Nat), keepsBeat t (if c then raiseP t b (prjSelSlot s) 0 else t) := fun t c b =>
    keepsBeat_ite (keepsBeat_raiseP _ _ _ _) (keepsBeat_refl t)
  unfold prjNote
  dsimp only
  exact keepsBeat_ite (keepsBeat_refl s)
    (keepsBeat_trans (keepsBeat_trans (keepsBeat_trans (keepsBeat_modPrj s _) (herr _ _ 1)) (herr _ _ 2)) (herr _ _ 3))

theorem keepsBeat_prjEnqueue : keepsBeat s (prjEnqueue s) := keepsBeat_ite (keepsBeat_modPrj s _) (keepsBeat_refl s)

theorem keepsBeat_prjCounts : keepsBeat s (prjCounts s) :=
  keepsBeat_trans (keepsBeat_setFld s _ _ _ (by decide)) (keepsBeat_setFld _ _ _ _ (by decide))

theorem keepsBeat_prjServe : keepsBeat s (prjServe s) := by
  have hfill : keepsBeat s (prjFill4 (prjEnqueue s)) := keepsBeat_trans (keepsBeat_prjEnqueue s) (keepsBeat_modPrj _ _)
  rw [prjServe_eq]
  exact keepsBeat_trans (keepsBeat_trans (keepsBeat_trans hfill (keepsBeat_prjEnqueue _)) (keepsBeat_prjCounts _))
    (keepsBeat_prjNote _)

theorem keepsBeat_prjBeat : keepsBeat s (prjBeat s) :=
  keepsBeat_ite (keepsBeat_setFld s _ _ _ (by decide))
    (keepsBeat_ite (keepsBeat_trans (keepsBeat_setFld s _ _ _ (by decide)) (keepsBeat_prjServe _)) (keepsBeat_refl s))

/-! The roll call (R314) and the maintenance window (R210) that a beat opens with. -/

theorem keepsBeat_setLane (p l : Nat) (x : Lane) : keepsBeat s (setLane s p l x) := keepsBeat_modFab _ _

theorem keepsBeat_withOpt (o : Opt) : keepsBeat s { s with opt := o } := ⟨rfl, rfl⟩

theorem keepsBeat_bindLane (p l k st : Nat) : keepsBeat s (bindLane s p l k st) := by
  unfold bindLane
  dsimp only
  exact keepsBeat_trans (keepsBeat_trans (keepsBeat_setReg s _ (by unfold aClkBeatNum aOptLanel; omega))
    (keepsBeat_setLane _ _ _ _)) (keepsBeat_withOpt _ _)

/-- The registers of a lane that is unbound (R316). -/
def laneCleared (s : State) (p l : Nat) : State :=
  setFld (setFld (setFld s (aOptLanel p l) 63 56 0) (aOptLanel p l) 31 28 0) (aFabPort p) (16 + l) (16 + l) 0

theorem keepsBeat_laneCleared (p l : Nat) : keepsBeat s (laneCleared s p l) := by
  have hlane : aClkBeatNum ≠ aOptLanel p l := by unfold aClkBeatNum aOptLanel; omega
  have hport : aClkBeatNum ≠ aFabPort p := by unfold aClkBeatNum aFabPort; omega
  exact keepsBeat_trans (keepsBeat_trans (keepsBeat_setFld s _ _ _ hlane) (keepsBeat_setFld _ _ _ _ hlane))
    (keepsBeat_setFld _ _ _ _ hport)

theorem unbindPort_eq (p : Nat) : unbindPort s p = (List.range 8).foldl (fun t l => { setLane (laneCleared t p l) p l lane0 with
    opt := { (laneCleared t p l).opt with bound := smSet 0 (laneCleared t p l).opt.bound (lkey (p - 24) l) 0 } }) s := rfl

theorem keepsBeat_unbindPort (p : Nat) : keepsBeat s (unbindPort s p) := by
  rw [unbindPort_eq]
  exact keepsBeat_foldl (fun t l => keepsBeat_trans (keepsBeat_trans (keepsBeat_laneCleared t p l) (keepsBeat_setLane _ p l lane0))
    (keepsBeat_withOpt _ _)) _ _

theorem keepsBeat_bindSet (p : Nat) (b : Bool) : keepsBeat s (bindSet s p b) :=
  keepsBeat_trans (keepsBeat_unbindPort s p) (keepsBeat_foldl (fun t _ => keepsBeat_bindLane t p _ _ _) _ _)

theorem keepsBeat_sendBlocks (p : Nat) : keepsBeat s (sendBlocks s p) := keepsBeat_modOpt _ _

theorem keepsBeat_rollSet (b : Bool) : keepsBeat s (rollSet s b) :=
  keepsBeat_foldl (fun t p => keepsBeat_trans (keepsBeat_bindSet t p b) (keepsBeat_sendBlocks _ p)) _ _

theorem keepsBeat_rollCall : keepsBeat s (rollCall s) := by
  unfold rollCall
  dsimp only
  exact keepsBeat_ite (keepsBeat_modOpt s _)
    (keepsBeat_trans (keepsBeat_trans (keepsBeat_modOpt s _) (keepsBeat_rollSet _ _)) (keepsBeat_modOpt _ _))

theorem keepsBeat_windowOn (k : Nat) : keepsBeat s (windowOn s k) :=
  keepsBeat_trans (keepsBeat_setFld s _ _ _ (by unfold aClkBeatNum aMemStatus; omega)) (keepsBeat_modStk _ _)

theorem keepsBeat_nextWindow : keepsBeat s (nextWindow s) := by
  unfold nextWindow
  split
  · exact keepsBeat_refl s
  · split
    · exact keepsBeat_trans (keepsBeat_modStk s _) (keepsBeat_windowOn _ _)
    · exact keepsBeat_refl s

theorem keepsBeat_openWindow : keepsBeat s (openWindow s) := by
  unfold openWindow
  dsimp only
  exact keepsBeat_ite (keepsBeat_refl s) (keepsBeat_trans (keepsBeat_trans (keepsBeat_ite (keepsBeat_refl s)
    (keepsBeat_setFld s _ _ _ (by decide))) (keepsBeat_modStk _ _)) (keepsBeat_nextWindow _))

end

section
variable (s : State) (n t dr : Nat)

/-- The beat's number stands, and the counters of its core are chosen (R242, R403). -/
def beatNumbered : State :=
  { setReg s aClkBeatNum (BitVec.ofNat 64 n) with
    mgt := { s.mgt with coreSel := fld (setReg s aClkBeatNum (BitVec.ofNat 64 n)) aMgtPmcCtl 4 2 } }

/-- The beat is counted. -/
def beatCounted : State := count (beatNumbered s n) 1413 1

/-- The beat has begun, before what waits for its boundary comes. -/
def beatBegun : State :=
  modDisp (beatCounted s n) fun d => { d with
    beatStart := t, cut := false, dRun := dr,
    adms := d.adms.map fun a => if a.beat = n ∧ !a.started then { a with t0 := t } else a }

theorem disp_beatCounted : (beatCounted s n).disp = s.disp :=
  (disp_of_keepsCore (keepsCore_count (beatNumbered s n) 1413 1)).trans rfl

theorem reg_beatCounted : reg (beatCounted s n) aClkBeatNum = BitVec.ofNat 64 n :=
  (keepsRegs_count (beatNumbered s n) 1413 1 _ (by decide)).trans (reg_setReg_self s aClkBeatNum _)

/-- What waits for the boundary leaves the beat as it has begun. -/
theorem keepsBeat_openBeat : keepsBeat (beatBegun s n t dr) (openBeat s n t dr) := by
  have hroll : ∀ u, keepsBeat u (if inJob u then rollCall u else modOpt u fun o => { o with offered := [] }) := fun u =>
    keepsBeat_ite (keepsBeat_rollCall u) (keepsBeat_modOpt u _)
  have hflip : ∀ u v, keepsBeat u (setFld u aFabRtCtl 1 1 v) := fun u v => keepsBeat_setFld u _ _ _ (by decide)
  exact keepsBeat_trans (keepsBeat_trans (keepsBeat_trans (keepsBeat_closeOld _) (keepsBeat_prjBeat _)) (hflip _ _))
    (keepsBeat_trans (hroll _) (keepsBeat_openWindow _))

theorem openBeat_opens (hs : noneOpen s) : beatNum (openBeat s n t dr) = n % 2 ^ 64 ∧
    (openBeat s n t dr).disp.beatStart = t ∧ (openBeat s n t dr).disp.cut = false ∧ (openBeat s n t dr).disp.dRun = dr ∧
    (openBeat s n t dr).disp.adms = [] ∧ (openBeat s n t dr).disp.endStop = none := by
  obtain ⟨hdisp, hnum⟩ := keepsBeat_openBeat s n t dr
  obtain ⟨hadms, hend⟩ := noneOpen_of_disp (disp_beatCounted s n) hs
  have hreg : reg (beatBegun s n t dr) aClkBeatNum = BitVec.ofNat 64 n := reg_beatCounted s n
  rw [hdisp, beatNum, hnum, hreg, BitVec.toNat_ofNat]
  refine ⟨rfl, rfl, rfl, rfl, ?_, hend⟩
  show (beatCounted s n).disp.adms.map _ = []
  rw [hadms, List.map_nil]

end

/-! ### BEAT_BOUNDARY and CUT (R248, R250) -/

section
variable {s : State} {n t : Nat}

/-- The running beat has ended, and the job with it where its STOP came. -/
def beatLeft (s : State) (t : Nat) : State :=
  let s1 := leaveJob (endBeat { s with now := max s.now t })
  modDisp s1 fun d => { d with ticks := d.ticks.drop 1 }

/-- The state in which the next beat opens: a job starts with it where a tick was accepted outside one. -/
def beatTurned (s : State) (t : Nat) : State :=
  let s1 := leaveJob (endBeat { s with now := max s.now t })
  if !inJob s1 && !s1.disp.ticks.isEmpty then enterJob (beatLeft s t) else beatLeft s t

theorem noneOpen_beatTurned (hs : noneOpen s) (hcur : s.upd.cur = none) : noneOpen (beatTurned s t) := by
  have hleft : noneOpen (beatLeft s t) := noneOpen_leaveJob (noneOpen_endBeat (s := { s with now := max s.now t }) hs hcur)
  unfold beatTurned
  dsimp only
  split
  · exact noneOpen_enterJob hleft
  · exact hleft

theorem doBoundary_opens (hready : devReady s = true) (hstop : stopRuns s = false) (hnext : nextBoundary s = some (n, t))
    (hs : noneOpen s) (hcur : s.upd.cur = none) : doBoundary s = openBeat (beatTurned s t) n t (fld s aClkDerate 5 0) := by
  obtain ⟨-, -, -, -, -, hend⟩ := openBeat_opens (beatTurned s t) n t (fld s aClkDerate 5 0) (noneOpen_beatTurned hs hcur)
  unfold beatTurned beatLeft at hend ⊢
  simp only [doBoundary, hready, hstop, hnext, hend, Bool.not_true, Bool.or_self, Bool.false_eq_true, if_false]

end

/-- Settles O36: a boundary with nothing left open, and the cut. -/
theorem boundariesOpenBeats : Obligations.BoundariesOpenBeats := by
  intro s n t hready hstop
  refine ⟨fun hnext hend hadms hcur _ => ?boundary, fun _ => ?cut⟩
  case boundary =>
    have hs : noneOpen s := ⟨hadms, hend⟩
    obtain ⟨hnum, hstart, hcut, hrun, hnone, -⟩ :=
      openBeat_opens (beatTurned s t) n t (fld s aClkDerate 5 0) (noneOpen_beatTurned hs hcur)
    exact ⟨_, congrArg Host.Outcome.next (doBoundary_opens hready hstop hnext hs hcur), hnum, hstart, hcut, hrun, hnone⟩
  case cut =>
    exact ⟨_, congrArg Host.Outcome.next (if_pos hready), cut_doCut s, mayStart_of_cut (cut_doCut s)⟩

end Sys2Proof.Machine

/-! What the fabric's shared operations leave (R264, R271, R276 to R282): the parts of the state that packets, circuits and
frames reach, and the lanes, which only frames and the cells of packets in assembly change. -/

namespace Sys2Proof.Machine

/-! ### Frames of the fabric -/

/-- Only registers, the fabric, the photonic links, counters and the host port may differ. -/
def linksOnly (s t : State) : Prop :=
  t = { s with regs := t.regs, fab := t.fab, opt := t.opt, host := t.host, pmc := t.pmc }

/-- And every lane is as before. -/
def keepsLanes (s t : State) : Prop := linksOnly s t ∧ t.fab.lanes = s.fab.lanes

section
variable {s t u : State}

theorem linksOnly_refl (s : State) : linksOnly s s := rfl

theorem linksOnly_trans (h : linksOnly s t) (h' : linksOnly t u) : linksOnly s u := by
  unfold linksOnly at *
  rw [h', h]

theorem memByte_of_linksOnly (h : linksOnly s t) (a : Nat) : memByte t a = memByte s a := by
  rw [h]
  rfl

theorem keepsLanes_refl (s : State) : keepsLanes s s := ⟨rfl, rfl⟩

theorem keepsLanes_trans (h : keepsLanes s t) (h' : keepsLanes t u) : keepsLanes s u :=
  ⟨linksOnly_trans h.1 h'.1, h'.2.trans h.2⟩

theorem keepsLanes_ite {c : Prop} [Decidable c] (h : keepsLanes s t) (h' : keepsLanes s u) :
    keepsLanes s (if c then t else u) := by split <;> assumption

theorem keepsLanes_foldl {β : Type} {g : State → β → State} (hg : ∀ t x, keepsLanes t (g t x)) (l : List β) (s : State) :
    keepsLanes s (l.foldl g s) :=
  foldl_keep (P := keepsLanes s) l (fun t x h => keepsLanes_trans h (hg t x)) (keepsLanes_refl s)

theorem keepsLanes_of_keepsCore (h : keepsCore s t) : keepsLanes s t := by
  unfold keepsCore at h
  exact ⟨by rw [linksOnly, h], by rw [h]⟩

theorem lane_of_keepsLanes (h : keepsLanes s t) (p l : Nat) : lane t p l = lane s p l := by rw [lane, h.2, lane]

end

section
variable (s : State)

theorem keepsLanes_modFab {f : Fab → Fab} (h : (f s.fab).lanes = s.fab.lanes) : keepsLanes s (modFab s f) := ⟨rfl, h⟩

theorem keepsLanes_modOpt (f : Opt → Opt) : keepsLanes s (modOpt s f) := ⟨rfl, rfl⟩

theorem keepsLanes_setFld (o hi lo v : Nat) : keepsLanes s (setFld s o hi lo v) := ⟨rfl, rfl⟩

theorem keepsLanes_count (n k : Nat) : keepsLanes s (count s n k) := keepsLanes_of_keepsCore (keepsCore_count s n k)

theorem keepsLanes_raiseF (b port addr : Nat) : keepsLanes s (raiseF s b port addr) :=
  keepsLanes_of_keepsCore (keepsCore_raiseF s b port addr)

end

/-! ### Circuits (R281, R282) -/

/-- Cells and credit of circuits move: beside them nothing of the state changes. -/
def circuitsMove (s t : State) : Prop :=
  t = { s with fab := { s.fab with
    circSrc := t.fab.circSrc, srcLeft := t.fab.srcLeft, circQ := t.fab.circQ, cred := t.fab.cred, treeRet := t.fab.treeRet,
    treeSent := t.fab.treeSent, rets := t.fab.rets } }

section
variable {s t u : State}

theorem circuitsMove_refl (s : State) : circuitsMove s s := rfl

theorem circuitsMove_trans (h : circuitsMove s t) (h' : circuitsMove t u) : circuitsMove s u := by
  unfold circuitsMove at *
  rw [h', h]

theorem circuitsMove_ite {c : Prop} [Decidable c] (h : circuitsMove s t) (h' : circuitsMove s u) :
    circuitsMove s (if c then t else u) := by split <;> assumption

theorem keepsLanes_of_circuitsMove (h : circuitsMove s t) : keepsLanes s t := by
  unfold circuitsMove at h
  exact ⟨by rw [linksOnly, h], by rw [h]⟩

theorem sinks_of_circuitsMove (h : circuitsMove s t) : t.fab.sinks = s.fab.sinks := by rw [h]

end

section
variable (s : State) (n : Nat)

theorem circuitsMove_modFab {f : Fab → Fab} (h : circuitsMove s { s with fab := f s.fab }) : circuitsMove s (modFab s f) := h

theorem circuitsMove_addRet (p key u : Nat) : circuitsMove s (addRet s p key u) := circuitsMove_ite rfl rfl

theorem circuitsMove_circPut (c : List CWord) : circuitsMove s (circPut s n c) := by
  refine foldl_keep (P := circuitsMove s) _ (fun t p h => ?_) rfl
  exact circuitsMove_trans h (circuitsMove_modFab t rfl)

theorem circuitsMove_circPumpLoop (cs : List (Nat × List CWord)) : circuitsMove s (circPumpLoop s n cs) := by
  induction cs generalizing s with
  | nil => rfl
  | cons c t ih =>
    refine circuitsMove_ite rfl (circuitsMove_trans ?_ (circuitsMove_trans (circuitsMove_circPut _ n c.2) (ih _)))
    exact circuitsMove_modFab s rfl

theorem circuitsMove_circUp (u : Nat) : circuitsMove s (circUp s n u) :=
  circuitsMove_ite (circuitsMove_trans (t := modFab s fun f => { f with cred := smMod 0 f.cred n (· + 8 * u) }) rfl
    (circuitsMove_circPumpLoop _ n _)) (circuitsMove_addRet s _ _ u)

/-- Credit that returns for a circuit goes on up it (R281, R282). -/
theorem circuitsMove_circReturn (branch u : Nat) : circuitsMove s (circReturn s n branch u) := by
  refine circuitsMove_ite (circuitsMove_circUp s n u) (circuitsMove_trans ?_ (circuitsMove_circUp _ n _))
  rfl

end
end Sys2Proof.Machine

/-! Frames received and replayed (R258 to R269): what becomes of a frame on its lane, of the cells that it brings, and of the
frames that a lane holds. -/

namespace Sys2Proof.Machine

/-! ### Packets that arrive leave the lanes as they are (R271 to R278) -/

section
variable (s : State)

theorem keepsLanes_addRet (p key u : Nat) : keepsLanes s (addRet s p key u) :=
  keepsLanes_of_circuitsMove (circuitsMove_addRet s p key u)

theorem keepsLanes_freeBuf (x : QPkt) : keepsLanes s (freeBuf s x) := keepsLanes_ite (keepsLanes_refl s) (keepsLanes_addRet s _ _ _)

theorem keepsLanes_toInbox (x : QPkt) : keepsLanes s (toInbox s x) := keepsLanes_modFab s rfl

theorem keepsLanes_noteOld (k : Pkt) : keepsLanes s (noteOld s k) := keepsLanes_ite (keepsLanes_refl s) (keepsLanes_modFab s rfl)

theorem keepsLanes_offer (p n : Nat) : keepsLanes s (offer s p n) := keepsLanes_ite (keepsLanes_refl s) ⟨rfl, rfl⟩

theorem keepsLanes_pushQ (p : Nat) (x : QPkt) : keepsLanes s (pushQ s p x) :=
  keepsLanes_trans (keepsLanes_offer s p (pktCells x.k)) ⟨rfl, rfl⟩

theorem keepsLanes_freeBuf_raiseF (x : QPkt) (b p : Nat) : keepsLanes s (raiseF (freeBuf s x) b p 0) :=
  keepsLanes_trans (keepsLanes_freeBuf s x) (keepsLanes_raiseF _ _ _ _)

theorem keepsLanes_routeIn (p l : Nat) (k : Pkt) : keepsLanes s (routeIn s p l k) := by
  refine keepsLanes_ite (keepsLanes_freeBuf_raiseF s _ _ _) (keepsLanes_ite (keepsLanes_freeBuf_raiseF s _ _ _)
    (keepsLanes_ite (keepsLanes_freeBuf s _) (keepsLanes_ite (keepsLanes_trans (keepsLanes_noteOld s k) (keepsLanes_toInbox _ _)) ?_)))
  split
  · exact keepsLanes_freeBuf_raiseF s _ _ _
  · exact keepsLanes_trans (keepsLanes_noteOld s k) (keepsLanes_pushQ _ _ _)

theorem keepsLanes_arrive (p l : Nat) (k : Pkt) : keepsLanes s (arrive s p l k) :=
  keepsLanes_ite (keepsLanes_toInbox s _) (keepsLanes_routeIn s p l k)

theorem keepsLanes_malformed (p : Nat) : keepsLanes s (malformed s p) := keepsLanes_count s _ _

/-! ### Circuit cells and credit (R264, R279, R281) -/

theorem keepsLanes_circuitCell (n : Nat) (c : List CWord) : keepsLanes s (circuitCell n s c) := by
  have hput := keepsLanes_of_circuitsMove (circuitsMove_circPut s n c)
  exact keepsLanes_ite hput (keepsLanes_ite (keepsLanes_trans hput (keepsLanes_raiseF _ _ _ _))
    (keepsLanes_trans hput (keepsLanes_modFab _ rfl)))

theorem keepsLanes_circuitFrame (p n : Nat) (cells : List (List CWord)) : keepsLanes s (circuitFrame s p n cells) :=
  keepsLanes_ite (keepsLanes_refl s) (keepsLanes_ite (keepsLanes_raiseF s _ _ _)
    (keepsLanes_foldl (fun t c => keepsLanes_circuitCell t n c) cells s))

theorem keepsLanes_takeReturn (p l : Nat) (ret : W32) : keepsLanes s (takeReturn s p l ret) := by
  unfold takeReturn
  dsimp only
  split
  · exact keepsLanes_of_circuitsMove (circuitsMove_circReturn s _ _ _)
  · exact keepsLanes_modFab s rfl
  · exact keepsLanes_refl s

end

/-! ### Lanes that keep what they acknowledge (R268) -/

/-- Beside registers, fabric, links, counters and host port nothing changes, and every lane keeps its NAK request and the last
frame that it accepted. -/
def keepsAcks (s t : State) : Prop :=
  linksOnly s t ∧ ∀ p l, (lane t p l).nak = (lane s p l).nak ∧ (lane t p l).rxSeq = (lane s p l).rxSeq

section
variable {s t u : State}

theorem keepsAcks_trans (h : keepsAcks s t) (h' : keepsAcks t u) : keepsAcks s u :=
  ⟨linksOnly_trans h.1 h'.1, fun p l => ⟨(h'.2 p l).1.trans (h.2 p l).1, (h'.2 p l).2.trans (h.2 p l).2⟩⟩

theorem keepsAcks_of_keepsLanes (h : keepsLanes s t) : keepsAcks s t :=
  ⟨h.1, fun p l => by rw [lane_of_keepsLanes h]; exact ⟨rfl, rfl⟩⟩

theorem keepsAcks_ite {c : Prop} [Decidable c] (h : keepsAcks s t) (h' : keepsAcks s u) :
    keepsAcks s (if c then t else u) := by split <;> assumption

theorem keepsAcks_foldl {β : Type} {g : State → β → State} (hg : ∀ t x, keepsAcks t (g t x)) (l : List β) (s : State) :
    keepsAcks s (l.foldl g s) :=
  foldl_keep (P := keepsAcks s) l (fun t x h => keepsAcks_trans h (hg t x)) (keepsAcks_of_keepsLanes (keepsLanes_refl s))

end

section
variable (s : State) (p l : Nat)

theorem lane_setLane (x : Lane) (q m : Nat) : lane (setLane s p l x) q m = if lkey q m = lkey p l then x else lane s q m :=
  smGet_set _ _ _ _ _

theorem linksOnly_setLane (x : Lane) : linksOnly s (setLane s p l x) := rfl

@[simp] theorem lane_setLane_self (x : Lane) : lane (setLane s p l x) p l = x := by rw [lane_setLane, if_pos rfl]

theorem keepsAcks_setLane {x : Lane} (hnak : x.nak = (lane s p l).nak) (hseq : x.rxSeq = (lane s p l).rxSeq) :
    keepsAcks s (setLane s p l x) := by
  refine ⟨rfl, fun q m => ?_⟩
  rw [lane_setLane]
  split
  · next hkey =>
    rw [lane, hkey, ← lane]
    exact ⟨hnak, hseq⟩
  · exact ⟨rfl, rfl⟩

theorem keepsAcks_setAsm (ctrl : Bool) (a : Option Pkt) : keepsAcks s (setAsm s p l ctrl a) :=
  keepsAcks_setLane s p l (by cases ctrl <;> rfl) (by cases ctrl <;> rfl)

theorem keepsAcks_malformed : keepsAcks s (malformed s p) := keepsAcks_of_keepsLanes (keepsLanes_malformed s p)

theorem keepsAcks_contCell (last : Bool) (k : Pkt) : keepsAcks s (contCell s p l last k) := by
  unfold contCell
  split
  · exact keepsAcks_malformed s p
  · next j _ =>
    split
    · exact keepsAcks_malformed s p
    · have hout := keepsAcks_setAsm s p j (k.cls == 2) none
      exact keepsAcks_ite (keepsAcks_trans hout (keepsAcks_malformed _ p)) (keepsAcks_ite
        (keepsAcks_trans hout (keepsAcks_of_keepsLanes (keepsLanes_arrive _ p l _))) (keepsAcks_trans hout (keepsAcks_setAsm _ p l _ _)))

/-- The cells of packets change at most what is in assembly on the lanes (R258, R260). -/
theorem keepsAcks_packetCell (c : List CWord) : keepsAcks s (packetCell p l s c) := by
  have hnone := keepsAcks_of_keepsLanes (keepsLanes_refl s)
  have hnote : ∀ k, keepsLanes s (noteCell s k) := fun k => keepsLanes_ite (keepsLanes_refl s) (keepsLanes_noteOld s k)
  unfold packetCell
  split
  · exact hnone
  · refine keepsAcks_ite (keepsAcks_malformed s p) (keepsAcks_ite hnone (keepsAcks_ite (keepsAcks_malformed s p) ?_))
    split
    · exact keepsAcks_of_keepsLanes (keepsLanes_arrive s p l _)
    · exact keepsAcks_trans (keepsAcks_of_keepsLanes (hnote _)) (keepsAcks_setAsm _ p l _ _)
    · exact keepsAcks_contCell s p l _ _
    · exact keepsAcks_contCell s p l _ _

theorem keepsAcks_ackHeld (ack : Nat) : keepsAcks s (ackHeld s p l ack) := by
  have hnone := keepsAcks_of_keepsLanes (keepsLanes_refl s)
  unfold ackHeld
  dsimp only
  split
  · exact hnone
  · exact keepsAcks_ite (keepsAcks_setLane s p l rfl rfl) hnone

end

/-! ### A frame that is received (R268) -/

section
variable (s : State) (p l : Nat)

theorem askAgain_shows : (lane (askAgain s p l) p l).nak = true ∧ (lane (askAgain s p l) p l).rxSeq = (lane s p l).rxSeq ∧
    (lane (askAgain s p l) p l).held = (lane s p l).held := by
  rw [askAgain, lane_setLane_self]
  exact ⟨rfl, rfl, rfl⟩

/-- The lane's state as a frame that passes is accepted: its first one puts a bound avenue lane in service (R316). -/
def served : State := if linkUp s p l then inService s p l else s

theorem keepsLanes_served : keepsLanes s (served s p l) :=
  keepsLanes_ite (keepsLanes_trans (keepsLanes_setFld s _ _ _ _) (keepsLanes_setFld _ _ _ _ _)) (keepsLanes_refl s)

/-- The frame is the lane's last accepted. -/
def frameNoted (tag : W64) : State :=
  count (setLane (served s p l) p l { lane (served s p l) p l with rxSeq := bits tag 31 24, nak := false }) (cPort p 1) 1

theorem frameNoted_shows (tag : W64) : linksOnly s (frameNoted s p l tag) ∧ (lane (frameNoted s p l tag) p l).nak = false ∧
    (lane (frameNoted s p l tag) p l).rxSeq = bits tag 31 24 := by
  unfold frameNoted
  refine ⟨linksOnly_trans (keepsLanes_served s p l).1 (linksOnly_trans (linksOnly_setLane _ _ _ _) (keepsLanes_count _ _ _).1), ?_⟩
  rw [lane_of_keepsLanes (keepsLanes_count _ _ _), lane_setLane_self]
  exact ⟨rfl, rfl⟩

/-- An accepted frame without a NAK of the partner's leaves the lane's acknowledgements as it noted them. -/
theorem keepsAcks_acceptFrame {tag : W64} (hnak : bit tag 15 = false) (cells : List (List CWord)) (ret : W32) :
    keepsAcks (frameNoted s p l tag) (acceptFrame s p l tag cells ret) := by
  unfold acceptFrame
  rw [hnak]
  have hack := keepsAcks_trans (keepsAcks_ackHeld (frameNoted s p l tag) p l (bits tag 23 16))
    (keepsAcks_of_keepsLanes (keepsLanes_takeReturn _ p l ret))
  exact keepsAcks_ite (keepsAcks_trans hack (keepsAcks_of_keepsLanes (keepsLanes_circuitFrame _ _ _ _)))
    (keepsAcks_trans hack (keepsAcks_foldl (fun t c => keepsAcks_packetCell t p l c) cells _))

end

/-- The checks of a frame whose words can be read (R268). -/
def framePasses (s : State) (p l : Nat) (rs : List (CWord × Bool)) (t : CWord) (ret : BitVec 24) : Bool :=
  !t.psn && bits t.v 63 32 == frameCrc (cut8 ((rs.take 64).map (·.1)) 8) (bits t.v 31 0) ret.toNat && bits t.v 14 13 != 3 &&
    bits ret 23 22 != 3 && bits t.v 31 24 == ((lane s p l).rxSeq + 1) % 256

section
variable {s : State} {p l : Nat} {ws : List (W64 × Byte)} {ret : BitVec 24}

theorem doFrameRx_idle (hup : laneUp s p l = false) (hlink : linkUp s p l = false) : doFrameRx s p l ws ret = s := by
  simp [doFrameRx, hup, hlink]

theorem doFrameRx_unreadable (hup : laneUp s p l = true) (hws : rxWords ws = none) : doFrameRx s p l ws ret = askAgain s p l := by
  simp [doFrameRx, hup, hws]

/-- The words that were corrected are counted (R397). -/
def wordsCounted (s : State) (p : Nat) (rs : List (CWord × Bool)) : State := count s (cPort p 3) (rs.filter (·.2)).length

theorem doFrameRx_readable {rs : List (CWord × Bool)} {t : CWord × Bool} (hup : laneUp s p l = true) (hws : rxWords ws = some rs)
    (ht : rs[64]? = some t) : doFrameRx s p l ws ret =
      if framePasses s p l rs t.1 ret then
        acceptFrame (wordsCounted s p rs) p l t.1.v (cut8 ((rs.take 64).map (·.1)) 8) (ret.setWidth 32)
      else askAgain (wordsCounted s p rs) p l := by
  have hlane : (lane (count s (cPort p 3) (rs.filter (·.2)).length) p l).rxSeq = (lane s p l).rxSeq := by
    rw [lane_of_keepsLanes (keepsLanes_count _ _ _)]
  have hrun : (!laneUp s p l && !linkUp s p l) = false := by rw [hup]; rfl
  simp only [doFrameRx, hrun, hws, ht, Bool.false_eq_true, if_false, hlane, wordsCounted]
  cases hpass : framePasses s p l rs t.1 ret <;> simp_all [framePasses]

/-- A frame goes through the checks of its tag word, its SEQ and its return field, and fails or passes them. -/
theorem doFrameRx_checks {rs : List (CWord × Bool)} {t : CWord × Bool} (hup : laneUp s p l = true) (hws : rxWords ws = some rs)
    (ht : rs[64]? = some t) :
    (framePasses s p l rs t.1 ret = false → (lane (doFrameRx s p l ws ret) p l).nak = true ∧
      (lane (doFrameRx s p l ws ret) p l).rxSeq = (lane s p l).rxSeq ∧
      (lane (doFrameRx s p l ws ret) p l).held = (lane s p l).held ∧ linksOnly s (doFrameRx s p l ws ret)) ∧
    (framePasses s p l rs t.1 ret = true → bit t.1.v 15 = false → (lane (doFrameRx s p l ws ret) p l).nak = false ∧
      (lane (doFrameRx s p l ws ret) p l).rxSeq = bits t.1.v 31 24 ∧ linksOnly s (doFrameRx s p l ws ret)) := by
  have hcount : keepsLanes s (wordsCounted s p rs) := keepsLanes_count _ _ _
  rw [doFrameRx_readable hup hws ht]
  refine ⟨fun hbad => ?bad, fun hok hnak => ?ok⟩
  case bad =>
    rw [if_neg (Bool.eq_false_iff.1 hbad)]
    obtain ⟨hnak, hseq, hheld⟩ := askAgain_shows (wordsCounted s p rs) p l
    rw [lane_of_keepsLanes hcount] at hseq hheld
    exact ⟨hnak, hseq, hheld, linksOnly_trans hcount.1 rfl⟩
  case ok =>
    rw [if_pos hok]
    obtain ⟨hframe, hnoted, hseq⟩ := frameNoted_shows (wordsCounted s p rs) p l t.1.v
    obtain ⟨hlinks, hacks⟩ := keepsAcks_acceptFrame (wordsCounted s p rs) p l hnak (cut8 ((rs.take 64).map (·.1)) 8) (ret.setWidth 32)
    exact ⟨(hacks p l).1.trans hnoted, (hacks p l).2.trans hseq, linksOnly_trans hcount.1 (linksOnly_trans hframe hlinks)⟩

end

/-! ### Replay (R268, R269) -/

section
variable {s : State} {p l : Nat} {f : TxFrame} {fs : List TxFrame} (hheld : (lane s p l).held = f :: fs)
include hheld

theorem resend_fails (hf : 4 ≤ f.fails) : resend s p l = laneFail s p l := by simp [resend, hheld, hf]

/-- Every held frame leaves again, the first of them having failed once more. -/
theorem resend_replays (hf : f.fails < 4) :
    (lane (resend s p l) p l).held = ({ f with fails := f.fails + 1 } :: fs).map (retag (lane s p l)) ∧
      (lane (resend s p l) p l).nak = false ∧ linksOnly s (resend s p l) := by
  have hresend : resend s p l = count (count (setLane s p l { lane s p l with
      held := ({ f with fails := f.fails + 1 } :: fs).map (retag (lane s p l)), nak := false }) (cPort p 0) (fs.length + 1))
      (cPort p 2) (fs.length + 1) := by simp [resend, hheld, Nat.not_le.2 hf]
  have hcounts := fun t n => keepsLanes_trans (keepsLanes_count t (cPort p 0) n) (keepsLanes_count _ (cPort p 2) n)
  rw [hresend, lane_of_keepsLanes (hcounts _ _), lane_setLane_self]
  exact ⟨rfl, rfl, linksOnly_trans (linksOnly_setLane _ _ _ _) (hcounts _ _).1⟩

end

/-- CTRL_DISPLACE marks the port and reports itself (R267). -/
theorem doCtrlDisplace_shows {s : State} {y : Nat} (h : smGet [] s.fab.ctrlQ y ≠ []) :
    smGet false (doCtrlDisplace s y).fab.displ y = true ∧ bit (reg (doCtrlDisplace s y) aFabErr) fCtrlDisplace = true ∧
      linksOnly s (doCtrlDisplace s y) := by
  have hact : doCtrlDisplace s y = raiseF (modFab s fun f => { f with displ := smSet false f.displ y true }) fCtrlDisplace y 0 :=
    if_neg (by simpa using h)
  have hcore := keepsCore_raiseF (modFab s fun f => { f with displ := smSet false f.displ y true }) fCtrlDisplace y 0
  rw [hact]
  refine ⟨?_, bit_raiseF _ _ _ (by decide), linksOnly_trans (keepsLanes_modFab s rfl).1 (keepsLanes_of_keepsCore hcore).1⟩
  rw [hcore]
  exact smGet_set_self false _ y true

/-- Settles O45: a frame that is not taken, one that cannot be read, one that goes through the checks; a replay, the fifth failure
and a displacement. That a timeout counts a failure of the oldest frame only is log entry 30. -/
theorem framesAreTaken : Obligations.FramesAreTaken := by
  intro s p l ws ret hwf
  have hrx : exec (.frameRx p l ws ret) s = .next (doFrameRx s p l ws ret) := if_pos hwf
  have hreplay : laneUp s p l = true → exec (.replayTimeout p l) s = .next (resend s p l) := fun hup =>
    congrArg Host.Outcome.next (if_pos hup)
  refine ⟨fun hup hlink => ?idle, fun hup hws => ?unreadable, fun rs t hup hws ht => ?checked, fun f fs hup hheld hf => ?replays,
    fun f fs hup hheld hf => ?fails, fun y hy => ?displaces⟩
  case idle => rw [hrx, doFrameRx_idle hup hlink]
  case unreadable => rw [hrx, doFrameRx_unreadable hup hws]
  case checked =>
    obtain ⟨hbad, hgood⟩ := doFrameRx_checks (ret := ret) hup hws ht
    refine ⟨_, hrx, fun hok => ?_, fun hok hnak => ?_⟩
    · obtain ⟨hnak, hseq, hheld, hframe⟩ := hbad hok
      exact ⟨hnak, hseq, hheld, memByte_of_linksOnly hframe⟩
    · obtain ⟨hnone, hseq, hframe⟩ := hgood hok hnak
      exact ⟨hnone, hseq, memByte_of_linksOnly hframe⟩
  case replays =>
    obtain ⟨hheld', hnak, hframe⟩ := resend_replays hheld hf
    exact ⟨_, hreplay hup, hheld', hnak, memByte_of_linksOnly hframe⟩
  case fails => rw [hreplay hup, resend_fails hheld hf]
  case displaces =>
    obtain ⟨hmark, hbit, hframe⟩ := doCtrlDisplace_shows hy
    exact ⟨_, rfl, hmark, hbit, memByte_of_linksOnly hframe⟩

end Sys2Proof.Machine

/-! Rounds (R263, R264, R266, R302): a position of a round sends one frame on its lane, and a round deals eight positions to
every lane that sends. -/

namespace Sys2Proof.Machine

/-! ### What a round takes from the port's queues leaves the lanes as they are (R264, R266, R267, R269) -/

section
variable (s : State) (p : Nat)

theorem keepsLanes_takeRet (l : Nat) : keepsLanes s (takeRet s p l).2 := by
  unfold takeRet
  split
  · exact keepsLanes_refl s
  · exact ⟨rfl, rfl⟩

theorem keepsLanes_countCells (kind n : Nat) : keepsLanes s (countCells s p kind n) :=
  keepsLanes_ite (keepsLanes_count s _ _)
    (keepsLanes_trans (keepsLanes_ite (keepsLanes_refl s) (keepsLanes_count s _ _)) (keepsLanes_count _ _ _))

theorem keepsLanes_movedFrames (room : Nat) : keepsLanes s (movedFrames s p room).1 := ⟨rfl, rfl⟩

theorem keepsLanes_nextMoved {x : MovedFrame} {t : State} (h : nextMoved s p = some (x, t)) : keepsLanes s t := by
  unfold nextMoved at h
  split at h
  · exact absurd h (Option.some_ne_none _).symm
  · cases h
    exact ⟨rfl, rfl⟩

theorem keepsLanes_calFrames (slots : List Nat) (room : Nat) : keepsLanes s (calFrames p s slots room).1 := by
  induction slots generalizing s room with
  | nil => exact keepsLanes_refl s
  | cons i t ih =>
    cases room with
    | zero => exact keepsLanes_refl s
    | succ n =>
      unfold calFrames
      split
      · exact ih s _
      · split
        · exact ih s _
        · refine keepsLanes_trans ?_ (ih _ _)
          exact ⟨rfl, rfl⟩

theorem keepsLanes_displace (fs : List MovedFrame) : keepsLanes s (displace s p fs).1 := by
  have hclear : keepsLanes s (modFab s fun f => { f with displ := smSet false f.displ p false }) := keepsLanes_modFab s rfl
  unfold displace
  split
  · exact keepsLanes_refl s
  · dsimp only
    split
    · exact hclear
    · exact keepsLanes_trans hclear ⟨rfl, rfl⟩

theorem keepsLanes_ctrlTake (q v : Nat) (ks : List Pkt) (room : Nat) (cs : List (List CWord)) :
    keepsLanes s (ctrlTake s q v ks room cs).1 := by
  induction ks generalizing s room cs with
  | nil => exact ⟨rfl, rfl⟩
  | cons k t ih =>
    unfold ctrlTake
    dsimp only
    split
    · refine keepsLanes_trans ?_ (ih _ _ _)
      exact ⟨rfl, rfl⟩
    · exact ⟨rfl, rfl⟩

theorem keepsLanes_ctrlFrame (q v : Nat) : keepsLanes s (ctrlFrame s q v).1 := by
  unfold ctrlFrame
  split
  · exact keepsLanes_refl s
  · dsimp only
    split
    · exact keepsLanes_refl s
    · exact keepsLanes_ctrlTake s q v _ _ _

theorem keepsLanes_ctrlFrames (room : Nat) : keepsLanes s (ctrlFrames p s room).1 := by
  induction room generalizing s with
  | zero => exact keepsLanes_refl s
  | succ n ih =>
    have hone := keepsLanes_ctrlFrame s p (vkeyOf p 0 4)
    unfold ctrlFrames
    dsimp only
    split
    · exact hone
    · exact keepsLanes_trans hone (ih _)

theorem keepsLanes_sendWords : keepsLanes s (sendWords s p) := keepsLanes_ite (keepsLanes_modOpt s _) (keepsLanes_modOpt s _)

end

/-! ### Lanes apart from one -/

/-- Of the lanes at most lane l of port p changes, and beside lanes only what a round reaches. -/
def lanesBut (s t : State) (p l : Nat) : Prop := linksOnly s t ∧ ∀ q m, lkey q m ≠ lkey p l → lane t q m = lane s q m

theorem lkey_inj {p l q m : Nat} (hl : l < 8) (hm : m < 8) (h : lkey q m = lkey p l) : q = p ∧ m = l := by
  unfold lkey at h
  omega

section
variable {s t u : State} {p l : Nat}

theorem lanesBut_trans (h : lanesBut s t p l) (h' : lanesBut t u p l) : lanesBut s u p l :=
  ⟨linksOnly_trans h.1 h'.1, fun q m hk => (h'.2 q m hk).trans (h.2 q m hk)⟩

theorem lanesBut_of_keepsLanes (h : keepsLanes s t) : lanesBut s t p l := ⟨h.1, fun q m _ => lane_of_keepsLanes h q m⟩

theorem lanesBut_setLane (x : Lane) : lanesBut s (setLane s p l x) p l :=
  ⟨linksOnly_setLane s p l x, fun q m hk => by rw [lane_setLane, if_neg hk]⟩

end

/-! ### Cells that come to a lane (R260, R271) -/

/-- At most the cells that wait on one lane change. -/
def fillsOut (s t : State) (p l : Nat) : Prop := lanesBut s t p l ∧ ∃ o, lane t p l = { lane s p l with out := o }

section
variable {s t u : State} {p l : Nat}

theorem fillsOut_of_keepsLanes (h : keepsLanes s t) : fillsOut s t p l :=
  ⟨lanesBut_of_keepsLanes h, (lane s p l).out, lane_of_keepsLanes h p l⟩

theorem fillsOut_trans (h : fillsOut s t p l) (h' : fillsOut t u p l) : fillsOut s u p l := by
  obtain ⟨hbut, o, ho⟩ := h
  obtain ⟨hbut', o', ho'⟩ := h'
  exact ⟨lanesBut_trans hbut hbut', o', by rw [ho', ho]⟩

theorem fillsOut_setLane (o : List (List CWord)) : fillsOut s (setLane s p l { lane s p l with out := o }) p l :=
  ⟨lanesBut_setLane _, o, lane_setLane_self _ _ _ _⟩

/-- A packet leaves a queue with credit of the next hop, and its buffer. -/
def pktLeaves (s : State) (p l q : Nat) (x : QPkt) : State :=
  freeBuf (modFab s fun f => { f with
    pktQ := smMod [] f.pktQ q (·.erase x), vcUsed := smMod 0 f.vcUsed (vkeyOf p l (chanOf x.k)) (· + pktCells x.k) }) x

theorem keepsLanes_pktLeaves (q : Nat) (x : QPkt) : keepsLanes s (pktLeaves s p l q x) := by
  refine keepsLanes_trans ?_ (keepsLanes_freeBuf _ x)
  exact ⟨rfl, rfl⟩

theorem fillsOut_startPkt : fillsOut s (startPkt s p l) p l := by
  unfold startPkt
  split
  · exact fillsOut_of_keepsLanes (keepsLanes_refl s)
  · next q _ =>
    split
    · exact fillsOut_of_keepsLanes (keepsLanes_refl s)
    · next x _ =>
      have hleaves := keepsLanes_pktLeaves (s := s) (p := p) (l := l) q x
      refine fillsOut_trans (fillsOut_of_keepsLanes hleaves) ⟨lanesBut_setLane _, cellsOfPkt x.k, ?_⟩
      rw [lane_of_keepsLanes hleaves]
      exact lane_setLane_self _ p l _

theorem fillsOut_packetCells (fresh : Bool) (n : Nat) (cs : List (List CWord)) :
    fillsOut s (packetCells p l fresh s n cs).1 p l := by
  induction n generalizing s cs with
  | zero => exact fillsOut_of_keepsLanes (keepsLanes_refl s)
  | succ n ih =>
    have hstart : ∀ c : Bool, fillsOut s (if c then startPkt s p l else s) p l := by
      intro c
      cases c
      · exact fillsOut_of_keepsLanes (keepsLanes_refl s)
      · exact fillsOut_startPkt
    unfold packetCells
    dsimp only
    split
    · exact hstart _
    · exact fillsOut_trans (hstart _) (fillsOut_trans (fillsOut_setLane _) (ih _))

end

/-! ### One frame (R263, R268) -/

/-- A lane before and after it sends one frame. -/
def sentOne (x y : Lane) : Prop :=
  y.txSeq = (x.txSeq + 1) % 256 ∧ y.nak = false ∧ y.rxSeq = x.rxSeq ∧
    ∃ f, y.held = x.held ++ [f] ∧ f.seq = x.txSeq ∧ f.fails = 0

/-- One frame leaves on a lane. -/
def sendsOne (s t : State) (p l : Nat) : Prop := lanesBut s t p l ∧ sentOne (lane s p l) (lane t p l)

section
variable (s : State) (p l : Nat)

theorem sendsOne_sendFrame (kind circuit : Nat) (cells : List (List CWord)) :
    sendsOne s (sendFrame s p l kind circuit cells) p l := by
  have htake := keepsLanes_takeRet s p l
  have hcounts := fun t => keepsLanes_trans (keepsLanes_count t (cPort p 0) 1) (keepsLanes_countCells _ p kind cells.length)
  refine ⟨lanesBut_trans (lanesBut_of_keepsLanes htake) (lanesBut_trans (lanesBut_setLane _) (lanesBut_of_keepsLanes (hcounts _))), ?_⟩
  unfold sendFrame
  dsimp only
  rw [lane_of_keepsLanes (hcounts _), lane_setLane_self, lane_of_keepsLanes htake]
  exact ⟨rfl, rfl, rfl, _, rfl, rfl, rfl⟩

variable {s p l}

theorem sendsOne_of_fillsOut {t u : State} (h : fillsOut s t p l) (h' : sendsOne t u p l) : sendsOne s u p l := by
  obtain ⟨hbut, o, ho⟩ := h
  obtain ⟨hbut', hone⟩ := h'
  rw [ho] at hone
  exact ⟨lanesBut_trans hbut hbut', hone⟩

/-- The CTRL frame that an avenue lane sends before its packets (R266). -/
def avenueCtrl (s : State) (p l : Nat) : State × List (List CWord) :=
  match laneQueue s p l with
  | some q => if 24 ≤ p then ctrlFrame s q (vkeyOf p l 4) else (s, [])
  | none => (s, [])

/-- A PACKET frame: that of a lane that left service where one may go, else cells of the lane's own packets (R266, R269). -/
def movedOrOwn (p first : Nat) (s : State) (l : Nat) : State :=
  match (if l = first then nextMoved s p else none) with
  | some (x, t) =>
    if (lane s p l).out.isEmpty then sendFrame t p l 0 0 x.cells
    else sendFrame (packetCells p l false s 8 []).1 p l 0 0 (packetCells p l false s 8 []).2
  | none => sendFrame (packetCells p l true s 8 []).1 p l 0 0 (packetCells p l true s 8 []).2

theorem packetFrame_eq (first : Nat) : packetFrame p first s l =
    if !(avenueCtrl s p l).2.isEmpty then sendFrame (avenueCtrl s p l).1 p l 2 0 (avenueCtrl s p l).2
    else movedOrOwn p first s l := rfl

theorem keepsLanes_avenueCtrl : keepsLanes s (avenueCtrl s p l).1 := by
  unfold avenueCtrl
  split
  · split
    · exact keepsLanes_ctrlFrame s _ _
    · exact keepsLanes_refl s
  · exact keepsLanes_refl s

theorem sendsOne_movedOrOwn (first : Nat) : sendsOne s (movedOrOwn p first s l) p l := by
  have hown : ∀ fresh, sendsOne s (sendFrame (packetCells p l fresh s 8 []).1 p l 0 0 (packetCells p l fresh s 8 []).2) p l :=
    fun fresh => sendsOne_of_fillsOut (fillsOut_packetCells fresh 8 []) (sendsOne_sendFrame _ p l _ _ _)
  unfold movedOrOwn
  split
  · next x t hmoved =>
    have hnext : keepsLanes s t := by
      split at hmoved
      · exact keepsLanes_nextMoved s p hmoved
      · exact absurd hmoved (Option.some_ne_none _).symm
    split
    · exact sendsOne_of_fillsOut (fillsOut_of_keepsLanes hnext) (sendsOne_sendFrame _ p l _ _ _)
    · exact hown false
  · exact hown true

/-- Whatever it carries, a position that is not reserved sends one frame. -/
theorem sendsOne_packetFrame (first : Nat) : sendsOne s (packetFrame p first s l) p l := by
  rw [packetFrame_eq]
  split
  · exact sendsOne_of_fillsOut (fillsOut_of_keepsLanes keepsLanes_avenueCtrl) (sendsOne_sendFrame _ p l _ _ _)
  · exact sendsOne_movedOrOwn first

end

/-! ### Many frames -/

/-- A lane before and after it sends n frames. -/
def sentMany : Nat → Lane → Lane → Prop
  | 0, x, z => z = x
  | n + 1, x, z => ∃ y, sentOne x y ∧ sentMany n y z

/-- The frames that a lane has sent have consecutive SEQ, and it holds them behind those that it held (R263, R268). -/
theorem sentMany_shows {n : Nat} {x z : Lane} (h : sentMany n x z) (hn : 0 < n) :
    z.txSeq = (x.txSeq + n) % 256 ∧ z.nak = false ∧ z.rxSeq = x.rxSeq ∧ ∃ fs : List TxFrame, fs.length = n ∧ z.held = x.held ++ fs ∧
      (∀ j f, fs[j]? = some f → f.seq = if j = 0 then x.txSeq else (x.txSeq + j) % 256) ∧
      fs.map (·.fails) = List.replicate n 0 := by
  induction n generalizing x with
  | zero => exact absurd hn (lt_irrefl 0)
  | succ n ih =>
    obtain ⟨y, ⟨htx, hnak, hrx, f, hheld, hseq, hfails⟩, hrest⟩ := h
    cases n with
    | zero =>
      cases hrest
      refine ⟨htx, hnak, hrx, [f], rfl, hheld, fun j g hg => ?_, by simp [hfails]⟩
      obtain ⟨rfl, rfl⟩ : j = 0 ∧ f = g := by simpa [List.getElem?_singleton] using hg
      exact hseq
    | succ n =>
      obtain ⟨htx', hnak', hrx', fs, hlen, hheld', hseqs, hfails'⟩ := ih hrest (Nat.succ_pos n)
      refine ⟨by omega, hnak', hrx'.trans hrx, f :: fs, by rw [List.length_cons, hlen], by rw [hheld', hheld]; simp,
        fun j g hg => ?_, by rw [List.map_cons, hfails', hfails]; rfl⟩
      cases j with
      | zero =>
        cases hg
        exact hseq
      | succ j =>
        have hg' := hseqs j g hg
        split at hg' <;> simp only [Nat.succ_ne_zero, if_false] <;> omega

/-- Every position that is dealt sends one frame on its lane, and no other lane changes. -/
theorem deal_sends (p first : Nat) {pos : List Nat} (hpos : ∀ l ∈ pos, l < 8) (s : State) (xs : List MovedFrame) :
    linksOnly s (deal p first s pos xs) ∧ ∀ q m, m < 8 →
      sentMany (if q = p then pos.count m else 0) (lane s q m) (lane (deal p first s pos xs) q m) := by
  induction pos generalizing s xs with
  | nil => exact ⟨linksOnly_refl s, fun q m _ => by simp [deal, sentMany]⟩
  | cons l ls ih =>
    obtain ⟨u, ys, hdeal, ⟨hlinks, hbut⟩, hone⟩ : ∃ u ys, deal p first s (l :: ls) xs = deal p first u ls ys ∧ sendsOne s u p l := by
      cases xs with
      | nil => exact ⟨_, _, rfl, sendsOne_packetFrame first⟩
      | cons x xs => exact ⟨_, _, rfl, sendsOne_sendFrame s p l _ _ _⟩
    obtain ⟨hlinks', hrest⟩ := ih (fun m hm => hpos m (List.mem_cons_of_mem _ hm)) u ys
    rw [hdeal]
    refine ⟨linksOnly_trans hlinks hlinks', fun q m hm => ?_⟩
    have hq := hrest q m hm
    by_cases hkey : q = p ∧ m = l
    · obtain ⟨rfl, rfl⟩ := hkey
      rw [if_pos rfl, List.count_cons_self]
      rw [if_pos rfl] at hq
      exact ⟨_, hone, hq⟩
    · rw [hbut q m fun hk => hkey (lkey_inj (hpos l List.mem_cons_self) hm hk)] at hq
      by_cases hp : q = p
      · rw [if_pos hp] at hq ⊢
        rwa [List.count_cons_of_ne fun hlm => hkey ⟨hp, hlm.symm⟩]
      · rwa [if_neg hp] at hq ⊢

/-! ### A round (R266, R306, R316) -/

/-- A lane sends in a round. -/
def laneSends (s : State) (p l : Nat) : Bool := (laneUp s p l || linkUp s p l) && smGet 0 s.opt.peer (lkey p l) != 3

/-- The lanes of a port that send. -/
def sendingLanes (s : State) (p : Nat) : List Nat := (List.range 8).filter (laneSends s p)

/-- The positions of a round: eight frame times on every lane that sends. -/
def roundPositions (s : State) (p : Nat) : List Nat := (List.range 8).flatMap fun _ => sendingLanes s p

theorem lt_of_mem_roundPositions {s : State} {p l : Nat} (h : l ∈ roundPositions s p) : l < 8 := by
  obtain ⟨_, -, hl⟩ := List.mem_flatMap.1 h
  exact List.mem_range.1 (List.mem_filter.1 hl).1

theorem count_roundPositions (s : State) (p : Nat) {l : Nat} (hl : l < 8) :
    (roundPositions s p).count l = if laneSends s p l then 8 else 0 := by
  have hmem : l ∈ sendingLanes s p ↔ laneSends s p l = true := by simp [sendingLanes, hl]
  have hcount : (sendingLanes s p).count l = if laneSends s p l then 1 else 0 := by
    have hnodup : (sendingLanes s p).Nodup := List.nodup_range.filter _
    rw [hnodup.count, if_congr hmem rfl rfl]
  simp only [roundPositions, List.count_flatMap, Function.comp_def, hcount]
  split <;> rfl

/-- The frames of a round are dealt over its positions. -/
theorem roundFrames_deals (s : State) (p : Nat) : ∃ first u xs, keepsLanes s u ∧
    roundFrames s p = deal p first u (roundPositions s p) xs := by
  unfold roundFrames
  dsimp only
  split
  · exact ⟨_, _, _, keepsLanes_ctrlFrames s p _, rfl⟩
  · refine ⟨_, _, _, ?_, rfl⟩
    exact keepsLanes_trans (keepsLanes_trans (keepsLanes_movedFrames s p _) (keepsLanes_calFrames _ p _ _))
      (keepsLanes_trans (keepsLanes_displace _ p _) (keepsLanes_ctrlFrames _ p _))

theorem doRound_sends (s : State) (p : Nat) : linksOnly s (doRound s p) ∧ ∀ q m, m < 8 →
    sentMany (if q = p ∧ laneSends s p m = true then 8 else 0) (lane s q m) (lane (doRound s p) q m) := by
  obtain ⟨first, u, xs, hkeep, hdeal⟩ := roundFrames_deals s p
  obtain ⟨hlinks, hsent⟩ := deal_sends p first (fun l => lt_of_mem_roundPositions (s := s) (p := p)) u xs
  have hwords := keepsLanes_sendWords (deal p first u (roundPositions s p) xs) p
  rw [doRound, hdeal]
  refine ⟨linksOnly_trans (linksOnly_trans hkeep.1 hlinks) hwords.1, fun q m hm => ?_⟩
  have hqm := hsent q m hm
  rw [count_roundPositions s p hm, ← ite_and, lane_of_keepsLanes hkeep] at hqm
  rwa [lane_of_keepsLanes hwords]

/-- Settles O46: every lane that sends is dealt eight positions, and no other one any. -/
theorem roundsFillTheirPositions : Obligations.RoundsFillTheirPositions := by
  intro s p
  obtain ⟨hlinks, hsent⟩ := doRound_sends s p
  refine ⟨doRound s p, rfl, fun l hl => ?sends, fun q l hl => ?rests, hlinks⟩
  case sends =>
    have hlane := hsent p l l.isLt
    rw [if_pos ⟨rfl, hl⟩] at hlane
    obtain ⟨htx, hnak, hrx, fs, hlen, hheld, hseq, hfails⟩ := sentMany_shows hlane (by decide)
    exact ⟨htx, hnak, hrx, fs, hlen, hheld, fun j f hf hj => (hseq j f hf).trans (if_neg (by omega)), hfails⟩
  case rests =>
    have hlane := hsent q l l.isLt
    rwa [if_neg] at hlane
    rintro ⟨hq, hs⟩
    obtain hq' | hs' := hl
    · exact hq' hq
    · exact absurd (hs.symm.trans hs') Bool.noConfusion

end Sys2Proof.Machine

/-! Words of packets and cells written to memory (R378, R379): where they stand afterwards, and what stays as it was; the WRITE
packet that brings them (R259, R260, R284). -/

namespace Sys2Proof.Machine

/-! ### One word (R378, R379) -/

/-- The bytes that a word of a cell leaves in memory: data bits 0 where it is poisoned. -/
def wordBytes (w : CWord) : List Byte := if w.psn then List.replicate 8 0 else leBytes 8 w.v.toNat

theorem length_wordBytes (w : CWord) : (wordBytes w).length = 8 := by
  unfold wordBytes
  split
  · exact List.length_replicate
  · exact length_leBytes 8 _

/-- A word of a cell stored as word number v. -/
def storeWord (s : State) (v : Nat) (w : CWord) : State :=
  if w.psn then poisonPart s v else writePart s v 0 (leBytes 8 w.v.toNat)

section
variable (s : State) (v : Nat) (w : CWord)

theorem storeWord_eq : storeWord s v w = { s with
    mem := (storeWord s v w).mem, memPsn := (storeWord s v w).memPsn, quarters := (storeWord s v w).quarters } := by
  unfold storeWord
  split
  · exact poisonPart_eq s v
  · exact writePart_eq s v 0 _

theorem keepsEngines_storeWord : keepsEngines s (storeWord s v w) := by
  unfold storeWord
  split
  · exact keepsEngines_poisonPart s v
  · exact keepsEngines_writePart s v 0 _

theorem mem_storeWord : (storeWord s v w).mem = if addrDown s (v * 8) then s.mem else putBytes s.mem (v * 8) (wordBytes w) := by
  unfold storeWord wordBytes
  split
  · exact mem_poisonPart s v
  · rw [mem_writePart, if_pos (length_leBytes 8 _)]

theorem memPsn_storeWord : (storeWord s v w).memPsn =
    if addrDown s (v * 8) then s.memPsn else smSet false s.memPsn v w.psn := by
  unfold storeWord
  split
  · next hp => rw [memPsn_poisonPart, hp]
  · next hp => rw [memPsn_writePart_eq, if_pos (length_leBytes 8 _), Bool.eq_false_iff.2 hp]

/-- Every other word stays. -/
theorem storeWord_outside {x : Nat} (hx : x / 8 ≠ v) : memByte (storeWord s v w) x = memByte s x ∧
    smGet false (storeWord s v w).memPsn (x / 8) = smGet false s.memPsn (x / 8) := by
  rw [memByte, mem_storeWord, memPsn_storeWord]
  split
  · exact ⟨rfl, rfl⟩
  · exact ⟨by rw [smGet_putBytes, length_wordBytes, if_neg (by omega)]; rfl, smGet_set_ne _ _ _ hx⟩

variable {s}

/-- The word itself holds its bytes and its mark, where no channel is DOWN. -/
theorem storeWord_inside (hs : s.stk.chan = []) : smGet false (storeWord s v w).memPsn v = w.psn ∧
    ∀ j < 8, memByte (storeWord s v w) (v * 8 + j) = (wordBytes w).getD j 0 := by
  have hup : ¬ addrDown s (v * 8) = true := by rw [addrDown_of_noChan hs]; decide
  rw [memPsn_storeWord, if_neg hup]
  refine ⟨smGet_set_self _ _ _ _, fun j hj => ?_⟩
  rw [memByte, mem_storeWord, if_neg hup, smGet_putBytes, length_wordBytes, if_pos (by omega), Nat.add_sub_cancel_left]

end

/-! ### Words in a row -/

section
variable (s : State) (a : Nat) (ws : List CWord)

theorem putWords_cons (w : CWord) : putWords s a (w :: ws) = putWords (storeWord s (a / 8) w) (a + 8) ws := rfl

theorem putWords_eq : putWords s a ws = { s with
    mem := (putWords s a ws).mem, memPsn := (putWords s a ws).memPsn, quarters := (putWords s a ws).quarters } := by
  induction ws generalizing s a with
  | nil => rfl
  | cons w t ih => rw [putWords_cons, ih, storeWord_eq]

theorem keepsEngines_putWords : keepsEngines s (putWords s a ws) := by
  induction ws generalizing s a with
  | nil => exact keepsEngines_of_eq rfl rfl
  | cons w t ih => exact keepsEngines_trans (keepsEngines_storeWord s _ w) (ih _ _)

theorem putWords_outside {x : Nat} (hx : x / 8 < a / 8 ∨ a / 8 + ws.length ≤ x / 8) :
    memByte (putWords s a ws) x = memByte s x ∧
      smGet false (putWords s a ws).memPsn (x / 8) = smGet false s.memPsn (x / 8) := by
  induction ws generalizing s a with
  | nil => exact ⟨rfl, rfl⟩
  | cons w t ih =>
    rw [List.length_cons] at hx
    obtain ⟨hbyte, hmark⟩ := ih (storeWord s (a / 8) w) (a + 8) (by omega)
    obtain ⟨hbyte', hmark'⟩ := storeWord_outside s (a / 8) w (x := x) (by omega)
    exact ⟨hbyte.trans hbyte', hmark.trans hmark'⟩

/-- Words from a on stand in memory with their bytes and marks. -/
def wordsStand (s : State) (a : Nat) (ws : List CWord) : Prop :=
  ∀ i w, ws[i]? = some w → smGet false s.memPsn (a / 8 + i) = w.psn ∧
    ∀ j < 8, memByte s ((a / 8 + i) * 8 + j) = (wordBytes w).getD j 0

variable {s}

theorem wordsStand_putWords (hs : s.stk.chan = []) : wordsStand (putWords s a ws) a ws := by
  induction ws generalizing s a with
  | nil => exact fun i w hw => absurd hw (by simp)
  | cons w t ih =>
    have ht : (storeWord s (a / 8) w).stk.chan = [] := by rw [storeWord_eq, hs]
    intro i x hx
    rw [putWords_cons]
    cases i with
    | zero =>
      cases hx
      obtain ⟨hmark, hbytes⟩ := storeWord_inside (s := s) (a / 8) w hs
      have hout := fun j (hj : j < 8) => putWords_outside (storeWord s (a / 8) w) (a + 8) t (x := a / 8 * 8 + j) (by omega)
      refine ⟨?_, fun j hj => ((hout j hj).1).trans (hbytes j hj)⟩
      have hmark0 := (hout 0 (by decide)).2
      rw [show (a / 8 * 8 + 0) / 8 = a / 8 by omega] at hmark0
      exact hmark0.trans hmark
    | succ i =>
      have hstand := ih (a + 8) ht i x hx
      rwa [show (a + 8) / 8 + i = a / 8 + (i + 1) by omega] at hstand

end

/-! ### Words read back -/

theorem leNat_leBytes (n v : Nat) (h : v < 2 ^ (8 * n)) : leNat (leBytes n v) = v := by
  refine Nat.eq_of_testBit_eq fun j => ?_
  rw [testBit_leNat]
  by_cases hj : j / 8 < n
  · rw [getLsbD_leBytes v hj (Nat.mod_lt _ (by decide)), Nat.div_add_mod]
  · have hlow : v.testBit j = false := Nat.testBit_lt_two_pow (h.trans_le (Nat.pow_le_pow_right (by decide) (by omega)))
    have hnone : (leBytes n v)[j / 8]? = none := List.getElem?_eq_none (by rw [length_leBytes]; omega)
    rw [hlow, List.getD_eq_getElem?_getD, hnone]
    simp

/-- A range in memory holds only words that are populated (R47). -/
theorem populated_of_inMem {s : State} {a n x : Nat} (h : inMem s a n = true) (h1 : a ≤ x) (h2 : x < a + n) :
    (decide (stackEnd ≤ x) && decide ((x - stackEnd) % 0x400000 ≥ lsSize)) = false := by
  obtain h | h := Bool.or_eq_true_iff.1 h
  · have hend : a + n ≤ stackEnd := of_decide_eq_true h
    rw [decide_eq_false (by omega), Bool.false_and]
  · simp only [inLs, Bool.and_eq_true, decide_eq_true_eq] at h
    obtain ⟨⟨hlo, -⟩, hin, -⟩ := h
    rw [decide_eq_false (p := (x - stackEnd) % 0x400000 ≥ lsSize) (by unfold lsSize at *; omega), Bool.and_false]

/-- Words that stand in memory are read, a poisoned one as data bits 0 with its mark (R378). -/
theorem readWords_of_wordsStand {s t : State} {a : Nat} {ws : List CWord} (ha : a % 8 = 0)
    (hm : inMem s a (8 * ws.length) = true) (hchan : t.stk.chan = []) (hstand : wordsStand t a ws) :
    readWords t a ws.length = ws.map fun x => if x.psn then ⟨0, true⟩ else x := by
  refine List.ext_getElem? fun i => ?_
  rw [readWords, List.getElem?_map, List.getElem?_map]
  by_cases hi : i < ws.length
  · obtain ⟨hmark, hbytes⟩ := hstand i ws[i] (List.getElem?_eq_getElem hi)
    have haddr : a + 8 * i = (a / 8 + i) * 8 := by omega
    have hpsn : wordPsn t (a + 8 * i) = ws[i].psn := by
      rw [wordPsn, populated_of_inMem hm (by omega) (by omega), addrDown_of_noChan hchan, show (a + 8 * i) / 8 = a / 8 + i by omega,
        hmark, Bool.or_false, Bool.or_false]
    have hread : ws[i].psn = false → readNat t (a + 8 * i) 8 = ws[i].v.toNat := fun hp => by
      have hlist : readBytes t (a + 8 * i) 8 = leBytes 8 ws[i].v.toNat := by
        refine List.ext_getElem (by simp [readBytes]) fun j hj hj' => ?_
        have hb := hbytes j (by simpa using hj')
        rw [wordBytes, hp, if_neg Bool.false_ne_true, List.getD_eq_getElem _ _ hj', ← haddr] at hb
        simpa [readBytes] using hb
      rw [readNat, hlist, leNat_leBytes 8 _ ws[i].v.isLt]
    rw [List.getElem?_range hi, List.getElem?_eq_getElem hi, Option.map_some, Option.map_some, hpsn]
    cases hp : ws[i].psn with
    | true => rfl
    | false =>
      rw [hread hp, BitVec.ofNat_toNat, BitVec.setWidth_eq, if_neg Bool.false_ne_true]
      exact congrArg (fun p => some (⟨ws[i].v, p⟩ : CWord)) hp.symm
  · rw [List.getElem?_eq_none (by simpa using hi), List.getElem?_eq_none (by omega)]
    rfl

/-! ### A write of the fabric's (R204, R284) -/

/-- Words written from a, and the access noted in the shared cache. -/
def wordsWritten (s : State) (a : Nat) (ws : List CWord) : State := touch (writeWords s a ws) clFab a (8 * ws.length) true

section
variable (s : State) (a : Nat) (ws : List CWord)

theorem writeWords_frame : ∃ r, writeWords s a ws = putWords { s with regs := r } a ws := by
  obtain ⟨r, hr⟩ := noteDropped_regs s a (8 * ws.length)
  exact ⟨r, by rw [writeWords, hr]⟩

theorem wordsWritten_eq : wordsWritten s a ws = { s with
    regs := (wordsWritten s a ws).regs, mem := (wordsWritten s a ws).mem, memPsn := (wordsWritten s a ws).memPsn,
    quarters := (wordsWritten s a ws).quarters, stk := (wordsWritten s a ws).stk, host := (wordsWritten s a ws).host,
    pmc := (wordsWritten s a ws).pmc } := by
  obtain ⟨r, hr⟩ := writeWords_frame s a ws
  have htouch := (keepsCache_touch (writeWords s a ws) clFab a (8 * ws.length) true).1
  rw [← wordsWritten, hr, putWords_eq] at htouch
  rw [htouch]

theorem mem_wordsWritten : (wordsWritten s a ws).mem = (writeWords s a ws).mem ∧
    (wordsWritten s a ws).memPsn = (writeWords s a ws).memPsn ∧ (wordsWritten s a ws).quarters = (writeWords s a ws).quarters := by
  rw [wordsWritten, (keepsCache_touch (writeWords s a ws) clFab a (8 * ws.length) true).1]
  exact ⟨rfl, rfl, rfl⟩

theorem keepsMem_wordsWritten : keepsMem s (wordsWritten s a ws) a (8 * ws.length) := by
  obtain ⟨hmem, hpsn, -⟩ := mem_wordsWritten s a ws
  obtain ⟨r, hr⟩ := writeWords_frame s a ws
  intro x hx
  rw [memByte, hmem, hpsn, hr]
  exact putWords_outside { s with regs := r } a ws (by omega)

theorem keepsQuarters_wordsWritten : keepsQuarters s (wordsWritten s a ws) := by
  obtain ⟨-, -, hquarters⟩ := mem_wordsWritten s a ws
  obtain ⟨r, hr⟩ := writeWords_frame s a ws
  rw [hr] at hquarters
  exact keepsQuarters_trans (keepsEngines_putWords { s with regs := r } a ws).2 (keepsQuarters_of_quarters hquarters)

variable {s}

theorem chan_wordsWritten (hs : s.stk.chan = []) : (wordsWritten s a ws).stk.chan = [] := by
  obtain ⟨r, hr⟩ := writeWords_frame s a ws
  rw [wordsWritten, (keepsCache_touch _ _ _ _ _).2.1, hr, putWords_eq]
  exact hs

theorem wordsStand_wordsWritten (hs : s.stk.chan = []) : wordsStand (wordsWritten s a ws) a ws := by
  obtain ⟨hmem, hpsn, -⟩ := mem_wordsWritten s a ws
  obtain ⟨r, hr⟩ := writeWords_frame s a ws
  have hput := wordsStand_putWords (s := { s with regs := r }) a ws hs
  rw [← hr] at hput
  unfold wordsStand memByte at *
  rwa [hmem, hpsn]

end

/-! ### The answer to a request (R274, R285) -/

section
variable (s : State)

theorem linksOnly_pushPkt (p : Nat) (k : Pkt) : linksOnly s (pushPkt s p k) := (keepsLanes_pushQ s p _).1

theorem linksOnly_inject (k : Pkt) : linksOnly s (inject s k) := by
  unfold inject
  dsimp only
  split
  · rfl
  · split
    · exact linksOnly_pushPkt s _ _
    · split
      · exact linksOnly_trans (keepsLanes_raiseF s _ _ _).1 rfl
      · exact (keepsLanes_raiseF s _ _ _).1

theorem linksOnly_acked (p : Nat) (k : Pkt) : linksOnly s (acked s p k) := by
  unfold acked respond
  dsimp only
  split
  · split
    · exact linksOnly_pushPkt s _ _
    · exact linksOnly_pushPkt s _ _
  · exact linksOnly_inject s _

end

/-! ### WRITE (R259, R260, R284) -/

theorem doWrite_mem {s : State} {p : Nat} {k : Pkt} {w : CWord} {ws : List CWord} {a n : Nat} (hr : reqAddr k = .ok (0, a, n))
    (hk : k.words = w :: ws) (hn : n = 8 * ws.length) (hc : addrCause s a n = none) :
    doWrite p k s = acked (wordsWritten s a ws) p k := by
  have htake : (k.words.drop 1).take (n / 8) = ws := by
    rw [hk, hn, Nat.mul_div_cancel_left _ (by decide)]
    exact List.take_length
  simp only [doWrite, hr, hc, htake, ne_eq, not_true, if_false]
  rw [wordsWritten, hn]

/-- Settles O47: the words stand where the address word puts them, and the answer leaves memory alone. The range may lie in an
enabled atomic region, where the write is performed (log entry 92). -/
theorem writeStoresItsWords : Obligations.WriteStoresItsWords := by
  intro s p k w ws a n hwf hc ht hd hs hk hp hafmt hr ha hlen hq hm hchan hwait
  have hn : n = 8 * ws.length := by omega
  have haddr : reqAddr k = .ok (0, a, n) := by rw [reqAddr_legal hk hp hr ha, hafmt]
  have hcause : addrCause (takePkt s k) a n = none := (addrCause_takePkt ..).trans (addrCause_mem hq hm)
  have hexec : exec (.write p k) s = .next (acked (wordsWritten (takePkt s k) a ws) p k) := by
    refine (request_addressed hwf hc ht hd hs haddr (by decide) (by rw [ht]; exact hwait)).trans (congrArg _ ?_)
    exact doWrite_mem haddr hk hn hcause
  have hacked := linksOnly_acked (wordsWritten (takePkt s k) a ws) p k
  have hwritten := wordsWritten_eq (takePkt s k) a ws
  have hkeeps := keepsMem_wordsWritten (takePkt s k) a ws
  have hstand := wordsStand_wordsWritten (s := takePkt s k) a ws (by rw [takePkt_eq]; exact hchan)
  have hnone := chan_wordsWritten (s := takePkt s k) a ws (by rw [takePkt_eq]; exact hchan)
  have hquarters := keepsQuarters_wordsWritten (takePkt s k) a ws
  generalize acked (wordsWritten (takePkt s k) a ws) p k = t at *
  generalize wordsWritten (takePkt s k) a ws = u at *
  refine ⟨t, hexec, fun x hx => ?mem, ?words, ?quarters, ?frame⟩
  case mem =>
    obtain ⟨hbyte, hmark⟩ := hkeeps x (hn ▸ hx)
    rw [takePkt_eq] at hmark
    rw [hacked]
    exact ⟨hbyte.trans (memByte_takePkt s k x), hmark⟩
  case words =>
    rw [show n / 8 = ws.length by omega]
    refine readWords_of_wordsStand ha (hn ▸ hm) (by rw [hacked]; exact hnone) ?_
    rw [hacked]
    exact hstand
  case quarters =>
    refine keepsQuarters_trans (keepsQuarters_of_quarters (takePkt_quarters s k)) (keepsQuarters_trans hquarters ?_)
    exact keepsQuarters_of_quarters (by rw [hacked])
  case frame => rw [hacked, hwritten, takePkt_eq]

end Sys2Proof.Machine

/-! Circuit cells at their sink (R261, R262, R281, R285): the credit that a cell returns, and what WRITE_HEAD, SIGNAL and a data
cell do in their turn. -/

namespace Sys2Proof.Machine

/-! ### The sink's account (R261, R281) -/

section
variable (s : State) (n k : Nat)

@[simp] theorem sink_modSink (f : Sink → Sink) : smGet sink0 (modSink s n f).fab.sinks n = f (smGet sink0 s.fab.sinks n) :=
  smGet_set_self _ _ _ _

/-- The sink counts k cells more, those of whole units of 8 aside. -/
def sinkCounted : State :=
  modSink s n fun c => { c with freed := (c.freed + k) % 8 }

/-- A cell counted, the circuit's credit moves. -/
theorem circuitsMove_sinkFree : circuitsMove (sinkCounted s n k) (sinkFree s n k) :=
  circuitsMove_circReturn (sinkCounted s n k) n 32 (((smGet sink0 s.fab.sinks n).freed + k) / 8)

theorem sinkFree_eq : sinkFree s n k = { s with fab := (sinkFree s n k).fab } := by
  rw [circuitsMove_sinkFree s n k]
  rfl

/-- Beside the cells that it has to return, the sink is as it was. -/
theorem sink_sinkFree : smGet sink0 (sinkFree s n k).fab.sinks n =
    { smGet sink0 s.fab.sinks n with freed := ((smGet sink0 s.fab.sinks n).freed + k) % 8 } := by
  rw [sinks_of_circuitsMove (circuitsMove_sinkFree s n k), sinkCounted, sink_modSink]

end

/-! ### Control cells (R261, R262, R285) -/

theorem onCell_next {c : List CWord} (h : WF.cell c = true) (s : State) : onCell c s = .next s := by rw [onCell, if_pos h]

section
variable (s : State) (n : Nat) (c : List CWord)

/-- A cell taken and its sink changed, only the fabric differs. -/
theorem sinkFree_modSink_eq (f : Sink → Sink) : sinkFree (modSink (takeCirc s n c) n f) n 1 =
    { s with fab := (sinkFree (modSink (takeCirc s n c) n f) n 1).fab } := by
  rw [sinkFree_eq]
  rfl

/-- What a WRITE_HEAD leaves at its sink: where the cells to come go, how many they are, whether they are discarded. -/
def headNoted (skip : Bool) : State :=
  sinkFree (modSink (takeCirc s n c) n fun k =>
    { k with addr := bits (cellWord c 0) 47 8, left := bits (cellWord c 1) 31 0, skip := skip }) n 1

theorem headNoted_shows (skip : Bool) : (smGet sink0 (headNoted s n c skip).fab.sinks n).addr = bits (cellWord c 0) 47 8 ∧
    (smGet sink0 (headNoted s n c skip).fab.sinks n).left = bits (cellWord c 1) 31 0 ∧
    (smGet sink0 (headNoted s n c skip).fab.sinks n).skip = skip ∧
    headNoted s n c skip = { s with fab := (headNoted s n c skip).fab } := by
  rw [headNoted, sink_sinkFree, sink_modSink]
  exact ⟨rfl, rfl, rfl, sinkFree_modSink_eq s n c _⟩

/-- A WRITE_HEAD whose range is refused discards the cells to come, and reports itself. -/
def headRefused : State := raiseSink (headNoted s n c true) n (bits (cellWord c 0) 47 8)

theorem headRefused_shows : (smGet sink0 (headRefused s n c).fab.sinks n).left = bits (cellWord c 1) 31 0 ∧
    (smGet sink0 (headRefused s n c).fab.sinks n).skip = true ∧ bit (reg (headRefused s n c) aFabErr) fSink = true ∧
    (∀ x, memByte (headRefused s n c) x = memByte s x) ∧ (headRefused s n c).squares = s.squares := by
  obtain ⟨-, hcount, hskip, hframe⟩ := headNoted_shows s n c true
  have hbit : bit (reg (headRefused s n c) aFabErr) fSink = true := by
    rw [headRefused, raiseSink]
    exact bit_raiseF _ _ _ (by decide)
  have hcore : keepsCore (headNoted s n c true) (headRefused s n c) := by
    rw [headRefused, raiseSink]
    exact keepsCore_raiseF _ _ _ _
  generalize headNoted s n c true = t at *
  generalize headRefused s n c = u at *
  refine ⟨?_, ?_, hbit, fun x => (memByte_of_keepsCore hcore x).trans (by rw [hframe]; rfl), ?_⟩
  · rw [hcore]
    exact hcount
  · rw [hcore]
    exact hskip
  · rw [hcore, hframe]

/-- What a SIGNAL leaves at its sink: the end of the transfer before it. -/
def signalNoted : State := sinkFree (modSink (takeCirc s n c) n fun k => { k with skip := false }) n 1

/-- A data cell has its place in the transfer. -/
def cellNoted : State := modSink (takeCirc s n c) n fun k => { k with addr := k.addr + 64, left := k.left - 1 }

theorem sink_cellNoted : smGet sink0 (cellNoted s n c).fab.sinks n = { smGet sink0 s.fab.sinks n with
    addr := (smGet sink0 s.fab.sinks n).addr + 64, left := (smGet sink0 s.fab.sinks n).left - 1 } := sink_modSink _ _ _

end

section
variable {s : State} {n : Nat} {c : List CWord}

theorem sinkCtl_waits (ht : circTurn s n c = false) (kind : Nat) : sinkCtl s n c kind = (s, false) := by simp [sinkCtl, ht]

theorem doDataCell_waits (ht : circTurn s n c = false) : doDataCell s n c = s := by simp [doDataCell, ht]

section
variable (ht : circTurn s n c = true) (hen : bit (circ s n) 63 = true) (hloc : bit (circ s n) 56 = true)
  (hdead : (smGet sink0 s.fab.sinks n).dead = false)
include ht hen hloc hdead

section
variable (hleft : (smGet sink0 s.fab.sinks n).left = 0) (hbad : ctrlBad c = false)
include hleft hbad

/-- A sound control cell of a kind, in its turn at an enabled sink where no data cell is due, is acted on. -/
theorem sinkCtl_takes {kind : Nat} (hkind : ctrlKind c = kind) : sinkCtl s n c kind = (takeCirc s n c, true) := by
  simp [sinkCtl, ht, hen, hloc, hdead, hleft, hbad, hkind]

theorem doWriteHead_eq (hkind : ctrlKind c = 1) : doWriteHead s n c =
    if bits (cellWord c 0) 47 8 % 64 == 0 && inMem s (bits (cellWord c 0) 47 8) (64 * bits (cellWord c 1) 31 0)
    then headNoted s n c false else headRefused s n c := by
  have hin : ∀ a m, inMem (takeCirc s n c) a m = inMem s a m := fun _ _ => rfl
  simp only [doWriteHead, sinkCtl_takes ht hen hloc hdead hleft hbad hkind, hin, Bool.not_true, Bool.false_eq_true, if_false]
  cases bits (cellWord c 0) 47 8 % 64 == 0 && inMem s (bits (cellWord c 0) 47 8) (64 * bits (cellWord c 1) 31 0) with
  | true => simp only [if_true, Bool.not_true, headNoted]
  | false => simp only [Bool.false_eq_true, if_false, Bool.not_false, headRefused, headNoted]

theorem doWriteHead_takes (hkind : ctrlKind c = 1) (ha : bits (cellWord c 0) 47 8 % 64 = 0)
    (hm : inMem s (bits (cellWord c 0) 47 8) (64 * bits (cellWord c 1) 31 0) = true) :
    doWriteHead s n c = headNoted s n c false := by
  rw [doWriteHead_eq ht hen hloc hdead hleft hbad hkind, if_pos (by rw [ha, hm]; rfl)]

theorem doWriteHead_refuses (hkind : ctrlKind c = 1) (hno : bits (cellWord c 0) 47 8 % 64 ≠ 0 ∨
      inMem s (bits (cellWord c 0) 47 8) (64 * bits (cellWord c 1) 31 0) = false) :
    doWriteHead s n c = headRefused s n c := by
  rw [doWriteHead_eq ht hen hloc hdead hleft hbad hkind, if_neg]
  obtain ha | hm := hno
  · rw [beq_eq_false_iff_ne.2 ha, Bool.false_and]
    exact Bool.false_ne_true
  · rw [hm, Bool.and_false]
    exact Bool.false_ne_true

theorem doCircSignal_takes (hkind : ctrlKind c = 2) : doCircSignal s n c = if (smGet sink0 s.fab.sinks n).skip
    then signalNoted s n c
    else sqAdd (signalNoted s n c) (bits (cellWord c 0) 63 48) (bits (cellWord c 1) 15 0) := by
  simp only [doCircSignal, sinkCtl_takes ht hen hloc hdead hleft hbad hkind, Bool.not_true, Bool.false_eq_true, if_false]
  rfl

end

/-- A data cell whose slice makes it wait changes nothing (log entry 89). -/
theorem doDataCell_sliceWaits (hskip : (smGet sink0 s.fab.sinks n).skip = false)
    (hw : sliceWaits s (smGet sink0 s.fab.sinks n).addr 64 true = true) : doDataCell s n c = s := by
  simp [doDataCell, ht, hen, hloc, hdead, hskip, hw]

section
variable (hleft : (smGet sink0 s.fab.sinks n).left ≠ 0)
include hleft

theorem doDataCell_writes (hc : c.length = 8) (hskip : (smGet sink0 s.fab.sinks n).skip = false)
    (hw : sliceWaits s (smGet sink0 s.fab.sinks n).addr 64 true = false) : doDataCell s n c =
      sinkFree (wordsWritten (cellNoted s n c) (smGet sink0 s.fab.sinks n).addr c) n 1 := by
  simp [doDataCell, ht, hen, hloc, hdead, hskip, hw, hleft, wordsWritten, cellNoted, hc]

theorem doDataCell_discards (hskip : (smGet sink0 s.fab.sinks n).skip = true) :
    doDataCell s n c = sinkFree (cellNoted s n c) n 1 := by
  simp [doDataCell, ht, hen, hloc, hdead, hskip, hleft, cellNoted]

end
end

/-! ### A data cell in memory (R262, R378) -/

/-- The cell's words stand where the transfer puts them, and the sink goes on to the next place. -/
theorem cellWritten_shows (s : State) (n : Nat) (c : List CWord) (hc : c.length = 8) :
    let k := smGet sink0 s.fab.sinks n
    let t := sinkFree (wordsWritten (cellNoted s n c) k.addr c) n 1
    keepsMem s t k.addr 64 ∧
      (s.stk.chan = [] → k.addr % 8 = 0 → inMem s k.addr 64 = true →
        readWords t k.addr 8 = c.map (fun x => if x.psn then ⟨0, true⟩ else x)) ∧
      (smGet sink0 t.fab.sinks n).addr = k.addr + 64 ∧ (smGet sink0 t.fab.sinks n).left = k.left - 1 ∧
      t.squares = s.squares := by
  intro k t
  have hfab := sinkFree_eq (wordsWritten (cellNoted s n c) k.addr c) n 1
  have hsink := sink_sinkFree (wordsWritten (cellNoted s n c) k.addr c) n 1
  have hwritten := wordsWritten_eq (cellNoted s n c) k.addr c
  have hkeeps := keepsMem_wordsWritten (cellNoted s n c) k.addr c
  have hchan := chan_wordsWritten (s := cellNoted s n c) k.addr c
  have hstand := wordsStand_wordsWritten (s := cellNoted s n c) k.addr c
  have hnext := sink_cellNoted s n c
  change t = _ at hfab
  change smGet sink0 t.fab.sinks n = _ at hsink
  clear_value t
  generalize wordsWritten (cellNoted s n c) k.addr c = u at *
  rw [hc] at hkeeps
  have hplace : smGet sink0 u.fab.sinks n = { k with addr := k.addr + 64, left := k.left - 1 } := by
    rw [hwritten]
    exact hnext
  refine ⟨fun x hx => ?mem, fun hnone ha hm => ?words, ?addr, ?left, ?squares⟩
  case mem =>
    rw [hfab]
    exact hkeeps x hx
  case words =>
    have hread := readWords_of_wordsStand (s := s) (t := t) (a := k.addr) (ws := c) ha (by rw [hc]; exact hm)
      (by rw [hfab]; exact hchan hnone) (by rw [hfab]; exact hstand hnone)
    rwa [hc] at hread
  case addr => rw [hsink, hplace]
  case left => rw [hsink, hplace]
  case squares =>
    rw [hfab, hwritten]
    rfl

/-- Settles O51: a cell out of its turn, then each kind of cell in its turn. -/
theorem circuitCellsTake : Obligations.CircuitCellsTake := by
  intro s n c k u a m hwf
  have hlen : c.length = 8 := by simpa [WF.cell] using hwf
  have hhead : exec (.writeHead n c) s = .next (doWriteHead s n c) := onCell_next hwf _
  have hsignal : exec (.circuitSignal n c) s = .next (doCircSignal s n c) := onCell_next hwf _
  have hdata : exec (.circuitDataCell n c) s = .next (doDataCell s n c) := onCell_next hwf _
  rw [hhead, hsignal, hdata]
  refine ⟨fun ht => ?early, fun ht hen hloc hdead => ⟨fun hleft hbad hkind ha hm => ?head, fun hleft hbad hkind hno => ?refused,
    fun hleft hbad hkind hskip => ?signal, fun hleft hbad hkind hskip => ?noSignal, fun hleft hskip hw => ?waits,
    fun hleft hskip hw => ?writes, fun hleft hskip => ?discards⟩⟩
  case early =>
    rw [doWriteHead, doCircSignal, doDataCell_waits ht, sinkCtl_waits ht, sinkCtl_waits ht]
    exact ⟨rfl, rfl, rfl⟩
  case head =>
    rw [doWriteHead_takes ht hen hloc hdead hleft hbad hkind ha hm]
    exact ⟨_, rfl, headNoted_shows s n c false⟩
  case refused =>
    rw [doWriteHead_refuses ht hen hloc hdead hleft hbad hkind hno]
    exact ⟨_, rfl, headRefused_shows s n c⟩
  case signal =>
    rw [doCircSignal_takes ht hen hloc hdead hleft hbad hkind, if_neg (Bool.eq_false_iff.1 hskip)]
    rfl
  case noSignal =>
    rw [doCircSignal_takes ht hen hloc hdead hleft hbad hkind, if_pos hskip]
    rfl
  case waits => rw [doDataCell_sliceWaits ht hen hloc hdead hskip hw]
  case writes =>
    rw [doDataCell_writes ht hen hloc hdead hleft hlen hskip hw]
    exact ⟨_, rfl, cellWritten_shows s n c hlen⟩
  case discards =>
    rw [doDataCell_discards ht hen hloc hdead hleft hskip]
    have hsink := sink_sinkFree (cellNoted s n c) n 1
    rw [sink_cellNoted] at hsink
    exact ⟨_, rfl, congrArg Sink.left hsink, sinkFree_modSink_eq s n c _⟩

end

end Sys2Proof.Machine

/-! The identity packets of the exchange on a street port (R289), and the descriptors FABRIC_CFG, FLIP and LOAD_PLAN (R278, R288,
R297). -/

namespace Sys2Proof.Machine

/-! ### HELLO and HELLO_SIG (R289) -/

section
variable {s : State} {p : Nat} {k : Pkt}

/-- A street port has one exchange, its own. -/
theorem helloKey_street (h : p < 24) : helloKey s p k = p := if_pos (Or.inl h)

/-- A HELLO in an open exchange notes its sender and is answered. -/
theorem doHello_open (hp : p < 24) (hc : k.cls = 2) (ht : k.typ = 2) (hpsn : k.words.any (·.psn) = false)
    (hopen : helloOpen s p = true) : doHello s p k = rejoin (helloAnswer (modDisco (takePkt s k) p fun x =>
      { x with seen := some (bits (pword k 1) 15 0, bits (pword k 1) 20 16, bits (pword k 1) 63 32) }) p p
      ((pword k 2).setWidth 128 ||| (pword k 3).setWidth 128 <<< 64)) p := by
  simp only [doHello, helloKey_street hp, hopen]
  rw [ctrlIn_acts s _ hc ht hpsn]

/-- A HELLO_SIG in an open exchange is checked and noted. -/
theorem doHelloSig_open (hp : p < 24) (hc : k.cls = 2) (ht : k.typ = 3) (hpsn : k.words.any (·.psn) = false)
    (hopen : helloOpen s p = true) : doHelloSig s p k =
      rejoin (modDisco (takePkt s k) p fun x => { x with sig := some (sigGood (takePkt s k) p p k) }) p := by
  simp only [doHelloSig, helloKey_street hp, hopen]
  rw [ctrlIn_acts s _ hc ht hpsn]

end

/-- Settles O33: on a street port the exchange's key is the port, so that an open exchange takes the packet. -/
theorem identityPacketsTake : Obligations.IdentityPacketsTake := by
  intro s p k hwf hc hpsn hopen
  refine ⟨fun ht => ?_, fun ht => ?_⟩
  · exact (onPkt_next hwf _).trans (congrArg Host.Outcome.next (doHello_open p.2 hc ht hpsn hopen))
  · exact (onPkt_next hwf _).trans (congrArg Host.Outcome.next (doHelloSig_open p.2 hc ht hpsn hopen))

/-! ### Descriptors of the fabric's configuration (R229, R297) -/

section
variable {s : State} {a : Adm}

/-- A descriptor that has started, or that the fabric's state lets start, acts. -/
theorem fcStart_starts (h : a.started = true ∨ fcStateStatus s (fcOp a.raw) = none) (act : State → State) :
    fcStart s a act = act (admStarts s a) := by
  have hnone : (if a.started then none else fcStateStatus s (fcOp a.raw)) = none := by
    split
    · rfl
    · next hn => exact h.resolve_left hn
  rw [fcStart, hnone]
  rfl

theorem fcWrite_data {op : Nat} (hnext : fcNext s op = some a)
    (h : a.started = true ∨ fcStateStatus s (fcOp a.raw) = none) (ws : List W64) : fcWrite s op (.data ws) =
      cfgEntries op a.id (fcFirst a.raw) (fcCount a.raw) ws a.moved (count (admStarts s a) 1410 ((8 * ws.length + 63) / 64)) := by
  rw [fcWrite, hnext]
  exact fcStart_starts h _

end

section
variable (s : State) (id code detail : Nat)

theorem noteOverrun_eq : noteOverrun s id code = { s with disp := (noteOverrun s id code).disp } := by
  unfold noteOverrun
  split <;> rfl

/-- A descriptor that ends changes the dispatcher and gives its place back. -/
theorem admEnd_eq : admEnd s id code detail = { s with disp := (admEnd s id code detail).disp, free := s.free + 1 } := by
  rw [admEnd, noteOverrun_eq]
  rfl

@[simp] theorem admEnd_fab : (admEnd s id code detail).fab = s.fab := by rw [admEnd_eq]

@[simp] theorem reg_admEnd (o : Nat) : reg (admEnd s id code detail) o = reg s o := by rw [admEnd_eq]; rfl

@[simp] theorem memByte_admEnd (x : Nat) : memByte (admEnd s id code detail) x = memByte s x := by rw [admEnd_eq]; rfl

@[simp] theorem square_admEnd (n : Nat) : square (admEnd s id code detail) n = square s n := by rw [admEnd_eq]; rfl

end

/-! ### FLIP (R278) -/

section
variable (s : State) (a : Adm)

/-- The state FLIP leaves. -/
def flipped : State :=
  let u := admEnd (flipBanks (admStarts s a)) a.id 0 0
  setFld u aFabRtCtl 1 1 (if flipWaits u then 1 else 0)

theorem doFlip_starts {s : State} {a : Adm} (hnext : fcNext s 3 = some a)
    (h : a.started = true ∨ fcStateStatus s (fcOp a.raw) = none) : doFlip s = flipped s a := by
  simp only [doFlip, hnext]
  rw [fcStart_starts h]
  rfl

theorem fld_flipBanks (hi lo : Nat) : fld (flipBanks s) aFabRtCtl hi lo =
    fld (setFld (setFld s aFabRtCtl 0 0 (1 - fld s aFabRtCtl 0 0)) aFabRtCtl 2 2 1) aFabRtCtl hi lo := rfl

/-- FLIP's last write leaves the bank bit and OLD_OPEN, which flipBanks writes. -/
theorem fld_flipped {hi lo : Nat} (h : hi < 1 ∨ 1 < lo) :
    fld (flipped s a) aFabRtCtl hi lo = fld (flipBanks (admStarts s a)) aFabRtCtl hi lo :=
  (fld_setFld_ne _ _ _ _ _ _ _ _ le_rfl (by decide) (Or.inr h)).trans (congrArg (bits · hi lo) (reg_admEnd _ _ _ _ _))

theorem flipped_bank : fld (flipped s a) aFabRtCtl 0 0 = 1 - fld s aFabRtCtl 0 0 := by
  rw [fld_flipped s a (.inl (by decide)), fld_flipBanks, fld_setFld_ne _ _ _ _ _ _ _ _ le_rfl (by decide) (.inr (.inl (by decide))),
    fld_setFld_self _ _ _ _ _ le_rfl (by decide)]
  exact Nat.mod_eq_of_lt (Nat.lt_succ_of_le (Nat.sub_le _ _))

theorem flipped_oldOpen : fld (flipped s a) aFabRtCtl 2 2 = 1 := by
  rw [fld_flipped s a (.inr (by decide)), fld_flipBanks, fld_setFld_self _ _ _ _ _ le_rfl (by decide)]
  rfl

theorem keepsRegs_flipped : keepsRegs s (flipped s a) [aFabRtCtl] := by
  intro o ho
  have hne : o ≠ aFabRtCtl := fun h => ho (h ▸ List.mem_singleton.mpr rfl)
  calc reg (flipped s a) o
    _ = reg (admEnd (flipBanks (admStarts s a)) a.id 0 0) o := reg_setFld_ne _ _ _ _ hne
    _ = reg (flipBanks (admStarts s a)) o := reg_admEnd _ _ _ _ _
    _ = reg (admStarts s a) o := (reg_setFld_ne _ 2 2 1 hne).trans (reg_setFld_ne _ 0 0 _ hne)

theorem memByte_flipped (x : Nat) : memByte (flipped s a) x = memByte s x := memByte_admEnd (flipBanks (admStarts s a)) a.id 0 0 x

theorem square_flipped (n : Nat) : square (flipped s a) n = square s n := square_admEnd (flipBanks (admStarts s a)) a.id 0 0 n

end

/-! ### LOAD_PLAN (R288) -/

section
variable {s : State} {a : Adm} {d : List Byte}

theorem exec_loadPlan (hnext : fcNext s 5 = some a) (h : a.started = true ∨ fcStateStatus s (fcOp a.raw) = none)
    (hlen : d.length = 4160) : exec (.loadPlan (.data d)) s = .next (if planOk d
      then admEnd (planPut (count (admStarts s a) 1410 65) d) a.id 0 0
      else admEnd (count (admStarts s a) 1410 65) a.id sIllegalField 0) := by
  have hwf : WF.plan (.data d) = true := by simp [WF.plan, hlen]
  refine (if_pos hwf).trans (congrArg Host.Outcome.next ?_)
  rw [doLoadPlan, hnext]
  exact fcStart_starts h _

end

/-- Settles O31: each command finds its descriptor, which may start, and acts. -/
theorem fabricConfigurationWrites : Obligations.FabricConfigurationWrites := by
  intro s a ws d
  refine ⟨fun hn h => ?_, fun hn h => ?_, fun hn h => ?_, fun hn h => ?_, fun hn h hlen hok => ?_, fun hn h hlen hbad => ?_⟩
  · exact congrArg Host.Outcome.next (fcWrite_data hn h ws)
  · exact congrArg Host.Outcome.next (fcWrite_data hn h ws)
  · exact congrArg Host.Outcome.next (fcWrite_data hn h ws)
  · exact ⟨flipped s a, congrArg Host.Outcome.next (doFlip_starts hn h), flipped_bank s a, flipped_oldOpen s a,
      keepsRegs_flipped s a, memByte_flipped s a, square_flipped s a⟩
  · rw [exec_loadPlan hn h hlen, if_pos hok]
    rfl
  · have hcount := keepsCore_count (admStarts s a) 1410 65
    refine ⟨_, (exec_loadPlan hn h hlen).trans (congrArg Host.Outcome.next (if_neg (by simp [hbad]))), ?_, fun o ho => ?_⟩
    · rw [admEnd_fab, hcount]
      rfl
    · exact (reg_admEnd _ _ _ _ _).trans (keepsRegs_count (admStarts s a) 1410 65 o ho)

end Sys2Proof.Machine

/-! What a stop of the job leaves of the exchange (R250, R289, R391): a cut reaches the fabric's packets, requests and circuits,
and no port's exchange. -/

namespace Sys2Proof.Machine

/-! ### Exchanges that stand -/

/-- Every port's exchange is as before. -/
def keepsExchanges (s t : State) : Prop := t.fab.disco = s.fab.disco

section
variable {s t u : State}

theorem keepsExchanges_trans (h : keepsExchanges s t) (h' : keepsExchanges t u) : keepsExchanges s u := Eq.trans h' h

theorem keepsExchanges_foldl {β : Type} {g : State → β → State} (hg : ∀ t x, keepsExchanges t (g t x)) (l : List β) (s : State) :
    keepsExchanges s (l.foldl g s) :=
  foldl_keep (P := keepsExchanges s) l (fun t x h => keepsExchanges_trans h (hg t x)) rfl

theorem keepsExchanges_ite {c : Prop} [Decidable c] (h : keepsExchanges s t) (h' : keepsExchanges s u) :
    keepsExchanges s (if c then t else u) := by split <;> assumption

theorem keepsExchanges_of_keepsCore (h : keepsCore s t) : keepsExchanges s t := by
  rw [keepsExchanges, h]

theorem keepsExchanges_of_keepsCache (h : keepsCache s t) : keepsExchanges s t := by
  rw [keepsExchanges, h.1]

theorem disco_of_keepsExchanges (h : keepsExchanges s t) (p : Nat) : disco t p = disco s p :=
  congrArg (smGet disco0 · p) h

end

/-! ### The parts of a cut -/

section
variable (s : State)

theorem keepsExchanges_admEnd (id code detail : Nat) : keepsExchanges s (admEnd s id code detail) :=
  congrArg Fab.disco (admEnd_fab s id code detail)

theorem keepsExchanges_noteDropped (a n : Nat) : keepsExchanges s (noteDropped s a n) := by
  obtain ⟨r, hr⟩ := noteDropped_regs s a n
  rw [hr]
  rfl

theorem keepsExchanges_poisonPart (w : Nat) : keepsExchanges s (poisonPart s w) := by
  rw [poisonPart_eq]
  rfl

theorem keepsExchanges_poisonWord (w : Nat) : keepsExchanges s (poisonWord s w) :=
  keepsExchanges_trans (keepsExchanges_noteDropped s _ _) (keepsExchanges_poisonPart _ w)

theorem keepsExchanges_poisonRange (a n : Nat) : keepsExchanges s (poisonRange s a n) :=
  keepsExchanges_ite rfl (keepsExchanges_trans (keepsExchanges_noteDropped s a n)
    (keepsExchanges_foldl (fun t _ => keepsExchanges_poisonPart t _) _ _))

theorem keepsExchanges_writeNat (a n v : Nat) : keepsExchanges s (writeNat s a n v) := by
  rw [writeNat, writeBytes, writeLoop_eq]
  exact keepsExchanges_noteDropped s _ _

theorem keepsExchanges_sqAdd (n amt : Nat) : keepsExchanges s (sqAdd s n amt) := by
  rw [sqAdd_eq]
  rfl

theorem keepsExchanges_cutBank (q : Nat) (o : Op) : keepsExchanges s (cutBank q s o) :=
  keepsExchanges_ite rfl (keepsExchanges_ite rfl (keepsExchanges_ite rfl rfl))

theorem keepsExchanges_cutRecs (o : Op) : keepsExchanges s (cutRecs s o) :=
  keepsExchanges_ite rfl (keepsExchanges_foldl (fun t _ => keepsExchanges_poisonWord t _) _ s)

theorem keepsExchanges_cutDst (o : Op) : keepsExchanges s (cutDst s o) :=
  keepsExchanges_ite rfl (keepsExchanges_foldl keepsExchanges_poisonWord _ { s with free := s.free + 1 })

theorem keepsExchanges_cutQuarter (q : Nat) : keepsExchanges s (cutQuarter s q) := by
  have hops : ∀ ops : List Op, keepsExchanges s (ops.foldl cutRecs (ops.foldl cutDst (ops.foldl (cutBank q) s))) := fun ops =>
    keepsExchanges_trans (keepsExchanges_trans (keepsExchanges_foldl (fun t o => keepsExchanges_cutBank t q o) ops s)
      (keepsExchanges_foldl keepsExchanges_cutDst ops _)) (keepsExchanges_foldl keepsExchanges_cutRecs ops _)
  exact keepsExchanges_ite (hops _) (hops _)

theorem keepsExchanges_cutReqs : keepsExchanges s (cutReqs s) :=
  keepsExchanges_foldl (fun t (r : Req) => keepsExchanges_poisonRange t r.addr r.len) _ s

theorem keepsExchanges_cutCopies : keepsExchanges s (cutCopies s) :=
  keepsExchanges_foldl (fun t (a : Adm) => keepsExchanges_admEnd t a.id sOverrun a.moved) _ s

theorem keepsExchanges_cutSub (u : Sub) : keepsExchanges s (cutSub s u) := keepsExchanges_poisonRange s _ _

theorem keepsExchanges_prjCut : keepsExchanges s (prjCut s) := by
  have hsubs : keepsExchanges s (s.prj.subs.foldl cutSub s) :=
    keepsExchanges_foldl (fun t u => keepsExchanges_cutSub t u) s.prj.subs s
  rw [prjCut_eq, prjCounts, keepsExchanges, setFld_fab, setFld_fab, modPrj_fab]
  exact hsubs

theorem keepsExchanges_spoilGroups (k : Nat) : keepsExchanges s (spoilGroups s k) :=
  keepsExchanges_foldl (fun t _ => keepsExchanges_trans (keepsExchanges_poisonWord t _)
    (keepsExchanges_of_keepsCache (keepsCache_dropLines _ _ _))) _ s

theorem keepsExchanges_updNext : keepsExchanges s (updNext s) := by
  unfold updNext
  split <;> rfl

theorem keepsExchanges_updResults (c : UpdCur) (read : Bool) : keepsExchanges s (updResults s c read) :=
  keepsExchanges_ite (keepsExchanges_foldl (fun t _ => keepsExchanges_trans (keepsExchanges_writeNat t _ _ _)
    (keepsExchanges_of_keepsCache (keepsCache_touch _ _ _ _ _))) c.ks s) rfl

theorem keepsExchanges_updSignalled (c : UpdCur) (read : Bool) : keepsExchanges s (updSignalled s c read) :=
  keepsExchanges_ite (keepsExchanges_trans (keepsExchanges_updResults s c read) (keepsExchanges_sqAdd _ _ _))
    (keepsExchanges_updResults s c read)

theorem keepsExchanges_updEnd (read : Bool) : keepsExchanges s (updEnd s read) := by
  cases hc : s.upd.cur with
  | none =>
    simp only [updEnd, hc]
    rfl
  | some c =>
    obtain ⟨code, detail, f, hend⟩ := updEnd_of_cur read hc
    rw [hend]
    have hresults := keepsExchanges_trans (keepsExchanges_updSignalled s c read) (keepsExchanges_admEnd _ c.id code detail)
    have hcounts := keepsExchanges_trans hresults
      (keepsExchanges_foldl (fun t k => keepsExchanges_of_keepsCore (keepsCore_count t (f k) 1)) c.ks _)
    exact keepsExchanges_trans hcounts (keepsExchanges_updNext (modUpd _ _))

theorem keepsExchanges_cutCur : keepsExchanges s (cutCur s) := by
  unfold cutCur
  split
  · rfl
  · next c _ =>
    have hspoil : keepsExchanges s (if c.phase = 3 then c.ks.foldl spoilGroups s else s) :=
      keepsExchanges_ite (keepsExchanges_foldl keepsExchanges_spoilGroups _ s) rfl
    exact keepsExchanges_ite (keepsExchanges_updEnd s true)
      (keepsExchanges_trans hspoil (keepsExchanges_updEnd (modCur _ _) _))

theorem keepsExchanges_cutUpdate : keepsExchanges s (cutUpdate s) :=
  keepsExchanges_trans (keepsExchanges_foldl (fun t id => keepsExchanges_admEnd t id _ _) s.upd.queue s)
    (keepsExchanges_cutCur (modUpd _ _))

/-! ### The stop of a job -/

theorem keepsExchanges_cut : keepsExchanges s (cut s) := by
  cases h : s.disp.cut with
  | true =>
    rw [cut_of_cut s h]
    rfl
  | false =>
    rw [cut_of_running s h]
    have hbegun : keepsExchanges s (cutBegun s) := rfl
    have hquarters := keepsExchanges_trans hbegun (keepsExchanges_foldl keepsExchanges_cutQuarter (List.range 96) (cutBegun s))
    have hfabric : ∀ t, keepsExchanges t (cutCircuits (cutReqs (cutPkts t))) := fun t => keepsExchanges_cutReqs (cutPkts t)
    have hcopies := keepsExchanges_trans (keepsExchanges_trans hquarters (hfabric _)) (keepsExchanges_cutCopies _)
    exact keepsExchanges_trans (keepsExchanges_trans hcopies (keepsExchanges_prjCut _)) (keepsExchanges_cutUpdate _)

theorem keepsExchanges_pushStop (k : Pkt) (p : Nat) : keepsExchanges s (pushStop k s p) := rfl

theorem keepsExchanges_sendStops (origin reason beat : Nat) : keepsExchanges s (sendStops s origin reason beat) :=
  keepsExchanges_foldl (fun t p => keepsExchanges_pushStop t _ p) _ s

theorem keepsExchanges_stopEvent : keepsExchanges s (fireEvent (count s 1416 1) 9) :=
  keepsExchanges_of_keepsCore (keepsCore_trans (keepsCore_count s 1416 1) (keepsCore_fireEvent _ 9))

theorem keepsExchanges_ccIrqs (l : List Nat) (b : Nat) : keepsExchanges s (l.foldl (fun t q => ccIrq t q b) s) :=
  keepsExchanges_foldl (g := fun t q => ccIrq t q b) (fun _ _ => rfl) l s

theorem keepsExchanges_stopNoted (w : W64) (f : Disp → Disp) : keepsExchanges s (modDisp (setReg s aMgtStopStatus w) f) := rfl

theorem keepsExchanges_stopTold (reason origin beat : Nat) : keepsExchanges s (stopTold s reason origin beat) :=
  keepsExchanges_trans (keepsExchanges_trans (keepsExchanges_trans (keepsExchanges_stopNoted s _ _)
    (keepsExchanges_stopEvent _)) (keepsExchanges_ccIrqs _ _ 4)) (keepsExchanges_sendStops _ origin reason beat)

/-- The stop of a job leaves every exchange. -/
theorem keepsExchanges_stopHere (reason : Nat) : keepsExchanges s (stopHere s reason) := by
  rw [stopHere, startStop_eq]
  exact keepsExchanges_ite rfl (keepsExchanges_trans (keepsExchanges_stopTold s _ _ _) (keepsExchanges_cut _))

/-- With no job near there is nothing to stop. -/
theorem stopHere_of_noJob {s : State} (h : jobNear s = false) (reason : Nat) : stopHere s reason = s := by
  rw [stopHere, startStop_eq, h, Bool.not_false, Bool.or_true, if_pos rfl]

end

end Sys2Proof.Machine

/-! DISCOVER (R289 to R292): the exchange starts on every port, sends again, and ends with each port's outcome in FAB_DISC. -/

namespace Sys2Proof.Machine

/-! ### What a port's outcome rests on (R290) -/

/-- The registers that the end of the exchange writes beside MATCH. -/
def outcomeRegs : List Nat := errRegs .fab ++ ((List.range 32).map aFabPort ++ (List.range 32).map aFabDisc)

/-- What a port's outcome rests on stands: only registers, counters and the host port may differ, and of the ports' registers
neither the role nor the lanes that are up. -/
structure keepsOutcomes (s t : State) : Prop where
  core : keepsCore s t
  regs : keepsRegs s t outcomeRegs
  role : ∀ p < 32, portRole t p = portRole s p
  lanes : ∀ p < 32, working t p = working s p

theorem mem_outcomeRegs_port {p : Nat} (hp : p < 32) : aFabPort p ∈ outcomeRegs :=
  List.mem_append_right _ (List.mem_append_left _ (List.mem_map_of_mem (List.mem_range.mpr hp)))

theorem mem_outcomeRegs_disc {p : Nat} (hp : p < 32) : aFabDisc p ∈ outcomeRegs :=
  List.mem_append_right _ (List.mem_append_right _ (List.mem_map_of_mem (List.mem_range.mpr hp)))

theorem not_mem_outcomeRegs_of_le {o : Nat} (h : 0x200300 ≤ o) : o ∉ outcomeRegs := fun ho =>
  absurd ((by decide : ∀ x ∈ outcomeRegs, x < 0x200300) o ho) (Nat.not_lt.mpr h)

theorem aFabCtl_not_mem_outcomeRegs : aFabCtl ∉ outcomeRegs := by decide

theorem aClkBeatCtl_not_mem_outcomeRegs : aClkBeatCtl ∉ outcomeRegs := by decide

/-- The ports' registers stand above those of errors. -/
theorem not_mem_errRegs_fab_of_le {o : Nat} (h : 0x200100 ≤ o) : o ∉ errRegs .fab := fun ho =>
  absurd ((by decide : ∀ x ∈ errRegs .fab, x < 0x200100) o ho) (Nat.not_lt.mpr h)

section
variable {s t u : State}

theorem keepsOutcomes_trans (h : keepsOutcomes s t) (h' : keepsOutcomes t u) : keepsOutcomes s u where
  core := keepsCore_trans h.core h'.core
  regs := keepsRegs_join h.regs h'.regs
  role p hp := (h'.role p hp).trans (h.role p hp)
  lanes p hp := (h'.lanes p hp).trans (h.lanes p hp)

theorem working_congr {p : Nat} (h : ∀ l, laneUp t p l = laneUp s p l) : working t p = working s p := by
  rw [working, funext h, ← working]

/-- A change that leaves the ports' registers keeps what the outcomes rest on. -/
theorem keepsOutcomes_of_ports (hcore : keepsCore s t) (hregs : keepsRegs s t outcomeRegs)
    (hports : ∀ p < 32, reg t (aFabPort p) = reg s (aFabPort p)) : keepsOutcomes s t where
  core := hcore
  regs := hregs
  role p hp := by rw [portRole, fld, hports p hp, ← fld, ← portRole]
  lanes p hp := working_congr fun l => by rw [laneUp, hports p hp, ← laneUp]

theorem keepsOutcomes_refl (s : State) : keepsOutcomes s s :=
  keepsOutcomes_of_ports (keepsCore_refl s) (keepsRegs_refl s _) fun _ _ => rfl

section
variable (h : keepsOutcomes s t)
include h

theorem reg_of_keepsOutcomes {o : Nat} (ho : 0x200300 ≤ o) : reg t o = reg s o := h.regs o (not_mem_outcomeRegs_of_le ho)

theorem fabCtl_of_keepsOutcomes (hi lo : Nat) : fld t aFabCtl hi lo = fld s aFabCtl hi lo :=
  fld_of_keepsRegs h.regs aFabCtl_not_mem_outcomeRegs hi lo

theorem jobNear_of_keepsOutcomes : jobNear t = jobNear s := by
  rw [jobNear, inJob, fld_of_keepsRegs h.regs aClkBeatCtl_not_mem_outcomeRegs, disp_of_keepsCore h.core, ← inJob, ← jobNear]

theorem disco_of_keepsOutcomes (key : Nat) : disco t key = disco s key :=
  disco_of_keepsExchanges (keepsExchanges_of_keepsCore h.core) key

theorem planLoaded_of_keepsOutcomes : planLoaded t = planLoaded s := by
  rw [planLoaded, fabCtl_of_keepsOutcomes h, ← planLoaded]

theorem discoRole_of_keepsOutcomes {p : Nat} (hp : p < 32) : discoRole t p = discoRole s p := by
  rw [discoRole, planLoaded_of_keepsOutcomes h, h.role p hp, ← discoRole]

theorem reg_dmem_of_keepsOutcomes (m : Nat) : reg t (aOptDmem m) = reg s (aOptDmem m) :=
  reg_of_keepsOutcomes h (by unfold aOptDmem; omega)

theorem members_of_keepsOutcomes : members t = members s := by
  have hctl : reg t aOptAvCtl = reg s aOptAvCtl := reg_of_keepsOutcomes h (by decide)
  simp only [members, myPos, fld, hctl, reg_dmem_of_keepsOutcomes h]

theorem planned_of_keepsOutcomes (p key : Nat) : planned t p key = planned s p key := by
  have hpartners : t.fab.partners = s.fab.partners := by rw [h.core]
  rw [planned, hpartners, fld, reg_dmem_of_keepsOutcomes h, ← fld, ← planned]

theorem helloCode_of_keepsOutcomes (p key : Nat) : helloCode t p key = helloCode s p key := by
  have hplan : planId t = planId s := fabCtl_of_keepsOutcomes h 63 32
  simp only [helloCode, disco_of_keepsOutcomes h, planned_of_keepsOutcomes h, hplan]

theorem discoResult_of_keepsOutcomes {p : Nat} (hp : p < 32) : discoResult t p = discoResult s p := by
  have hunverified : unverified t p = unverified s p := by
    simp only [unverified, members_of_keepsOutcomes h, helloCode_of_keepsOutcomes h]
  simp only [discoResult, discoRole_of_keepsOutcomes h hp, disco_of_keepsOutcomes h, helloCode_of_keepsOutcomes h,
    h.lanes p hp, hunverified]

end
end

/-! ### FAB_DISC (R290) -/

section
variable (s : State) (p : Nat)

theorem helloCode_le (key : Nat) : helloCode s p key ≤ 7 := by
  unfold helloCode
  dsimp only
  split
  · split_ifs <;> decide
  · decide

theorem discoResult_lt : discoResult s p < 16 := by
  unfold discoResult
  dsimp only
  split
  · split <;> decide
  · have hcode := helloCode_le s p
    split
    · split
      · decide
      · split
        · decide
        · exact Nat.lt_of_le_of_lt (hcode p) (by decide)
    · split
      · exact Nat.lt_of_le_of_lt (hcode _) (by decide)
      · decide

theorem discoSeen_lt : discoSeen s p < 2 ^ 60 := by
  unfold discoSeen
  dsimp only
  split
  · omega
  · decide

/-- FAB_DISC holds the result above what the partner said of itself. -/
theorem fld_putDisc {r : Nat} (h : r < 16) : fld (putDisc s p r) (aFabDisc p) 63 60 = r := by
  have hseen := discoSeen_lt s p
  rw [fld, putDisc, reg_setReg_self, bits, BitVec.toNat_ofNat, Nat.shiftRight_eq_div_pow]
  generalize discoSeen s p = seen at *
  omega

theorem aFabPort_ne_aFabDisc {q : Nat} (hp : p < 32) : aFabPort p ≠ aFabDisc q := by
  unfold aFabPort aFabDisc
  omega

theorem aFabDisc_ne {q : Nat} (h : p ≠ q) : aFabDisc p ≠ aFabDisc q := by
  unfold aFabDisc
  omega

theorem keepsOutcomes_putDisc {p : Nat} (hp : p < 32) (r : Nat) : keepsOutcomes s (putDisc s p r) :=
  keepsOutcomes_of_ports (keepsCore_setReg s _ _) (keepsRegs_setReg_mem s _ _ (mem_outcomeRegs_disc hp))
    fun _ hq => reg_setReg_ne s _ (aFabPort_ne_aFabDisc _ hq)

/-- The state of a port stands below its lanes and its role. -/
theorem keepsOutcomes_portState {p : Nat} (hp : p < 32) (v : Nat) : keepsOutcomes s (setFld s (aFabPort p) 15 12 v) where
  core := keepsCore_setReg s _ _
  regs := keepsRegs_setReg_mem s _ _ (mem_outcomeRegs_port hp)
  role q _ := fld_setFld_ne s _ 15 12 v _ 30 28 (by decide) (by decide) (.inr (.inr (by decide)))
  lanes q _ := working_congr fun l => by
    rw [laneUp, reg_setFld, laneUp]
    split
    · next h => rw [bit_putBits _ 15 12 v _ (by decide) (by decide), if_neg (by omega), h]
    · rfl

theorem keepsOutcomes_raiseF (b port addr : Nat) : keepsOutcomes s (raiseF s b port addr) :=
  keepsOutcomes_of_ports (keepsCore_raiseF s b port addr)
    (keepsRegs_mono (keepsRegs_raiseF s b port addr) (List.subset_append_left _ _))
    fun _ _ => keepsRegs_raiseF s b port addr _ (not_mem_errRegs_fab_of_le (by unfold aFabPort; omega))

end

/-! ### The end of a port's exchange (R290) -/

/-- The state of a port whose exchange ends with a result. -/
def endedState (s : State) (p r : Nat) : Nat :=
  match r with
  | 1 => matchedState s p
  | 3 => 3
  | 8 => 4
  | _ => 0

/-- A port's result and state, before a port that is down is reported. -/
def portEnded (s : State) (p r : Nat) : State := setFld (putDisc s p r) (aFabPort p) 15 12 (endedState s p r)

section
variable (s : State) {p : Nat} (hp : p < 32)

theorem endPort_eq (p : Nat) : endPort none s p = if discoResult s p = 3
    then stopHere (raiseF (portEnded s p (discoResult s p)) fPortDown p 0) rPort else portEnded s p (discoResult s p) := rfl

include hp

theorem keepsOutcomes_portEnded (r : Nat) : keepsOutcomes s (portEnded s p r) :=
  keepsOutcomes_trans (keepsOutcomes_putDisc s hp r) (keepsOutcomes_portState _ hp _)

theorem fld_portEnded {r : Nat} (h : r < 16) : fld (portEnded s p r) (aFabDisc p) 63 60 = r :=
  (fld_setFld_ne _ _ _ _ _ _ _ _ (by decide) (by decide) (.inl (aFabPort_ne_aFabDisc p hp).symm)).trans (fld_putDisc s p h)

theorem reg_portEnded_ne (r : Nat) {q : Nat} (h : q ≠ p) : reg (portEnded s p r) (aFabDisc q) = reg s (aFabDisc q) :=
  (reg_setFld_ne _ _ _ _ (aFabPort_ne_aFabDisc p hp).symm).trans (reg_setReg_ne s _ (aFabDisc_ne q h))

end

section
variable {s : State} {p : Nat} (hp : p < 32) (hjob : discoResult s p = 3 → jobNear s = false)
include hp hjob

/-- With no job to stop, a port's end is its result, its state and the report of a port that is down. -/
theorem endPort_noJob : endPort none s p = if discoResult s p = 3
    then raiseF (portEnded s p (discoResult s p)) fPortDown p 0 else portEnded s p (discoResult s p) := by
  rw [endPort_eq]
  split
  · next h =>
    refine stopHere_of_noJob ?_ rPort
    rw [jobNear_of_keepsOutcomes (keepsOutcomes_raiseF _ _ _ _), jobNear_of_keepsOutcomes (keepsOutcomes_portEnded s hp _)]
    exact hjob h
  · rfl

theorem keepsOutcomes_endPort : keepsOutcomes s (endPort none s p) := by
  rw [endPort_noJob hp hjob]
  split
  · exact keepsOutcomes_trans (keepsOutcomes_portEnded s hp _) (keepsOutcomes_raiseF _ _ _ _)
  · exact keepsOutcomes_portEnded s hp _

theorem reg_disc_endPort (q : Nat) : reg (endPort none s p) (aFabDisc q) = reg (portEnded s p (discoResult s p)) (aFabDisc q) := by
  rw [endPort_noJob hp hjob]
  split
  · exact keepsRegs_raiseF _ _ _ _ _ (not_mem_errRegs_fab_of_le (by unfold aFabDisc; omega))
  · rfl

end

/-- The ports end one after another, each with the result that the exchange had at the start. -/
theorem foldl_endPort {s : State} (l : List Nat) (hl : ∀ p ∈ l, p < 32) (hjob : ∀ p ∈ l, discoResult s p = 3 → jobNear s = false) :
    keepsOutcomes s (l.foldl (endPort none) s) ∧
      ∀ r ∈ l, fld (l.foldl (endPort none) s) (aFabDisc r) 63 60 = discoResult s r := by
  induction l using List.reverseRecOn with
  | nil => exact ⟨keepsOutcomes_refl s, fun r hr => absurd hr List.not_mem_nil⟩
  | append_singleton l p ih =>
    obtain ⟨hkeep, hres⟩ := ih (fun q hq => hl q (List.mem_append_left _ hq)) fun q hq => hjob q (List.mem_append_left _ hq)
    have hmem : p ∈ l ++ [p] := List.mem_append_right _ (List.mem_singleton.mpr rfl)
    have hp : p < 32 := hl p hmem
    rw [List.foldl_append, List.foldl_cons, List.foldl_nil]
    generalize l.foldl (endPort none) s = t at *
    have hresult := discoResult_of_keepsOutcomes hkeep hp
    have hjob' : discoResult t p = 3 → jobNear t = false := by
      rw [hresult, jobNear_of_keepsOutcomes hkeep]
      exact hjob p hmem
    refine ⟨keepsOutcomes_trans hkeep (keepsOutcomes_endPort hp hjob'), fun r hr => ?_⟩
    rw [fld, reg_disc_endPort hp hjob', ← fld]
    by_cases hrp : r = p
    · subst hrp
      rw [fld_portEnded t hp (discoResult_lt t r), hresult]
    · rw [fld, reg_portEnded_ne t hp _ hrp, ← fld]
      exact hres r ((List.mem_append.mp hr).resolve_right (by simpa using hrp))

/-! ### DISCOVER_END (R290, R291) -/

/-- The planned ports whose FAB_DISC holds no match. -/
def mismatched (s t : State) : List Nat :=
  ((List.range 32).filter fun p => discoRole s p != 0).filter fun p => fld t (aFabDisc p) 63 60 != 1

section
variable (s t : State)

theorem mismatched_isEmpty : (mismatched s t).isEmpty = true ↔
    ∀ r : Fin 32, discoRole s r ≠ 0 → fld t (aFabDisc r) 63 60 = 1 := by
  simp [mismatched, List.filter_eq_nil_iff, Fin.forall_iff, not_imp_comm]

/-- The state in which the descriptor ends, where the ports' ends leave t. -/
def discoverEnded (id : Nat) : State :=
  admEnd (modFab (setFld t aFabCtl 2 2 (if planLoaded s && (mismatched s t).isEmpty then 1 else 0))
    fun f => { f with disco := [], discoverId := none }) id 0 (posMask (mismatched s t))

theorem endDiscover_runs {s : State} {id : Nat} (h : s.fab.discoverId = some id) :
    endDiscover s none = discoverEnded s ((List.range 32).foldl (endPort none) s) id := by
  rw [endDiscover, h]
  rfl

theorem reg_discoverEnded (id o : Nat) : reg (discoverEnded s t id) o =
    reg (setFld t aFabCtl 2 2 (if planLoaded s && (mismatched s t).isEmpty then 1 else 0)) o := reg_admEnd _ _ _ _ _

theorem match_discoverEnded (id : Nat) : fld (discoverEnded s t id) aFabCtl 2 2 = 1 ↔
    planLoaded s = true ∧ (mismatched s t).isEmpty = true := by
  rw [fld, reg_discoverEnded, ← fld, fld_setFld_self _ _ _ _ _ le_rfl (by decide), ← Bool.and_eq_true]
  split
  · next h => exact iff_of_true rfl h
  · next h => exact iff_of_false (by decide) h

theorem disc_discoverEnded (id r : Nat) : fld (discoverEnded s t id) (aFabDisc r) 63 60 = fld t (aFabDisc r) 63 60 := by
  have hne : aFabDisc r ≠ aFabCtl := by unfold aFabDisc aFabCtl; omega
  rw [fld, reg_discoverEnded, reg_setFld_ne _ _ _ _ hne, ← fld]

end

/-! ### HELLO_RESEND on a street port (R289, R292) -/

section
variable {s : State} {p : Nat}

theorem portKeys_street (h : p < 24) : portKeys s p = [p] := if_pos (Or.inl h)

theorem turnSet_street (h : p < 24) : turnSet s p = s := if_pos (Or.inl h)

theorem doHelloResend_street (h : p < 24) : doHelloResend s p =
    if !(disco (lostPartner s p) p).active || (disco (lostPartner s p) p).sig.isSome || (lostPartner s p).mgt.entropyBad
      then lostPartner s p else sendHello (lostPartner s p) p p := by
  simp only [doHelloResend, turnSet_street h, portKeys_street h, List.foldl_cons, List.foldl_nil]

/-- While DISCOVER runs, or for 1 ms, the exchange goes on. -/
theorem lostPartner_waits (h : s.fab.discoverId ≠ none ∨ s.now < (disco s p).t0 + 1000000) : lostPartner s p = s := by
  refine if_pos ?_
  rcases h with hid | hnow
  · simp [Option.isSome_iff_ne_none.mpr hid]
  · simp [hnow]

/-- The exchange of a recovered port is over after 1 ms. -/
theorem lostPartner_ends (hp : p < 24) (hid : s.fab.discoverId = none) (hact : (disco s p).active = true)
    (hnow : (disco s p).t0 + 1000000 ≤ s.now) :
    lostPartner s p = stopHere (modDisco (putDisc s p 2) p fun _ => disco0) rPort := by
  refine if_neg ?_
  simp [hid, hact, hp, hnow]

theorem disco_modDisco (s : State) (p : Nat) (f : Disco → Disco) : disco (modDisco s p f) p = f (disco s p) :=
  smGet_set_self _ _ _ _

/-- A port whose exchange is over sends no HELLO. -/
theorem doHelloResend_ended (hp : p < 24) (hid : s.fab.discoverId = none) (hact : (disco s p).active = true)
    (hnow : (disco s p).t0 + 1000000 ≤ s.now) :
    doHelloResend s p = stopHere (modDisco (putDisc s p 2) p fun _ => disco0) rPort := by
  rw [doHelloResend_street hp, lostPartner_ends hp hid hact hnow]
  refine if_pos ?_
  rw [disco_of_keepsExchanges (keepsExchanges_stopHere _ _), disco_modDisco]
  rfl

end

/-- Settles O32: the ports end one by one, and what the later ones rest on stands. -/
theorem discoverRuns : Obligations.DiscoverRuns := by
  intro s a id p
  refine ⟨fun hfirst hstart => ?_, fun hact hsig hbad hwait => ?_, fun hid hact hnow => ?_, fun hid hjob => ?_⟩
  case refine_1 =>
    refine congrArg Host.Outcome.next ?_
    rw [doDiscover, hfirst]
    exact fcStart_starts hstart _
  case refine_2 =>
    refine congrArg Host.Outcome.next ?_
    rw [doHelloResend_street p.2, lostPartner_waits hwait, hact, hsig, hbad]
    rfl
  case refine_3 => exact congrArg Host.Outcome.next (doHelloResend_ended p.2 hid hact hnow)
  case refine_4 =>
    have hnear : ∀ r ∈ List.range 32, discoResult s r = 3 → jobNear s = false := fun r hr h3 =>
      hjob.resolve_right fun h => h ⟨r, List.mem_range.mp hr⟩ h3
    obtain ⟨hkeep, hres⟩ := foldl_endPort (List.range 32) (fun _ => List.mem_range.mp) hnear
    refine ⟨_, congrArg Host.Outcome.next (endDiscover_runs hid), ?_⟩
    generalize (List.range 32).foldl (endPort none) s = t at *
    have hres : ∀ r : Fin 32, fld t (aFabDisc r) 63 60 = discoResult s r := fun r => hres r (List.mem_range.mpr r.2)
    refine ⟨?_, fun r => (disc_discoverEnded s t id r).trans (hres r), ?_, fun x => ?_, fun n => ?_⟩
    · rw [discoverEnded, admEnd_fab, modFab_fab, setFld_fab, hkeep.core]
    · rw [match_discoverEnded, mismatched_isEmpty]
      simp only [hres]
    · exact (memByte_admEnd _ _ _ _ x).trans (memByte_of_keepsCore hkeep.core x)
    · exact (square_admEnd _ _ _ _ n).trans (square_of_keepsCore hkeep.core n)

end Sys2Proof.Machine

/-! The roll call and its assignment (R314 to R316): what an announce block leaves, what the rebinding of lanes leaves alone, and
what the assignment reports and ages. -/

namespace Sys2Proof.Machine

/-! ### ANNOUNCE_BLOCK (R314) -/

section
variable {s : State} {p : Nat} {xs : List (W64 × Byte)}

theorem doAnnounce_lost (h : rxWords xs = none) : doAnnounce s p xs = rollTurn s false := by
  rw [doAnnounce, h]

/-- The state once the corrected words of a block are counted. -/
def announceCounted (s : State) (p : Nat) (rs : List (CWord × Bool)) : State :=
  count (rollTurn s false) (cPort (24 + p) 3) (rs.filter (·.2)).length

variable {rs : List (CWord × Bool)}

theorem doAnnounce_heard (h : rxWords xs = some rs) (hroll : (rollTurn s false).opt.roll = true)
    (hclean : rs.any (·.1.psn) = false) (hok : blockOk (rollTurn s false) (rs.map (·.1.v)) = true) :
    doAnnounce s p xs = modOpt (announceCounted s p rs) fun o =>
      { o with blocks := smSet [] o.blocks (bits (((rs.map (·.1.v))[0]?).getD 0) 47 44) (rs.map (·.1.v)) } := by
  rw [doAnnounce, h]
  exact if_pos (by rw [hroll, hclean, hok]; rfl)

theorem doAnnounce_discards (h : rxWords xs = some rs)
    (hnot : ((rollTurn s false).opt.roll && !rs.any (·.1.psn) && blockOk (rollTurn s false) (rs.map (·.1.v))) = false) :
    doAnnounce s p xs = announceCounted s p rs := by
  rw [doAnnounce, h]
  exact if_neg (Bool.eq_false_iff.mp hnot)

end

/-! ### Lanes that are bound anew (R312, R316) -/

/-- Lanes are bound and unbound: of the photonic links at most the bindings, the pairs carried, what the partners reported, the
blocks sent and the set's turn may differ, and beside them registers, the fabric, counters and the host port. -/
def bindingsMove (s t : State) : Prop :=
  t = { s with
    regs := t.regs, fab := t.fab, host := t.host, pmc := t.pmc
    opt := { s.opt with
      carried := t.opt.carried, bound := t.opt.bound, peer := t.opt.peer, setB := t.opt.setB, announced := t.opt.announced } }

section
variable {s t u : State}

theorem bindingsMove_trans (h : bindingsMove s t) (h' : bindingsMove t u) : bindingsMove s u := by
  unfold bindingsMove at *
  rw [h', h]

theorem bindingsMove_of_keepsCore (h : keepsCore s t) : bindingsMove s t := by
  unfold keepsCore at h
  rw [bindingsMove, h]

theorem bindingsMove_foldl {β : Type} {g : State → β → State} (hg : ∀ t x, bindingsMove t (g t x)) (l : List β)
    (s : State) : bindingsMove s (l.foldl g s) :=
  foldl_keep (P := bindingsMove s) l (fun t x h => bindingsMove_trans h (hg t x)) rfl

theorem linksOnly_of_bindingsMove (h : bindingsMove s t) : linksOnly s t := by
  unfold bindingsMove at h
  rw [linksOnly, h]

theorem squares_of_linksOnly (h : linksOnly s t) : t.squares = s.squares := by rw [h]

theorem roll_of_bindingsMove (h : bindingsMove s t) : t.opt.roll = s.opt.roll := by rw [h]

theorem demand_of_bindingsMove (h : bindingsMove s t) : t.opt.demand = s.opt.demand := by rw [h]

theorem age_of_bindingsMove (h : bindingsMove s t) : t.opt.age = s.opt.age := by rw [h]

theorem blocks_of_bindingsMove (h : bindingsMove s t) : t.opt.blocks = s.opt.blocks := by rw [h]

end

section
variable (s : State)

theorem bindingsMove_bindLane (p l k st : Nat) : bindingsMove s (bindLane s p l k st) := rfl

/-- A lane of an avenue port once it is unbound (R316). -/
def laneUnbound (s : State) (p l : Nat) : State :=
  { setLane (laneCleared s p l) p l lane0 with
    opt := { (laneCleared s p l).opt with bound := smSet 0 (laneCleared s p l).opt.bound (lkey (p - 24) l) 0 } }

theorem unbindPort_lanes (p : Nat) : unbindPort s p = (List.range 8).foldl (fun t l => laneUnbound t p l) s := rfl

theorem keepsCore_laneCleared (p l : Nat) : keepsCore s (laneCleared s p l) :=
  keepsCore_trans (keepsCore_trans (keepsCore_setReg _ _ _) (keepsCore_setReg _ _ _)) (keepsCore_setReg _ _ _)

theorem bindingsMove_laneUnbound (p l : Nat) : bindingsMove s (laneUnbound s p l) := by
  refine bindingsMove_trans (bindingsMove_of_keepsCore (keepsCore_laneCleared s p l)) ?_
  unfold laneUnbound
  generalize laneCleared s p l = t
  rfl

theorem bindingsMove_unbindPort (p : Nat) : bindingsMove s (unbindPort s p) := by
  rw [unbindPort_lanes]
  exact bindingsMove_foldl (fun t l => bindingsMove_laneUnbound t p l) _ s

theorem bindingsMove_sendBlocks (p : Nat) : bindingsMove s (sendBlocks s p) := rfl

theorem bindingsMove_bindSet (p : Nat) (b : Bool) : bindingsMove s (bindSet s p b) :=
  bindingsMove_trans (bindingsMove_unbindPort s p) (bindingsMove_foldl (fun t _ => bindingsMove_bindLane t p _ _ _) _ _)

theorem bindingsMove_rollSet (b : Bool) : bindingsMove s (rollSet s b) :=
  bindingsMove_foldl (fun t p => bindingsMove_trans (bindingsMove_bindSet t p b) (bindingsMove_sendBlocks _ p)) _ s

theorem bindingsMove_rollTurn (due : Bool) : bindingsMove s (rollTurn s due) := by
  unfold rollTurn
  split
  · exact bindingsMove_trans (t := modOpt s fun o => { o with setB := true }) rfl (bindingsMove_rollSet _ true)
  · rfl

theorem bindingsMove_modCarried (c : SMap (List Nat) → SMap (List Nat)) :
    bindingsMove s (modOpt s fun o => { o with carried := c o.carried }) := rfl

theorem bindingsMove_bindPair (x : Nat × Nat) : bindingsMove s (bindPair s x) := by
  unfold bindPair
  dsimp only
  split
  · next y l _ _ =>
    refine bindingsMove_trans (bindingsMove_trans (bindingsMove_bindLane s (24 + x.2) l ((y + 16 - myPos s) % 16) 4) ?_)
      (bindingsMove_modCarried _ fun c => smMod [] c y (· ++ [x.2]))
    exact bindingsMove_of_keepsCore (keepsCore_setReg _ _ _)
  · rfl

end

/-! ### The district under the roll call (R311, R314) -/

/-- The district's registers, which stand below those of the lanes, are as before. -/
def keepsDistrict (s t : State) : Prop := ∀ o, 0x400000 ≤ o → o < 0x402000 → reg t o = reg s o

section
variable {s t u : State}

theorem keepsDistrict_refl (s : State) : keepsDistrict s s := fun _ _ _ => rfl

theorem keepsDistrict_trans (h : keepsDistrict s t) (h' : keepsDistrict t u) : keepsDistrict s u :=
  fun o hlo hhi => (h' o hlo hhi).trans (h o hlo hhi)

theorem keepsDistrict_of_regs (h : t.regs = s.regs) : keepsDistrict s t := fun o _ _ => by rw [reg, h, ← reg]

theorem keepsDistrict_foldl {β : Type} {g : State → β → State} {l : List β}
    (hg : ∀ t, ∀ x ∈ l, keepsDistrict t (g t x)) (s : State) : keepsDistrict s (l.foldl g s) :=
  List.foldlRecOn l g (keepsDistrict_refl s) fun t h x hx => keepsDistrict_trans h (hg t x hx)

theorem keepsDistrict_setReg (s : State) {o : Nat} (v : W64) (h : o < 0x400000 ∨ 0x402000 ≤ o) :
    keepsDistrict s (setReg s o v) :=
  fun _ _ _ => reg_setReg_ne _ _ (by omega)

theorem members_of_keepsDistrict (h : keepsDistrict s t) : members t = members s := by
  have hctl : reg t aOptAvCtl = reg s aOptAvCtl := h _ (by decide) (by decide)
  have hmem : ∀ m ∈ List.range 16, reg t (aOptDmem m) = reg s (aOptDmem m) := fun m hm => by
    have := List.mem_range.mp hm
    exact h _ (by unfold aOptDmem; omega) (by unfold aOptDmem; omega)
  simp only [members, myPos, fld, hctl]
  refine if_congr Iff.rfl rfl (List.filter_congr fun m hm => ?_)
  rw [hmem m hm]

theorem heard_congr (h : keepsDistrict s t) (hb : t.opt.blocks = s.opt.blocks) : heard t = heard s := by
  simp only [heard, members_of_keepsDistrict h, hb]

end

section
variable (s : State)

theorem keepsDistrict_bindLane (p l k st : Nat) : keepsDistrict s (bindLane s p l k st) :=
  keepsDistrict_setReg s _ (.inr (by unfold aOptLanel; omega))

theorem keepsDistrict_laneCleared {p : Nat} (hp : p < 32) (l : Nat) : keepsDistrict s (laneCleared s p l) := by
  have hlane : aOptLanel p l < 0x400000 ∨ 0x402000 ≤ aOptLanel p l := .inr (by unfold aOptLanel; omega)
  have hport : aFabPort p < 0x400000 ∨ 0x402000 ≤ aFabPort p := .inl (by unfold aFabPort; omega)
  exact keepsDistrict_trans (keepsDistrict_trans (keepsDistrict_setReg s _ hlane) (keepsDistrict_setReg _ _ hlane))
    (keepsDistrict_setReg _ _ hport)

theorem keepsDistrict_unbindPort {p : Nat} (hp : p < 32) : keepsDistrict s (unbindPort s p) := by
  rw [unbindPort_lanes]
  exact keepsDistrict_foldl (fun t l _ => keepsDistrict_trans (u := laneUnbound t p l) (keepsDistrict_laneCleared t hp l)
    (keepsDistrict_of_regs rfl)) s

theorem keepsDistrict_bindSet {p : Nat} (hp : p < 32) (b : Bool) : keepsDistrict s (bindSet s p b) :=
  keepsDistrict_trans (keepsDistrict_unbindPort s hp) (keepsDistrict_foldl (fun t _ _ => keepsDistrict_bindLane t p _ _ _) _)

theorem avPorts_lt {p : Nat} (h : p ∈ avPorts s) : p < 32 := by
  unfold avPorts at h
  split at h
  · obtain ⟨i, hi, rfl⟩ := List.mem_map.mp (List.mem_of_mem_filter h)
    have := List.mem_range.mp hi
    omega
  · exact absurd h List.not_mem_nil

theorem keepsDistrict_rollSet (b : Bool) : keepsDistrict s (rollSet s b) :=
  keepsDistrict_foldl (fun t p hp => keepsDistrict_trans (u := sendBlocks (bindSet t p b) p)
    (keepsDistrict_bindSet t (avPorts_lt s hp) b) (keepsDistrict_of_regs rfl)) s

theorem keepsDistrict_rollTurn (due : Bool) : keepsDistrict s (rollTurn s due) := by
  unfold rollTurn
  split
  · exact keepsDistrict_trans (t := modOpt s fun o => { o with setB := true }) (keepsDistrict_of_regs rfl)
      (keepsDistrict_rollSet _ true)
  · exact keepsDistrict_refl s

theorem heard_rollTurn (due : Bool) : heard (rollTurn s due) = heard s :=
  heard_congr (keepsDistrict_rollTurn s due) (blocks_of_bindingsMove (bindingsMove_rollTurn s due))

theorem beatNum_rollTurn (due : Bool) : beatNum (rollTurn s due) = beatNum s := by
  have h : keepsBeat s (rollTurn s due) :=
    keepsBeat_ite (keepsBeat_trans (keepsBeat_modOpt s _) (keepsBeat_rollSet _ true)) (keepsBeat_refl s)
  rw [beatNum, h.2, ← beatNum]

end

/-! ### AV_ASSIGNMENT (R315, R316) -/

section
variable (s : State)

/-- The members not heard are counted and reported. -/
def silentNoted (s : State) : State :=
  let n := (members s).length - (heard s).length
  if n = 0 then s else raiseO (count s 1404 n) 10 0 0 0

/-- Every avenue port is unbound. -/
def portsUnbound (s : State) : State := (avPorts s).foldl unbindPort s

/-- The roll call is over, and no pair carried. -/
def pairsUnbound (s : State) : State := modOpt (portsUnbound (silentNoted s)) fun o => { o with roll := false, carried := [] }

/-- The pairs of this chip are bound. -/
def pairsBound (s : State) : State := (assignment (pairsUnbound s)).foldl bindPair (pairsUnbound s)

/-- Every position has its age (R315). -/
def positionsAged (s : State) : State :=
  modOpt s fun o => { o with age := smSetMany 0 [] ((List.range 16).map fun y => (y, nextAge s y)) }

/-- The positions that a plane carries. -/
def carriedTo (s : State) : List Nat := (List.range 16).filter fun y => smGet [] s.opt.carried y != []

/-- OPT_AV_STATUS after an assignment (R315). -/
def avReport (heardBy carriedBy beat : Nat) : W64 := BitVec.ofNat 64 (heardBy * 2 ^ 48 + carriedBy * 2 ^ 32 + beat % 2 ^ 32)

/-- The assignment is reported. -/
def assignReported (s : State) : State :=
  setReg (positionsAged (pairsBound s)) aOptAvStatus
    (avReport (posMask (heard s)) (posMask (carriedTo (positionsAged (pairsBound s)))) (beatNum s))

theorem doAssignment_closed {s : State} (h : s.opt.roll = false) : doAssignment s = s := by
  rw [doAssignment, h]
  rfl

/-- With a roll call open, its assignment reports and then steers the packets that waited for a plane. -/
theorem doAssignment_runs {s : State} (h : s.opt.roll = true) :
    doAssignment s = (List.range 16).foldl steerWaiting (assignReported (rollTurn s true)) := by
  rw [doAssignment, h]
  rfl

theorem steerWaiting_eq (y : Nat) : steerWaiting s y = { s with fab := (steerWaiting s y).fab } :=
  foldl_keep (P := fun t : State => t = { s with fab := t.fab }) (smGet [] s.fab.pktQ (300 + y))
    (fun t _ h => by rw [h]; rfl) rfl

theorem steered_eq (l : List Nat) : l.foldl steerWaiting s = { s with fab := (l.foldl steerWaiting s).fab } :=
  foldl_keep (P := fun t : State => t = { s with fab := t.fab }) l (fun t y h => by rw [steerWaiting_eq t y, h]) rfl

theorem opt_steered (l : List Nat) : (l.foldl steerWaiting s).opt = s.opt := by rw [steered_eq]

theorem reg_steered (l : List Nat) (o : Nat) : reg (l.foldl steerWaiting s) o = reg s o := by
  rw [steered_eq]
  rfl

theorem linksOnly_steered (l : List Nat) : linksOnly s (l.foldl steerWaiting s) := by
  rw [steered_eq]
  rfl

theorem bindingsMove_silentNoted : bindingsMove s (silentNoted s) := by
  unfold silentNoted
  dsimp only
  split
  · rfl
  · exact bindingsMove_of_keepsCore (keepsCore_trans (keepsCore_count _ _ _) (keepsCore_raise _ _ _ _))

/-- Up to the end of the roll call, lanes are unbound and the silent members noted. -/
theorem bindingsMove_portsUnbound : bindingsMove s (portsUnbound (silentNoted s)) :=
  bindingsMove_trans (bindingsMove_silentNoted s) (bindingsMove_foldl bindingsMove_unbindPort _ _)

theorem bindingsMove_pairsBound : bindingsMove (pairsUnbound s) (pairsBound s) := bindingsMove_foldl bindingsMove_bindPair _ _

theorem roll_pairsBound : (pairsBound s).opt.roll = false := roll_of_bindingsMove (bindingsMove_pairsBound s)

theorem demand_pairsBound : (pairsBound s).opt.demand = s.opt.demand := by
  rw [demand_of_bindingsMove (bindingsMove_pairsBound s), pairsUnbound, modOpt_opt]
  exact demand_of_bindingsMove (bindingsMove_portsUnbound s)

theorem age_pairsBound : (pairsBound s).opt.age = s.opt.age := by
  rw [age_of_bindingsMove (bindingsMove_pairsBound s), pairsUnbound, modOpt_opt]
  exact age_of_bindingsMove (bindingsMove_portsUnbound s)

theorem linksOnly_modOpt (f : Opt → Opt) : linksOnly s (modOpt s f) := rfl

theorem linksOnly_pairsBound : linksOnly s (pairsBound s) :=
  linksOnly_trans (linksOnly_trans (linksOnly_of_bindingsMove (bindingsMove_portsUnbound s)) (linksOnly_modOpt _ _))
    (linksOnly_of_bindingsMove (bindingsMove_pairsBound s))

theorem opt_assignReported :
    (assignReported s).opt = { (pairsBound s).opt with age := (positionsAged (pairsBound s)).opt.age } := by
  rw [assignReported, setReg_opt, positionsAged, modOpt_opt]

theorem linksOnly_assignReported : linksOnly s (assignReported s) :=
  linksOnly_trans (linksOnly_trans (linksOnly_pairsBound s) (linksOnly_modOpt _ _))
    (keepsLanes_of_keepsCore (keepsCore_setReg _ _ _)).1

end

/-! What the report holds. -/

theorem posMask_lt {l : List Nat} {n : Nat} (h : ∀ m ∈ l, m < n) : posMask l < 2 ^ n :=
  List.foldlRecOn (motive := (· < 2 ^ n)) l _ (Nat.two_pow_pos n) fun _ hk m hm =>
    Nat.or_lt_two_pow hk (Nat.pow_lt_pow_right (by decide) (h m hm))

theorem posMask_carriedTo_lt (s : State) : posMask (carriedTo s) < 2 ^ 16 :=
  posMask_lt fun _ hm => List.mem_range.mp (List.mem_of_mem_filter hm)

theorem bits_avReport_beat (m c b : Nat) : bits (avReport m c b) 31 0 = b % 2 ^ 32 := by
  rw [bits, avReport, BitVec.toNat_ofNat, Nat.shiftRight_zero]
  omega

theorem bits_avReport_heard (m b : Nat) {c : Nat} (hc : c < 2 ^ 16) : bits (avReport m c b) 63 48 = m % 2 ^ 16 := by
  rw [bits, avReport, BitVec.toNat_ofNat, Nat.shiftRight_eq_div_pow]
  omega

/-! What an array holds after values for the indices below n. -/

theorem smSetMany_append {α : Type} [DecidableEq α] (d : α) (m : SMap α) (l l' : List (Nat × α)) :
    smSetMany d m (l ++ l') = smSetMany d (smSetMany d m l) l' := by
  induction l generalizing m with
  | nil => rfl
  | cons p t ih => exact ih _

theorem smGet_setMany_range {α : Type} [DecidableEq α] (d : α) (m : SMap α) (f : Nat → α) (n i : Nat) :
    smGet d (smSetMany d m ((List.range n).map fun y => (y, f y))) i = if i < n then f i else smGet d m i := by
  induction n with
  | zero => rfl
  | succ n ih =>
    rw [List.range_succ, List.map_append, smSetMany_append]
    show smGet d (smSet d _ n (f n)) i = _
    rw [smGet_set, ih]
    by_cases hi : i = n
    · rw [if_pos hi, if_pos (by omega), hi]
    · rw [if_neg hi]
      exact if_congr (by omega) rfl rfl

theorem nextAge_eq (s : State) (y : Nat) : nextAge s y =
    if smGet [] s.opt.carried y ≠ [] ∨ smGet 0 s.opt.demand y = 0 then 0 else min (smGet 0 s.opt.age y + 1) 15 := by
  unfold nextAge
  by_cases hc : smGet [] s.opt.carried y = []
  · by_cases hd : smGet 0 s.opt.demand y = 0 <;> simp [hc, hd, Nat.pos_iff_ne_zero]
  · simp [hc]

theorem age_positionsAged (s : State) {y : Nat} (hy : y < 16) : smGet 0 (positionsAged s).opt.age y = nextAge s y :=
  (smGet_setMany_range 0 [] (nextAge s) 16 y).trans (if_pos hy)

/-- Settles O53: a block that is lost, heard or discarded, and what each part of the assignment leaves. -/
theorem rollCallsAssign : Obligations.RollCallsAssign := by
  intro s p l xs hwf
  have hblock : exec (.announceBlock p l xs) s = .next (doAnnounce s p xs) := if_pos hwf
  refine ⟨fun h => ?lost, fun rs h => ⟨fun hroll hclean hok => ?heard, fun hnot => ?discarded⟩, fun h => ?closed,
    fun h => ?assigned⟩
  case lost => rw [hblock, doAnnounce_lost h]
  case heard =>
    rw [hblock, doAnnounce_heard h hroll hclean hok]
    rfl
  case discarded =>
    rw [hblock, doAnnounce_discards h hnot]
    rfl
  case closed => exact congrArg Host.Outcome.next (doAssignment_closed h)
  case assigned =>
    refine ⟨_, congrArg Host.Outcome.next (doAssignment_runs h), ?_⟩
    have hturn := bindingsMove_rollTurn s true
    have hheard := heard_rollTurn s true
    have hbeat := beatNum_rollTurn s true
    generalize rollTurn s true = r at *
    have hlinks : linksOnly s ((List.range 16).foldl steerWaiting (assignReported r)) :=
      linksOnly_trans (linksOnly_trans (linksOnly_of_bindingsMove hturn) (linksOnly_assignReported r)) (linksOnly_steered _ _)
    have hstatus : reg (assignReported r) aOptAvStatus =
        avReport (posMask (heard s)) (posMask (carriedTo (positionsAged (pairsBound r)))) (beatNum s) := by
      rw [assignReported, reg_setReg_self, hheard, hbeat]
    rw [opt_steered, opt_assignReported, fld, fld, reg_steered, hstatus]
    refine ⟨roll_pairsBound r, bits_avReport_beat _ _ _, bits_avReport_heard _ _ (posMask_carriedTo_lt _), fun y => ?_,
      memByte_of_linksOnly hlinks, squares_of_linksOnly hlinks⟩
    have hage := (age_positionsAged (pairsBound r) y.2).trans (nextAge_eq _ _)
    rw [demand_pairsBound, age_pairsBound, demand_of_bindingsMove hturn, age_of_bindingsMove hturn] at hage
    exact hage

end Sys2Proof.Machine

/-! The sensors of the photonic dies and what follows them: the sample that a sensor keeps (R303, R308), the heaters of the
rings and of the phase shifters (R304, R322). -/

namespace Sys2Proof.Machine

/-! ### A sample in range (R303, R308) -/

section
variable (s : State) (die i : Nat)

/-- The sample in range is the sensor's newest. -/
def sampleKept (s : State) (die i : Nat) (x : Int) : State :=
  modOpt s fun o => { o with sens := smSet sensor0 o.sens (die * 64 + i) (optSample s.now x (sensor s (die * 64 + i))) }

/-- The highest temperature of the beat follows. -/
def heatNoted (s : State) : State := modMgt s fun m => { m with phBeat := maxOpt m.phBeat (tphMax s) }

/-- The lanes whose rings use a sensor that ramps above LANE_RATE leave service. -/
def rampDrops (s : State) (die i : Nat) : State :=
  if rampAbove s (die * 64 + i) (fld s aOptCtl 7 0) then
    ((List.range 8).filter fun l => usesSensor s (sensorPort die i) l (i % 4)).foldl
      (fun t l => dropLane t 5 (sensorPort die i) l) s
  else s

theorem doOptSample_keeps {x : Int} (hx : sampleOk x = true) (hf : (sensor s (die * 64 + i)).failed = false) :
    doOptSample s die i x = thermal (prjNote (rampDrops (heatNoted (sampleKept s die i x)) die i)) := by
  have hfailed : (optSample s.now x (sensor s (die * 64 + i))).failed = false := hf
  simp only [doOptSample, hf, hx, hfailed, Bool.false_eq_true, if_true, if_false, Bool.false_and]
  rfl

end

/-! ### The rings' heaters (R304) -/

/-- The setting of a ring's heater, and the sensor value that its last correction used. -/
def ringState (s : State) (k : Nat) : Int × Option Int := (smGet 0 s.opt.heater k, smGet none s.opt.heatRef k)

/-- What a correction makes of them: where the ring's sensor has a value, the setting moves by the gain times its change. -/
def ringFed (s : State) (k : Nat) : Int × Option Int :=
  match ringTemp s (k / 32) (k % 32 / 8) with
  | none => ringState s k
  | some v => ((ringState s k).1 + Config.ringGain (k / 32) (k % 32) * (v - (ringState s k).2.getD v), some v)

section
variable {s : State} {k : Nat}

theorem ringFed_none (h : ringTemp s (k / 32) (k % 32 / 8) = none) : ringFed s k = ringState s k := by
  rw [ringFed, h]

theorem ringFed_some {v : Int} (h : ringTemp s (k / 32) (k % 32 / 8) = some v) : ringFed s k =
    (smGet 0 s.opt.heater k + Config.ringGain (k / 32) (k % 32) * (v - (smGet none s.opt.heatRef k).getD v), some v) := by
  rw [ringFed, h]
  rfl

theorem feedRing_none (h : ringTemp s (k / 32) (k % 32 / 8) = none) : feedRing s k = s := by
  rw [feedRing, h]

theorem feedRing_some {v : Int} (h : ringTemp s (k / 32) (k % 32 / 8) = some v) : feedRing s k = modOpt s fun o =>
    { o with heater := smSet 0 o.heater k (smGet 0 o.heater k +
               Config.ringGain (k / 32) (k % 32) * (v - (smGet none s.opt.heatRef k).getD v)),
             heatRef := smSet none o.heatRef k (some v) } := by
  rw [feedRing, h]
  rfl

theorem ringState_feedRing (s : State) (k j : Nat) :
    ringState (feedRing s k) j = if j = k then ringFed s k else ringState s j := by
  cases h : ringTemp s (k / 32) (k % 32 / 8) with
  | none =>
    rw [feedRing_none h, ringFed_none h]
    split
    · next hj => rw [hj]
    · rfl
  | some v =>
    rw [feedRing_some h, ringFed_some h, ringState, modOpt_opt, smGet_set, smGet_set]
    split <;> rfl

end

/-- Only the heaters of the rings move. -/
def heatersMove (s t : State) : Prop :=
  t = { s with opt := { s.opt with heater := t.opt.heater, heatRef := t.opt.heatRef } }

section
variable {s t u : State}

theorem heatersMove_trans (h : heatersMove s t) (h' : heatersMove t u) : heatersMove s u := by
  unfold heatersMove at *
  rw [h', h]

theorem heatersMove_feedRing (s : State) (k : Nat) : heatersMove s (feedRing s k) := by
  unfold feedRing
  split <;> rfl

theorem ringTemp_of_heatersMove (h : heatersMove s t) (p i : Nat) : ringTemp t p i = ringTemp s p i := by
  have hsens : ∀ k, sensor t k = sensor s k := fun k => by
    rw [h]
    rfl
  simp only [ringTemp, hsens]

/-- A ring's correction rests on the sensors and its own heater. -/
theorem ringFed_congr (h : heatersMove s t) {k : Nat} (hk : ringState t k = ringState s k) : ringFed t k = ringFed s k := by
  simp only [ringFed, ringTemp_of_heatersMove h, hk]

theorem heatersMove_rings (s : State) (n : Nat) : heatersMove s ((List.range n).foldl feedRing s) :=
  foldl_keep (P := heatersMove s) _ (fun t k h => heatersMove_trans h (heatersMove_feedRing t k)) rfl

theorem ringState_rings (s : State) (n j : Nat) :
    ringState ((List.range n).foldl feedRing s) j = if j < n then ringFed s j else ringState s j := by
  induction n generalizing j with
  | zero => rfl
  | succ n ih =>
    rw [List.range_succ, List.foldl_append, List.foldl_cons, List.foldl_nil, ringState_feedRing, ih]
    by_cases hj : j = n
    · subst hj
      rw [if_pos rfl, if_pos (Nat.lt_succ_self j)]
      exact ringFed_congr (heatersMove_rings s j) ((ih j).trans (if_neg (lt_irrefl j)))
    · rw [if_neg hj]
      exact if_congr (by omega) rfl rfl

end

/-! ### The phase shifters' heaters (R322, R304) -/

section
variable (s : State) (temp : Nat → Option Int)

theorem prjFeed_opt : (prjFeed s temp).opt = s.opt := rfl

theorem prjFeed_of_heatersMove {s t : State} (h : heatersMove s t) (temp : Nat → Option Int) :
    prjFeed t temp = { s with opt := (prjFeed t temp).opt, prj := (prjFeed t temp).prj } := by
  unfold heatersMove at h
  rw [h]
  rfl

/-- The settings of the shifters' heaters moved by their gains times the changes of their sensors. -/
def shiftersFed (s : State) (temp : Nat → Option Int) : List Int :=
  (List.range shifters).map fun k => (s.prj.heater[k]?).getD 0 +
    Config.shifterGain k * (((List.range 64).map (shiftDelta s temp))[Config.shifterSensor k % 64]?).getD 0

theorem heater_prjFeed : (prjFeed s temp).prj.heater =
    if ((List.range 64).map (shiftDelta s temp)).all (· == 0) then s.prj.heater else shiftersFed s temp := rfl

theorem shiftDelta_listed {j : Nat} (h : j < 64) :
    (((List.range 64).map (shiftDelta s temp))[j]?).getD 0 = shiftDelta s temp j := by
  rw [List.getElem?_map, List.getElem?_range h, Option.map_some, Option.getD_some]

theorem shiftersFed_get {k : Nat} (hk : k < shifters) : ((shiftersFed s temp)[k]?).getD 0 =
    (s.prj.heater[k]?).getD 0 + Config.shifterGain k * shiftDelta s temp (Config.shifterSensor k % 64) := by
  rw [shiftersFed, List.getElem?_map, List.getElem?_range hk, Option.map_some, Option.getD_some,
    shiftDelta_listed s temp (Nat.mod_lt _ (by decide))]

/-- Where no sensor has changed, the heaters stand, as moving each by its gain times 0 would leave them. -/
theorem heater_prjFeed_get {k : Nat} (hk : k < shifters) : ((prjFeed s temp).prj.heater[k]?).getD 0 =
    (s.prj.heater[k]?).getD 0 + Config.shifterGain k * shiftDelta s temp (Config.shifterSensor k % 64) := by
  rw [heater_prjFeed]
  split
  · next hall =>
    have hzero : shiftDelta s temp (Config.shifterSensor k % 64) = 0 := by
      simpa using List.all_eq_true.mp hall _ (List.mem_map_of_mem (List.mem_range.mpr (Nat.mod_lt _ (by decide))))
    rw [hzero, mul_zero, add_zero]
  · exact shiftersFed_get s temp hk

end

/-! ### RING_FEEDFORWARD (R304) -/

section
variable (s : State)

/-- The rings' heaters have followed their sensors. -/
def ringsFollowed (s : State) : State := (List.range 1024).foldl feedRing s

/-- The sensor of the west die that the phase shifters follow under an index. -/
def westTemp (s : State) (i : Nat) : Option Int := ringTemp s (sensorPort 1 i) (i % 4)

theorem heatersMove_ringsFollowed : heatersMove s (ringsFollowed s) := heatersMove_rings s 1024

theorem doFeedforward_eq : doFeedforward s = prjFeed (ringsFollowed s) (westTemp s) := rfl

theorem prj_ringsFollowed : (ringsFollowed s).prj = s.prj := by rw [heatersMove_ringsFollowed s]

theorem doFeedforward_frame : doFeedforward s = { s with opt := (doFeedforward s).opt, prj := (doFeedforward s).prj } := by
  rw [doFeedforward_eq]
  exact prjFeed_of_heatersMove (heatersMove_ringsFollowed s) _

theorem shifter_doFeedforward {k : Nat} (hk : k < shifters) : ((doFeedforward s).prj.heater[k]?).getD 0 =
    (s.prj.heater[k]?).getD 0 + Config.shifterGain k * shiftDelta s (westTemp s) (Config.shifterSensor k % 64) := by
  rw [doFeedforward_eq, heater_prjFeed_get _ _ hk, prj_ringsFollowed, shiftDelta, prj_ringsFollowed, ← shiftDelta]

theorem ring_doFeedforward {k : Nat} (hk : k < 1024) : ringState (doFeedforward s) k = ringFed s k := by
  rw [ringState, doFeedforward_eq, prjFeed_opt, ← ringState]
  exact (ringState_rings s 1024 k).trans (if_pos hk)

end

end Sys2Proof.Machine

/-! The lanes of the photonic links (R302, R305 to R307, R320) and their lasers (R309). -/

namespace Sys2Proof.Machine

/-- The registers of lanes and lasers stand above those of errors. -/
theorem not_mem_errRegs_opt_of_le {o : Nat} (h : 0x400020 ≤ o) : o ∉ errRegs .opt := fun ho =>
  absurd ((by decide : ∀ x ∈ errRegs .opt, x < 0x400020) o ho) (Nat.not_lt.mpr h)

theorem reg_raiseO (s : State) (b port lane laser : Nat) {o : Nat} (h : 0x400020 ≤ o) :
    reg (raiseO s b port lane laser) o = reg s o := keepsRegs_raise _ _ _ _ _ (not_mem_errRegs_opt_of_le h)

/-! ### Lanes that go DOWN (R305) -/

section
variable {s : State} {p l : Nat}

theorem dropLane_live (h : laneLive s p l = true) (b : Nat) : dropLane s b p l = laneOut (raiseO s b p l 0) p l 6 := if_pos h

theorem dropLane_out (h : laneLive s p l = false) (b : Nat) : dropLane s b p l = s := if_neg (Bool.eq_false_iff.mp h)

/-- A field below STATE leaves the lane's state. -/
theorem laneSt_setFld_below (s : State) (p l : Nat) {hi lo : Nat} (v : Nat) (hl : lo ≤ hi) (hh : hi < 60) :
    laneSt (setFld s (aOptLanel p l) hi lo v) p l = laneSt s p l :=
  fld_setFld_ne s _ hi lo v _ 63 60 hl (by omega) (.inr (.inr hh))

theorem laneSt_notePrefec (s : State) (p l errs bts : Nat) : laneSt (notePrefec s p l errs bts) p l = laneSt s p l :=
  laneSt_setFld_below s p l _ (by decide) (by decide)

theorem laneLive_notePrefec (s : State) (p l errs bts : Nat) : laneLive (notePrefec s p l errs bts) p l = laneLive s p l := by
  rw [laneLive, laneSt_notePrefec, ← laneLive]

theorem doLaneDown_ber_below {errs bts : Nat} (h : berAbove errs bts (fld s aOptCtl 15 8) = false) :
    doLaneDown s p l (.ber errs bts) = notePrefec s p l errs bts := if_neg (Bool.eq_false_iff.mp h)

theorem doLaneDown_ber_above {errs bts : Nat} (hlive : laneLive s p l = true)
    (h : berAbove errs bts (fld s aOptCtl 15 8) = true) :
    doLaneDown s p l (.ber errs bts) = laneOut (raiseO (notePrefec s p l errs bts) 4 p l 0) p l 6 :=
  (if_pos h).trans (dropLane_live (by rw [laneLive_notePrefec, hlive]) 4)

end

/-! ### Relocks (R306, R307) -/

section
variable {s : State} {p l : Nat}

/-- The relocks of a lane that failed in a row. -/
def withFails (s : State) (p l n : Nat) : State := modOpt s fun o => { o with fails := smSet 0 o.fails (lkey p l) n }

theorem relockFailed_again (h : smGet 0 s.opt.fails (lkey p l) < 2) : relockFailed s p l =
    setFld (withFails s p l (smGet 0 s.opt.fails (lkey p l) + 1)) (aOptLanel p l) 63 60 1 := by
  have hn : ¬ 3 ≤ smGet 0 s.opt.fails (lkey p l) + 1 := by omega
  simp only [relockFailed, if_neg hn, withFails]

theorem relockFailed_third (h : 2 ≤ smGet 0 s.opt.fails (lkey p l)) :
    relockFailed s p l = laneOut (withFails s p l 0) p l 7 := by
  have hn : 3 ≤ smGet 0 s.opt.fails (lkey p l) + 1 := by omega
  simp only [relockFailed, if_pos hn, withFails]

theorem doRelockEnd_seek (h : laneSt s p l = 6) (hp : p < 24) :
    doRelockEnd s p l .seek = setFld s (aOptLanel p l) 63 60 1 := if_pos ⟨h, hp⟩

theorem doRelockEnd_locked (h : laneSt s p l = 1) : doRelockEnd s p l .locked = setFld s (aOptLanel p l) 63 60 2 := if_pos h

theorem doRelockEnd_pilot {wl : Fin 16} (h : laneSt s p l = 2) (hw : fld s (aOptLanel p l) 59 56 = wl)
    (hlit : laserLit s (portBank p) wl = true) :
    doRelockEnd s p l (.pilot wl) = setFld (ringsGood s p wl) (aOptLanel p l) 63 60 3 := if_pos ⟨h, hw, hlit⟩

theorem doRelockEnd_trained {errs : Nat} (h : laneSt s p l = 3) (he : errs ≤ 100) :
    doRelockEnd s p l (.trained errs) = laneGood (withFails s p l 0) p l :=
  (if_neg (not_not_intro h)).trans (if_pos he)

theorem doRelockEnd_untrained {errs : Nat} (h : laneSt s p l = 3) (he : 100 < errs) :
    doRelockEnd s p l (.trained errs) = relockFailed s p l :=
  (if_neg (not_not_intro h)).trans (if_neg (Nat.not_le.mpr he))

theorem doRelockEnd_failed (h : laneSt s p l = 1 ∨ laneSt s p l = 2 ∨ laneSt s p l = 3) :
    doRelockEnd s p l .failed = relockFailed s p l := if_pos (by tauto)

end

/-! ### Lane management words (R302, R320) -/

section
variable {s : State} {p l : Nat} {w : W64} {chk : Byte}

theorem modOpt_of_keepsBesideRegs {s t : State} (h : keepsBesideRegs s t) (f : Opt → Opt) :
    modOpt t f = { s with regs := (modOpt t f).regs, opt := (modOpt t f).opt } := by
  unfold keepsBesideRegs at h
  rw [h]
  rfl

/-- The partner's power and state, as a management word gives them. -/
def partnerNoted (s : State) (p l : Nat) (w : W64) : State :=
  modOpt (setFld s (aOptLanel p l) 47 40 (bits w 55 48)) fun o => { o with peer := smSet 0 o.peer (lkey p l) (bits w 39 36) }

theorem doManagementWord_lost (h : readWord w chk = .lost) : doManagementWord s p l w chk = s := by
  rw [doManagementWord, h]
  rfl

theorem fld_partnerNoted (s : State) (p l : Nat) (w : W64) (o hi lo : Nat) :
    fld (partnerNoted s p l w) o hi lo = fld (setFld s (aOptLanel p l) 47 40 (bits w 55 48)) o hi lo := by
  rw [fld, reg, partnerNoted, modOpt_regs, ← reg, ← fld]

theorem power_partnerNoted (s : State) (p l : Nat) (w : W64) :
    fld (partnerNoted s p l w) (aOptLanel p l) 47 40 = bits w 55 48 := by
  rw [fld_partnerNoted, fld_setFld_self _ _ _ _ _ (by decide) (by decide), Nat.mod_eq_of_lt (bits_lt w 55 48)]

theorem laneSt_partnerNoted (s : State) (p l : Nat) (w : W64) : laneSt (partnerNoted s p l w) p l = laneSt s p l := by
  rw [laneSt, fld_partnerNoted, ← laneSt, laneSt_setFld_below s p l _ (by decide) (by decide)]

theorem keepsRegs_partnerNoted (s : State) (p l : Nat) (w : W64) : keepsRegs s (partnerNoted s p l w) [aOptLanel p l] :=
  keepsRegs_join (keepsRegs_setReg s _ _) (keepsRegs_of_regs (modOpt_regs _ _) _)

theorem partnerNoted_frame (s : State) (p l : Nat) (w : W64) :
    partnerNoted s p l w = { s with regs := (partnerNoted s p l w).regs, opt := (partnerNoted s p l w).opt } :=
  modOpt_of_keepsBesideRegs (keepsBesideRegs_setFld s _ _ _ _) _

theorem doManagementWord_notes {w' : W64} (h : readWord w chk = .clean ⟨w', false⟩) (hlive : laneLive s p l = true)
    (hready : laneSt s p l ≠ 4) (hmargin : lowMargin s w' = false) :
    doManagementWord s p l w chk = partnerNoted s p l w' := by
  rw [← laneSt_partnerNoted s p l w', partnerNoted] at hready
  simp only [doManagementWord, h, rxWord, hlive, hmargin, hready, partnerNoted, Bool.not_true, Bool.or_self, Bool.false_eq_true,
    if_false, false_and, and_false]

end

/-! ### RX_POWER_MEASURE (R302, R320) -/

theorem prefec_lt (errs bts : Nat) : prefec errs bts < 256 :=
  List.foldlRecOn (motive := (· < 256)) _ _ (by decide) fun _ hm _ hk =>
    max_lt hm (List.mem_range.mp (List.mem_of_mem_filter hk))

section
variable (s : State) (p l errs bts : Nat)

theorem doRxPower_inRange {x : Int} (hlo : -128 ≤ x) (hhi : x ≤ 127) : doRxPower s p l x errs bts =
    setFld (notePrefec s p l errs bts) (aOptLanel p l) 55 48 (BitVec.ofInt 8 x).toNat := by
  rw [doRxPower, min_eq_right hhi, max_eq_right hlo]

theorem fld_notePrefec : fld (notePrefec s p l errs bts) (aOptLanel p l) 39 32 = prefec errs bts :=
  (fld_setFld_self s _ 39 32 _ (by decide) (by decide)).trans (Nat.mod_eq_of_lt (prefec_lt errs bts))

end

/-! ### Lasers (R309) -/

theorem laserMate_ne (n : Nat) : laserMate n ≠ n := by
  unfold laserMate
  split <;> omega

theorem aOptLaser_mate_ne (n : Nat) : aOptLaser (laserMate n) ≠ aOptLaser n := fun h =>
  laserMate_ne n (by unfold aOptLaser at h; omega)

section
variable {s : State} {n : Nat}

/-- A laser that fails is reported as FAILED. -/
def laserReported (s : State) (n : Nat) : State := setFld (raiseO s 6 0 0 n) (aOptLaser n) 31 29 4

theorem laserState_mate_reported (s : State) (n : Nat) :
    laserState (laserReported s n) (laserMate n) = laserState s (laserMate n) := by
  rw [laserState, fld, laserReported, reg_setFld_ne _ _ _ _ (aOptLaser_mate_ne n),
    reg_raiseO _ _ _ _ _ (by unfold aOptLaser; omega)]
  rfl

theorem doLaserFail_spare (h0 : laserState s n ≠ 0) (h4 : laserState s n ≠ 4) (hspare : laserActive s n = false)
    (hmate : laserState s (laserMate n) ≠ 4) : doLaserFail s n = prjNote (laserReported s n) := by
  rw [← laserState_mate_reported s n, laserReported] at hmate
  simp only [doLaserFail, laserReported, hspare, Bool.false_eq_true, if_false, if_neg hmate, h0, h4, or_self]

/-- The laser is no longer ACTIVE. -/
def laserLeft (s : State) (n : Nat) : State := setFld s (aOptLaser n) 28 28 0

/-- A laser in STANDBY is ACTIVE, and on. -/
def laserJoined (s : State) (m : Nat) : State := setFld (setFld s (aOptLaser m) 28 28 1) (aOptLaser m) 31 29 2

theorem doLaserSwap_swaps (h4 : laserState s n = 4) (hactive : laserActive s n = true)
    (hmate : laserState s (laserMate n) = 3) : doLaserSwap s n = laserJoined (laserLeft s n) (laserMate n) :=
  (if_pos h4).trans (if_pos (by rw [hactive, hmate]; rfl))

theorem reg_laserJoined_ne (s : State) {m o : Nat} (h : o ≠ aOptLaser m) : reg (laserJoined s m) o = reg s o := by
  rw [laserJoined, reg_setFld_ne _ _ _ _ h, reg_setFld_ne _ _ _ _ h]

theorem laserActive_joined (s : State) (m : Nat) : laserActive (laserJoined s m) m = true := by
  rw [laserActive, laserJoined, fld_setFld_ne _ _ 31 29 _ _ 28 28 (by decide) (by decide) (.inr (.inl (by decide))),
    fld_setFld_self _ _ 28 28 _ (by decide) (by decide)]
  rfl

theorem laserState_joined (s : State) (m : Nat) : laserState (laserJoined s m) m = 2 :=
  fld_setFld_self _ _ 31 29 _ (by decide) (by decide)

theorem laserActive_left (s : State) (n : Nat) : laserActive (laserLeft s n) n = false := by
  rw [laserActive, laserLeft, fld_setFld_self _ _ 28 28 _ (by decide) (by decide)]
  rfl

theorem laserState_left (s : State) (n : Nat) : laserState (laserLeft s n) n = laserState s n :=
  fld_setFld_ne s _ 28 28 _ _ 31 29 (by decide) (by decide) (.inr (.inr (by decide)))

/-- The register of a laser stands where its mate takes its place. -/
theorem reg_swapped_self (s : State) (n : Nat) :
    reg (laserJoined s (laserMate n)) (aOptLaser n) = reg s (aOptLaser n) := reg_laserJoined_ne s (aOptLaser_mate_ne n).symm

theorem keepsRegs_swapped (s : State) (n : Nat) :
    keepsRegs s (laserJoined (laserLeft s n) (laserMate n)) [aOptLaser n, aOptLaser (laserMate n)] :=
  keepsRegs_join (keepsRegs_setReg_mem s _ _ (by simp)) (keepsRegs_join (keepsRegs_setReg_mem _ _ _ (by simp))
    (keepsRegs_setReg_mem _ _ _ (by simp)))

theorem keepsBesideRegs_swapped (s : State) (n : Nat) : keepsBesideRegs s (laserJoined (laserLeft s n) (laserMate n)) :=
  keepsBesideRegs_trans (keepsBesideRegs_setFld s _ _ _ _)
    (keepsBesideRegs_trans (keepsBesideRegs_setFld _ _ _ _ _) (keepsBesideRegs_setFld _ _ _ _ _))

/-- The warning and the aged bias of a laser. -/
def laserAged (s : State) (n : Nat) : State :=
  setFld (setFld s (aOptLaser n) 27 27 1) (aOptLaser n) 15 8 (max 85 (fld s (aOptLaser n) 15 8))

theorem reg_doLaserAge (s : State) (n : Nat) : reg (doLaserAge s n) (aOptLaser n) = reg (laserAged s n) (aOptLaser n) :=
  reg_raiseO _ _ _ _ _ (by unfold aOptLaser; omega)

theorem keepsCore_doLaserAge (s : State) (n : Nat) : keepsCore s (doLaserAge s n) :=
  keepsCore_trans (keepsCore_trans (keepsCore_setReg _ _ _) (keepsCore_setReg _ _ _)) (keepsCore_raise _ _ _ _)

theorem warned_laserAged (s : State) (n : Nat) : fld (laserAged s n) (aOptLaser n) 27 27 = 1 := by
  rw [laserAged, fld_setFld_ne _ _ 15 8 _ _ 27 27 (by decide) (by decide) (.inr (.inr (by decide))),
    fld_setFld_self _ _ 27 27 _ (by decide) (by decide)]
  rfl

theorem bias_laserAged (s : State) (n : Nat) : 85 ≤ fld (laserAged s n) (aOptLaser n) 15 8 := by
  have hb : fld s (aOptLaser n) 15 8 < 256 := bits_lt _ 15 8
  rw [laserAged, fld_setFld_self _ _ 15 8 _ (by decide) (by decide)]
  omega

end

/-- Settles O52: each command's arm where its premises hold. That BIAS_PCT is at least 85 after the warning is log entry 39. -/
theorem photonicLinksFollow : Obligations.PhotonicLinksFollow := by
  intro s die i p l n x w errs bts
  refine ⟨fun hx hf => ?sample, ⟨_, rfl, doFeedforward_frame s, fun _ => shifter_doFeedforward s, fun k => ?rings⟩,
    fun hlive => ⟨?lock, ?pilot⟩, fun hout => ⟨?lockOut, ?pilotOut⟩, ⟨fun hber => ?berBelow, fun hlive hber => ?berAbove⟩,
    ⟨fun h hp => ?seek, fun h => ?locked, fun wl h hw hlit => ?pilotGood, fun h he => ?trained, fun h he hf => ?untrained,
      fun h hf => ?failed, fun h hf => ?third⟩,
    fun chk => ⟨fun hlost => ?lost, fun hread hlive hready hmargin => ?word⟩, fun hlo hhi => ?power,
    fun h0 h4 hspare hmate => ?laserFails, fun h4 hactive hmate => ?laserSwaps, ?laserAges⟩
  case sample => exact congrArg Host.Outcome.next (doOptSample_keeps s die i hx hf)
  case rings =>
    have hk := ring_doFeedforward s k.2
    split
    · next h =>
      rw [ringFed_none h] at hk
      exact Prod.mk.inj hk
    · next v h =>
      rw [ringFed_some h] at hk
      exact (Prod.mk.inj hk).symm
  case lock => exact congrArg Host.Outcome.next (dropLane_live hlive 3)
  case pilot => exact congrArg Host.Outcome.next (dropLane_live hlive 2)
  case lockOut => exact congrArg Host.Outcome.next (dropLane_out hout 3)
  case pilotOut => exact congrArg Host.Outcome.next (dropLane_out hout 2)
  case berBelow => exact congrArg Host.Outcome.next (doLaneDown_ber_below hber)
  case berAbove => exact congrArg Host.Outcome.next (doLaneDown_ber_above hlive hber)
  case seek => exact congrArg Host.Outcome.next (doRelockEnd_seek h hp)
  case locked => exact congrArg Host.Outcome.next (doRelockEnd_locked h)
  case pilotGood => exact congrArg Host.Outcome.next (doRelockEnd_pilot h hw hlit)
  case trained => exact congrArg Host.Outcome.next (doRelockEnd_trained h he)
  case untrained => exact congrArg Host.Outcome.next ((doRelockEnd_untrained h he).trans (relockFailed_again hf))
  case failed => exact congrArg Host.Outcome.next ((doRelockEnd_failed h).trans (relockFailed_again hf))
  case third => exact congrArg Host.Outcome.next ((doRelockEnd_failed h).trans (relockFailed_third hf))
  case lost => exact congrArg Host.Outcome.next (doManagementWord_lost hlost)
  case word =>
    exact ⟨_, congrArg Host.Outcome.next (doManagementWord_notes hread hlive hready hmargin), power_partnerNoted s p l w,
      smGet_set_self _ _ _ _, keepsRegs_partnerNoted s p l w, partnerNoted_frame s p l w⟩
  case power =>
    refine ⟨_, congrArg Host.Outcome.next (doRxPower_inRange s p l errs bts hlo hhi), ?_, ?_, ?_, ?_⟩
    · exact (fld_setFld_self _ _ 55 48 _ (by decide) (by decide)).trans (Nat.mod_eq_of_lt (BitVec.isLt _))
    · rw [fld_setFld_ne _ _ 55 48 _ _ 39 32 (by decide) (by decide) (.inr (.inl (by decide))), fld_notePrefec]
    · exact keepsRegs_join (keepsRegs_setReg s _ _) (keepsRegs_setReg _ _ _)
    · exact keepsBesideRegs_trans (keepsBesideRegs_setFld s _ _ _ _) (keepsBesideRegs_setFld _ _ _ _ _)
  case laserFails => exact congrArg Host.Outcome.next (doLaserFail_spare h0 h4 hspare hmate)
  case laserSwaps =>
    refine ⟨_, congrArg Host.Outcome.next (doLaserSwap_swaps h4 hactive hmate), ?_, laserActive_joined _ _,
      laserState_joined _ _, ?_, keepsRegs_swapped s n, keepsBesideRegs_swapped s n⟩
    · rw [laserActive, fld, reg_swapped_self, ← fld, ← laserActive, laserActive_left]
    · rw [laserState, fld, reg_swapped_self, ← fld, ← laserState, laserState_left, h4]
  case laserAges =>
    refine ⟨_, rfl, ?_, ?_, bit_raise _ .opt _ (by decide), memByte_of_keepsCore (keepsCore_doLaserAge s n), ?_⟩
    · rw [fld, reg_doLaserAge, ← fld, warned_laserAged]
    · rw [fld, reg_doLaserAge, ← fld]
      exact bias_laserAged s n
    · rw [keepsCore_doLaserAge s n]

end Sys2Proof.Machine

/-! Steps and the queue, poisoned words, and which commands go on. -/

namespace Sys2Proof.Machine

/-- Settles O1: the branch of a step on a queue with a front. -/
theorem stepRunsFrontCommand : Obligations.StepRunsFrontCommand := fun _ _ _ => rfl

/-! ### Poisoned words (R378) -/

/-- A word that arrives with syndrome 0xFF is poisoned (R377, R378). -/
theorem readWord_poisoned {v : W64} {c : Byte} (h : c.toNat ^^^ checkBits v = 0xFF) : readWord v c = .clean ⟨0, true⟩ := by
  simp only [readWord, h]
  rfl

section
variable {s : State} {w : Nat}

theorem keepsMem_poisonWord (h : s.stk.chan = []) : keepsMem s (poisonWord s w) (8 * w) 8 := fun x hx => by
  have hne : x / 8 ≠ w := by omega
  rw [memByte_poisonWord h, memPsn_poisonWord h, if_neg hne, decide_eq_false hne, Bool.false_or]
  exact ⟨rfl, rfl⟩

theorem keepsQuarters_poisonWord (h : s.stk.chan = []) : keepsQuarters s (poisonWord s w) :=
  keepsQuarters_trans (keepsQuarters_breakRes s w)
    (keepsQuarters_of_quarters (by rw [poisonWord_of_noChan h]))

end

/-- Settles O7: a poisoned word's code, and what its write makes of memory and of the reservations on it. -/
theorem poisonedWordHoldsZero : Obligations.PoisonedWordHoldsZero := by
  refine ⟨⟨rfl, fun v c h => readWord_poisoned h⟩, fun s w h => ⟨?marked, fun i hi => ?zero, keepsMem_poisonWord h,
    keepsQuarters_poisonWord h, ?frame⟩⟩
  case marked => simp [memPsn_poisonWord h]
  case zero => rw [memByte_poisonWord h, if_pos (by omega)]
  case frame =>
    rw [poisonWord_of_noChan h]

/-! ### Commands that go on (log entries 8 and 66) -/

theorem notWellFormed_faults (c : Bool) (s : State) :
    (if !c then .fault .illFormed else .next s : Out) = if c then .next s else .fault .illFormed := by
  cases c <;> rfl

/-- Every command's arm goes on, but for the check of the operands that come from outside, which faults. -/
theorem exec_wellFormed (c : Instr) (s : State) :
    ∃ t, exec c s = if WF.command c then .next t else .fault .illFormed := by
  cases c
  case bar4Read => exact ⟨_, notWellFormed_faults _ _⟩
  case bar4Write => exact ⟨_, notWellFormed_faults _ _⟩
  case registerWrite at_ bytes v src ep => cases at_ <;> exact ⟨_, rfl⟩
  case registerReadClear at_ bytes src => cases at_ <;> exact ⟨_, rfl⟩
  all_goals exact ⟨_, rfl⟩

/-- Settles O60: the two answers of a command, by the check of its operands. -/
theorem wellFormedCommandsGoOn : Obligations.WellFormedCommandsGoOn := by
  intro c s
  obtain ⟨t, ht⟩ := exec_wellFormed c s
  rw [ht]
  cases WF.command c
  · exact ⟨rfl, fun _ => rfl⟩
  · exact ⟨rfl, nofun⟩

end Sys2Proof.Machine

/-! PROJECT, the settle and the references of TRACKING (R325, R332). -/

namespace Sys2Proof.Machine

/-! ### What the queue and the flags leave of the projector -/

/-- Of the projector only the submissions may differ. -/
def onlySubs (s t : State) : Prop := t.prj = { s.prj with subs := t.prj.subs }

theorem onlySubs_trans {s t u : State} (h : onlySubs s t) (h' : onlySubs t u) : onlySubs s u := by
  unfold onlySubs at *
  rw [h', h]

theorem onlySubs_of_prj {s t : State} (h : t.prj = s.prj) : onlySubs s t := by
  unfold onlySubs
  rw [h]

theorem onlySubs_modPrj (s : State) (g : Prj → List Sub) : onlySubs s (modPrj s fun p => { p with subs := g p }) := rfl

theorem onlySubs_ite {s t u : State} {c : Prop} [Decidable c] (h : onlySubs s t) (h' : onlySubs s u) :
    onlySubs s (if c then t else u) := by split <;> assumption

theorem onlySubs_of_keepsCore {s t : State} (h : keepsCore s t) : onlySubs s t := onlySubs_of_prj (by rw [h])

theorem memByte_of_keepsBesidePrj {s t : State} (h : keepsBesidePrj s t) (a : Nat) : memByte t a = memByte s a := by
  rw [h]
  rfl

section
variable (s : State)

theorem onlySubs_prjNote : onlySubs s (prjNote s) := by
  have herr : ∀ (t : State) (c : Bool) (b : Nat), onlySubs t (if c then raiseP t b (prjSelSlot s) 0 else t) := fun t c b =>
    onlySubs_ite (onlySubs_of_keepsCore (keepsCore_raise _ _ _ _)) (onlySubs_of_prj rfl)
  unfold prjNote
  dsimp only
  exact onlySubs_ite (onlySubs_of_prj rfl) (onlySubs_trans (onlySubs_trans (onlySubs_trans (onlySubs_modPrj s _)
    (herr _ _ 1)) (herr _ _ 2)) (herr _ _ 3))

theorem onlySubs_prjEnqueue : onlySubs s (prjEnqueue s) := onlySubs_ite (onlySubs_modPrj s _) (onlySubs_of_prj rfl)

theorem onlySubs_prjServe : onlySubs s (prjServe s) := by
  rw [prjServe_eq]
  exact onlySubs_trans (onlySubs_trans (onlySubs_trans (onlySubs_trans (onlySubs_prjEnqueue s) (onlySubs_modPrj _ _))
    (onlySubs_prjEnqueue _)) (onlySubs_of_prj (prjCounts_prj _))) (onlySubs_prjNote _)

/-- Without submissions the queue leaves the projector as it is. -/
theorem prj_prjServe_of_noSubs {s : State} (h : s.prj.subs = []) : (prjServe s).prj = s.prj := by
  have hnone : (prjServe s).prj.subs = [] := List.eq_nil_iff_forall_not_mem.mpr fun y hy => by
    obtain ⟨x, hx, -⟩ := (subsAdvance_prjServe s).2 y hy
    rw [h] at hx
    exact List.not_mem_nil hx
  rw [onlySubs_prjServe s, hnone, ← h]

theorem length_subs_prjNote : (prjNote s).prj.subs.length = s.prj.subs.length := by
  obtain ⟨⟨g, -, -, hsubs⟩, -⟩ := prjNote_frame s
  rw [hsubs, List.length_map]

theorem keepsRegs_prjNote : keepsRegs s (prjNote s) (errRegs .prj) := by
  have herr : ∀ (t : State) (c : Bool) (b : Nat),
      keepsRegs t (if c then raiseP t b (prjSelSlot s) 0 else t) (errRegs .prj) := fun t c b =>
    keepsRegs_ite (keepsRegs_raise _ _ _ _) (keepsRegs_refl _ _)
  unfold prjNote
  dsimp only
  exact keepsRegs_ite (keepsRegs_refl _ _) (keepsRegs_join (keepsRegs_join (keepsRegs_join
    (t := modPrj s _) (keepsRegs_of_regs rfl _) (herr _ _ 1)) (herr _ _ 2)) (herr _ _ 3))

/-- The counts of the queue lie below the other fields of PRJ_STATUS. -/
theorem fld_prjCounts {hi lo : Nat} (h : 18 < lo) : fld (prjCounts s) aPrjStatus hi lo = fld s aPrjStatus hi lo := by
  rw [prjCounts, fld_setFld_ne _ _ 6 0 _ _ _ _ (by decide) (by decide) (.inr (.inr (by omega))),
    fld_setFld_ne _ _ 18 16 _ _ _ _ (by decide) (by decide) (.inr (.inr h))]

theorem regs_prjEnqueue : (prjEnqueue s).regs = s.regs := by
  unfold prjEnqueue
  split <;> rfl

theorem fld_prjServe {hi lo : Nat} (h : 18 < lo) : fld (prjServe s) aPrjStatus hi lo = fld s aPrjStatus hi lo := by
  have hfill : (prjEnqueue (prjFill4 (prjEnqueue s))).regs = s.regs := (regs_prjEnqueue _).trans (regs_prjEnqueue s)
  rw [prjServe_eq, fld, keepsRegs_prjNote _ aPrjStatus (by decide), ← fld, fld_prjCounts _ h, fld, reg, hfill, ← reg, ← fld]

end

/-! ### LOAD, SELECT and LOAD_SELECT (R325) -/

theorem reg_modPrj (s : State) (f : Prj → Prj) (o : Nat) : reg (modPrj s f) o = reg s o := rfl

theorem fld_modPrj (s : State) (f : Prj → Prj) (o hi lo : Nat) : fld (modPrj s f) o hi lo = fld s o hi lo := rfl

theorem reg_modAdm (s : State) (id : Nat) (f : Adm → Adm) (o : Nat) : reg (modAdm s id f) o = reg s o := rfl

section
variable {s : State} {a : Adm}

/-- A LOAD into a slot that is not selected reads its table. -/
theorem prjLoadStep_loads (h : prjSel s = false ∨ prjSelSlot s ≠ pjSlot a.raw) :
    prjLoadStep s a = ((prjLoad s a.raw).1, if (prjLoad s a.raw).2 then none else some 0x10) :=
  if_neg fun hsel => by
    rw [Bool.and_eq_true, beq_iff_eq] at hsel
    exact h.elim (fun h => Bool.false_ne_true (h.symm.trans hsel.1)) fun h => h hsel.2

theorem prjLoadStep_refused (h : ¬ (prjSel s = false ∨ prjSelSlot s ≠ pjSlot a.raw)) :
    prjLoadStep s a = (s, some sIllegalField) := by
  rw [not_or, Bool.not_eq_false, not_not] at h
  exact if_pos (by rw [h.1, h.2, Bool.true_and, beq_self_eq_true])

theorem execLoad_takes (hf : firstPrj s 0 = some a) (hw : tableWaits s a = false) : execLoad s =
    .next (admEnd (modAdm (prjLoadStep s a).1 a.id fun x => { x with started := true }) a.id ((prjLoadStep s a).2.getD 0)
      (detail0 a.raw)) := by
  simp only [execLoad, hf, doLoad, hw, Bool.false_eq_true, if_false]

theorem execSelect_takes (hf : firstPrj s 1 = some a) : execSelect s = .next (prjSelect s a) := by
  simp only [execSelect, hf]

theorem execLoadSelect_selects {t : State} (hf : firstPrj s 2 = some a) (hw : tableWaits s a = false)
    (hl : prjLoadStep s a = (t, none)) : execLoadSelect s = .next (prjSelect t a) := by
  simp only [execLoadSelect, hf, doLoadSelect, hw, hl, Bool.false_eq_true, if_false]

theorem execLoadSelect_fails {t : State} {st : Nat} (hf : firstPrj s 2 = some a) (hw : tableWaits s a = false)
    (hl : prjLoadStep s a = (t, some st)) : execLoadSelect s = .next (prjStays t a st) := by
  simp only [execLoadSelect, hf, doLoadSelect, hw, hl, Bool.false_eq_true, if_false]

/-- PRJ_STATUS names a slot as selected, and its settle has begun. -/
def slotChosen (s : State) (slot : Nat) : State :=
  setFld (setFld (setFld s aPrjStatus 29 29 1) aPrjStatus 28 27 slot) aPrjStatus 30 30 0

/-- The meshes are set, and the settle begins. -/
def settleBegun (s : State) (a : Adm) : State :=
  modPrj (modAdm (slotChosen s (pjSlot a.raw)) a.id fun x => { x with started := true }) fun p =>
    { p with settling := some a.id }

theorem prjSelect_loaded (h : fld s (aPrjSlot (pjSlot a.raw)) 63 63 = 1) : prjSelect s a = settleBegun s a :=
  if_neg (by rw [h]; exact one_ne_zero)

theorem fld_settleBegun (s : State) (a : Adm) (o hi lo : Nat) :
    fld (settleBegun s a) o hi lo = fld (slotChosen s (pjSlot a.raw)) o hi lo := by
  rw [settleBegun, fld, reg_modPrj, reg_modAdm, ← fld]

theorem reg_settleBegun (s : State) (a : Adm) (o : Nat) : reg (settleBegun s a) o = reg (slotChosen s (pjSlot a.raw)) o := by
  rw [settleBegun, reg_modPrj, reg_modAdm]

theorem prjSelect_empty (h : fld s (aPrjSlot (pjSlot a.raw)) 63 63 = 0) : prjSelect s a = prjStays s a sIllegalField :=
  if_pos h

theorem prjSettled_settleBegun (s : State) (a : Adm) : prjSettled (settleBegun s a) = false := by
  rw [prjSettled, fld_settleBegun, slotChosen, fld_setFld_self _ _ 30 30 _ (by decide) (by decide)]
  rfl

theorem prjSel_settleBegun (s : State) (a : Adm) : prjSel (settleBegun s a) = true := by
  rw [prjSel, fld_settleBegun, slotChosen,
    fld_setFld_ne _ _ 30 30 _ _ 29 29 (by decide) (by decide) (.inr (.inl (by decide))),
    fld_setFld_ne _ _ 28 27 _ _ 29 29 (by decide) (by decide) (.inr (.inr (by decide))),
    fld_setFld_self _ _ 29 29 _ (by decide) (by decide)]
  rfl

theorem prjSelSlot_settleBegun (s : State) {a : Adm} (h : pjSlot a.raw < 4) : prjSelSlot (settleBegun s a) = pjSlot a.raw := by
  rw [prjSelSlot, fld_settleBegun, slotChosen,
    fld_setFld_ne _ _ 30 30 _ _ 28 27 (by decide) (by decide) (.inr (.inl (by decide))),
    fld_setFld_self _ _ 28 27 _ (by decide) (by decide)]
  exact Nat.mod_eq_of_lt h

theorem keepsRegs_settleBegun (s : State) (a : Adm) : keepsRegs s (settleBegun s a) [aPrjStatus] := fun o ho => by
  rw [reg_settleBegun]
  exact keepsRegs_join (keepsRegs_join (keepsRegs_setReg s _ _) (keepsRegs_setReg _ _ _)) (keepsRegs_setReg _ _ _) o ho

theorem keepsBesideRegs_slotChosen (s : State) (slot : Nat) : keepsBesideRegs s (slotChosen s slot) :=
  keepsBesideRegs_trans (keepsBesideRegs_trans (keepsBesideRegs_setFld s _ _ _ _) (keepsBesideRegs_setFld _ _ _ _ _))
    (keepsBesideRegs_setFld _ _ _ _ _)

theorem modPrj_modAdm_of_keepsBesideRegs {t : State} (h : keepsBesideRegs s t) (id : Nat) (f : Adm → Adm) (g : Prj → Prj) :
    modPrj (modAdm t id f) g = { s with regs := t.regs, prj := g s.prj, disp := (modAdm s id f).disp } := by
  unfold keepsBesideRegs at h
  rw [h]
  rfl

theorem settleBegun_eq (s : State) (a : Adm) : ∃ r, settleBegun s a = { s with
    regs := r, prj := { s.prj with settling := some a.id },
    disp := (modAdm s a.id fun x => { x with started := true }).disp } :=
  ⟨_, modPrj_modAdm_of_keepsBesideRegs (keepsBesideRegs_slotChosen s _) _ _ _⟩

end

/-! ### SETTLE_END (R325) -/

section
variable {s : State}

/-- SETTLED is 1, and nothing settles any more. -/
def prjQuiet (s : State) : State := modPrj (setFld s aPrjStatus 30 30 1) fun p => { p with settling := none }

theorem prjQuiet_eq (s : State) : ∃ r, prjQuiet s = { s with regs := r, prj := { s.prj with settling := none } } := by
  rw [prjQuiet, setFld_eq]
  exact ⟨_, rfl⟩

/-- The end of a settle says how long it took, and whether the tracking error kept it. -/
theorem doSettleEnd_ends {id : Nat} (h : s.prj.settling = some id) : ∃ u detail, keepsCore (prjQuiet s) u ∧
    keepsRegs (prjQuiet s) u (errRegs .prj) ∧ doSettleEnd s = prjServe (admEnd u id 0 detail) := by
  simp only [doSettleEnd, h]
  refine ⟨_, _, ?_, ?_, rfl⟩
  · exact keepsCore_ite (keepsCore_raise _ _ _ _) (keepsCore_refl _)
  · exact keepsRegs_ite (keepsRegs_raise _ _ _ _) (keepsRegs_refl _ _)

theorem fld_prjQuiet_ne (s : State) {hi lo : Nat} (h : hi < 30 ∨ 30 < lo) :
    fld (prjQuiet s) aPrjStatus hi lo = fld s aPrjStatus hi lo := by
  rw [prjQuiet, fld_modPrj, fld_setFld_ne s _ 30 30 1 _ hi lo (by decide) (by decide) (.inr h)]

theorem prjSettled_prjQuiet (s : State) : prjSettled (prjQuiet s) = true := by
  rw [prjSettled, prjQuiet, fld_modPrj, fld_setFld_self s _ 30 30 1 (by decide) (by decide)]
  rfl

/-- The descriptor that ends and the submissions that are served leave the rest of PRJ_STATUS. -/
theorem fld_settled {u : State} (h : keepsRegs (prjQuiet s) u (errRegs .prj)) (id detail : Nat) {hi lo : Nat} (hlo : 18 < lo) :
    fld (prjServe (admEnd u id 0 detail)) aPrjStatus hi lo = fld (prjQuiet s) aPrjStatus hi lo := by
  rw [fld_prjServe _ hlo, fld, reg_admEnd, h aPrjStatus (by decide), ← fld]

end

/-! ### TRACKING (R332) -/

/-- Of the projector only the gains, offsets and screens of the outputs may differ, beside the counter of free values. -/
def onlyLoops (s t : State) : Prop := t = { s with
  free := t.free, prj := { s.prj with gain := t.prj.gain, offset := t.prj.offset, screen := t.prj.screen } }

theorem onlyLoops_trackOuts {s t : State} (h : onlyLoops s t) (l : List Nat) : onlyLoops s (l.foldl trackOut t) :=
  foldl_keep (P := onlyLoops s) l (fun u j h => by
    unfold onlyLoops at *
    rw [h]
    rfl) h

section
variable (s : State)

/-- The column of the matrix that the next reference measures. -/
def refColumn : List Int :=
  matReal (tabByte s (prjSelSlot s)) ((List.range 64).map fun i => if i = s.prj.refIn then 31 else 0)

/-- The errors of the last 64 references, with the next one's. -/
def refErrors : List Nat := (refError s (refColumn s) :: s.prj.errs).take 64

/-- The loop adjusts every output. -/
def outputsTracked : State := (List.range 64).foldl trackOut { s with free := s.free + 64 }

/-- A reference is compared, the outputs are adjusted, and PRJ_TRACK reports. -/
def refTaken : State :=
  modPrj (setFld (outputsTracked s) aPrjTrack 15 0 (trackRms (refErrors s)))
    fun p => { p with refIn := (p.refIn + 1) % 64, errs := refErrors s }

theorem doTracking_eq : doTracking s = prjNote (count (refTaken s) 1399 1) := rfl

theorem outputsTracked_frame : onlyLoops s (outputsTracked s) := by
  have hdrawn : onlyLoops s { s with free := s.free + 64 } := rfl
  exact onlyLoops_trackOuts hdrawn _

theorem refTaken_eq : ∃ f r g o c, refTaken s = { s with free := f, regs := r, prj := { s.prj with
    gain := g, offset := o, screen := c, refIn := (s.prj.refIn + 1) % 64, errs := refErrors s } } := by
  have h := outputsTracked_frame s
  unfold onlyLoops at h
  rw [refTaken, setFld_eq, h]
  exact ⟨_, _, _, _, _, rfl⟩

theorem trackRms_lt (errs : List Nat) : trackRms errs < 2 ^ 16 := lt_of_le_of_lt (min_le_left _ _) (by decide)

theorem fld_refTaken : fld (refTaken s) aPrjTrack 15 0 = trackRms (refErrors s) := by
  rw [refTaken, fld_modPrj, fld_setFld_self _ _ 15 0 _ (by decide) (by decide)]
  exact Nat.mod_eq_of_lt (trackRms_lt _)

theorem fld_doTracking : fld (doTracking s) aPrjTrack 15 0 = trackRms (refErrors s) := by
  rw [doTracking_eq, fld, keepsRegs_prjNote _ aPrjTrack (by decide), keepsRegs_count _ _ _ aPrjTrack (by decide), ← fld,
    fld_refTaken]

theorem prj_refTaken : ∃ g o c, (refTaken s).prj = { s.prj with
    gain := g, offset := o, screen := c, refIn := (s.prj.refIn + 1) % 64, errs := refErrors s } := by
  obtain ⟨f, r, g, o, c, h⟩ := refTaken_eq s
  exact ⟨g, o, c, by rw [h]⟩

theorem memByte_refTaken (a : Nat) : memByte (refTaken s) a = memByte s a := by
  obtain ⟨f, r, g, o, c, h⟩ := refTaken_eq s
  rw [h]
  rfl

theorem prj_counted : (count (refTaken s) 1399 1).prj = (refTaken s).prj := by rw [keepsCore_count (refTaken s) 1399 1]

/-- What a reference makes of the projector. -/
theorem prj_doTracking : ∃ l g o c, (doTracking s).prj = { s.prj with
    subs := l, gain := g, offset := o, screen := c, refIn := (s.prj.refIn + 1) % 64, errs := refErrors s } := by
  obtain ⟨g, o, c, hprj⟩ := prj_refTaken s
  have h := onlySubs_prjNote (count (refTaken s) 1399 1)
  rw [onlySubs, prj_counted, hprj] at h
  exact ⟨_, g, o, c, h⟩

theorem length_subs_doTracking : (doTracking s).prj.subs.length = s.prj.subs.length := by
  obtain ⟨g, o, c, hprj⟩ := prj_refTaken s
  rw [doTracking_eq, length_subs_prjNote, prj_counted, hprj]

theorem memByte_doTracking (a : Nat) : memByte (doTracking s) a = memByte s a := by
  obtain ⟨-, hnote⟩ := prjNote_frame (count (refTaken s) 1399 1)
  rw [doTracking_eq, memByte_of_keepsBesidePrj hnote, memByte_of_keepsCore (keepsCore_count _ _ _), memByte_refTaken]

theorem table_doTracking : (doTracking s).prj.table = s.prj.table := by
  obtain ⟨l, g, o, c, hprj⟩ := prj_doTracking s
  rw [hprj]

theorem table_doReferences (n : Nat) : (doReferences s n).prj.table = s.prj.table :=
  foldl_keep (P := fun t : State => t.prj.table = s.prj.table) _ (fun t _ h => (table_doTracking t).trans h) rfl

theorem doReferences_one : doReferences s 1 = doTracking s := rfl

theorem doReferences_succ (n : Nat) : doReferences s (n + 1) = doTracking (doReferences s n) := by
  rw [doReferences, List.range_succ, List.foldl_append, List.foldl_cons, List.foldl_nil, ← doReferences]

end

/-- Settles O26: each PROJECT by what its slot is, the end of a settle, and one reference after another. -/
theorem projectsAct : Obligations.ProjectsAct := by
  intro s a id
  dsimp only
  refine ⟨fun hf ho hw => ?load, fun hf ho hw => ?loadRefused, fun hf hl hslot => ?select, fun hf hl => ?selectEmpty,
    fun hf ho hw hl => ?loadSelect, fun hf ho hw hl => ?loadFails, fun hf ho hw => ?loadSelectRefused, fun hs => ?settle,
    ⟨_, congrArg Host.Outcome.next (doReferences_one s), ?tracking⟩, rfl, fun n => ?references⟩
  case load =>
    refine (execLoad_takes hf hw).trans ?_
    rw [prjLoadStep_loads ho]
    cases (prjLoad s a.raw).2 <;> rfl
  case loadRefused =>
    refine (execLoad_takes hf hw).trans ?_
    rw [prjLoadStep_refused ho]
    rfl
  case select =>
    obtain ⟨r, hframe⟩ := settleBegun_eq s a
    exact ⟨_, (execSelect_takes hf).trans (congrArg _ (prjSelect_loaded hl)), prjSettled_settleBegun s a,
      prjSel_settleBegun s a, prjSelSlot_settleBegun s hslot, by rw [hframe], by rw [hframe],
      keepsRegs_settleBegun s a, by rw [hframe]⟩
  case selectEmpty => exact (execSelect_takes hf).trans (congrArg _ (prjSelect_empty hl))
  case loadSelect => exact execLoadSelect_selects hf hw (by rw [prjLoadStep_loads ho, hl]; rfl)
  case loadFails => exact execLoadSelect_fails hf hw (by rw [prjLoadStep_loads ho, hl]; rfl)
  case loadSelectRefused => exact execLoadSelect_fails hf hw (prjLoadStep_refused ho)
  case settle =>
    obtain ⟨u, detail, hcore, hregs, hend⟩ := doSettleEnd_ends hs
    have hfld := fun {hi lo : Nat} => fld_settled hregs id detail (hi := hi) (lo := lo)
    have hprj : (admEnd u id 0 detail).prj = (prjQuiet s).prj := by rw [admEnd_eq, hcore]
    have hsubs := onlySubs_prjServe (admEnd u id 0 detail)
    obtain ⟨r, hquiet⟩ := prjQuiet_eq s
    have hprj' : (prjQuiet s).prj = { s.prj with settling := none } := by rw [hquiet]
    rw [onlySubs, hprj, hprj'] at hsubs
    refine ⟨_, congrArg Host.Outcome.next hend, ?_, ?_, ?_, fun hnone => ?_, ?_, fun n => ?_, fun x => ?_⟩
    · rw [prjSettled, hfld (by decide), ← prjSettled, prjSettled_prjQuiet]
    · rw [hsubs]
    · rw [prjSelSlot, hfld (by decide), fld_prjQuiet_ne s (.inl (by decide)), ← prjSelSlot]
    · rw [prj_prjServe_of_noSubs (by rw [hprj, hprj']; exact hnone), hprj, hprj']
    · rw [hsubs]
    · rw [square_of_keepsBesidePrj (keepsBesidePrj_prjServe _), admEnd_eq, hcore, hquiet]
      rfl
    · rw [memByte_of_keepsBesidePrj (keepsBesidePrj_prjServe _), admEnd_eq, hcore, hquiet]
      rfl
  case tracking =>
    obtain ⟨l, g, o, c, hprj⟩ := prj_doTracking s
    have herrs : (doTracking s).prj.errs = refErrors s := by rw [hprj]
    have hin : (doTracking s).prj.refIn = (s.prj.refIn + 1) % 64 := by rw [hprj]
    exact ⟨herrs, (fld_doTracking s).trans (congrArg trackRms herrs.symm), hin, table_doTracking s, length_subs_doTracking s,
      memByte_doTracking s⟩
  case references => exact ⟨_, rfl, congrArg Host.Outcome.next (doReferences_succ s n), table_doReferences s n⟩

end Sys2Proof.Machine

/-! Reset, boot and the clock domains (R354, R358, R361, R362, R368, R371, R410). -/

namespace Sys2Proof.Machine

section
variable (s : State)

/-! ### Fields of one register of another state part -/

theorem reg_modMgt (f : Mgt → Mgt) (o : Nat) : reg (modMgt s f) o = reg s o := rfl

theorem fld_modMgt (f : Mgt → Mgt) (o hi lo : Nat) : fld (modMgt s f) o hi lo = fld s o hi lo := rfl

/-- A field of another register than the one written is as before. -/
theorem fld_setReg_ne {o p : Nat} (v : W64) (h : p ≠ o) (hi lo : Nat) : fld (setReg s o v) p hi lo = fld s p hi lo := by
  rw [fld, reg_setReg_ne _ _ h, ← fld]

theorem fld_setFld_other {o p : Nat} (h l v : Nat) (hp : p ≠ o) (hi lo : Nat) :
    fld (setFld s o h l v) p hi lo = fld s p hi lo := fld_setReg_ne s _ hp hi lo

/-! ### Resets (R362, R363) -/

/-- What the device-wide reset makes of everything but the host port's link and the sticky bits: the reset values, beside the
flash and the commands that wait. -/
def isFresh (t : State) : Prop :=
  t.regs = [] ∧ t.mem = [] ∧ t.memPsn = [] ∧ t.squares = [] ∧ t.banks = [] ∧ t.vregs = [] ∧
    t.quarters = [] ∧ t.disp = disp0 ∧ t.fab = fab0 ∧ t.stk = stk0 ∧ t.upd = upd0 ∧ t.prj = prj0 ∧ t.opt = opt0 ∧
    t.pmc = [] ∧ t.dcfg = [] ∧ t.vpsn = [] ∧ t.pending = s.pending ∧ t.mgt.flash = s.mgt.flash ∧ t.mgt.released = false

theorem isFresh_deviceReset (keep por : Bool) : isFresh s (deviceReset s keep por) := by
  refine ⟨rfl, rfl, rfl, rfl, rfl, rfl, rfl, rfl, rfl, rfl, rfl, rfl, rfl, rfl, rfl, rfl, rfl, rfl, rfl⟩

theorem trip_deviceReset (keep por : Bool) : (deviceReset s keep por).mgt.trip = (s.mgt.trip && !por) := rfl

/-- FLR and the hot reset keep the link, and release nothing that THERMTRIP_N asserts. -/
theorem deviceReset_kept : isFresh s (deviceReset s true false) ∧ (deviceReset s true false).host.link = s.host.link ∧
    (deviceReset s true false).host.mse = false ∧ (deviceReset s true false).mgt.trip = s.mgt.trip :=
  ⟨isFresh_deviceReset s _ _, rfl, rfl, by rw [trip_deviceReset, Bool.not_false, Bool.and_true]⟩

theorem doPin_long {us : Nat} (h : 20 ≤ us) (por : Bool) : doPin s us por = deviceReset s false por := by
  have h14 : ¬ us < 14 := by omega
  simp only [doPin, pinTaken, if_neg h14, if_pos h, if_true]

theorem doPin_short {us : Nat} (h : us < 14) (por : Bool) : doPin s us por = s := by
  simp only [doPin, pinTaken, if_pos h, Bool.false_eq_true, if_false]

/-! ### RESET_RELEASE (R362, R368, R410) -/

/-- The device leaves reset, and the mask ROM is measured. -/
def leftReset : State :=
  modMgt s fun m => { m with released := true, t0 := s.now, boots := m.boots + 1,
                             meas := smSet 0 m.meas 1 Config.maskRomDigest }

/-- The VID outputs drive code 30. -/
def vidDriven : State := setFld (setFld (leftReset s) aMgtPwrStatus 28 24 30) aMgtPwrStatus 20 16 30

theorem doRelease_starts (h : s.mgt.released = false) :
    doRelease s = setReg (setFld (vidDriven s) aMgtBootStatus 3 0 1) aHstLink s.host.link :=
  if_neg (by rw [h]; exact Bool.false_ne_true)

theorem setReg_of_keepsBesideRegs {s t : State} (h : keepsBesideRegs s t) (o : Nat) (v : W64) :
    setReg t o v = { s with regs := (setReg t o v).regs } := by
  unfold keepsBesideRegs at h
  rw [h]
  rfl

theorem keepsBesideRegs_vidDriven : keepsBesideRegs (leftReset s) (setFld (vidDriven s) aMgtBootStatus 3 0 1) :=
  keepsBesideRegs_trans (keepsBesideRegs_trans (keepsBesideRegs_setFld _ _ _ _ _) (keepsBesideRegs_setFld _ _ _ _ _))
    (keepsBesideRegs_setFld _ _ _ _ _)

theorem doRelease_frame (h : s.mgt.released = false) : ∃ r, doRelease s = { s with regs := r, mgt := (leftReset s).mgt } := by
  rw [doRelease_starts s h, setReg_of_keepsBesideRegs (keepsBesideRegs_vidDriven s)]
  exact ⟨_, rfl⟩

theorem keepsRegs_doRelease (h : s.mgt.released = false) :
    keepsRegs s (doRelease s) [aMgtBootStatus, aMgtPwrStatus, aHstLink] := by
  rw [doRelease_starts s h]
  refine keepsRegs_join (keepsRegs_join (keepsRegs_join ?_ (keepsRegs_setReg_mem _ _ _ (by simp)))
    (keepsRegs_setReg_mem _ _ _ (by simp))) (keepsRegs_setReg_mem _ _ _ (by simp))
  exact keepsRegs_join (t := leftReset s) (keepsRegs_of_regs rfl _) (keepsRegs_setReg_mem _ _ _ (by simp))

theorem bootStatus_doRelease (h : s.mgt.released = false) : fld (doRelease s) aMgtBootStatus 3 0 = 1 := by
  rw [doRelease_starts s h, fld_setReg_ne _ _ (by decide), fld_setFld_self _ _ 3 0 _ (by decide) (by decide)]
  rfl

theorem vidE_doRelease (h : s.mgt.released = false) : fld (doRelease s) aMgtPwrStatus 28 24 = 30 := by
  rw [doRelease_starts s h, fld_setReg_ne _ _ (by decide), fld_setFld_other _ _ _ _ (by decide), vidDriven,
    fld_setFld_ne _ _ 20 16 _ _ 28 24 (by decide) (by decide) (.inr (.inr (by decide))),
    fld_setFld_self _ _ 28 24 _ (by decide) (by decide)]
  rfl

theorem vidW_doRelease (h : s.mgt.released = false) : fld (doRelease s) aMgtPwrStatus 20 16 = 30 := by
  rw [doRelease_starts s h, fld_setReg_ne _ _ (by decide), fld_setFld_other _ _ _ _ (by decide), vidDriven,
    fld_setFld_self _ _ 20 16 _ (by decide) (by decide)]
  rfl

/-! ### Boot, stage by stage (R354, R368, R410) -/

theorem booting_iff : booting s = true ↔ s.mgt.released = true ∧ fld s aMgtBootStatus 7 7 = 0 ∧
    1 ≤ fld s aMgtBootStatus 3 0 ∧ fld s aMgtBootStatus 3 0 ≤ 8 := by
  simp only [booting, Bool.and_eq_true, beq_iff_eq, decide_eq_true_eq, and_assoc]

theorem fld_stampElapsed {hi lo : Nat} (h : hi < 8 ∨ 31 < lo) :
    fld (stampElapsed s) aMgtBootStatus hi lo = fld s aMgtBootStatus hi lo :=
  fld_setFld_ne s _ 31 8 _ _ hi lo (by decide) (by decide) (.inr h)

variable {s} {r : BootRes}

theorem doStageEnd_off (h : booting s = false) : doStageEnd s r = s := if_pos (by rw [h]; rfl)

/-- A stage whose work leaves boot on its way is followed by the next. -/
theorem doStageEnd_next {n : Nat} (hb : booting s = true) (hn : fld s aMgtBootStatus 3 0 = n) (h8 : n ≠ 8)
    (hw : fld (stageWork (stampElapsed s) n r) aMgtBootStatus 7 7 ≠ 1) :
    doStageEnd s r = setFld (stageWork (stampElapsed s) n r) aMgtBootStatus 3 0 (n + 1) := by
  simp only [doStageEnd, hb, hn, if_neg (not_or.mpr ⟨hw, h8⟩), Bool.not_true, Bool.false_eq_true, if_false]

/-- A stage that stops boot, or the last one, is followed by none. -/
theorem doStageEnd_last {n : Nat} (hb : booting s = true) (hn : fld s aMgtBootStatus 3 0 = n)
    (hw : fld (stageWork (stampElapsed s) n r) aMgtBootStatus 7 7 = 1 ∨ n = 8) :
    doStageEnd s r = stageWork (stampElapsed s) n r := by
  simp only [doStageEnd, hb, hn, if_pos hw, Bool.not_true, Bool.false_eq_true, if_false]

theorem fld_recovery_stopped (s : State) (code : Nat) : fld (recovery s code) aMgtBootStatus 7 7 = 1 := by
  rw [recovery, fld_setFld_ne _ _ 47 40 _ _ 7 7 (by decide) (by decide) (.inr (.inl (by decide))),
    fld_setFld_self _ _ 7 7 _ (by decide) (by decide)]
  rfl

theorem fld_recovery_code (s : State) (code : Nat) : fld (recovery s code) aMgtBootStatus 47 40 = code % 256 :=
  fld_setFld_self _ _ 47 40 _ (by decide) (by decide)

theorem fld_recovery_stage (s : State) (code : Nat) : fld (recovery s code) aMgtBootStatus 3 0 = fld s aMgtBootStatus 3 0 := by
  rw [recovery, fld_setFld_ne _ _ 47 40 _ _ 3 0 (by decide) (by decide) (.inr (.inl (by decide))),
    fld_setFld_ne _ _ 7 7 _ _ 3 0 (by decide) (by decide) (.inr (.inl (by decide)))]

/-- A die whose monitors never pass stops boot after what failed is out of service (R410). -/
theorem stageSelftest_fails (h : r.vidE.val = 31 ∨ r.vidW.val = 31) (s : State) : ∃ t, stageSelftest s r = recovery t 6 ∧
    fld t aMgtBootStatus 3 0 = fld s aMgtBootStatus 3 0 := by
  refine ⟨_, if_pos h, ?_⟩
  rw [fld_modMgt, fld_setReg_ne _ _ (by decide), fld_setReg_ne _ _ (by decide)]

/-- Quarters hold their runtimes, the measurements are complete, and the device is about to say that it is READY. -/
def runtimeReady (s : State) : State :=
  let s1 := setFld ((quartersIn s).foldl loadRuntime s) aMgtBootStatus 3 0 9
  let ms := [(7, BitVec.ofNat 256 (beNat (manifest s1))), (8, BitVec.ofNat 256 (beNat (bootBlock s1)))]
  modMgt s1 fun m => { m with meas := smSetMany 0 m.meas ms }

theorem stageRuntime_eq (s : State) : ∃ f, stageRuntime s =
    fireEvent (modDisp (setFld (runtimeReady s) aHstDevStatus 31 31 1) f) 11 := ⟨_, rfl⟩

theorem reg_stageRuntime (s : State) {o : Nat} (h : o ∉ eventRegs) :
    reg (stageRuntime s) o = reg (setFld (runtimeReady s) aHstDevStatus 31 31 1) o := by
  obtain ⟨f, hf⟩ := stageRuntime_eq s
  rw [hf, keepsRegs_fireEvent _ _ o h, reg, modDisp_regs, ← reg]

theorem devReady_stageRuntime (s : State) : devReady (stageRuntime s) = true := by
  rw [devReady, fld, reg_stageRuntime s (by decide), ← fld, fld_setFld_self _ _ 31 31 _ (by decide) (by decide)]
  rfl

theorem bootStatus_stageRuntime (s : State) : fld (stageRuntime s) aMgtBootStatus 3 0 = 9 := by
  rw [fld, reg_stageRuntime s (by decide), ← fld, fld_setFld_other _ _ _ _ (by decide), runtimeReady, fld_modMgt,
    fld_setFld_self _ _ 3 0 _ (by decide) (by decide)]
  rfl

/-- Stage 1 has done its work when it ends: boot goes on to stage 2 (R368). -/
theorem doStageEnd_first (hb : booting s = true) (h1 : fld s aMgtBootStatus 3 0 = 1) :
    doStageEnd s r = setFld (stampElapsed s) aMgtBootStatus 3 0 2 := by
  obtain ⟨-, hgoing, -⟩ := (booting_iff s).mp hb
  refine doStageEnd_next hb h1 (by decide) (?_ : fld (stampElapsed s) aMgtBootStatus 7 7 ≠ 1)
  rw [fld_stampElapsed s (.inl (by decide)), hgoing]
  exact zero_ne_one

theorem stageWork_last (s : State) {n : Nat} (h : n = 8) (r : BootRes) : stageWork s n r = stageRuntime s := by
  unfold stageWork
  split
  case h_7 => rfl
  case h_8 hne => exact absurd h hne
  all_goals exact absurd h (by decide)

/-- The last stage ends boot with READY (R354). -/
theorem doStageEnd_ready (hb : booting s = true) (h8 : fld s aMgtBootStatus 3 0 = 8) :
    doStageEnd s r = stageRuntime (stampElapsed s) := by
  rw [doStageEnd_last hb h8 (.inr rfl), stageWork_last _ rfl]

theorem fld_stamped : fld (setFld (stampElapsed s) aMgtBootStatus 3 0 2) aMgtBootStatus 31 8 =
    (s.now - s.mgt.t0) / 1000000 % 2 ^ 24 := by
  rw [fld_setFld_ne _ _ 3 0 _ _ 31 8 (by decide) (by decide) (.inr (.inr (by decide))), stampElapsed,
    fld_setFld_self _ _ 31 8 _ (by decide) (by decide)]

end

/-! ### Clock domains and the entropy source (R361, R371) -/

section
variable {s : State}

theorem doStuck_stops {d : Nat} (h : smGet 0 s.mgt.hb d = 0 ∨ smGet 0 s.mgt.hb d + 100000 ≤ s.now + 1) : doStuck s d =
    stopHere (raise (if d = 24 then s else setFld s aMgtDomainStatus d d 0) .mgt 3 (d * 2 ^ 40)) 0x0C :=
  if_neg (by omega)

theorem doStuck_alive {d : Nat} (h : smGet 0 s.mgt.hb d ≠ 0) (h' : s.now + 1 < smGet 0 s.mgt.hb d + 100000) : doStuck s d = s :=
  if_pos ⟨h, h'⟩

/-- The entropy source is marked as failed, and the failure is raised. -/
def entropyFailed (s : State) : State := raise (modMgt s fun m => { m with entropyBad := true }) .mgt 6 0

theorem entropyFailed_frame (s : State) : ∃ r h p, entropyFailed s = { s with
    regs := r, host := h, pmc := p, mgt := { s.mgt with entropyBad := true } } :=
  ⟨_, _, _, keepsCore_raise (modMgt s fun m => { m with entropyBad := true }) .mgt 6 0⟩

/-- With no DISCOVER in hand nothing ends. -/
theorem endDiscover_none (h : s.fab.discoverId = none) (forced : Option Nat) : endDiscover s forced = s := by
  simp only [endDiscover, h]

theorem doEntropyFail_idle (h : s.fab.discoverId = none) : doEntropyFail s = entropyFailed s := by
  obtain ⟨r, p, c, hframe⟩ := entropyFailed_frame s
  refine endDiscover_none (?_ : (entropyFailed s).fab.discoverId = none) _
  rw [hframe]
  exact h

end

/-- Settles O56: the resets, the release, the stages of boot that it names, and the faults of clocks and of the entropy source.
That VID codes read 30 after the release is log entry 74; the stages one by one, log entry 55. -/
theorem resetAndBootProceed : Obligations.ResetAndBootProceed := by
  intro s us r d
  refine ⟨⟨_, rfl, deviceReset_kept s⟩, ⟨_, rfl, deviceReset_kept s⟩, fun h => ?perst, fun h => ?por, fun h => ?pulse,
    fun h => ?release, fun hb h1 => ?first, fun hb h5 hvid => ?selftest, fun hb h8 => ?ready, fun h => ?off, rfl, rfl,
    fun h => ?stuck, fun h h' => ?alive, fun h => ?entropy, rfl⟩
  case perst =>
    exact ⟨_, congrArg Host.Outcome.next (doPin_long s h false), isFresh_deviceReset s _ _, rfl, rfl,
      (trip_deviceReset s _ _).trans (Bool.and_true _)⟩
  case por =>
    exact ⟨_, congrArg Host.Outcome.next (doPin_long s h true), isFresh_deviceReset s _ _, rfl, rfl,
      (trip_deviceReset s _ _).trans (Bool.and_false _)⟩
  case pulse =>
    exact ⟨congrArg Host.Outcome.next (doPin_short s h false), congrArg Host.Outcome.next (doPin_short s h true)⟩
  case release =>
    obtain ⟨regs, hframe⟩ := doRelease_frame s h
    refine ⟨_, rfl, by rw [hframe]; rfl, ?_, bootStatus_doRelease s h, vidE_doRelease s h, vidW_doRelease s h, ?_,
      keepsRegs_doRelease s h, by rw [hframe]⟩
    · rw [hframe]
      exact smGet_set_self _ _ _ _
    · rw [doRelease_starts s h, reg_setReg_self]
  case first =>
    refine ⟨_, congrArg Host.Outcome.next (doStageEnd_first hb h1), fld_setFld_self _ _ 3 0 _ (by decide) (by decide),
      fld_stamped, keepsRegs_join (keepsRegs_setReg s _ _) (keepsRegs_setReg _ _ _), ?_⟩
    exact keepsBesideRegs_trans (keepsBesideRegs_setFld s _ _ _ _) (keepsBesideRegs_setFld _ _ _ _ _)
  case selftest =>
    obtain ⟨t, ht, hstage⟩ := stageSelftest_fails hvid (stampElapsed s)
    have hend : doStageEnd s r = recovery t 6 :=
      (doStageEnd_last hb h5 (.inl ((congrArg (fld · aMgtBootStatus 7 7) ht).trans (fld_recovery_stopped t 6)))).trans ht
    refine ⟨_, congrArg Host.Outcome.next hend, fld_recovery_stopped t 6, fld_recovery_code t 6, ?_⟩
    rw [fld_recovery_stage, hstage, fld_stampElapsed s (.inl (by decide)), h5]
  case ready =>
    exact ⟨_, congrArg Host.Outcome.next (doStageEnd_ready hb h8), devReady_stageRuntime _, bootStatus_stageRuntime _⟩
  case off => exact congrArg Host.Outcome.next (doStageEnd_off h)
  case stuck => exact congrArg Host.Outcome.next (doStuck_stops h)
  case alive => exact congrArg Host.Outcome.next (doStuck_alive h h')
  case entropy =>
    obtain ⟨regs, host, pmc, hframe⟩ := entropyFailed_frame s
    exact ⟨_, congrArg Host.Outcome.next (doEntropyFail_idle h), by rw [hframe], bit_raise _ .mgt _ (by decide), by rw [hframe]⟩

end Sys2Proof.Machine

/-! The management endpoint (R350, R351, R370, R373, R384, R385): which messages it takes, and what each answers. -/

namespace Sys2Proof

section
variable {α : Type}

/-- What a selection by index leaves at an index. -/
theorem smGet_filter_index (d : α) (m : SMap α) (f : Nat → Bool) (i : Nat) :
    smGet d (m.filter fun p => f p.1) i = if f i then smGet d m i else d := by
  induction m with
  | nil => simp only [List.filter_nil, smGet_nil, ite_self]
  | cons p t ih =>
    obtain ⟨k, v⟩ := p
    by_cases hk : k = i
    · subst hk
      cases hf : f k <;> simp_all [smGet]
    · cases hf : f k <;> simp_all [smGet]

/-- A range that is cleared reads its default, and every other index what it held. -/
theorem smGet_clear (d : α) (m : SMap α) (o n i : Nat) :
    smGet d (smClear m o n) i = if o ≤ i ∧ i < o + n then d else smGet d m i := by
  rw [smClear, smGet_filter_index d m fun k => decide (k < o) || decide (o + n ≤ k)]
  by_cases h : o ≤ i ∧ i < o + n
  · rw [if_pos h, if_neg (by simp only [Bool.or_eq_true, decide_eq_true_eq]; omega)]
  · rw [if_neg h, if_pos (by simp only [Bool.or_eq_true, decide_eq_true_eq]; omega)]

end

end Sys2Proof

namespace Sys2Proof.Machine

/-! ### Messages that are taken (R350, R373) -/

section
variable {s : State} {b : MctpIn} {act : State → State}

theorem mctpOn_serves {typ : Byte} (h : mctpTakes s b = true) (ht : b.typ = typ) : mctpOn s b typ act = act s :=
  if_pos (by rw [h, ht, beq_self_eq_true, Bool.and_true])

theorem mctpOn_other {typ : Byte} (ht : b.typ ≠ typ) : mctpOn s b typ act = s :=
  if_neg (by rw [beq_false_of_ne ht, Bool.and_false]; exact Bool.false_ne_true)

theorem mctpOn_discards {typ : Byte} (h : mctpTakes s b = false) : mctpOn s b typ act = s :=
  if_neg (by rw [h, Bool.false_and]; exact Bool.false_ne_true)

/-- A vendor message with the H2's Vendor ID and a code. -/
def asks (s : State) (b : MctpIn) (code : Nat) : Prop :=
  mctpTakes s b = true ∧ b.typ = 0x7E ∧ b.vendor = 0x1F3A ∧ b.code.toNat = code

theorem vendorOn_serves {code : Nat} (h : asks s b code) : vendorOn s b code act = act s := by
  obtain ⟨htakes, htyp, hvendor, hcode⟩ := h
  rw [vendorOn, mctpOn_serves htakes htyp, if_neg (not_not_intro hvendor), if_pos hcode]

theorem vendorOn_unlisted {code : Nat} (h : asks s b b.code.toNat) (hc : b.code.toNat ≠ code)
    (hu : b.code.toNat = 0 ∨ 6 < b.code.toNat) : vendorOn s b code act = mctpSend s b.smb (vendor b.code.toNat 3 []) := by
  obtain ⟨htakes, htyp, hvendor, -⟩ := h
  rw [vendorOn, mctpOn_serves htakes htyp, if_neg (not_not_intro hvendor), if_neg hc, if_neg (by omega)]
  rfl

theorem vendorOn_foreign {code : Nat} (h : mctpTakes s b = true) (ht : b.typ = 0x7E) (hv : b.vendor ≠ 0x1F3A) :
    vendorOn s b code act = s := by
  rw [vendorOn, mctpOn_serves h ht, if_pos hv]

theorem mctpTakes_smbus_bad (hb : b.smb = true) (h : b.addr ≠ 0x3A ∨ b.pec = false) : mctpTakes s b = false := by
  have hcodes : (b.addr == smbAddr && b.pec) = false := h.elim
    (fun ha => by rw [smbAddr, beq_false_of_ne ha, Bool.false_and]) fun hp => by rw [hp, Bool.and_false]
  rw [mctpTakes, hb, hcodes, Bool.not_true, Bool.or_false, Bool.and_false, Bool.false_and]

theorem mctpTakes_vdm_null (hr : s.mgt.released = true) (hb : b.smb = false) (he : b.eid = 0) : mctpTakes s b = true := by
  rw [mctpTakes, hr, hb, he]
  rfl

end

/-! ### The flash and the part record (R373) -/

section
variable {s : State} {smb : Bool}

theorem doFlashRead_reads {o n : Nat} (h : (len48 n && inFlash o n) = true) :
    doFlashRead s smb o n = mctpSend s smb (vendor 2 0 (flashBytes s o n)) := if_pos h

theorem doFlashRead_refuses {o n : Nat} (h : (len48 n && inFlash o n) = false) :
    doFlashRead s smb o n = mctpSend s smb (vendor 2 1 []) := if_neg (Bool.eq_false_iff.mp h)

theorem doPartRecord_reads {o n : Nat} (h : len48 n = true) (ho : o + n ≤ 65536) :
    doPartRecord s smb o n = mctpSend s smb (vendor 5 0 (flashBytes s (0x2000000 + o) n)) :=
  if_pos (by rw [h, decide_eq_true ho, Bool.and_true])

theorem doPartRecord_refuses {o n : Nat} (h : len48 n = false ∨ 65536 < o + n) :
    doPartRecord s smb o n = mctpSend s smb (vendor 5 1 []) := by
  refine if_neg ?_
  rw [Bool.and_eq_true, decide_eq_true_eq]
  rintro ⟨hn, ho⟩
  exact h.elim (fun h => Bool.false_ne_true (h.symm.trans hn)) fun h => absurd ho (Nat.not_le.mpr h)

section
variable {cmd : Nat} {ok : Bool} {act : SMap Byte → SMap Byte}

theorem flashChange_busy (hj : inJob s = true) : flashChange s smb cmd ok act = mctpSend s smb (vendor cmd 2 []) := if_pos hj

theorem flashChange_refuses (hj : inJob s = false) (hok : ok = false) :
    flashChange s smb cmd ok act = mctpSend s smb (vendor cmd 1 []) := by
  rw [flashChange, hj, hok, if_neg Bool.false_ne_true, if_pos Bool.not_false]
  rfl

theorem flashChange_acts (hj : inJob s = false) (hok : ok = true) : flashChange s smb cmd ok act =
    mctpSend (modMgt s fun m => { m with flash := act s.mgt.flash }) smb (vendor cmd 0 []) := by
  rw [flashChange, hj, hok, if_neg Bool.false_ne_true, Bool.not_true, if_neg Bool.false_ne_true]
  rfl

end

/-- Programming ANDs the bytes in order, and leaves the others (log entry 4). -/
theorem smGet_program (bs : List Byte) (o : Nat) (f : SMap Byte) (x : Nat) : smGet 0xFF#8 (program o bs f) x =
    if o ≤ x ∧ x < o + bs.length then smGet 0xFF#8 f x &&& bs.getD (x - o) 0 else smGet 0xFF#8 f x := by
  induction bs generalizing o f with
  | nil => rw [if_neg (by simp only [List.length_nil]; omega), program]
  | cons b t ih =>
    rw [program, ih, smGet_set, List.length_cons]
    by_cases hx : x = o
    · subst hx
      rw [if_neg (by omega), if_pos rfl, if_pos (by omega), Nat.sub_self, List.getD_cons_zero]
    · rw [if_neg hx]
      by_cases h : o + 1 ≤ x ∧ x < o + 1 + t.length
      · have hi : x - o = x - (o + 1) + 1 := by omega
        rw [if_pos h, if_pos (by omega), hi, List.getD_cons_succ]
      · rw [if_neg h, if_neg (by omega)]

/-- RESET answers on SMBus with a response that still waits after the reset. -/
theorem doReset_smbus : doReset s true = modMgt (deviceReset (mctpSend s true (vendor 6 0 [])) false true) fun m =>
    { m with smb := some (vendor 6 0 []), alert := true } := rfl

end

/-! ### MCTP control (R350) -/

section
variable {s : State} {b : MctpIn}

theorem doSetEid_refuses {smb : Bool} {e : Byte} (h : e = 0 ∨ e = 0xFF) : doSetEid s smb e = mctpSend s smb [0, 0, 1, 2] :=
  if_pos h

theorem doSetEid_takes {smb : Bool} {e : Byte} (h0 : e ≠ 0) (h1 : e ≠ 0xFF) : doSetEid s smb e =
    mctpSend (modMgt s fun m => { m with eid := smSet 0 m.eid (if smb then 1 else 0) e.toNat }) smb [0, 0, 1, 0, 0, e, 0] :=
  if_neg (not_or.mpr ⟨h0, h1⟩)

theorem doControl_eid (h : b.code = 2) :
    doControl s b = mctpSend s b.smb [0, 0, 2, 0, BitVec.ofNat 8 (eidOf s b.smb), 0, 0] := by
  rw [doControl, h]
  rfl

theorem doControl_unsupported (h : 5 < b.code.toNat) : doControl s b = mctpSend s b.smb [0, 0, b.code, 5] := by
  unfold doControl
  split
  case h_4 => rfl
  all_goals omega

end

/-! ### SPDM (R351, R370, R372) -/

theorem length_beBytes (n v : Nat) : (beBytes n v).length = n := by simp only [beBytes, List.length_map, List.length_range]

section
variable {s : State} {smb : Bool} {req : List Byte} {code : Byte} {turn : Bool} {act : State → State}

theorem spdmOther_unknown (h : byteAt req 1 ∉ spdmKnown) : spdmOther s smb req = spdmError s smb 7 := by
  rw [spdmOther, List.contains_eq_mem, decide_eq_false h, if_neg Bool.false_ne_true]
  rfl

theorem spdmTurn_other (h : byteAt req 1 ≠ code) : spdmTurn s smb req code turn act = spdmOther s smb req := if_pos h

theorem spdmTurn_acts (h0 : byteAt req 0 = 0x12) (hc : byteAt req 1 = code) (ht : turn = true) :
    spdmTurn s smb req code turn act = act s := by
  rw [spdmTurn, if_neg (not_not_intro hc), if_neg (not_not_intro h0), ht, Bool.not_true, if_neg Bool.false_ne_true]

theorem spdmTurn_early (h0 : byteAt req 0 = 0x12) (hc : byteAt req 1 = code) (ht : turn = false) :
    spdmTurn s smb req code turn act = spdmError s smb 4 := by
  rw [spdmTurn, if_neg (not_not_intro hc), if_neg (not_not_intro h0), ht, if_pos Bool.not_false]
  rfl

theorem doGetVersion_answers (h0 : byteAt req 0 = 0x10) (hc : byteAt req 1 = 0x84) : doGetVersion s smb req =
    spdmReply (modMgt s fun m => { m with spdm := [] }) smb 0 req [0x10, 0x04, 0, 0, 0, 1, 0x00, 0x12] := by
  rw [doGetVersion, if_neg (not_not_intro hc), if_neg (not_not_intro h0)]

section
variable (h0 : byteAt req 0 = 0x12)
include h0

theorem doNegotiate_answers (hc : byteAt req 1 = 0xE3) (ht : spdmSteps s = 4)
    (ha : (bit (byteAt req 8) 4 && bit (byteAt req 12) 0) = true) :
    doNegotiate s smb req = spdmReply s smb 0 req ([0x12, 0x63, 0, 0] ++ algBody) := by
  rw [doNegotiate, spdmTurn_acts h0 hc (by rw [ht]; rfl), if_pos ha]

theorem doNegotiate_refuses (hc : byteAt req 1 = 0xE3) (ht : spdmSteps s = 4)
    (ha : (bit (byteAt req 8) 4 && bit (byteAt req 12) 0) = false) : doNegotiate s smb req = spdmError s smb 1 := by
  rw [doNegotiate, spdmTurn_acts h0 hc (by rw [ht]; rfl), if_neg (Bool.eq_false_iff.mp ha)]
  rfl

/-- The portion of the chain that a GET_CERTIFICATE asks for follows 8 bytes (R351). -/
theorem doGetCertificate_answers (hc : byteAt req 1 = 0x82) (ht : spdmReady s = true) (hslot : bits (byteAt req 2) 3 0 = 0)
    (ho : leNat ((req.drop 4).take 2) < (chain s).length) :
    ∃ m, doGetCertificate s smb req = spdmReply s smb 1 req m ∧
      m.drop 8 = ((chain s).drop (leNat ((req.drop 4).take 2))).take (leNat ((req.drop 6).take 2)) := by
  rw [doGetCertificate, spdmTurn_acts h0 hc ht]
  dsimp only
  rw [if_neg (not_or.mpr ⟨not_not_intro hslot, Nat.not_le.mpr ho⟩)]
  exact ⟨_, rfl, List.drop_left' (by simp only [List.length_append, length_leBytes, List.length_cons, List.length_nil])⟩

/-- The nonce of a CHALLENGE's answer follows 4 bytes and the digest of the chain (R351, R371). -/
theorem doChallenge_answers (hc : byteAt req 1 = 0x83) (ht : spdmReady s = true) (hslot : byteAt req 2 = 0)
    (hlen : 36 ≤ req.length) (hkey : canSign s = true) :
    ∃ m, doChallenge s smb req = spdmSend { s with free := s.free + 2 } smb m ∧
      m.take 2 = [0x12, 0x03] ∧ (m.drop 36).take 32 = beBytes 32 (Config.free256 s.free).toNat := by
  rw [doChallenge, spdmTurn_acts h0 hc ht]
  rw [if_neg (not_or.mpr ⟨not_not_intro hslot, Nat.not_lt.mpr hlen⟩), hkey, Bool.not_true, if_neg Bool.false_ne_true]
  refine ⟨_, rfl, rfl, ?_⟩
  rw [List.append_assoc, List.append_assoc, List.append_assoc, List.drop_left', List.take_left']
  · rfl
  · exact length_beBytes _ _
  · rw [List.length_append, chainHash, length_beBytes]
    rfl

theorem doChallenge_noKey (hc : byteAt req 1 = 0x83) (ht : spdmReady s = true) (hslot : byteAt req 2 = 0)
    (hlen : 36 ≤ req.length) (hkey : canSign s = false) : doChallenge s smb req = spdmError s smb 5 := by
  rw [doChallenge, spdmTurn_acts h0 hc ht, if_neg (not_or.mpr ⟨not_not_intro hslot, Nat.not_lt.mpr hlen⟩), hkey,
    if_pos Bool.not_false]
  rfl

/-- Asked for no block, and no signature, the answer gives the number of blocks (R372). -/
theorem doGetMeasurements_counts (hc : byteAt req 1 = 0xE0) (ht : spdmReady s = true) (hop : byteAt req 3 = 0)
    (hsign : bit (byteAt req 2) 0 = false) (he : s.mgt.entropyBad = false) :
    ∃ m, doGetMeasurements s smb req = spdmReply { s with free := s.free + 1 } smb 2 req m ∧
      m.take 5 = [0x12, 0x60, BitVec.ofNat 8 (measTaken s).length, 0, 0] := by
  rw [doGetMeasurements, spdmTurn_acts h0 hc ht]
  simp only [hop, measAsked, hsign, he, Bool.false_and, Bool.or_self, Bool.false_eq_true, if_true, if_false]
  exact ⟨_, rfl, rfl⟩

end

end

/-! ### The test access port (R385) -/

section
variable {s : State} {ir : Nat}

theorem doTap_stands (h : inJob s = false ∨ ir < 2) : doTap s ir =
    modMgt { s with free := s.free + 1 } fun m => { m with tap := ir, tapDr := tapCapture s ir } := by
  have hi : (inJob s && decide (2 ≤ ir)) = false := h.elim (fun h => by rw [h, Bool.false_and])
    fun h => by rw [decide_eq_false (Nat.not_le.mpr h), Bool.and_false]
  simp only [doTap, hi, Bool.false_eq_true, if_false]

theorem doTap_bypasses (hj : inJob s = true) (h : 2 ≤ ir) : doTap s ir =
    modMgt { s with free := s.free + 1 } fun m => { m with tap := 0, tapDr := 0 } := by
  have hi : (inJob s && decide (2 ≤ ir)) = true := by rw [hj, decide_eq_true h, Bool.and_true]
  simp only [doTap, hi, if_true]
  rfl

theorem bit_idcode : bit (tapCapture s 1) 0 = true := by
  show (Config.idcode ||| 1).toNat.testBit 0 = true
  rw [BitVec.toNat_or, Nat.testBit_or]
  exact Bool.or_true _

end

/-- Settles O57: each message by what the endpoint makes of it; the layouts are those of log entries 4, 11 and 17. -/
theorem managementAnswers : Obligations.ManagementAnswers := by
  intro s b o o2 n e bs req ir
  dsimp only
  refine ⟨fun h => ?bootStatus, fun h => ⟨fun hn hin => ?flashRead, fun hn => ?flashReadRange⟩,
    fun h => ⟨fun hj ha hin => ?erase, fun hj hbad => ?eraseRange, fun hj => ?eraseBusy⟩,
    fun h => ⟨fun hj hn hin => ?write, fun hj hbad => ?writeRange, fun hj => ?writeBusy⟩,
    fun h => ⟨fun hn ho => ?part, fun hbad => ?partRange⟩, fun h => ⟨fun hb => ?reset, fun hb => ?resetSmbus⟩,
    fun ht htyp hv hu => ?unlisted, fun ht htyp hv => ?foreign,
    fun ht htyp => ⟨fun hc => ?getEid, fun hc => ?control, fun hc he => ?setEidBad, fun hc h0 h1 => ?setEid⟩,
    fun ht htyp => ⟨fun hu => ?unknown, fun h0 hc => ?version, fun h0 hc hst => ?capabilities, fun h0 hc hst => ?early,
      fun h0 hc hst h8 h12 => ?algorithms, fun h0 hc hst hbad => ?algorithmsBad, fun h0 hc hr => ?digests,
      fun h0 hc hr hslot ho => ?certificate, fun h0 hc hr hslot hlen hkey => ?challenge,
      fun h0 hc hr hslot hlen hkey => ?challengeNoKey, fun h0 hc hr hop hsign he => ?measurements⟩,
    fun htyp => ⟨?otherType, ?otherTypeWrite⟩, fun htyp => ⟨?otherSpdm, ?otherSpdmChallenge⟩,
    fun ht => ⟨?gone, ?goneErase, ?goneReset, ?goneChallenge, ?goneEid⟩, mctpTakes_smbus_bad, mctpTakes_vdm_null, rfl, rfl,
    fun h => ?tap, fun hj h => ?tapBypass, bit_idcode⟩
  case bootStatus => exact congrArg Host.Outcome.next (vendorOn_serves h)
  case flashRead =>
    exact congrArg Host.Outcome.next ((vendorOn_serves h).trans (doFlashRead_reads (by rw [hn, hin, Bool.and_true])))
  case flashReadRange => exact congrArg Host.Outcome.next ((vendorOn_serves h).trans (doFlashRead_refuses hn))
  case erase =>
    exact ⟨_, congrArg Host.Outcome.next ((vendorOn_serves h).trans (flashChange_acts hj (by rw [ha, hin]; rfl))),
      fun x => smGet_clear _ _ _ _ _⟩
  case eraseRange =>
    refine congrArg Host.Outcome.next ((vendorOn_serves h).trans (flashChange_refuses hj ?_))
    exact hbad.elim (fun ha => by rw [beq_false_of_ne ha, Bool.false_and]) fun hin => by rw [hin, Bool.and_false]
  case eraseBusy => exact congrArg Host.Outcome.next ((vendorOn_serves h).trans (flashChange_busy hj))
  case write =>
    exact ⟨_, congrArg Host.Outcome.next ((vendorOn_serves h).trans (flashChange_acts hj (by rw [hn, hin]; rfl))),
      fun x => smGet_program bs o.toNat s.mgt.flash x⟩
  case writeRange =>
    refine congrArg Host.Outcome.next ((vendorOn_serves h).trans (flashChange_refuses hj ?_))
    exact hbad.elim (fun hn => by rw [hn, Bool.false_and]) fun hin => by rw [hin, Bool.and_false]
  case writeBusy => exact congrArg Host.Outcome.next ((vendorOn_serves h).trans (flashChange_busy hj))
  case part => exact congrArg Host.Outcome.next ((vendorOn_serves h).trans (doPartRecord_reads hn ho))
  case partRange => exact congrArg Host.Outcome.next ((vendorOn_serves h).trans (doPartRecord_refuses hbad))
  case reset =>
    refine congrArg Host.Outcome.next ((vendorOn_serves h).trans ?_)
    rw [hb]
    rfl
  case resetSmbus =>
    refine congrArg Host.Outcome.next ((vendorOn_serves h).trans ?_)
    rw [hb]
    exact doReset_smbus
  case unlisted => exact congrArg Host.Outcome.next (vendorOn_unlisted ⟨ht, htyp, hv, rfl⟩ (by omega) hu)
  case foreign => exact congrArg Host.Outcome.next (vendorOn_foreign ht htyp hv)
  case getEid =>
    have h1 : b.code ≠ 1 := by rw [hc]; decide
    exact congrArg Host.Outcome.next ((mctpOn_serves ht htyp).trans ((if_neg h1).trans (doControl_eid hc)))
  case control =>
    have h1 : b.code ≠ 1 := fun h1 => absurd hc (by rw [h1]; decide)
    exact congrArg Host.Outcome.next ((mctpOn_serves ht htyp).trans ((if_neg h1).trans (doControl_unsupported hc)))
  case setEidBad =>
    exact congrArg Host.Outcome.next ((mctpOn_serves ht htyp).trans ((if_pos hc).trans (doSetEid_refuses he)))
  case setEid =>
    exact congrArg Host.Outcome.next ((mctpOn_serves ht htyp).trans ((if_pos hc).trans (doSetEid_takes h0 h1)))
  case unknown =>
    have h81 : byteAt req 1 ≠ 0x81 := fun h => hu (by rw [h]; decide)
    exact congrArg Host.Outcome.next ((mctpOn_serves ht htyp).trans ((spdmTurn_other h81).trans (spdmOther_unknown hu)))
  case version => exact congrArg Host.Outcome.next ((mctpOn_serves ht htyp).trans (doGetVersion_answers h0 hc))
  case capabilities =>
    exact congrArg Host.Outcome.next ((mctpOn_serves ht htyp).trans (spdmTurn_acts h0 hc (by rw [hst]; rfl)))
  case early =>
    exact congrArg Host.Outcome.next ((mctpOn_serves ht htyp).trans (spdmTurn_early h0 hc (beq_false_of_ne hst)))
  case algorithms =>
    exact congrArg Host.Outcome.next ((mctpOn_serves ht htyp).trans
      (doNegotiate_answers h0 hc hst (by rw [h8, h12, Bool.and_true])))
  case algorithmsBad =>
    refine congrArg Host.Outcome.next ((mctpOn_serves ht htyp).trans (doNegotiate_refuses h0 hc hst ?_))
    exact hbad.elim (fun h => by rw [h, Bool.false_and]) fun h => by rw [h, Bool.and_false]
  case digests => exact congrArg Host.Outcome.next ((mctpOn_serves ht htyp).trans (spdmTurn_acts h0 hc hr))
  case certificate =>
    obtain ⟨m, hm, hdrop⟩ := doGetCertificate_answers h0 hc hr hslot ho
    exact ⟨m, congrArg Host.Outcome.next ((mctpOn_serves ht htyp).trans hm), hdrop⟩
  case challenge =>
    obtain ⟨m, hm, hhead, hnonce⟩ := doChallenge_answers h0 hc hr hslot hlen hkey
    exact ⟨m, congrArg Host.Outcome.next ((mctpOn_serves ht htyp).trans hm), hhead, hnonce⟩
  case challengeNoKey =>
    exact congrArg Host.Outcome.next ((mctpOn_serves ht htyp).trans (doChallenge_noKey h0 hc hr hslot hlen hkey))
  case measurements =>
    obtain ⟨m, hm, hhead⟩ := doGetMeasurements_counts h0 hc hr hop hsign he
    exact ⟨m, congrArg Host.Outcome.next ((mctpOn_serves ht htyp).trans hm), hhead⟩
  case otherType => exact congrArg Host.Outcome.next (mctpOn_other htyp)
  case otherTypeWrite => exact congrArg Host.Outcome.next (mctpOn_other htyp)
  case otherSpdm => exact congrArg Host.Outcome.next (mctpOn_other htyp)
  case otherSpdmChallenge => exact congrArg Host.Outcome.next (mctpOn_other htyp)
  case gone => exact congrArg Host.Outcome.next (mctpOn_discards ht)
  case goneErase => exact congrArg Host.Outcome.next (mctpOn_discards ht)
  case goneReset => exact congrArg Host.Outcome.next (mctpOn_discards ht)
  case goneChallenge => exact congrArg Host.Outcome.next (mctpOn_discards ht)
  case goneEid => exact congrArg Host.Outcome.next (mctpOn_discards ht)
  case tap => exact congrArg Host.Outcome.next (doTap_stands h)
  case tapBypass => exact congrArg Host.Outcome.next (doTap_bypasses hj h)

end Sys2Proof.Machine

/-! JOB_STOP from FORCE to REARM (R391 to R396), power samples (R416, R417) and counters (R398, R404). -/

namespace Sys2Proof.Machine

/-! ### What a fold reaches -/

/-- What one step of a fold brings about, and every other keeps, holds after it. -/
theorem foldl_reaches {σ β : Type} {P : σ → Prop} {g : σ → β → σ} {l : List β} {a : β} (ha : a ∈ l) (hset : ∀ t, P (g t a))
    (hkeep : ∀ t x, P t → P (g t x)) (s : σ) : P (l.foldl g s) := by
  induction l generalizing s with
  | nil => exact absurd ha List.not_mem_nil
  | cons x l ih =>
    obtain rfl | hl := List.mem_cons.mp ha
    · exact foldl_keep l hkeep (hset s)
    · exact ih hl _

/-! ### Memory and squares outlive a job (R394) -/

/-- Memory and squares stay. -/
def keepsStores (s t : State) : Prop := t.mem = s.mem ∧ t.squares = s.squares

theorem keepsStores_refl (s : State) : keepsStores s s := ⟨rfl, rfl⟩

theorem keepsStores_trans {s t u : State} (h : keepsStores s t) (h' : keepsStores t u) : keepsStores s u :=
  ⟨h'.1.trans h.1, h'.2.trans h.2⟩

theorem keepsStores_foldl {β : Type} {g : State → β → State} (hg : ∀ t x, keepsStores t (g t x)) (l : List β) (s : State) :
    keepsStores s (l.foldl g s) :=
  foldl_keep (P := keepsStores s) l (fun t x h => keepsStores_trans h (hg t x)) (keepsStores_refl s)

theorem keepsStores_of_keepsCore {s t : State} (h : keepsCore s t) : keepsStores s t := by
  unfold keepsCore at h
  rw [h]
  exact ⟨rfl, rfl⟩

theorem keepsStores_setFld (s : State) (o hi lo v : Nat) : keepsStores s (setFld s o hi lo v) := ⟨rfl, rfl⟩

theorem memByte_of_keepsStores {s t : State} (h : keepsStores s t) (a : Nat) : memByte t a = memByte s a := by
  rw [memByte, h.1, ← memByte]

/-! ### FORCE (R391, R392) -/

section
variable (s : State) (reason origin beat : Nat)

theorem stopTold_disp : (stopTold s reason origin beat).disp = { s.disp with ticks := [], startAt := none, endStop := none } := by
  have hirqs : ∀ (t : State) (l : List Nat), (l.foldl (fun t q => ccIrq t q 4) t).disp = t.disp := fun t l =>
    disp_foldl t (g := fun t q => ccIrq t q 4) (fun _ _ => setReg_disp _ _ _) l
  have hstops : ∀ t, (sendStops t origin reason beat).disp = t.disp := fun t => by
    rw [sendStops]
    exact disp_foldl t (g := pushStop (stopPkt t origin reason beat)) (fun _ _ => modFab_disp _ _) _
  simp only [stopTold]
  rw [hstops, hirqs, disp_of_keepsCore (keepsCore_fireEvent _ _), disp_of_keepsCore (keepsCore_count _ _ _), modDisp_disp,
    setReg_disp]

/-- The start of JOB_STOP accepts no tick and cuts the running beat. -/
theorem disp_stopHere {s : State} (hj : inJob s = true) (hstop : isStopped s = false) (reason : Nat) :
    (stopHere s reason).disp.ticks = [] ∧ (stopHere s reason).disp.startAt = none ∧ (stopHere s reason).disp.cut = true := by
  have hnear : jobNear s = true := by rw [jobNear, hj, Bool.true_or, Bool.true_or]
  have hruns : ¬ (isStopped s || !jobNear s) = true := by rw [hstop, hnear]; decide
  rw [stopHere, startStop_eq, if_neg hruns]
  obtain ⟨hdisp, -⟩ := endsAdms_cut (stopTold s reason (thisChip s) (beatNum s))
  rw [cutBegun, modDisp_disp, stopTold_disp] at hdisp
  rw [hdisp]
  exact ⟨rfl, rfl, rfl⟩

theorem rangeErr_stopCtl : bit (reg (rangeErr s .mgt aMgtStopCtl) aMgtErr) 0 = true ∧
    reg (rangeErr s .mgt aMgtStopCtl) aMgtStopStatus = reg s aMgtStopStatus ∧ keepsCore s (rangeErr s .mgt aMgtStopCtl) :=
  ⟨bit_raise s .mgt _ (by decide), keepsRegs_raise s .mgt 0 _ aMgtStopStatus (by decide), keepsCore_raise s .mgt 0 _⟩

end

/-! ### The stop's completions (R393) -/

/-- Memory, squares and quarters stay. -/
def keepsHeld (s t : State) : Prop := keepsStores s t ∧ t.quarters = s.quarters

theorem keepsHeld_trans {s t u : State} (h : keepsHeld s t) (h' : keepsHeld t u) : keepsHeld s u :=
  ⟨keepsStores_trans h.1 h'.1, h'.2.trans h.2⟩

theorem keepsHeld_of_keepsCore {s t : State} (h : keepsCore s t) : keepsHeld s t :=
  ⟨keepsStores_of_keepsCore h, by rw [h]⟩

theorem keepsHeld_admEnd (s : State) (id code detail : Nat) : keepsHeld s (admEnd s id code detail) := by
  rw [admEnd_eq]
  exact ⟨⟨rfl, rfl⟩, rfl⟩

theorem keepsHeld_endOpen (code : Nat) (s : State) (a : Adm) : keepsHeld s (endOpen code s a) := by
  have hclose : keepsHeld s (closeDisco s a) := by
    unfold closeDisco
    split <;> exact ⟨⟨rfl, rfl⟩, rfl⟩
  unfold endOpen
  split
  · exact ⟨keepsStores_refl s, rfl⟩
  · exact keepsHeld_trans hclose (keepsHeld_admEnd _ _ _ _)

theorem keepsCore_complete (s : State) (a : Adm) : keepsCore s (complete s a) := by
  unfold complete
  split
  · exact keepsCore_refl s
  · exact keepsCore_ite (keepsCore_trans (keepsCore_cqPut ..) (keepsCore_count _ _ _)) (keepsCore_cqPut ..)

theorem keepsHeld_completeAll (s : State) (l : List Adm) : keepsHeld s (completeAll s l) := by
  have hbatch : keepsHeld s (l.foldl complete s) := keepsHeld_of_keepsCore (keepsCore_foldl keepsCore_complete l s)
  have hleave : ∀ t f, keepsHeld t (modDisp t f) := fun t f => ⟨⟨rfl, rfl⟩, rfl⟩
  exact keepsHeld_trans (keepsHeld_trans hbatch (hleave _ _)) (keepsHeld_of_keepsCore (keepsCore_raiseBatch _ _))

/-- Once every descriptor is completed, none is left. -/
theorem adms_completeAll_all (s : State) : (completeAll s s.disp.adms).disp.adms = [] := by
  have hbatch : (s.disp.adms.foldl complete s).disp = s.disp :=
    disp_of_keepsCore (keepsCore_foldl keepsCore_complete s.disp.adms s)
  unfold completeAll
  dsimp only
  rw [disp_of_keepsCore (keepsCore_raiseBatch _ _), modDisp_disp, hbatch]
  refine List.filter_eq_nil_iff.mpr fun a ha => ?_
  have hid : a.id ∈ s.disp.adms.map (·.id) := List.mem_map_of_mem ha
  rw [List.contains_eq_mem, decide_eq_true hid]
  exact Bool.false_ne_true

/-- A quarter whose launches are over. -/
def launchless (x : Quarter) : Quarter := { x with launch := none, waiting := [], ldone := none }

theorem smGet_launchless (m : SMap Quarter) (n q : Nat) :
    smGet quarter0 ((List.range n).foldl (fun m q => smMod quarter0 m q launchless) m) q =
      if q < n then launchless (smGet quarter0 m q) else smGet quarter0 m q := by
  induction n with
  | zero => rfl
  | succ n ih =>
    rw [List.range_succ, List.foldl_append, List.foldl_cons, List.foldl_nil, smMod, smGet_set]
    by_cases hq : q = n
    · subst hq
      rw [if_pos rfl, ih, if_neg (lt_irrefl q), if_pos (Nat.lt_succ_self q)]
    · rw [if_neg hq, ih]
      exact if_congr (by omega) rfl rfl

theorem dropLaunches_eq (s : State) : dropLaunches s =
    { s with quarters := (List.range 96).foldl (fun m q => smMod quarter0 m q launchless) s.quarters } := rfl

theorem quarter_dropLaunches (s : State) {q : Nat} (h : q < 96) : quarter (dropLaunches s) q = launchless (quarter s q) := by
  rw [quarter, dropLaunches_eq, smGet_launchless, if_pos h, ← quarter]

theorem keepsStores_dropLaunches (s : State) : keepsStores s (dropLaunches s) := by
  rw [dropLaunches_eq]
  exact ⟨rfl, rfl⟩

section
variable (s : State)

/-- The completions of every descriptor, those still open ended as STOPPED, have been written. -/
def stopCompleted : State :=
  let t := s.disp.adms.foldl (endOpen sStopped) s
  modDisp (completeAll t t.disp.adms) fun d => { d with stopBeat := none, lastBeat := [] }

theorem keepsHeld_stopCompleted : keepsHeld s (stopCompleted s) := by
  have hends : keepsHeld s (s.disp.adms.foldl (endOpen sStopped) s) :=
    foldl_keep (P := keepsHeld s) s.disp.adms (fun t a h => keepsHeld_trans h (keepsHeld_endOpen sStopped t a))
      ⟨keepsStores_refl s, rfl⟩
  exact keepsHeld_trans hends (keepsHeld_completeAll _ _)

theorem doStopCompletions_runs {s : State} (h : stopRuns s = true) :
    doStopCompletions s = setFld (dropLaunches (stopCompleted s)) aFabRtCtl 1 1 0 :=
  if_neg (by rw [h]; exact Bool.false_ne_true)

theorem doStopCompletions_none {s : State} (h : stopRuns s = false) : doStopCompletions s = s := if_pos (by rw [h]; rfl)

theorem disp_completed : (setFld (dropLaunches (stopCompleted s)) aFabRtCtl 1 1 0).disp = (stopCompleted s).disp := by
  rw [setFld_disp, disp_dropLaunches]

theorem quarter_completed {q : Nat} (h : q < 96) :
    quarter (setFld (dropLaunches (stopCompleted s)) aFabRtCtl 1 1 0) q = launchless (quarter s q) := by
  rw [quarter, setFld_quarters, ← quarter, quarter_dropLaunches _ h, quarter, (keepsHeld_stopCompleted s).2, ← quarter]

theorem keepsStores_completed : keepsStores s (setFld (dropLaunches (stopCompleted s)) aFabRtCtl 1 1 0) :=
  keepsStores_trans (keepsHeld_stopCompleted s).1 (keepsStores_trans (keepsStores_dropLaunches _) (keepsStores_setFld _ _ _ _ _))

end

/-! ### Quarters and streams that are off (R392) -/

section
variable {s : State} {p q i k : Nat}

theorem strm_setStrm (s : State) (q i : Nat) (v : Strm) (p k : Nat) :
    strm (setStrm s q i v) p k = if p = q ∧ k = i then v else strm s p k := by
  by_cases hp : p = q
  · subst hp
    rw [strm, setStrm, quarter_modQuarter_self, smGet_set]
    by_cases hk : k = i
    · rw [if_pos hk, if_pos ⟨rfl, hk⟩]
    · rw [if_neg hk, if_neg fun h => hk h.2, ← strm]
  · rw [strm, setStrm, quarter_modQuarter_ne _ _ hp, ← strm, if_neg fun h => hp h.1]

theorem keepsStores_setStrm (s : State) (q i : Nat) (v : Strm) : keepsStores s (setStrm s q i v) := ⟨rfl, rfl⟩

theorem quarter_setFld (s : State) (o hi lo v q : Nat) : quarter (setFld s o hi lo v) q = quarter s q := rfl

theorem strm_setFld (s : State) (o hi lo v q i : Nat) : strm (setFld s o hi lo v) q i = strm s q i := rfl

theorem strm_flushStrm (s : State) (q i p k : Nat) :
    strm (flushStrm s q i) p k = if p = q ∧ k = i then strm0 else strm s p k := by
  rw [flushStrm, strm_setStrm, strm_setFld]

theorem reg_flushStrm {o : Nat} (h : o ≠ aQtrStrmPtr q i) : reg (flushStrm s q i) o = reg s o := by
  rw [flushStrm, reg_setStrm, reg_setFld_ne _ _ _ _ h]

theorem keepsStores_flushStrm (s : State) (q i : Nat) : keepsStores s (flushStrm s q i) :=
  keepsStores_trans (keepsStores_setFld _ _ _ _ _) (keepsStores_setStrm _ _ _ _)

/-- A field that is 0 stays so while fields are cleared. -/
theorem fld_setFld_zero {o hi lo : Nat} (hl : lo ≤ hi) (hh : hi < 64) (h : fld s p hi lo = 0) :
    fld (setFld s o hi lo 0) p hi lo = 0 := by
  by_cases hp : p = o
  · rw [hp, fld_setFld_self _ _ _ _ _ hl hh, Nat.zero_mod]
  · rw [fld, reg_setFld_ne _ _ _ _ hp, ← fld, h]

/-- EN of a stream is cleared, and the stream is emptied. -/
def streamOff (q : Nat) (t : State) (i : Nat) : State := flushStrm (setFld t (aQtrStrmCfg q i) 31 31 0) q i

theorem quarterOff_eq (s : State) (q : Nat) :
    quarterOff s q = (List.range 14).foldl (streamOff q) (setFld s (aQtrCtl q) 0 0 0) := rfl

/-- A stream is off: disabled and empty. -/
def isOff (s : State) (q k : Nat) : Prop := fld s (aQtrStrmCfg q k) 31 31 = 0 ∧ strm s q k = strm0

theorem aQtrStrmCfg_ne_aQtrStrmPtr (p q i k : Nat) : aQtrStrmCfg p k ≠ aQtrStrmPtr q i := by
  unfold aQtrStrmCfg aQtrStrmPtr
  omega

theorem fld_streamOff (s : State) (p q i k : Nat) :
    fld (streamOff q s i) (aQtrStrmCfg p k) 31 31 = fld (setFld s (aQtrStrmCfg q i) 31 31 0) (aQtrStrmCfg p k) 31 31 := by
  rw [streamOff, fld, reg_flushStrm (aQtrStrmCfg_ne_aQtrStrmPtr p q i k), ← fld]

theorem isOff_streamOff_self (s : State) (q i : Nat) : isOff (streamOff q s i) q i := by
  refine ⟨?_, ?_⟩
  · rw [fld_streamOff, fld_setFld_self _ _ 31 31 _ (by decide) (by decide)]
    rfl
  · rw [streamOff, strm_flushStrm, if_pos ⟨rfl, rfl⟩]

theorem isOff_streamOff (h : isOff s p k) (q i : Nat) : isOff (streamOff q s i) p k := by
  refine ⟨?_, ?_⟩
  · rw [fld_streamOff]
    exact fld_setFld_zero (by decide) (by decide) h.1
  · rw [streamOff, strm_flushStrm, strm_setFld, h.2, ite_self]

theorem isOff_quarterOff_self (s : State) (q : Nat) (hk : k < 14) : isOff (quarterOff s q) q k := by
  rw [quarterOff_eq]
  exact foldl_reaches (P := fun t => isOff t q k) (List.mem_range.mpr hk) (fun t => isOff_streamOff_self t q k)
    (fun t i h => isOff_streamOff h q i) _

theorem aQtrStrmCfg_ne_aQtrCtl (p q : Nat) (hk : k < 14) : aQtrStrmCfg p k ≠ aQtrCtl q := by
  unfold aQtrStrmCfg aQtrCtl
  omega

theorem aQtrStrmPtr_ne_aQtrCtl (p q k : Nat) : aQtrCtl q ≠ aQtrStrmPtr p k := by
  unfold aQtrStrmPtr aQtrCtl
  omega

theorem isOff_quarterOff (hk : k < 14) (h : isOff s p k) (q : Nat) : isOff (quarterOff s q) p k := by
  rw [quarterOff_eq]
  refine foldl_keep (P := fun t => isOff t p k) _ (fun t i h => isOff_streamOff h q i) ⟨?_, h.2⟩
  rw [fld, reg_setFld_ne _ _ _ _ (aQtrStrmCfg_ne_aQtrCtl p q hk), ← fld, h.1]

theorem ctl_quarterOff (s : State) (p q : Nat) :
    fld (quarterOff s q) (aQtrCtl p) 0 0 = fld (setFld s (aQtrCtl q) 0 0 0) (aQtrCtl p) 0 0 := by
  have hstream : ∀ (t : State), ∀ i < 14, reg (streamOff q t i) (aQtrCtl p) = reg t (aQtrCtl p) := fun t i hi => by
    rw [streamOff, reg_flushStrm (aQtrStrmPtr_ne_aQtrCtl q p i), reg_setFld_ne _ _ _ _ (aQtrStrmCfg_ne_aQtrCtl q p hi).symm]
  have hstreams : ∀ n ≤ 14, ∀ t, reg ((List.range n).foldl (streamOff q) t) (aQtrCtl p) = reg t (aQtrCtl p) := by
    intro n hn t
    induction n with
    | zero => rfl
    | succ n ih =>
      rw [List.range_succ, List.foldl_append, List.foldl_cons, List.foldl_nil, hstream _ n (by omega), ih (by omega)]
  rw [quarterOff_eq, fld, hstreams 14 le_rfl, ← fld]

theorem keepsStores_quarterOff (s : State) (q : Nat) : keepsStores s (quarterOff s q) := by
  rw [quarterOff_eq]
  exact keepsStores_trans (keepsStores_setFld s _ _ _ _) (keepsStores_foldl (fun t i =>
    keepsStores_trans (keepsStores_setFld t _ _ _ _) (keepsStores_flushStrm _ q i)) _ _)

/-- Every quarter of a list has RUN at 0 and its streams off. -/
theorem quartersOff_off {l : List Nat} (hq : q ∈ l) (s : State) : fld (l.foldl quarterOff s) (aQtrCtl q) 0 0 = 0 ∧
    ∀ k < 14, isOff (l.foldl quarterOff s) q k := by
  refine ⟨foldl_reaches (P := fun t => fld t (aQtrCtl q) 0 0 = 0) hq (fun t => ?_) (fun t p h => ?_) s, fun k hk =>
    foldl_reaches (P := fun t => isOff t q k) hq (fun t => isOff_quarterOff_self t q hk)
      (fun t p h => isOff_quarterOff hk h p) s⟩
  · rw [ctl_quarterOff, fld_setFld_self _ _ 0 0 _ (by decide) (by decide)]
    rfl
  · rw [ctl_quarterOff]
    exact fld_setFld_zero (by decide) (by decide) h

end

/-! ### READABLE (R392, R394) -/

section
variable (s : State)

/-- Atomic regions are disabled, and quarters and streams are off. -/
def quartersOff : State := (quartersIn s).foldl quarterOff ((List.range 16).foldl atomOff s)

/-- What the fabric holds is discarded, and memory opens to the host. -/
def fabricEmptied : State := setFwQuota (discardCells (quartersOff s)) 1

/-- The registers that say so. -/
def jobLeft : State :=
  setFld (setFld (setFld (fabricEmptied s) aMgtStopStatus 2 2 1) aClkBeatCtl 29 29 0) aFabCtl 2 2 0

theorem doReadable_opens {s : State} (h : stopRuns s = true) (ha : s.disp.adms = []) : doReadable s = localBeat (jobLeft s) := by
  have hno : ¬ (!stopRuns s || !s.disp.adms.isEmpty) = true := by rw [h, ha]; decide
  exact if_neg hno

theorem reg_localBeat {o : Nat} (ho : o ≠ aClkBeatNum) (hev : o ∉ eventRegs) : reg (localBeat s) o = reg s o := by
  rw [localBeat, reg, modDisp_regs, ← reg, keepsRegs_count _ _ _ o hev, reg_setReg_ne _ _ ho]

theorem localBeat_frame : ∃ r h p d, localBeat s = { s with regs := r, host := h, pmc := p, disp := d } := by
  have hcount := keepsCore_count (setReg s aClkBeatNum (reg s aClkBeatNum + 1)) 1413 1
  unfold keepsCore at hcount
  rw [localBeat, hcount]
  exact ⟨_, _, _, _, rfl⟩

theorem reg_setFwQuota (on : Nat) {o : Nat} (h : 0x1400000 ≤ o) : reg (setFwQuota s on) o = reg s o := by
  have hslices : ∀ n ≤ 8, reg ((List.range n).foldl (fun t k =>
      let t1 := setFld t (aSccMode k) 1 1 on
      setFld t1 (aSccMode k) 31 30 (if fld t1 (aSccMode k) 2 1 = 0 then 0 else 1)) s) o = reg s o := by
    intro n hn
    induction n with
    | zero => rfl
    | succ n ih =>
      have hne : o ≠ aSccMode n := by
        unfold aSccMode
        omega
      rw [List.range_succ, List.foldl_append, List.foldl_cons, List.foldl_nil]
      dsimp only
      rw [reg_setFld_ne _ _ _ _ hne, reg_setFld_ne _ _ _ _ hne, ih (by omega)]
  exact hslices 8 le_rfl

theorem keepsBesideRegs_setFwQuota (on : Nat) : keepsBesideRegs s (setFwQuota s on) :=
  foldl_keep (P := keepsBesideRegs s) _ (fun t _ h => keepsBesideRegs_trans h
    (keepsBesideRegs_trans (keepsBesideRegs_setFld t _ _ _ _) (keepsBesideRegs_setFld _ _ _ _ _))) rfl

theorem keepsBesideRegs_jobLeft : keepsBesideRegs (discardCells (quartersOff s)) (jobLeft s) :=
  keepsBesideRegs_trans (keepsBesideRegs_trans (keepsBesideRegs_trans (keepsBesideRegs_setFwQuota _ _)
    (keepsBesideRegs_setFld _ _ _ _ _)) (keepsBesideRegs_setFld _ _ _ _ _)) (keepsBesideRegs_setFld _ _ _ _ _)

/-- The registers of the quarters stand once they are off. -/
theorem reg_readable {o : Nat} (h : 0x1400000 ≤ o) : reg (localBeat (jobLeft s)) o = reg (quartersOff s) o := by
  have hbelow : ∀ x ∈ aMgtStopStatus :: aClkBeatCtl :: aFabCtl :: aClkBeatNum :: eventRegs, x < 0x1400000 := by decide
  have hne : ∀ x ∈ aMgtStopStatus :: aClkBeatCtl :: aFabCtl :: aClkBeatNum :: eventRegs, o ≠ x := fun x hx he =>
    absurd (hbelow x hx) (by omega)
  rw [reg_localBeat _ (hne _ (by decide)) fun ho => hne o (List.mem_of_mem_drop (i := 4) ho) rfl, jobLeft,
    reg_setFld_ne _ _ _ _ (hne _ (by decide)), reg_setFld_ne _ _ _ _ (hne _ (by decide)),
    reg_setFld_ne _ _ _ _ (hne _ (by decide)), fabricEmptied, reg_setFwQuota _ _ h, discardCells, reg, modFab_regs, ← reg]

theorem readable_frame : ∃ r h p d, localBeat (jobLeft s) = { discardCells (quartersOff s) with
    regs := r, host := h, pmc := p, disp := d } := by
  obtain ⟨r, h, p, d, hbeat⟩ := localBeat_frame (jobLeft s)
  have hleft := keepsBesideRegs_jobLeft s
  unfold keepsBesideRegs at hleft
  rw [hbeat, hleft]
  exact ⟨r, h, p, d, rfl⟩

theorem strm_readable (q k : Nat) : strm (localBeat (jobLeft s)) q k = strm (quartersOff s) q k := by
  obtain ⟨r, h, p, d, hframe⟩ := readable_frame s
  rw [hframe]
  rfl

theorem keepsStores_quartersOff : keepsStores s (quartersOff s) := by
  have hatom : ∀ t n, keepsStores t (atomOff t n) := fun t n => by
    unfold atomOff
    split
    · exact keepsStores_setFld _ _ _ _ _
    · exact keepsStores_refl t
  exact keepsStores_trans (keepsStores_foldl hatom _ s) (keepsStores_foldl keepsStores_quarterOff _ _)

theorem keepsStores_readable : keepsStores s (localBeat (jobLeft s)) := by
  obtain ⟨r, h, p, d, hframe⟩ := readable_frame s
  rw [hframe]
  exact keepsStores_quartersOff s

theorem fld_stopStatus_readable : fld (localBeat (jobLeft s)) aMgtStopStatus 2 2 = 1 := by
  rw [fld, reg_localBeat _ (by decide) (by decide), ← fld, jobLeft, fld_setFld_ne _ _ 2 2 _ _ 2 2 (by decide) (by decide)
    (.inl (by decide)), fld_setFld_ne _ _ 29 29 _ _ 2 2 (by decide) (by decide) (.inl (by decide)),
    fld_setFld_self _ _ 2 2 _ (by decide) (by decide)]
  rfl

theorem inJob_readable : inJob (localBeat (jobLeft s)) = false := by
  rw [inJob, fld, reg_localBeat _ (by decide) (by decide), ← fld, jobLeft, fld_setFld_ne _ _ 2 2 _ _ 29 29 (by decide)
    (by decide) (.inl (by decide)), fld_setFld_self _ _ 29 29 _ (by decide) (by decide)]
  rfl

theorem fld_fabCtl_readable : fld (localBeat (jobLeft s)) aFabCtl 2 2 = 0 := by
  rw [fld, reg_localBeat _ (by decide) (by decide), ← fld, jobLeft, fld_setFld_self _ _ 2 2 _ (by decide) (by decide)]
  rfl

end

/-! ### REARM (R396) -/

section
variable {s : State}

theorem retireDown_none (h : (s.stk.chan.filter fun p => p.2 == 2) = []) : retireDown s = (s, true) := by
  rw [retireDown, h, List.foldl_nil]

theorem rearm_eq_cleared (hr : fld s aMgtStopStatus 2 2 = 1) (he : fld s aMgtErr 3 2 = 0)
    (hd : (s.stk.chan.filter fun p => p.2 == 2) = []) : doRearm s = setFld (clearQuarters s) aMgtStopStatus 1 0 0 := by
  rw [doRearm, hr, he, retireDown_none hd]
  rfl

theorem rearm_eq_flagged (hr : fld s aMgtStopStatus 2 2 = 0) : doRearm s = rangeErr s .mgt aMgtStopCtl := by
  rw [doRearm, hr]
  rfl

/-- A quarter has no operation in flight, nothing aborted, and every stream empty. -/
def isClear (s : State) (q : Nat) : Prop :=
  (quarter s q).ops = [] ∧ (quarter s q).aborted = none ∧ ∀ k < 14, strm s q k = strm0

/-- A quarter is cleared. -/
def clearQuarter (t : State) (q : Nat) : State :=
  (List.range 14).foldl (fun u i => flushStrm u q i) (modQuarter t q fun x => { x with ops := [], aborted := none })

theorem clearQuarters_eq (s : State) : clearQuarters s = (List.range 96).foldl clearQuarter { s with banks := [] } := rfl

/-- Streams that are emptied leave a quarter's operations. -/
theorem quarter_flushStrm (s : State) (q i p : Nat) :
    (quarter (flushStrm s q i) p).ops = (quarter s p).ops ∧ (quarter (flushStrm s q i) p).aborted = (quarter s p).aborted := by
  by_cases hp : p = q
  · subst hp
    rw [flushStrm, setStrm, quarter_modQuarter_self, quarter_setFld]
    exact ⟨rfl, rfl⟩
  · rw [flushStrm, setStrm, quarter_modQuarter_ne _ _ hp, quarter_setFld]
    exact ⟨rfl, rfl⟩

theorem flushed_frame (q : Nat) (l : List Nat) (s : State) (p : Nat) :
    (quarter (l.foldl (fun u i => flushStrm u q i) s) p).ops = (quarter s p).ops ∧
      (quarter (l.foldl (fun u i => flushStrm u q i) s) p).aborted = (quarter s p).aborted :=
  foldl_keep (P := fun t => (quarter t p).ops = (quarter s p).ops ∧ (quarter t p).aborted = (quarter s p).aborted) l
    (fun t i h => ⟨(quarter_flushStrm t q i p).1.trans h.1, (quarter_flushStrm t q i p).2.trans h.2⟩) ⟨rfl, rfl⟩

theorem strm_flushed_keep {p k : Nat} (q : Nat) (l : List Nat) (h : strm s p k = strm0) :
    strm (l.foldl (fun u i => flushStrm u q i) s) p k = strm0 :=
  foldl_keep (P := fun t => strm t p k = strm0) l (fun t i h => by rw [strm_flushStrm, h, ite_self]) h

theorem isClear_clearQuarter_self (t : State) (q : Nat) : isClear (clearQuarter t q) q := by
  obtain ⟨hops, habort⟩ := flushed_frame q (List.range 14) (modQuarter t q fun x => { x with ops := [], aborted := none }) q
  rw [quarter_modQuarter_self] at hops habort
  refine ⟨hops, habort, fun k hk => ?_⟩
  exact foldl_reaches (P := fun u => strm u q k = strm0) (List.mem_range.mpr hk)
    (fun u => by rw [strm_flushStrm, if_pos ⟨rfl, rfl⟩]) (fun u i h => by rw [strm_flushStrm, h, ite_self]) _

theorem isClear_clearQuarter {t : State} {q : Nat} (p : Nat) (h : isClear t q) : isClear (clearQuarter t p) q := by
  by_cases hq : q = p
  · rw [hq]
    exact isClear_clearQuarter_self t p
  · obtain ⟨hops, habort, hstrm⟩ := h
    have hother := quarter_modQuarter_ne t (fun x => { x with ops := [], aborted := none }) hq
    obtain ⟨hops', habort'⟩ := flushed_frame p (List.range 14) (modQuarter t p fun x => { x with ops := [], aborted := none }) q
    rw [hother] at hops' habort'
    exact ⟨hops'.trans hops, habort'.trans habort, fun k hk =>
      strm_flushed_keep p _ (by rw [strm, hother, ← strm, hstrm k hk])⟩

theorem isClear_clearQuarters (s : State) {q : Nat} (h : q < 96) : isClear (clearQuarters s) q := by
  rw [clearQuarters_eq]
  exact foldl_reaches (P := fun t => isClear t q) (List.mem_range.mpr h) (fun t => isClear_clearQuarter_self t q)
    (fun t p h => isClear_clearQuarter p h) _

theorem flushStrm_storage (s : State) (q i : Nat) : ∃ r m, flushStrm s q i = { s with regs := r, quarters := m } := by
  rw [flushStrm, setFld_eq]
  exact ⟨_, _, rfl⟩

theorem clearQuarter_frame (t : State) (q : Nat) : ∃ r m, clearQuarter t q = { t with regs := r, quarters := m } := by
  have hbase : ∃ r m, modQuarter t q (fun x => { x with ops := [], aborted := none }) = { t with regs := r, quarters := m } :=
    ⟨t.regs, _, rfl⟩
  rw [clearQuarter]
  refine foldl_keep (P := fun u => ∃ r m, u = { t with regs := r, quarters := m }) _ (fun u i h => ?_) hbase
  obtain ⟨r, m, hu⟩ := h
  obtain ⟨r', m', hflush⟩ := flushStrm_storage u q i
  rw [hflush, hu]
  exact ⟨r', m', rfl⟩

theorem clearQuarters_frame (s : State) : ∃ r m, clearQuarters s = { s with banks := [], regs := r, quarters := m } := by
  rw [clearQuarters_eq]
  refine foldl_keep (P := fun u => ∃ r m, u = { s with banks := [], regs := r, quarters := m }) _ (fun u q h => ?_)
    ⟨s.regs, s.quarters, rfl⟩
  obtain ⟨r, m, hu⟩ := h
  obtain ⟨r', m', hclear⟩ := clearQuarter_frame u q
  rw [hclear, hu]
  exact ⟨r', m', rfl⟩

theorem rearmed_frame (s : State) : ∃ r m, setFld (clearQuarters s) aMgtStopStatus 1 0 0 =
    { s with banks := [], regs := r, quarters := m } := by
  obtain ⟨r, m, h⟩ := clearQuarters_frame s
  rw [setFld_eq, h]
  exact ⟨_, _, rfl⟩

theorem isClear_rearmed (s : State) {q : Nat} (h : q < 96) : isClear (setFld (clearQuarters s) aMgtStopStatus 1 0 0) q := by
  obtain ⟨hops, habort, hstrm⟩ := isClear_clearQuarters s h
  exact ⟨by rw [quarter_setFld, hops], by rw [quarter_setFld, habort], fun k hk => by rw [strm_setFld, hstrm k hk]⟩

end

/-! ### Counters (R398, R403, R404) -/

section
variable (s : State)

theorem fldsAt_pmcCtl : fldsAt aMgtPmcCtl = [⟨5, 5, .wo⟩, ⟨4, 2, .rw⟩, ⟨0, 0, .rw⟩] := by decide +kernel

/-- A field that is replaced by itself leaves the word. -/
theorem putBits_bits (w : W64) {hi lo : Nat} (hl : lo ≤ hi) (hh : hi < 64) : putBits w hi lo (bits w hi lo) = w := by
  refine BitVec.eq_of_toNat_eq (Nat.eq_of_testBit_eq fun i => ?_)
  rw [testBit_putBits w hi lo _ i (by omega) hh]
  split
  · next h =>
    have hi' : i - lo + lo ≤ hi := by omega
    have hlo : lo + (i - lo) = i := by omega
    rw [testBit_bits, decide_eq_true hi', Bool.true_and, hlo]
  · rfl

/-- CLEAR is no state: the write of MGT_PMC_CTL that holds it leaves the register's value. -/
theorem writeFlds_pmcCtl (w : W64) : (writeFlds (fldsAt aMgtPmcCtl) true w (putBits w 5 5 1)).1 = w := by
  have hsel : bits (putBits w 5 5 1) 4 2 = bits w 4 2 := bits_putBits_ne w 5 5 1 4 2 (by decide) (by decide) (.inl (by decide))
  have hrun : bits (putBits w 5 5 1) 0 0 = bits w 0 0 := bits_putBits_ne w 5 5 1 0 0 (by decide) (by decide) (.inl (by decide))
  have hwrite : (writeFlds (fldsAt aMgtPmcCtl) true w (putBits w 5 5 1)).1 =
      putBits (putBits w 4 2 (bits (putBits w 5 5 1) 4 2)) 0 0 (bits (putBits w 5 5 1) 0 0) := by
    rw [fldsAt_pmcCtl]
    rfl
  rw [hwrite, hsel, hrun, putBits_bits w (by decide) (by decide), putBits_bits w (by decide) (by decide)]

/-- MGT_PMC_CTL is written with its own value, and the native counters are cleared. -/
def pmcCleared : State := pmcClear (setReg s aMgtPmcCtl (reg s aMgtPmcCtl))

theorem pmcCtlWrite_clears {s : State} (h : fld s aMgtPmcCtl 4 2 ≤ 4) : pmcCtlWrite s (putBits (reg s aMgtPmcCtl) 5 5 1) =
    if inJob (pmcCleared s) then pmcCleared s
    else modMgt (pmcCleared s) fun m => { m with coreSel := fld (pmcCleared s) aMgtPmcCtl 4 2 } := by
  have hsel : bits (putBits (reg s aMgtPmcCtl) 5 5 1) 4 2 = fld s aMgtPmcCtl 4 2 :=
    bits_putBits_ne _ 5 5 1 4 2 (by decide) (by decide) (.inl (by decide))
  have hlegal : decide (bits (putBits (reg s aMgtPmcCtl) 5 5 1) 4 2 ≤ 4) = true := decide_eq_true (by rw [hsel]; exact h)
  have hclear : bit (putBits (reg s aMgtPmcCtl) 5 5 1) 5 = true := by
    rw [bit_putBits _ 5 5 1 5 (by decide) (by decide)]
    rfl
  simp only [pmcCtlWrite, hlegal, hclear, regPut_idle_legal, writeFlds_pmcCtl, Bool.not_true, Bool.false_eq_true, if_false,
    if_true, pmcCleared]
  rfl

theorem reg_pmcCleared (o : Nat) : reg (pmcCleared s) o = reg s o := by
  show reg (setReg s aMgtPmcCtl (reg s aMgtPmcCtl)) o = reg s o
  rw [reg_setReg]
  split
  · next h => rw [h]
  · rfl

theorem pmc_pmcCleared (k : Nat) : smGet 0 (pmcCleared s).pmc k = if 2048 ≤ k then smGet 0 s.pmc k else 0 := by
  refine (smGet_filter_index 0 s.pmc (fun k => decide (2048 ≤ k)) k).trans ?_
  exact if_congr decide_eq_true_iff rfl rfl

/-- CLEAR zeroes the native counters, and leaves the H1 counters and every register. -/
theorem pmcCtlWrite_clears_frame {s : State} (h : fld s aMgtPmcCtl 4 2 ≤ 4) : ∃ g,
    pmcCtlWrite s (putBits (reg s aMgtPmcCtl) 5 5 1) = { pmcCleared s with mgt := g } := by
  rw [pmcCtlWrite_clears h]
  split
  · exact ⟨_, rfl⟩
  · exact ⟨_, rfl⟩

theorem bits_h1 (v : W32) : bits (v.setWidth 64) 31 0 = v.toNat := by
  rw [bits_setWidth]
  exact Nat.mod_eq_of_lt v.isLt

theorem pmc_h1Write (j : Nat) (v : W32) (k : Nat) :
    smGet 0 (h1Write s j (v.setWidth 64)).pmc k = if k = 2048 + j then v.toNat else smGet 0 s.pmc k := by
  rw [h1Write, smGet_set, bits_h1]

end

/-! ### Samples (R416) -/

theorem doDieSample_takes {s : State} {key : Nat} {t : Int} (hx : sampleOk t = true)
    (hf : (smGet sensor0 s.mgt.tj key).failed = false) : doDieSample s key t =
      thermal (modMgt (modMgt s fun m => { m with
        tj := smSet sensor0 m.tj key (dieSample s.now t (smGet sensor0 m.tj key)) }) fun m => { m with
          tBeat := maxOpt m.tBeat (tjMax (modMgt s fun m => { m with
            tj := smSet sensor0 m.tj key (dieSample s.now t (smGet sensor0 m.tj key)) })) }) := by
  simp only [doDieSample, hf, hx, Bool.false_eq_true, if_false, if_true, modMgt]

/-- Settles O58: the stop of a job stage by stage, samples, and the writes of counters. -/
theorem stopsPowerAndCounters : Obligations.StopsPowerAndCounters := by
  intro s die i x n j v
  dsimp only
  refine ⟨fun hj => congrArg Host.Outcome.next (if_pos hj), fun hj => ?outside, fun hj hs => ?force, fun h => ?noStop,
    fun h => ?completions, fun h ha => ?readable, fun hr he hd => ?rearm, fun hr => ?rearmEarly, fun hx hf => ?sample, rfl, rfl,
    fun h => ?clear, ?h1⟩
  case outside =>
    exact ⟨_, congrArg Host.Outcome.next (if_neg (Bool.eq_false_iff.mp hj)), rangeErr_stopCtl s⟩
  case force =>
    exact ⟨_, congrArg Host.Outcome.next (if_pos hj), disp_stopHere hj hs rHost⟩
  case noStop => exact congrArg Host.Outcome.next (doStopCompletions_none h)
  case completions =>
    have hstores := keepsStores_completed s
    refine ⟨_, congrArg Host.Outcome.next (doStopCompletions_runs h), ?_, ?_, ?_, fun q => ?_, memByte_of_keepsStores hstores,
      hstores.2⟩
    · rw [disp_completed]
      exact adms_completeAll_all _
    · rw [fld_setFld_self _ _ 1 1 _ (by decide) (by decide)]
      rfl
    · rw [disp_completed]
      rfl
    · rw [quarter_completed s q.isLt]
      exact ⟨rfl, rfl, rfl, rfl⟩
  case readable =>
    obtain ⟨regs, host, pmc, disp, hframe⟩ := readable_frame s
    have hstores := keepsStores_readable s
    refine ⟨_, congrArg Host.Outcome.next (doReadable_opens h ha), fld_stopStatus_readable s, inJob_readable s,
      fld_fabCtl_readable s, fun q hq => ?_, by rw [hframe]; rfl, by rw [hframe]; rfl, by rw [hframe]; rfl, by rw [hframe]; rfl,
      memByte_of_keepsStores hstores, hstores.2⟩
    have hin : q.val ∈ quartersIn s := List.mem_filter.mpr ⟨List.mem_range.mpr q.isLt, hq⟩
    obtain ⟨hrun, hoff⟩ := quartersOff_off hin ((List.range 16).foldl atomOff s)
    refine ⟨?_, fun k => ⟨?_, ?_⟩⟩
    · rw [fld, reg_readable s (by unfold aQtrCtl; omega), ← fld]
      exact hrun
    · rw [fld, reg_readable s (by unfold aQtrStrmCfg; omega), ← fld]
      exact (hoff k k.isLt).1
    · rw [strm_readable]
      exact (hoff k k.isLt).2
  case rearm =>
    obtain ⟨regs, quarters, hframe⟩ := rearmed_frame s
    refine ⟨_, congrArg Host.Outcome.next (rearm_eq_cleared hr he hd), ?_, by rw [hframe], fun q => ?_,
      fun a => by rw [hframe]; rfl, by rw [hframe]⟩
    · rw [fld_setFld_self _ _ 1 0 _ (by decide) (by decide)]
      rfl
    · obtain ⟨hops, habort, hstrm⟩ := isClear_rearmed s q.isLt
      exact ⟨hops, habort, fun k => hstrm k k.isLt⟩
  case rearmEarly => exact ⟨_, congrArg Host.Outcome.next (rearm_eq_flagged hr), rangeErr_stopCtl s⟩
  case sample => exact congrArg Host.Outcome.next (doDieSample_takes hx hf)
  case clear =>
    obtain ⟨mgt, hframe⟩ := pmcCtlWrite_clears_frame h
    refine ⟨_, congrArg Host.Outcome.next hframe, fun k hk => ?_, fun k hk => ?_, reg_pmcCleared s, rfl⟩
    · exact (pmc_pmcCleared s k).trans (if_neg (Nat.not_le.mpr hk))
    · exact (pmc_pmcCleared s k).trans (if_pos hk)
  case h1 =>
    refine ⟨_, rfl, ?_, fun k hk => ?_, rfl⟩
    · rw [pmc_h1Write, if_pos rfl]
    · rw [pmc_h1Write, if_neg hk]

end Sys2Proof.Machine

/-! A command leaves the queue of waiting commands alone, from any state: one equation for each operation of the model, in the
order of their definitions, put together over the commands. The lemmas of Sys2Proof/Laws/Kept… say it of states in canonical
form only. The equations are proved by rewriting, those of the state's operations too: simp then gives a proof that the kernel
checks step by step, where it would evaluate the state to check an equation that holds by definition. -/

namespace Sys2Proof.Machine

/-! ### Choices and folds -/

theorem pending_ite {c : Prop} [Decidable c] {s t : State} :
    (if c then s else t).pending = if c then s.pending else t.pending := by split <;> rfl

theorem pending_foldl {β : Type} {g : State → β → State} {l : List β} {s : State}
    (hg : ∀ t x, (g t x).pending = t.pending) : (l.foldl g s).pending = s.pending :=
  foldl_keep (P := fun t : State => t.pending = s.pending) l (fun t x h => (hg t x).trans h) rfl

theorem pending_ite_fst {β : Type} {c : Prop} [Decidable c] {x y : State × β} :
    (if c then x else y).1.pending = if c then x.1.pending else y.1.pending := by split <;> rfl

theorem pending_ite_snd {β : Type} {c : Prop} [Decidable c] {x y : β × State} :
    (if c then x else y).2.pending = if c then x.2.pending else y.2.pending := by split <;> rfl

theorem pending_of_ite {c : Prop} [Decidable c] {s t u : State} (hs : s.pending = u.pending) (ht : t.pending = u.pending) :
    (if c then s else t).pending = u.pending := by split <;> assumption

/-- A fold whose accumulator holds a state among other things. -/
theorem pending_foldl_in {σ β : Type} (state : σ → State) {g : σ → β → σ}
    (hg : ∀ x b, (state (g x b)).pending = (state x).pending) (l : List β) (x : σ) :
    (state (l.foldl g x)).pending = (state x).pending :=
  foldl_keep (P := fun y => (state y).pending = (state x).pending) l (fun y b h => (hg y b).trans h) rfl

/-! ### The state's operations -/

theorem pending_setReg (s : State) (o : Nat) (v : W64) : (setReg s o v).pending = s.pending := by rw [setReg_pending]

theorem pending_setSquare (s : State) (n : Nat) (v : Square) : (setSquare s n v).pending = s.pending := by
  rw [setSquare_pending]

theorem pending_setBank (s : State) (q c b : Nat) (v : Bank) : (setBank s q c b v).pending = s.pending := by
  rw [setBank_pending]

theorem pending_setVreg (s : State) (q c r l : Nat) (v : W32) (x : Bool) : (setVreg s q c r l v x).pending = s.pending := by
  rw [setVreg_pending]

theorem pending_setQuarter (s : State) (q : Nat) (v : Quarter) : (setQuarter s q v).pending = s.pending := by
  rw [setQuarter_pending]

/-! ### Shared operations -/

theorem pending_setFld (s : State) (o hi lo v : Nat) : (setFld s o hi lo v).pending = s.pending := by
  simp only [setFld, pending_setReg]

theorem pending_addFld (s : State) (o hi lo n : Nat) : (addFld s o hi lo n).pending = s.pending := by
  simp only [addFld, pending_setFld]

theorem pending_draw32 (s : State) : (draw32 s).2.pending = s.pending := by
  simp only [draw32]

theorem pending_draw256 (s : State) : (draw256 s).2.pending = s.pending := by
  simp only [draw256]

theorem pending_setErr (s : State) (blk : Blk) (b : Nat) (low : RecLow) : (setErr s blk b low).pending = s.pending := by
  unfold setErr
  split <;> simp only [pending_ite, ite_self, pending_setReg]

theorem pending_countH1 (k : Nat) (s : State) (j : Nat) : (countH1 k s j).pending = s.pending := by
  simp only [countH1, pending_ite, ite_self, pending_setReg]

theorem pending_countOnly (s : State) (n k : Nat) : (countOnly s n k).pending = s.pending := by
  simp only [countOnly, pending_ite, ite_self, pending_foldl, implies_true, pending_countH1]

theorem pending_hostPush (s : State) (m : HostMsg) : (hostPush s m).pending = s.pending := by
  simp only [hostPush]

theorem pending_msixPut (s : State) (vec : Nat) : (msixPut s vec).1.pending = s.pending := by
  simp only [msixPut, ite_self, pending_countOnly, pending_hostPush, pending_addFld, pending_ite_fst]

theorem pending_msixSend (s : State) (vec : Nat) : (msixSend s vec).pending = s.pending := by
  simp only [msixSend, pending_ite, ite_self, pending_msixPut, pending_setErr]

theorem pending_sourceSend (s : State) (e : Nat) : (sourceSend s e).pending = s.pending := by
  simp only [sourceSend, pending_ite, ite_self, pending_msixSend]

theorem pending_pmcSource (old s : State) : (pmcSource old s).pending = s.pending := by
  simp only [pmcSource, pending_ite, pending_sourceSend, ite_self]

theorem pending_count (s : State) (n k : Nat) : (count s n k).pending = s.pending := by
  simp only [count, pending_pmcSource, pending_countOnly]

theorem pending_msixRaise (s : State) (vec : Nat) : (msixRaise s vec).pending = s.pending := by
  simp only [msixRaise, pending_pmcSource, pending_msixSend]

theorem pending_fireEvent (s : State) (e : Nat) : (fireEvent s e).pending = s.pending := by
  simp only [fireEvent, pending_pmcSource, pending_sourceSend]

theorem pending_raise (s : State) (blk : Blk) (b : Nat) (low : RecLow) : (raise s blk b low).pending = s.pending := by
  unfold raise
  split <;> simp only [pending_ite, ite_self, pending_setErr, pending_setReg, pending_fireEvent]

theorem pending_recClear (s : State) (blk : Blk) : (recClear s blk).pending = s.pending := by
  unfold recClear
  split <;> simp only [pending_ite, ite_self, pending_setReg]

theorem pending_raiseQ (s : State) (q b src addr : Nat) : (raiseQ s q b src addr).pending = s.pending := by
  simp only [raiseQ, pending_raise]

theorem pending_hostWrite (s : State) (addr n : Nat) (v : W512) (ep ro : Bool) :
    (hostWrite s addr n v ep ro).pending = s.pending := by
  simp only [hostWrite, pending_ite, ite_self, pending_count, pending_hostPush, pending_raise, pending_addFld]

theorem pending_rangeErr (s : State) (blk : Blk) (off : Nat) : (rangeErr s blk off).pending = s.pending := by
  simp only [rangeErr, pending_raise]

theorem pending_rwiErr (s : State) (blk : Blk) (off : Nat) : (rwiErr s blk off).pending = s.pending := by
  simp only [rwiErr, pending_raise]

theorem pending_regPut (s : State) (blk : Blk) (off : Nat) (fs : List Fld) (idle legal : Bool) (v : W64) :
    (regPut s blk off fs idle legal v).pending = s.pending := by
  simp only [regPut, pending_ite, ite_self, pending_rangeErr, pending_setReg, pending_rwiErr]

theorem pending_breakRes (s : State) (w : Nat) : (breakRes s w).pending = s.pending := by
  simp only [breakRes, pending_ite, ite_self]

theorem pending_noteDropped (s : State) (a n : Nat) : (noteDropped s a n).pending = s.pending := by
  simp only [noteDropped, pending_ite, ite_self, pending_foldl, implies_true, pending_addFld]

theorem pending_writePart (s : State) (w lo : Nat) (bs : List Byte) : (writePart s w lo bs).pending = s.pending := by
  simp only [writePart, pending_ite, ite_self, pending_breakRes]

theorem pending_writeLoop (f : Nat) (s : State) (a : Nat) (bs : List Byte) : (writeLoop s a bs f).pending = s.pending := by
  induction f generalizing s a bs with
  | zero => rfl
  | succ f ih =>
    unfold writeLoop
    split
    · rfl
    · rw [ih, pending_writePart]

theorem pending_writeBytes (s : State) (a : Nat) (bs : List Byte) : (writeBytes s a bs).pending = s.pending := by
  simp only [writeBytes, pending_writeLoop, pending_noteDropped]

theorem pending_writeNat (s : State) (a n v : Nat) : (writeNat s a n v).pending = s.pending := by
  simp only [writeNat, pending_writeBytes]

theorem pending_poisonPart (s : State) (w : Nat) : (poisonPart s w).pending = s.pending := by
  simp only [poisonPart, pending_ite, ite_self, pending_breakRes]

theorem pending_poisonWord (s : State) (w : Nat) : (poisonWord s w).pending = s.pending := by
  simp only [poisonWord, pending_poisonPart, pending_noteDropped]

theorem pending_poisonRange (s : State) (a n : Nat) : (poisonRange s a n).pending = s.pending := by
  simp only [poisonRange, pending_ite, ite_self, pending_foldl, implies_true, pending_poisonPart, pending_noteDropped]

theorem pending_writeMarked (s : State) (a : Nat) (bs : List (Byte × Bool)) : (writeMarked s a bs).pending = s.pending := by
  simp only [writeMarked, pending_ite, ite_self, pending_foldl, implies_true, pending_writeBytes, pending_poisonPart]

theorem pending_putWords (l : List CWord) (s : State) (a : Nat) : (putWords s a l).pending = s.pending := by
  induction l generalizing s a with
  | nil => rfl
  | cons w l ih => simp only [putWords, ih, pending_ite, pending_poisonPart, pending_writePart, ite_self]

theorem pending_writeWords (s : State) (a : Nat) (l : List CWord) : (writeWords s a l).pending = s.pending := by
  simp only [writeWords, pending_putWords, pending_noteDropped]

theorem pending_sqAdd (s : State) (n amt : Nat) : (sqAdd s n amt).pending = s.pending := by
  simp only [sqAdd, pending_ite, ite_self, pending_setSquare]

theorem pending_sqPut (s : State) (n : Nat) (v : W32) : (sqPut s n v).pending = s.pending := by
  simp only [sqPut, pending_setSquare]

theorem pending_modQuarter (s : State) (q : Nat) (f : Quarter → Quarter) : (modQuarter s q f).pending = s.pending := by
  simp only [modQuarter, pending_setQuarter]

theorem pending_setStrm (s : State) (q i : Nat) (v : Strm) : (setStrm s q i v).pending = s.pending := by
  simp only [setStrm, pending_modQuarter]

theorem pending_ccIrq (s : State) (q b : Nat) : (ccIrq s q b).pending = s.pending := by
  simp only [ccIrq, pending_setReg]

theorem pending_countSlots (s : State) (q c i n : Nat) : (countSlots s q c i n).pending = s.pending := by
  simp only [countSlots, pending_ite, ite_self, pending_count]

theorem pending_modAdm (s : State) (id : Nat) (f : Adm → Adm) : (modAdm s id f).pending = s.pending := by
  simp only [modAdm]

theorem pending_noteOverrun (s : State) (id code : Nat) : (noteOverrun s id code).pending = s.pending := by
  simp only [noteOverrun, pending_ite, ite_self]

theorem pending_admEnd (s : State) (id code detail : Nat) : (admEnd s id code detail).pending = s.pending := by
  simp only [admEnd, pending_noteOverrun, pending_modAdm]

theorem pending_launchFault (s : State) (q status : Nat) : (launchFault s q status).pending = s.pending := by
  unfold launchFault
  repeat' split
  all_goals simp only [pending_admEnd]

theorem pending_engFault (s : State) (q i status off : Nat) : (engFault s q i status off).pending = s.pending := by
  simp only [engFault, pending_ite, ite_self, pending_setReg, pending_launchFault, pending_ccIrq, pending_modQuarter]

theorem pending_aerSet (s : State) (b : Nat) : (aerSet s b).pending = s.pending := by
  simp only [aerSet]

theorem pending_pcieReport (s : State) (e : PcieErr) : (pcieReport s e).pending = s.pending := by
  simp only [pcieReport, pending_ite, ite_self, pending_aerSet]

theorem pending_poisonRx (s : State) (a : Nat) : (poisonRx s a).pending = s.pending := by
  simp only [poisonRx, pending_raise, pending_aerSet]

theorem pending_readTimeout (s : State) : (readTimeout s).pending = s.pending := by
  simp only [readTimeout, pending_raise, pending_aerSet]

theorem pending_unsupported (s : State) : (unsupported s).pending = s.pending := by
  simp only [unsupported]

theorem pending_unsupportedWrite (s : State) : (unsupportedWrite s).pending = s.pending := by
  simp only [unsupportedWrite, pending_aerSet]

theorem pending_fromSrc (s : State) (src : Src) {act : State → State} (hact : ∀ t, (act t).pending = t.pending) :
    (fromSrc s src act).pending = s.pending := by
  unfold fromSrc
  split <;> simp only [pending_ite, pending_unsupportedWrite, hact, ite_self]

/-! ### The cache -/

theorem pending_modStk (s : State) (f : Stk → Stk) : (modStk s f).pending = s.pending := by
  simp only [modStk]

theorem pending_dirtyLine (s : State) (key dirty : Nat) : (dirtyLine s key dirty).pending = s.pending := by
  simp only [dirtyLine, pending_modStk]

theorem pending_writeBack (s : State) (key : Nat) (c : CLine) : (writeBack s key c).pending = s.pending := by
  unfold writeBack
  split <;> simp only [pending_ite, ite_self, pending_count, pending_modStk]

theorem pending_placeLine (s : State) (key la dirty : Nat) : (placeLine s key la dirty).pending = s.pending := by
  simp only [placeLine, pending_modStk]

theorem pending_touchMeta {drop : State → Nat → State} (s : State) (cls a : Nat) (wr : Bool)
    (hd : ∀ t n, (drop t n).pending = t.pending) : (touchMeta drop s cls a wr).pending = s.pending := by
  unfold touchMeta
  dsimp only
  split <;> simp only [pending_dirtyLine, pending_count, pending_placeLine, hd]

theorem pending_evictLoop (f : Nat) (s : State) (key : Nat) : (evictLoop f s key).pending = s.pending := by
  induction f generalizing s key with
  | zero => rw [evictLoop, pending_modStk]
  | succ f ih =>
    unfold evictLoop
    split
    · rfl
    · simp only [pending_ite, pending_touchMeta _ _ _ _ ih, pending_modStk, pending_writeBack, ite_self]

theorem pending_evict (s : State) (key : Nat) : (evict s key).pending = s.pending := by
  simp only [evict, pending_evictLoop]

theorem pending_install (s : State) (k cls la dirty : Nat) : (install s k cls la dirty).pending = s.pending := by
  simp only [install, pending_placeLine, pending_evict]

theorem pending_dropLines (s : State) (a n : Nat) : (dropLines s a n).pending = s.pending := by
  simp only [dropLines, pending_foldl, implies_true, pending_evict]

theorem pending_touchLine (s : State) (cls la parts : Nat) (wr whole : Bool) :
    (touchLine s cls la parts wr whole).pending = s.pending := by
  unfold touchLine
  dsimp only
  split
  · simp only [pending_dirtyLine, pending_count]
  · split
    · rw [pending_install]
    · split
      · rw [pending_foldl fun t i => by simp only [pending_ite, pending_install, ite_self]]
        simp only [pending_count, pending_touchMeta _ _ _ _ pending_evict]
      · simp only [pending_install, pending_count]

theorem pending_endRecov (s : State) (la : Nat) : (endRecov s la).pending = s.pending := by
  simp only [endRecov, pending_ite, ite_self, pending_modStk]

theorem pending_touch (s : State) (cls a n : Nat) (wr : Bool) : (touch s cls a n wr).pending = s.pending := by
  simp only [touch, pending_ite, ite_self, pending_foldl, implies_true, pending_endRecov, pending_touchLine]

/-! ### The fabric's queues and circuits -/

theorem pending_modFab (s : State) (f : Fab → Fab) : (modFab s f).pending = s.pending := by
  simp only [modFab]

theorem pending_raiseF (s : State) (b port addr : Nat) : (raiseF s b port addr).pending = s.pending := by
  unfold raiseF
  split <;> simp only [pending_count, pending_raise]

theorem pending_offer (s : State) (p n : Nat) : (offer s p n).pending = s.pending := by
  simp only [offer, pending_ite, ite_self]

theorem pending_pushQ (s : State) (p : Nat) (x : QPkt) : (pushQ s p x).pending = s.pending := by
  simp only [pushQ, pending_modFab, pending_offer]

theorem pending_pushPkt (s : State) (p : Nat) (k : Pkt) : (pushPkt s p k).pending = s.pending := by
  simp only [pushPkt, pending_pushQ]

theorem pending_deliver (s : State) (k : Pkt) : (deliver s k).pending = s.pending := by
  simp only [deliver, pending_modFab]

theorem pending_pushCtrl (s : State) (p : Nat) (k : Pkt) : (pushCtrl s p k).pending = s.pending := by
  simp only [pushCtrl, pending_modFab]

theorem pending_inject (s : State) (k : Pkt) : (inject s k).pending = s.pending := by
  simp only [inject]
  split
  · rw [pending_deliver]
  · split <;> simp only [pending_pushPkt, pending_ite, pending_deliver, pending_raiseF, ite_self]

theorem pending_sendReq (s : State) (dst flow typ : Nat) (ws : List CWord) (addr len q op : Nat) (port : Option Nat) :
    (sendReq s dst flow typ ws addr len q op port).pending = s.pending := by
  unfold sendReq
  split <;> simp only [pending_modFab, pending_pushPkt, pending_inject]

theorem pending_sendWrite (s : State) (dst flow typ afmt a : Nat) (ws : List CWord) (q op : Nat) (port : Option Nat) :
    (sendWrite s dst flow typ afmt a ws q op port).pending = s.pending := by
  simp only [sendWrite, pending_foldl, implies_true, pending_sendReq]

theorem pending_sendRead (s : State) (dst flow a n d q op : Nat) : (sendRead s dst flow a n d q op).pending = s.pending := by
  simp only [sendRead, pending_foldl, implies_true, pending_sendReq]

theorem pending_sendSignal (s : State) (dst flow sq amt q op : Nat) (port : Option Nat) :
    (sendSignal s dst flow sq amt q op port).pending = s.pending := by
  simp only [sendSignal, pending_sendReq]

theorem pending_circPut (s : State) (n : Nat) (c : List CWord) : (circPut s n c).pending = s.pending := by
  simp only [circPut, pending_foldl, implies_true, pending_modFab]

theorem pending_circPumpLoop (l : List (Nat × List CWord)) (s : State) (n : Nat) :
    (circPumpLoop s n l).pending = s.pending := by
  induction l generalizing s with
  | nil => rw [circPumpLoop, pending_modFab]
  | cons c l ih => simp only [circPumpLoop, pending_ite, ih, pending_circPut, pending_modFab, ite_self]

theorem pending_circPump (s : State) (n : Nat) : (circPump s n).pending = s.pending := by
  simp only [circPump, pending_circPumpLoop]

theorem pending_circSend (s : State) (n own : Nat) (cells : List (List CWord)) :
    (circSend s n own cells).pending = s.pending := by
  simp only [circSend, pending_circPump, pending_modFab]

theorem pending_circDrop (s : State) (n own : Nat) : (circDrop s n own).pending = s.pending := by
  simp only [circDrop, pending_modFab]

theorem pending_circWrite (s : State) (n own a : Nat) (ws : List CWord) : (circWrite s n own a ws).pending = s.pending := by
  simp only [circWrite, pending_circSend]

theorem pending_circSignalSend (s : State) (n sq amt : Nat) : (circSignalSend s n sq amt).pending = s.pending := by
  simp only [circSignalSend, pending_circSend]

theorem pending_addRet (s : State) (p key u : Nat) : (addRet s p key u).pending = s.pending := by
  simp only [addRet, pending_ite, ite_self, pending_modFab]

theorem pending_circUp (s : State) (n u : Nat) : (circUp s n u).pending = s.pending := by
  simp only [circUp, pending_ite, ite_self, pending_circPump, pending_modFab, pending_addRet]

theorem pending_circReturn (s : State) (n branch u : Nat) : (circReturn s n branch u).pending = s.pending := by
  simp only [circReturn, pending_ite, ite_self, pending_circUp, pending_modFab]

theorem pending_sinkFree (s : State) (n k : Nat) : (sinkFree s n k).pending = s.pending := by
  simp only [sinkFree, pending_circReturn, pending_modFab]

theorem pending_takeCirc (s : State) (n : Nat) (cell : List CWord) : (takeCirc s n cell).pending = s.pending := by
  simp only [takeCirc, pending_modFab]

theorem pending_modSink (s : State) (n : Nat) (f : Sink → Sink) : (modSink s n f).pending = s.pending := by
  simp only [modSink, pending_modFab]

theorem pending_raiseSink (s : State) (n addr : Nat) : (raiseSink s n addr).pending = s.pending := by
  simp only [raiseSink, pending_raiseF]

theorem pending_sinkCtl (s : State) (n : Nat) (c : List CWord) (kind : Nat) : (sinkCtl s n c kind).1.pending = s.pending := by
  simp only [sinkCtl, ite_self, pending_takeCirc, pending_raiseSink, pending_sinkFree, pending_modSink, pending_ite_fst]

/-! ### Streams -/

theorem pending_advanceFetch (s : State) (q i : Nat) : (advanceFetch s q i).pending = s.pending := by
  simp only [advanceFetch, pending_ite, ite_self, pending_setFld, pending_ccIrq]

theorem pending_doFetch (s : State) (q i : Nat) : (doFetch s q i).pending = s.pending := by
  unfold doFetch
  repeat' split
  all_goals simp only [pending_advanceFetch, pending_engFault, pending_setStrm]

theorem pending_popHead (s : State) (q i : Nat) : (popHead s q i).pending = s.pending := by
  simp only [popHead, pending_setStrm]

theorem pending_failHead (s : State) (q i st : Nat) (f : Fetched) : (failHead s q i st f).pending = s.pending := by
  simp only [failHead, pending_engFault, pending_popHead]

theorem pending_keepPred (s : State) (q i : Nat) (b : Bool) : (keepPred s q i b).pending = s.pending := by
  simp only [keepPred, pending_setStrm]

theorem pending_slotWait (s : State) (q i : Nat) : (slotWait s q i).pending = s.pending := by
  simp only [slotWait, pending_setStrm]

theorem pending_startOp (s : State) (q i : Nat) (f : Fetched) (slot fin : Bool) (stat : Option Stat) (recs : List (Nat ×
    Byte)) (tgt : SigTo) (after : List After) :
    (startOp s q i f slot fin stat recs tgt after).pending = s.pending := by
  simp only [startOp, pending_modQuarter]

theorem pending_amendOp (s : State) (q : Nat) (g : Op → Op) : (amendOp s q g).pending = s.pending := by
  simp only [amendOp, pending_modQuarter]

theorem pending_headerSignal (s : State) (q i : Nat) (w : W128) (tgt : SigTo) :
    (headerSignal s q i w tgt).pending = s.pending := by
  unfold headerSignal
  repeat' split
  all_goals simp only [pending_sqAdd, pending_sendSignal, pending_circSignalSend]

theorem pending_endNow (s : State) (q i : Nat) (f : Fetched) (tgt : SigTo) : (endNow s q i f tgt).pending = s.pending := by
  simp only [endNow, pending_headerSignal, pending_popHead]

theorem pending_skipNow (s : State) (q i : Nat) (f : Fetched) (tgt : SigTo) : (skipNow s q i f tgt).pending = s.pending := by
  simp only [skipNow, pending_count, pending_endNow]

theorem pending_doNop (s : State) (q i : Nat) : (doNop s q i).pending = s.pending := by
  unfold doNop
  split <;> simp only [pending_ite, ite_self, pending_failHead, pending_endNow, pending_skipNow]

theorem pending_sqsigSend (s : State) (q op : Nat) (w : W128) : (sqsigSend s q op w).pending = s.pending := by
  simp only [sqsigSend, pending_ite, ite_self, pending_sendSignal, pending_sqAdd]

theorem pending_doSqsig (s : State) (q i : Nat) : (doSqsig s q i).pending = s.pending := by
  unfold doSqsig
  split <;> simp only [pending_ite, ite_self, pending_failHead, pending_skipNow, pending_popHead, pending_sqsigSend,
    pending_headerSignal, pending_startOp]

theorem pending_doSqwait (s : State) (q i : Nat) : (doSqwait s q i).pending = s.pending := by
  unfold doSqwait
  repeat' split
  all_goals simp only [pending_failHead, pending_skipNow, pending_endNow, pending_setStrm]

theorem pending_doSqwaitResume (s : State) (q i : Nat) : (doSqwaitResume s q i).pending = s.pending := by
  unfold doSqwaitResume
  repeat' split
  all_goals simp only [pending_failHead, pending_endNow]

theorem pending_doSqset (s : State) (q i : Nat) : (doSqset s q i).pending = s.pending := by
  unfold doSqset
  split <;> simp only [pending_failHead, pending_skipNow, pending_endNow, pending_sqPut]

theorem pending_writeRecs (l : List (Nat × Byte)) (s : State) : (writeRecs s l).pending = s.pending := by
  induction l generalizing s with
  | nil => rfl
  | cons c l ih => rw [writeRecs, ih, pending_writeBytes]

theorem pending_dropOp (s : State) (q id : Nat) : (dropOp s q id).pending = s.pending := by
  simp only [dropOp, pending_modQuarter]

theorem pending_retireCounts (s : State) (q : Nat) (o : Op) : (retireCounts s q o).pending = s.pending := by
  simp only [retireCounts, pending_ite, ite_self, pending_countSlots, pending_count]

theorem pending_retireOp (s : State) (q : Nat) (o : Op) : (retireOp s q o).pending = s.pending := by
  simp only [retireOp, pending_ite, ite_self, pending_writeRecs, pending_retireCounts, pending_headerSignal, pending_dropOp]

theorem pending_doRetire (s : State) (q i : Nat) : (doRetire s q i).pending = s.pending := by
  unfold doRetire
  repeat' split
  all_goals simp only [pending_ite, ite_self, pending_retireOp, pending_sqsigSend, pending_modQuarter]

theorem pending_waitFault (s : State) (q i off : Nat) : (waitFault s q i off).pending = s.pending := by
  simp only [waitFault, pending_engFault, pending_raiseQ]

theorem pending_freeDrainBank (s : State) (q : Nat) (o : Op) : (freeDrainBank s q o).pending = s.pending := by
  simp only [freeDrainBank, pending_ite, ite_self, pending_setBank]

theorem pending_orphanReqs (s : State) (q op : Nat) : (orphanReqs s q op).pending = s.pending := by
  simp only [orphanReqs, pending_modFab]

theorem pending_abandonOp (s : State) (q : Nat) (o : Op) : (abandonOp s q o).pending = s.pending := by
  unfold abandonOp
  split <;> simp only [pending_circDrop, pending_orphanReqs, pending_dropOp, pending_freeDrainBank]

theorem pending_doWaitTo (s : State) (q i : Nat) : (doWaitTo s q i).pending = s.pending := by
  unfold doWaitTo
  repeat' split
  all_goals simp only [pending_waitFault, pending_abandonOp, pending_popHead]

theorem pending_raiseQReg (s : State) (q b : Nat) (src : Src) (off : Nat) : (raiseQReg s q b src off).pending = s.pending := by
  simp only [raiseQReg, pending_raise]

theorem pending_ptrWrite (s : State) (q i : Nat) (v : W64) (src : Src) : (ptrWrite s q i v src).pending = s.pending := by
  simp only [ptrWrite, pending_ite, ite_self, pending_raiseQReg, pending_setReg]

theorem pending_gateWrite (s : State) (q i : Nat) (v : W64) : (gateWrite s q i v).pending = s.pending := by
  simp only [gateWrite, pending_setReg]

theorem pending_flushStrm (s : State) (q i : Nat) : (flushStrm s q i).pending = s.pending := by
  simp only [flushStrm, pending_setStrm, pending_setFld]

theorem pending_cfgWrite (s : State) (q i : Nat) (v : W64) (src : Src) : (cfgWrite s q i v src).pending = s.pending := by
  simp only [cfgWrite, pending_ite, ite_self, pending_raiseQReg, pending_setReg, pending_flushStrm]

/-! ### Operands and results -/

theorem pending_writeMask (n : Nat) (s : State) (w val mask pm : Nat) : (writeMask s w val mask pm n).pending = s.pending := by
  induction n generalizing s w val mask pm with
  | zero => rfl
  | succ n ih => simp only [writeMask, ih, pending_ite, pending_poisonWord, pending_writeNat, ite_self]

theorem pending_writeElems (s : State) (f : Fmt) (a : Nat) (cs : List Cell1) (n : Nat) :
    (writeElems s f a cs n).pending = s.pending := by
  simp only [writeElems, pending_writeMask]

theorem pending_writeStat (s : State) (q off : Nat) (t : Stat) : (writeStat s q off t).pending = s.pending := by
  simp only [writeStat, pending_writeBytes]

theorem pending_mergeStat (s : State) (q off src : Nat) (t : Stat) : (mergeStat s q off src t).pending = s.pending := by
  simp only [mergeStat, pending_ite, ite_self, pending_raiseQ, pending_poisonRange, pending_writeStat]

/-! ### Matrix engines -/

theorem pending_mmaStart (s : State) (q c : Nat) (f : Fetched) : (mmaStart s q c f).pending = s.pending := by
  unfold mmaStart
  split
  · rw [pending_failHead]
  · split
    · rw [pending_failHead]
    · dsimp only
      split
      · rw [pending_failHead]
      · simp only [pending_ite, pending_raiseQ, pending_amendOp, pending_startOp, pending_setBank, pending_popHead, ite_self]

theorem pending_doMma (s : State) (q c : Nat) : (doMma s q c).pending = s.pending := by
  unfold doMma
  split <;> simp only [pending_ite, ite_self, pending_failHead, pending_keepPred, pending_countSlots, pending_skipNow,
    pending_setBank, pending_slotWait, pending_mmaStart]

theorem pending_finishOp (s : State) (q id : Nat) : (finishOp s q id).pending = s.pending := by
  simp only [finishOp, pending_modQuarter]

theorem pending_doMmaEnd (s : State) (q c : Nat) : (doMmaEnd s q c).pending = s.pending := by
  unfold doMmaEnd
  split <;> simp only [pending_finishOp, pending_setBank]

theorem pending_doDcfg (s : State) (q d : Nat) : (doDcfg s q d).pending = s.pending := by
  unfold doDcfg
  dsimp only
  repeat' split
  all_goals simp only [pending_failHead, pending_skipNow, pending_keepPred, pending_endNow]

theorem pending_drainWrite (s : State) (own : Nat) (b : W512) (x : Bank) (w : W128) (rows : List (List (Cell1 × W32 × Cnt))) :
    (drainWrite s own b x w rows).pending = s.pending := by
  unfold drainWrite
  split <;> simp only [pending_ite, ite_self, pending_foldl, implies_true, pending_circWrite, pending_writeElems]

theorem pending_drainStart (s : State) (q d : Nat) (f : Fetched) : (drainStart s q d f).pending = s.pending := by
  simp only [drainStart, pending_ite, ite_self, pending_failHead, pending_raiseQ, pending_setBank, pending_popHead,
    pending_amendOp, pending_startOp, pending_drainWrite]

theorem pending_doDrain (s : State) (q d : Nat) : (doDrain s q d).pending = s.pending := by
  simp only [doDrain]
  split <;> simp only [pending_ite, ite_self, pending_failHead, pending_keepPred, pending_skipNow, pending_setBank,
    pending_slotWait, pending_drainStart]

theorem pending_setGradNf (s : State) : (setGradNf s).pending = s.pending := by
  simp only [setGradNf, pending_setReg]

theorem pending_gradReport (s : State) (n : Nat) (t : Stat) : (gradReport s n t).pending = s.pending := by
  simp only [gradReport, pending_ite, ite_self, pending_addFld, pending_setGradNf]

theorem pending_doDrainEnd (s : State) (q d : Nat) : (doDrainEnd s q d).pending = s.pending := by
  simp only [doDrainEnd]
  split <;> simp only [pending_ite, ite_self, pending_mergeStat, pending_writeStat, pending_gradReport, pending_finishOp,
    pending_setBank]

/-! ### Optical errors -/

theorem pending_modOpt (s : State) (f : Opt → Opt) : (modOpt s f).pending = s.pending := by
  simp only [modOpt]

theorem pending_raiseO (s : State) (b port lane laser : Nat) : (raiseO s b port lane laser).pending = s.pending := by
  simp only [raiseO, pending_raise]

/-! ### Vector engines -/

theorem pending_runInstr (s : State) (q i : Nat) (isOp : W128 → Bool) (touches : State → Fetched → Touches)
    {body : State → Fetched → Except Nat Done} (hb : ∀ f d, body s f = .ok d → d.s.pending = s.pending) :
    (runInstr s q i isOp touches body).pending = s.pending := by
  unfold runInstr
  split
  · rfl
  · rw [pending_failHead]
  · rw [pending_skipNow]
  · split
    · rw [pending_slotWait]
    · split
      · rw [pending_keepPred]
      · split
        · rw [pending_failHead]
        · next d hd => rw [pending_amendOp, pending_startOp, pending_popHead, hb _ d hd]

theorem pending_valuStep (q c : Nat) (w : W128) (x : State × Stat) (l : Nat) :
    (valuStep q c w x l).1.pending = x.1.pending := by
  simp only [valuStep, pending_foldl, implies_true, pending_setVreg]

/-- A body that goes on has read its operand block. -/
theorem ok_of_bind {α β : Type} {x : Except Nat α} {k : α → Except Nat β} {d : β} (h : (x >>= k) = .ok d) :
    ∃ b, k b = .ok d := by
  cases x with
  | error st => cases h
  | ok b => exact ⟨b, h⟩

theorem pending_valuBody (q c : Nat) (s : State) (f : Fetched) (d : Done) (h : valuBody q c s f = .ok d) :
    d.s.pending = s.pending := by
  unfold valuBody at h
  split at h
  · cases h
  · cases h
    simp only [pending_ite, pending_writeStat, pending_foldl_in Prod.fst (pending_valuStep q c f.word), ite_self]

theorem pending_vldStep (q c : Nat) (w : W128) (x : State × Stat) (i : Nat) : (vldStep q c w x i).1.pending = x.1.pending := by
  simp only [vldStep, pending_setVreg]

theorem pending_vldBcast (q c : Nat) (w : W128) (s : State) : (vldBcast q c w s).1.pending = s.pending := by
  simp only [vldBcast, pending_foldl, implies_true, pending_setVreg]

theorem pending_vldBody (q c : Nat) (s : State) (f : Fetched) (d : Done) (h : vldBody q c s f = .ok d) :
    d.s.pending = s.pending := by
  have hload : (if lBcast f.word then vldBcast q c f.word s
      else (List.range (lN f.word)).foldl (vldStep q c f.word) (s, stat0)).1.pending = s.pending := by
    rw [pending_ite_fst, pending_vldBcast, pending_foldl_in Prod.fst (pending_vldStep q c f.word), ite_self]
  unfold vldBody at h
  split at h
  · cases h
  · cases h
    simp only [pending_ite, pending_writeStat, ite_self]
    exact hload

theorem pending_vstBody (q c : Nat) (s : State) (f : Fetched) (d : Done) (h : vstBody q c s f = .ok d) :
    d.s.pending = s.pending := by
  unfold vstBody at h
  split at h
  · cases h
  · cases h
    simp only [pending_ite, pending_writeStat, pending_raiseQ, pending_writeElems, ite_self]

theorem pending_writeResult (s : State) (q c a : Nat) (bs : List Byte) (psn : Bool) :
    (writeResult s q c a bs psn).pending = s.pending := by
  simp only [writeResult, pending_ite, ite_self, pending_raiseQ, pending_poisonRange, pending_writeBytes]

theorem pending_vredBody (q c : Nat) (s : State) (f : Fetched) (d : Done) (h : vredBody q c s f = .ok d) :
    d.s.pending = s.pending := by
  obtain ⟨b, hb⟩ := ok_of_bind h
  split at hb
  · cases hb
  · cases hb
    rw [pending_writeResult]

theorem pending_momfinBody (q c : Nat) (s : State) (f : Fetched) (d : Done) (h : momfinBody q c s f = .ok d) :
    d.s.pending = s.pending := by
  obtain ⟨b, hb⟩ := ok_of_bind h
  split at hb
  · cases hb
  · cases hb
    rw [pending_writeResult]

theorem pending_vrelayBody (q c : Nat) (s : State) (f : Fetched) (d : Done) (h : vrelayBody q c s f = .ok d) :
    d.s.pending = s.pending := by
  obtain ⟨b, hb⟩ := ok_of_bind h
  split at hb
  · cases hb
  · cases hb
    simp only [pending_ite, pending_raiseQ, pending_circWrite, pending_touch, pending_writeElems, ite_self]

theorem pending_tkStep (q c : Nat) (b : W512) (x : State × Stat) (t : Nat) : (tkStep q c b x t).1.pending = x.1.pending := by
  have hwrites : ∀ (out : Nat) (l : List ((Nat × W32) × Nat)),
      (l.foldl (fun u p => writeNat u (out + 8 * p.2) 8 (p.1.1 + p.1.2.toNat * 2 ^ 32)) x.1).pending = x.1.pending := fun _ _ =>
    pending_foldl fun _ _ => pending_writeNat _ _ _ _
  refine pending_ite_fst.trans ((ite_congr rfl (fun _ => ?_) fun _ => hwrites _ _).trans (ite_self _))
  rw [pending_raiseQ, pending_poisonRange]

theorem pending_topkBody (q c : Nat) (s : State) (f : Fetched) (d : Done) (h : topkBody q c s f = .ok d) :
    d.s.pending = s.pending := by
  obtain ⟨b, hb⟩ := ok_of_bind h
  split at hb
  · cases hb
  · cases hb
    simp only [pending_ite, pending_writeStat, pending_foldl_in Prod.fst (pending_tkStep q c b), ite_self]

theorem pending_dropoutBody (q c : Nat) (s : State) (f : Fetched) (d : Done) (h : dropoutBody q c s f = .ok d) :
    d.s.pending = s.pending := by
  obtain ⟨b, hb⟩ := ok_of_bind h
  split at hb
  · cases hb
  · cases hb
    simp only [pending_ite, pending_raiseQ, pending_writeMask, pending_writeElems, ite_self]

theorem pending_maskapplyBody (q c : Nat) (s : State) (f : Fetched) (d : Done) (h : maskapplyBody q c s f = .ok d) :
    d.s.pending = s.pending := by
  obtain ⟨b, hb⟩ := ok_of_bind h
  split at hb
  · cases hb
  · cases hb
    simp only [pending_ite, pending_raiseQ, pending_writeElems, ite_self]

/-! ### Refresh of K records -/

theorem pending_kPut (psn : Bool) (a n : Nat) (s : State) (rows : List (List W32)) :
    (kPut psn a n s rows).pending = s.pending := by
  simp only [kPut, pending_ite, ite_self, pending_foldl, implies_true, pending_poisonRange, pending_writeBytes]

theorem pending_kNote (s : State) (r : KRec) (stale state stage : Nat) : (kNote s r stale state stage).pending = s.pending := by
  simp only [kNote, pending_writeBytes]

theorem pending_kWork (s : State) (r : KRec) : (kWork s r).pending = s.pending := by
  simp only [kWork, pending_kPut]

theorem pending_kStale (s : State) (r : KRec) (state : Nat) (lam : W32) : (kStale s r state lam).pending = s.pending := by
  simp only [kStale, pending_ite, ite_self, pending_kNote, pending_kPut]

theorem pending_kDecay (s : State) (r : KRec) : (kDecay s r).pending = s.pending := by
  simp only [kDecay, pending_ite, ite_self, pending_kPut, pending_kNote, pending_kStale]

theorem pending_kTry (s : State) (r : KRec) (k : Nat) : (kTry s r k).pending = s.pending := by
  simp only [kTry, pending_ite, ite_self, pending_kWork, pending_kNote, pending_kStale]

theorem pending_kGroup (s : State) (r : KRec) (g : Nat) : (kGroup s r g).pending = s.pending := by
  simp only [kGroup, pending_ite, ite_self, pending_kWork, pending_kNote, pending_kPut, pending_kStale]

theorem pending_kStage (s : State) (r : KRec) : (kStage s r).pending = s.pending := by
  simp only [kStage, pending_ite, ite_self, pending_kDecay, pending_kTry, pending_kGroup]

theorem pending_kLaunch (s : State) (b : W512) : (kLaunch s b).pending = s.pending := by
  unfold kLaunch
  split <;> simp only [pending_kStage]

/-! ### Update chiplets -/

theorem pending_modUpd (s : State) (f : Upd → Upd) : (modUpd s f).pending = s.pending := by
  simp only [modUpd]

theorem pending_modCur (s : State) (f : UpdCur → UpdCur) : (modCur s f).pending = s.pending := by
  simp only [modCur, pending_modUpd]

theorem pending_setChip (s : State) (k : Nat) (c : UpdChip) : (setChip s k c).pending = s.pending := by
  simp only [setChip, pending_modUpd]

theorem pending_raiseU (s : State) (k b group addr : Nat) : (raiseU s k b group addr).pending = s.pending := by
  simp only [raiseU, pending_raise]

theorem pending_p1Bad (k bit flag j addr : Nat) (x : P1) : (p1Bad k bit flag j addr x).s.pending = x.s.pending := by
  simp only [p1Bad, pending_raiseU]

theorem pending_p1Elem (h : Hdr) (x : P1) (i : Nat) : (p1Elem h x i).s.pending = x.s.pending := by
  unfold p1Elem
  dsimp only
  split
  · rfl
  · split <;> rfl

theorem pending_p1Count (s : State) (k n : Nat) : (p1Count s k n).pending = s.pending := by
  simp only [p1Count, pending_count]

theorem pending_p1Block (k j : Nat) (h : Hdr) (x : P1) (b : Nat) : (p1Block k j h x b).s.pending = x.s.pending := by
  unfold p1Block
  dsimp only
  split
  · rw [pending_p1Bad]
  · split
    · simp only [pending_count]
    · split
      · simp only [pending_p1Bad, pending_p1Count, pending_dropLines]
      · simp only [pending_foldl_in P1.s (pending_p1Elem h), pending_p1Count, pending_dropLines]

theorem pending_p1Group (k gtab : Nat) (x : P1) (j : Nat) : (p1Group k gtab x j).s.pending = x.s.pending := by
  have hblocks : ∀ h l y, (List.foldl (p1Block k j h) y l).s.pending = y.s.pending := fun h =>
    pending_foldl_in P1.s (pending_p1Block k j h)
  unfold p1Group
  simp only [apply_ite P1.s, pending_ite, pending_p1Bad, hblocks, pending_p1Count, pending_dropLines, ite_self]

theorem pending_pass1 (q : Nat) (s : State) (k : Nat) : (pass1 q s k).pending = s.pending := by
  simp only [pass1, pending_setChip]
  split
  · rfl
  · rw [pending_foldl_in P1.s (pending_p1Group _ _)]

theorem pending_updNext (s : State) : (updNext s).pending = s.pending := by
  unfold updNext
  split <;> simp only [pending_modUpd]

theorem pending_updEnd (s : State) (read : Bool) : (updEnd s read).pending = s.pending := by
  unfold updEnd
  repeat' split
  all_goals simp only [pending_ite, ite_self, pending_foldl, implies_true, pending_touch, pending_writeNat, pending_sqAdd,
    pending_admEnd, pending_count, pending_updNext, pending_modUpd]

theorem pending_updDecide (s : State) (r : UpdRec) : (updDecide s r).pending = s.pending := by
  unfold updDecide
  split <;> simp only [pending_ite, ite_self, pending_foldl, implies_true, pending_setReg, pending_modCur]

theorem pending_updArrive (s : State) (c : UpdCur) (r : UpdRec) : (updArrive s c r).pending = s.pending := by
  simp only [updArrive, pending_ite, ite_self, pending_modCur, pending_circSend, pending_updDecide]

theorem pending_updReady (s : State) : (updReady s).pending = s.pending := by
  unfold updReady
  split
  · rfl
  · simp only [pending_ite, pending_updDecide, pending_circSend, pending_modCur]
    split
    · rfl
    · split
      · rfl
      · split <;> simp only [pending_updArrive, pending_setFld, pending_modUpd, pending_modCur]

theorem pending_recIn (s : State) (r : UpdRec) : (recIn s r).pending = s.pending := by
  simp only [recIn]
  split <;> simp only [pending_ite, ite_self, pending_modUpd, pending_setFld, pending_addFld, pending_updArrive]

theorem pending_loseWords (s : State) (ue : List (BitVec 40)) : (loseWords s ue).pending = s.pending := by
  simp only [loseWords, pending_foldl, implies_true, pending_poisonWord]

theorem pending_planErr (s : State) (ks : List Nat) (pa : Nat) : (planErr s ks pa).pending = s.pending := by
  simp only [planErr, pending_foldl, implies_true, pending_raiseU]

theorem pending_doPass1Start (s0 : State) (ue : List (BitVec 40)) : (doPass1Start s0 ue).pending = s0.pending := by
  unfold doPass1Start
  repeat' split
  all_goals simp only [pending_ite, ite_self, pending_foldl, implies_true, pending_touch, pending_loseWords, pending_setFld,
    pending_modCur, pending_planErr, pending_pass1, pending_updReady]

theorem pending_doPass1End (s : State) (k : Nat) : (doPass1End s k).pending = s.pending := by
  unfold doPass1End
  split <;> simp only [pending_ite, ite_self, pending_setChip, pending_updReady]

theorem pending_putCodes (s : State) (f : Fmt) (a : Nat) (cs : List Nat) : (putCodes s f a cs).pending = s.pending := by
  simp only [putCodes, pending_writeBytes]

theorem pending_p2Write (s : State) (k j b : Nat) (novf : Bool) (h : Hdr) (c : Coef) :
    (p2Write s k j b novf h c).pending = s.pending := by
  simp only [p2Write, pending_ite, ite_self, pending_writeNat, pending_putCodes, pending_count, pending_raiseU, pending_setChip]

theorem pending_p2Poison (s : State) (k j addr : Nat) : (p2Poison s k j addr).pending = s.pending := by
  simp only [p2Poison, pending_raiseU, pending_setChip]

theorem pending_p2Block (s : State) (k j b : Nat) (novf : Bool) (clip : W32) (h : Hdr) :
    (p2Block s k j b novf clip h).pending = s.pending := by
  have hdrop : ((blockSpans h b).foldl (fun t p => dropLines t p.1 p.2) s).pending = s.pending :=
    pending_foldl fun t p => pending_dropLines t p.1 p.2
  unfold p2Block
  split
  · rw [pending_p2Poison]
  · split
    · rw [pending_count]
    · dsimp only
      split
      · rw [pending_p2Poison, hdrop]
      · rw [pending_p2Write, hdrop]

theorem pending_p2GroupEnd (s : State) (k a : Nat) (h : Hdr) : (p2GroupEnd s k a h).pending = s.pending := by
  simp only [p2GroupEnd, pending_count, pending_dropLines, pending_writeNat, pending_setChip]

theorem pending_p2Run (k : Nat) (novf : Bool) (clip : W32) (f : Nat) (s : State) :
    (p2Run k novf clip f s).pending = s.pending := by
  induction f generalizing s with
  | zero => simp only [p2Run, pending_ite, pending_setChip, ite_self]
  | succ f ih =>
    unfold p2Run
    split
    · rw [pending_setChip]
    · simp only [pending_ite, ih, pending_setChip, pending_p2Poison, pending_p2GroupEnd, pending_p2Block, pending_dropLines,
    ite_self]

theorem pending_doPass2Start (s : State) (k blocks : Nat) (ue : List (BitVec 40)) :
    (doPass2Start s k blocks ue).pending = s.pending := by
  unfold doPass2Start
  split <;> simp only [pending_ite, ite_self, pending_modCur, pending_loseWords, pending_p2Run, pending_setChip]

theorem pending_spoilGroups (s : State) (k : Nat) : (spoilGroups s k).pending = s.pending := by
  simp only [spoilGroups, pending_foldl, implies_true, pending_dropLines, pending_poisonWord]

theorem pending_cutCur (s : State) : (cutCur s).pending = s.pending := by
  unfold cutCur
  split <;> simp only [pending_ite, ite_self, pending_foldl, implies_true, pending_updEnd, pending_spoilGroups, pending_modCur]

theorem pending_cutUpdate (s : State) : (cutUpdate s).pending = s.pending := by
  simp only [cutUpdate, pending_foldl, implies_true, pending_admEnd, pending_cutCur, pending_modUpd]

theorem pending_updStart (s : State) (a : Adm) : (updStart s a).pending = s.pending := by
  simp only [updStart, pending_updNext, pending_modUpd, pending_modAdm]

theorem pending_doSeqrec (s : State) (n : Nat) (cell : List CWord) : (doSeqrec s n cell).pending = s.pending := by
  simp only [doSeqrec, pending_ite, ite_self, pending_sinkCtl, pending_sinkFree, pending_modSink, pending_recIn]

/-! ### Rings of the host -/

theorem pending_cqPut (s : State) (cq time beat detail status sq idx : Nat) :
    (cqPut s cq time beat detail status sq idx).pending = s.pending := by
  simp only [cqPut, pending_ite, ite_self, pending_hostWrite, pending_setFld, pending_count]

theorem pending_raiseBatch (s : State) (cqs : List Nat) : (raiseBatch s cqs).pending = s.pending := by
  simp only [raiseBatch, pending_foldl, implies_true, pending_msixRaise]

theorem pending_bar2Write (s : State) (off bytes : Nat) (v : W64) : (bar2Write s off bytes v).pending = s.pending := by
  simp only [bar2Write, pending_ite, ite_self, pending_raise, pending_setFld]

theorem pending_hostBar2 (s : State) (off bytes : Nat) (v : W64) : (hostBar2 s off bytes v).pending = s.pending := by
  simp only [hostBar2, pending_ite, ite_self, pending_unsupportedWrite, pending_bar2Write]

theorem pending_sqBaseWrite (s : State) (n : Nat) (v : W64) : (sqBaseWrite s n v).pending = s.pending := by
  simp only [sqBaseWrite, pending_ite, ite_self, pending_regPut, pending_setReg]

theorem pending_sqCfgWrite (s : State) (n : Nat) (v : W64) : (sqCfgWrite s n v).pending = s.pending := by
  simp only [sqCfgWrite, pending_ite, ite_self, pending_regPut, pending_setReg, pending_raise]

theorem pending_cqCfgWrite (s : State) (n : Nat) (v : W64) : (cqCfgWrite s n v).pending = s.pending := by
  simp only [cqCfgWrite, pending_ite, ite_self, pending_rwiErr, pending_regPut, pending_setReg]

theorem pending_reject (s : State) (ring slot cq status detail : Nat) (irq : Bool) :
    (reject s ring slot cq status detail irq).pending = s.pending := by
  simp only [reject, pending_ite, ite_self, pending_cqPut, pending_count, pending_raiseBatch]

theorem pending_admitDesc (s : State) (ring slot cq : Nat) (b : W512) (beat : Nat) :
    (admitDesc s ring slot cq b beat).pending = s.pending := by
  simp only [admitDesc, pending_ite, ite_self, pending_count, pending_setFld]

theorem pending_take (s : State) (ring slot cq : Nat) (b : W512) : (take s ring slot cq b).pending = s.pending := by
  unfold take
  repeat' split
  all_goals simp only [pending_reject, pending_admitDesc]

theorem pending_advanceSq (s : State) (n : Nat) : (advanceSq s n).pending = s.pending := by
  simp only [advanceSq, pending_setFld]

theorem pending_fetchOne (s : State) {a : Except (State → State) W512} (ha : ∀ r, a = .error r → ∀ t, (r t).pending =
  t.pending) :
    (fetchOne s a).pending = s.pending := by
  unfold fetchOne
  split
  · rfl
  · split
    · rfl
    · dsimp only
      split
      · simp only [pending_take, pending_count, pending_advanceSq]
      · next r => simp only [pending_reject, pending_raise, ha r rfl, pending_count, pending_advanceSq]

/-! ### The projector -/

theorem pending_modPrj (s : State) (f : Prj → Prj) : (modPrj s f).pending = s.pending := by
  simp only [modPrj]

theorem pending_raiseP (s : State) (b slot addr : Nat) : (raiseP s b slot addr).pending = s.pending := by
  simp only [raiseP, pending_raise]

theorem pending_prjCounts (s : State) : (prjCounts s).pending = s.pending := by
  simp only [prjCounts, pending_setFld]

theorem pending_prjNote (s : State) : (prjNote s).pending = s.pending := by
  simp only [prjNote, pending_ite, ite_self, pending_modPrj, pending_raiseP]

theorem pending_prjEnqueue (s : State) : (prjEnqueue s).pending = s.pending := by
  simp only [prjEnqueue, pending_ite, ite_self, pending_modPrj]

theorem pending_prjServe (s : State) : (prjServe s).pending = s.pending := by
  simp only [prjServe, pending_prjEnqueue, pending_modPrj, pending_prjNote, pending_prjCounts]

theorem pending_doPrjsub (s : State) (q : Nat) (isOp : W128 → Bool) : (doPrjsub s q isOp).pending = s.pending := by
  unfold doPrjsub
  repeat' split
  all_goals simp only [pending_failHead, pending_skipNow, pending_slotWait, pending_keepPred, pending_amendOp,
    pending_startOp, pending_popHead, pending_prjServe, pending_modPrj]

theorem pending_prjElem (sc a : W32) (base : Nat) (x : PrjAcc) (p : Nat × Int) :
    (prjElem sc a base x p).s.pending = x.s.pending := by
  simp only [prjElem, pending_writeNat]

theorem pending_prjFill (s : State) (base rows c : Nat) : (prjFill s base rows c).pending = s.pending := by
  simp only [prjFill, pending_foldl, implies_true, pending_writeNat]

theorem pending_prjVec (q rows : Nat) (b : W512) (sc : W32) (x : PrjAcc) (v : Nat) :
    (prjVec q rows b sc x v).s.pending = x.s.pending := by
  unfold prjVec
  dsimp only
  split
  · simp only [pending_poisonRange]
  · split
    · simp only [pending_prjFill]
    · split
      · simp only [pending_prjFill]
      · exact pending_foldl_in PrjAcc.s (pending_prjElem _ _ _) _ _

theorem pending_doPrjEnd (s : State) : (doPrjEnd s).pending = s.pending := by
  simp only [doPrjEnd]
  split
  · rw [pending_prjNote]
  · simp only [pending_prjServe, pending_modPrj, pending_ite, pending_count, pending_modQuarter,
      pending_foldl_in PrjAcc.s (pending_prjVec _ _ _ _), pending_prjNote, ite_self]

theorem pending_prjCut (s : State) : (prjCut s).pending = s.pending := by
  simp only [prjCut, pending_foldl, implies_true, pending_poisonRange, pending_modQuarter, pending_prjCounts, pending_modPrj]

theorem pending_prjBeat (s : State) : (prjBeat s).pending = s.pending := by
  simp only [prjBeat, pending_ite, ite_self, pending_setFld, pending_prjServe]

theorem pending_prjLoad (s : State) (b : W512) : (prjLoad s b).1.pending = s.pending := by
  simp only [prjLoad]
  split <;> simp only [pending_raiseP, pending_setFld, pending_modPrj, pending_touch, pending_setReg]

theorem pending_prjLoadStep (s : State) (a : Adm) : (prjLoadStep s a).1.pending = s.pending := by
  unfold prjLoadStep
  split <;> simp only [pending_prjLoad]

theorem pending_prjStays (s : State) (a : Adm) (st : Nat) : (prjStays s a st).pending = s.pending := by
  simp only [prjStays, pending_prjBeat, pending_admEnd, pending_modAdm]

theorem pending_prjSelect (s : State) (a : Adm) : (prjSelect s a).pending = s.pending := by
  simp only [prjSelect, pending_ite, ite_self, pending_prjStays, pending_setFld, pending_modPrj, pending_modAdm]

theorem pending_doLoad (s : State) (a : Adm) : (doLoad s a).pending = s.pending := by
  simp only [doLoad, pending_ite, ite_self, pending_prjLoadStep, pending_admEnd, pending_modAdm]

theorem pending_doLoadSelect (s : State) (a : Adm) : (doLoadSelect s a).pending = s.pending := by
  unfold doLoadSelect
  split
  · rfl
  · dsimp only
    split <;> simp only [pending_prjStays, pending_prjSelect, pending_prjLoadStep]

theorem pending_doSettleEnd (s : State) : (doSettleEnd s).pending = s.pending := by
  unfold doSettleEnd
  split <;> simp only [pending_ite, ite_self, pending_modPrj, pending_setFld, pending_raiseP, pending_prjServe, pending_admEnd]

theorem pending_trackOut (s : State) (j : Nat) : (trackOut s j).pending = s.pending := by
  simp only [trackOut, pending_modPrj]

theorem pending_doTracking (s : State) : (doTracking s).pending = s.pending := by
  simp only [doTracking, pending_foldl, implies_true, pending_trackOut, pending_modPrj, pending_setFld, pending_prjNote,
    pending_count]

theorem pending_doReferences (s : State) (n : Nat) : (doReferences s n).pending = s.pending := by
  simp only [doReferences, pending_foldl, implies_true, pending_doTracking]

theorem pending_prjFeed (s : State) (temp : Nat → Option Int) : (prjFeed s temp).pending = s.pending := by
  simp only [prjFeed, pending_modPrj]

/-! ### JOB_STOP -/

theorem pending_modDisp (s : State) (f : Disp → Disp) : (modDisp s f).pending = s.pending := by
  simp only [modDisp]

theorem pending_cutCircuits (s : State) : (cutCircuits s).pending = s.pending := by
  simp only [cutCircuits, pending_modFab]

theorem pending_cutBank (q : Nat) (s : State) (o : Op) : (cutBank q s o).pending = s.pending := by
  simp only [cutBank, pending_ite, ite_self, pending_setBank]

theorem pending_cutRecs (s : State) (o : Op) : (cutRecs s o).pending = s.pending := by
  simp only [cutRecs, pending_ite, ite_self, pending_foldl, implies_true, pending_poisonWord]

theorem pending_cutDst (s : State) (o : Op) : (cutDst s o).pending = s.pending := by
  simp only [cutDst, pending_ite, ite_self, pending_foldl, implies_true, pending_poisonWord]

theorem pending_cutQuarter (s : State) (q : Nat) : (cutQuarter s q).pending = s.pending := by
  simp only [cutQuarter, pending_ite, ite_self, pending_foldl, implies_true, pending_cutRecs, pending_cutDst, pending_cutBank,
    pending_modQuarter]

theorem pending_cutReqs (s : State) : (cutReqs s).pending = s.pending := by
  simp only [cutReqs, pending_foldl, implies_true, pending_poisonRange, pending_modFab]

theorem pending_cutPkts (s : State) : (cutPkts s).pending = s.pending := by
  simp only [cutPkts, pending_modFab]

theorem pending_cutCopies (s : State) : (cutCopies s).pending = s.pending := by
  simp only [cutCopies, pending_foldl, implies_true, pending_admEnd]

theorem pending_cut (s : State) : (cut s).pending = s.pending := by
  simp only [cut, pending_ite, ite_self, pending_foldl, implies_true, pending_modDisp, pending_cutQuarter, pending_cutUpdate,
    pending_prjCut, pending_cutCopies, pending_cutCircuits, pending_cutReqs, pending_cutPkts]

theorem pending_pushStop (k : Pkt) (s : State) (p : Nat) : (pushStop k s p).pending = s.pending := by
  simp only [pushStop, pending_modFab]

theorem pending_sendStops (s : State) (origin reason beat : Nat) : (sendStops s origin reason beat).pending = s.pending := by
  simp only [sendStops, pending_foldl, implies_true, pending_pushStop]

theorem pending_startStop (s : State) (reason origin beat : Nat) : (startStop s reason origin beat).pending = s.pending := by
  simp only [startStop, pending_ite, ite_self, pending_foldl, implies_true, pending_setReg, pending_modDisp,
    pending_fireEvent, pending_count, pending_ccIrq, pending_cut, pending_sendStops]

theorem pending_stopHere (s : State) (reason : Nat) : (stopHere s reason).pending = s.pending := by
  simp only [stopHere, pending_startStop]

theorem pending_stopAtEnd (s : State) (reason : Nat) : (stopAtEnd s reason).pending = s.pending := by
  simp only [stopAtEnd, pending_ite, ite_self, pending_modDisp]

theorem pending_closeDisco (s : State) (a : Adm) : (closeDisco s a).pending = s.pending := by
  simp only [closeDisco, pending_ite, ite_self, pending_modFab]

theorem pending_endOpen (code : Nat) (s : State) (a : Adm) : (endOpen code s a).pending = s.pending := by
  simp only [endOpen, pending_ite, ite_self, pending_admEnd, pending_closeDisco]

theorem pending_complete (s : State) (a : Adm) : (complete s a).pending = s.pending := by
  unfold complete
  split <;> simp only [pending_ite, ite_self, pending_cqPut, pending_count]

theorem pending_completeAll (s : State) (as_ : List Adm) : (completeAll s as_).pending = s.pending := by
  simp only [completeAll, pending_foldl, implies_true, pending_modDisp, pending_complete, pending_raiseBatch]

theorem pending_dropLaunches (s : State) : (dropLaunches s).pending = s.pending := by
  simp only [dropLaunches]

theorem pending_doStopCompletions (s : State) : (doStopCompletions s).pending = s.pending := by
  simp only [doStopCompletions, pending_ite, ite_self, pending_foldl, implies_true, pending_endOpen, pending_modDisp,
    pending_completeAll, pending_setFld, pending_dropLaunches]

theorem pending_setFwQuota (s : State) (on : Nat) : (setFwQuota s on).pending = s.pending := by
  simp only [setFwQuota, pending_foldl, implies_true, pending_setFld]

theorem pending_atomOff (s : State) (n : Nat) : (atomOff s n).pending = s.pending := by
  simp only [atomOff, pending_ite, ite_self, pending_setFld]

theorem pending_quarterOff (s : State) (q : Nat) : (quarterOff s q).pending = s.pending := by
  simp only [quarterOff, pending_foldl, implies_true, pending_flushStrm, pending_setFld]

theorem pending_discardCells (s : State) : (discardCells s).pending = s.pending := by
  simp only [discardCells, pending_modFab]

theorem pending_localBeat (s : State) : (localBeat s).pending = s.pending := by
  simp only [localBeat, pending_modDisp, pending_count, pending_setReg]

theorem pending_doReadable (s : State) : (doReadable s).pending = s.pending := by
  simp only [doReadable, pending_ite, ite_self, pending_foldl, implies_true, pending_quarterOff, pending_atomOff,
    pending_setFld, pending_setFwQuota, pending_discardCells, pending_localBeat]

theorem pending_loseStack (s : State) (k : Nat) : (loseStack s k).pending = s.pending := by
  simp only [loseStack, pending_modStk]

theorem pending_retireChan (s : State) (k c : Nat) : (retireChan s k c).1.pending = s.pending := by
  unfold retireChan
  split <;> simp only [pending_setReg, pending_loseStack, pending_modStk]

theorem pending_retireDown (s : State) : (retireDown s).1.pending = s.pending := by
  unfold retireDown
  refine foldl_keep (P := fun x : State × Bool => x.1.pending = s.pending) (s := (s, true)) _ (fun x p h => ?_) rfl
  exact (pending_retireChan x.1 _ _).trans h

theorem pending_clearQuarters (s : State) : (clearQuarters s).pending = s.pending := by
  simp only [clearQuarters, pending_foldl, implies_true, pending_flushStrm, pending_modQuarter]

theorem pending_doRearm (s : State) : (doRearm s).pending = s.pending := by
  simp only [doRearm, pending_ite, ite_self, pending_rangeErr, pending_retireDown, pending_clearQuarters, pending_setFld]

theorem pending_doForce (s : State) : (doForce s).pending = s.pending := by
  simp only [doForce, pending_ite, ite_self, pending_stopHere, pending_rangeErr]

theorem pending_doCut (s : State) : (doCut s).pending = s.pending := by
  simp only [doCut, pending_ite, ite_self, pending_stopHere, pending_cut]

/-! ### Links -/

theorem pending_setLane (s : State) (p l : Nat) (x : Lane) : (setLane s p l x).pending = s.pending := by
  simp only [setLane, pending_modFab]

theorem pending_inService (s : State) (p l : Nat) : (inService s p l).pending = s.pending := by
  simp only [inService, pending_setFld]

theorem pending_freeBuf (s : State) (x : QPkt) : (freeBuf s x).pending = s.pending := by
  simp only [freeBuf, pending_ite, ite_self, pending_addRet]

theorem pending_toInbox (s : State) (x : QPkt) : (toInbox s x).pending = s.pending := by
  simp only [toInbox, pending_modFab]

theorem pending_noteOld (s : State) (k : Pkt) : (noteOld s k).pending = s.pending := by
  simp only [noteOld, pending_ite, ite_self, pending_modFab]

theorem pending_noteCell (s : State) (k : Pkt) : (noteCell s k).pending = s.pending := by
  simp only [noteCell, pending_ite, ite_self, pending_noteOld]

theorem pending_routeIn (s : State) (p l : Nat) (k : Pkt) : (routeIn s p l k).pending = s.pending := by
  unfold routeIn
  repeat' split
  all_goals simp only [pending_raiseF, pending_freeBuf, pending_toInbox, pending_noteOld, pending_pushQ]

theorem pending_arrive (s : State) (p l : Nat) (k : Pkt) : (arrive s p l k).pending = s.pending := by
  simp only [arrive, pending_ite, ite_self, pending_toInbox, pending_routeIn]

theorem pending_malformed (s : State) (p : Nat) : (malformed s p).pending = s.pending := by
  simp only [malformed, pending_count]

theorem pending_setAsm (s : State) (p l : Nat) (ctrl : Bool) (a : Option Pkt) : (setAsm s p l ctrl a).pending = s.pending := by
  simp only [setAsm, pending_setLane]

theorem pending_contCell (s : State) (p l : Nat) (last : Bool) (k : Pkt) : (contCell s p l last k).pending = s.pending := by
  unfold contCell
  repeat' split
  all_goals simp only [pending_ite, ite_self, pending_malformed, pending_setAsm, pending_arrive]

theorem pending_packetCell (p l : Nat) (s : State) (c : List CWord) : (packetCell p l s c).pending = s.pending := by
  unfold packetCell
  repeat' split
  all_goals simp only [pending_ite, ite_self, pending_malformed, pending_arrive, pending_setAsm, pending_noteCell,
    pending_contCell]

theorem pending_circuitCell (n : Nat) (s : State) (c : List CWord) : (circuitCell n s c).pending = s.pending := by
  simp only [circuitCell, pending_ite, ite_self, pending_circPut, pending_raiseSink, pending_modFab]

theorem pending_circuitFrame (s : State) (p n : Nat) (cells : List (List CWord)) :
    (circuitFrame s p n cells).pending = s.pending := by
  simp only [circuitFrame, pending_ite, ite_self, pending_foldl, implies_true, pending_raiseF, pending_circuitCell]

theorem pending_takeRet (s : State) (p l : Nat) : (takeRet s p l).2.pending = s.pending := by
  unfold takeRet
  split <;> simp only [pending_modFab]

theorem pending_countCells (s : State) (p kind n : Nat) : (countCells s p kind n).pending = s.pending := by
  simp only [countCells, pending_ite, ite_self, pending_count]

theorem pending_sendFrame (s : State) (p l kind circuit : Nat) (cells : List (List CWord)) :
    (sendFrame s p l kind circuit cells).pending = s.pending := by
  simp only [sendFrame, pending_takeRet, pending_countCells, pending_count, pending_setLane]

theorem pending_reRet (p : Nat) (s : State) (f : TxFrame) : (reRet p s f).pending = s.pending := by
  simp only [reRet, pending_addRet]

theorem pending_moveHeld (s : State) (p l : Nat) : (moveHeld s p l).pending = s.pending := by
  simp only [moveHeld, pending_ite, ite_self, pending_foldl, implies_true, pending_reRet, pending_setLane, pending_modFab]

theorem pending_portLanes (s : State) (p : Nat) : (portLanes s p).pending = s.pending := by
  simp only [portLanes, pending_ite, ite_self, pending_setFld, pending_stopHere, pending_raiseF]

theorem pending_setRings (s : State) (p l v : Nat) : (setRings s p l v).pending = s.pending := by
  simp only [setRings, pending_setFld]

theorem pending_forgetPeer (s : State) (p l : Nat) : (forgetPeer s p l).pending = s.pending := by
  simp only [forgetPeer, pending_modOpt]

theorem pending_laneOut (s0 : State) (p l st : Nat) : (laneOut s0 p l st).pending = s0.pending := by
  simp only [laneOut, pending_ite, ite_self, pending_forgetPeer, pending_setRings, pending_setFld, pending_addFld,
    pending_portLanes, pending_moveHeld]

theorem pending_laneFail (s : State) (p l : Nat) : (laneFail s p l).pending = s.pending := by
  simp only [laneFail, pending_laneOut, pending_raiseO, pending_raiseF]

theorem pending_resend (s : State) (p l : Nat) : (resend s p l).pending = s.pending := by
  simp only [resend]
  split <;> simp only [pending_ite, ite_self, pending_laneFail, pending_count, pending_setLane]

theorem pending_askAgain (s : State) (p l : Nat) : (askAgain s p l).pending = s.pending := by
  simp only [askAgain, pending_setLane]

theorem pending_ackHeld (s : State) (p l ack : Nat) : (ackHeld s p l ack).pending = s.pending := by
  simp only [ackHeld]
  split <;> simp only [pending_ite, ite_self, pending_setLane]

theorem pending_takeReturn (s : State) (p l : Nat) (ret : W32) : (takeReturn s p l ret).pending = s.pending := by
  unfold takeReturn
  split <;> simp only [pending_circReturn, pending_modFab]

theorem pending_acceptFrame (s : State) (p l : Nat) (tag : W64) (cells : List (List CWord)) (ret : W32) :
    (acceptFrame s p l tag cells ret).pending = s.pending := by
  simp only [acceptFrame, pending_ite, ite_self, pending_foldl, implies_true, pending_inService, pending_count,
    pending_setLane, pending_takeReturn, pending_ackHeld, pending_resend, pending_circuitFrame, pending_packetCell]

theorem pending_doFrameRx (s : State) (p l : Nat) (ws : List (W64 × Byte)) (ret : BitVec 24) :
    (doFrameRx s p l ws ret).pending = s.pending := by
  unfold doFrameRx
  repeat' split
  all_goals simp only [pending_ite, ite_self, pending_askAgain, pending_count, pending_acceptFrame]

theorem pending_calFrames (p : Nat) (l : List Nat) (room : Nat) (s : State) : (calFrames p s l room).1.pending = s.pending := by
  induction l generalizing s room with
  | nil => rw [calFrames]
  | cons i l ih =>
    cases room with
    | zero => rfl
    | succ room =>
      unfold calFrames
      repeat' split
      all_goals simp only [ih, pending_modFab]

theorem pending_displace (s : State) (p : Nat) (fs : List MovedFrame) : (displace s p fs).1.pending = s.pending := by
  unfold displace
  repeat' split
  all_goals simp only [pending_modFab]

theorem pending_ctrlTake (q v : Nat) (l : List Pkt) (room : Nat) (cs : List (List CWord)) (s : State) :
    (ctrlTake s q v l room cs).1.pending = s.pending := by
  induction l generalizing s room cs with
  | nil => simp only [ctrlTake, pending_modFab]
  | cons k l ih => simp only [ctrlTake, pending_ite_fst, ih, pending_modFab, ite_self]

theorem pending_ctrlFrame (s : State) (q v : Nat) : (ctrlFrame s q v).1.pending = s.pending := by
  unfold ctrlFrame
  split <;> simp only [ite_self, pending_ctrlTake, pending_ite_fst]

theorem pending_ctrlFrames (p : Nat) (room : Nat) (s : State) : (ctrlFrames p s room).1.pending = s.pending := by
  induction room generalizing s with
  | zero => rfl
  | succ room ih => simp only [ctrlFrames, pending_ite_fst, ih, pending_ctrlFrame, ite_self]

theorem pending_startPkt (s : State) (p l : Nat) : (startPkt s p l).pending = s.pending := by
  unfold startPkt
  repeat' split
  all_goals simp only [pending_modFab, pending_setLane, pending_freeBuf]

theorem pending_packetCells (p l : Nat) (fresh : Bool) (f : Nat) (cs : List (List CWord)) (s : State) :
    (packetCells p l fresh s f cs).1.pending = s.pending := by
  induction f generalizing s cs with
  | zero => rfl
  | succ f ih =>
    simp only [packetCells]
    split <;> simp only [ih, pending_setLane, pending_ite, pending_startPkt, ite_self]

theorem pending_nextMoved {s t : State} {p : Nat} {x : MovedFrame} (h : nextMoved s p = some (x, t)) :
    t.pending = s.pending := by
  unfold nextMoved at h
  split at h
  · cases h
  · cases h
    rw [pending_modFab]

theorem pending_packetFrame (p first : Nat) (s : State) (l : Nat) : (packetFrame p first s l).pending = s.pending := by
  have hctrl : (match laneQueue s p l with
      | some q => if 24 ≤ p then ctrlFrame s q (vkeyOf p l 4) else (s, [])
      | none => (s, [])).1.pending = s.pending := by
    split
    · rw [pending_ite_fst, pending_ctrlFrame, ite_self]
    · rfl
  unfold packetFrame
  refine pending_of_ite ((pending_sendFrame ..).trans hctrl) ?_
  · split
    · next x t hmoved =>
      have ht : t.pending = s.pending := pending_nextMoved (x := x) (Option.ite_none_right_eq_some.mp hmoved).2
      split
      · rw [pending_sendFrame, ht]
      · rw [pending_sendFrame, pending_packetCells]
    · rw [pending_sendFrame, pending_packetCells]

theorem pending_deal (p first : Nat) (ls : List Nat) (s : State) (xs : List MovedFrame) :
    (deal p first s ls xs).pending = s.pending := by
  induction ls generalizing s xs with
  | nil => rw [deal]
  | cons l ls ih => cases xs <;> simp only [deal, ih, pending_sendFrame, pending_packetFrame]

theorem pending_movedFrames (s : State) (p room : Nat) : (movedFrames s p room).1.pending = s.pending := by
  simp only [movedFrames, pending_modFab]

theorem pending_sendWords (s : State) (p : Nat) : (sendWords s p).pending = s.pending := by
  simp only [sendWords, pending_ite, ite_self, pending_modOpt]

theorem pending_roundFrames (s : State) (p : Nat) : (roundFrames s p).pending = s.pending := by
  simp only [roundFrames, pending_ite, ite_self, pending_ctrlFrames, pending_deal, pending_movedFrames, pending_calFrames,
    pending_displace]

theorem pending_doRound (s : State) (p : Nat) : (doRound s p).pending = s.pending := by
  simp only [doRound, pending_sendWords, pending_roundFrames]

theorem pending_doCtrlDisplace (s : State) (p : Nat) : (doCtrlDisplace s p).pending = s.pending := by
  simp only [doCtrlDisplace, pending_ite, ite_self, pending_raiseF, pending_modFab]

/-! ### The move engine -/

theorem pending_atomicCount (s : State) (f : Fmt) (a : Nat) (x : CWord) : (atomicCount s f a x).pending = s.pending := by
  simp only [atomicCount, pending_ite, ite_self, pending_count]

theorem pending_atomicAdd (s0 : State) (f : Fmt) (a : Nat) (x : CWord) : (atomicAdd s0 f a x).pending = s0.pending := by
  simp only [atomicAdd, pending_ite, ite_self, pending_atomicCount, pending_poisonWord, pending_writeNat]

theorem pending_atomicAdds (f : Fmt) (l : List CWord) (s : State) (a : Nat) : (atomicAdds s f a l).pending = s.pending := by
  induction l generalizing s a with
  | nil => rfl
  | cons w l ih => rw [atomicAdds, ih, pending_atomicAdd]

theorem pending_copyRow (q op : Nat) (b : W512) (s : State) (r : Nat) : (copyRow q op b s r).pending = s.pending := by
  unfold copyRow
  split <;> simp only [pending_ite, ite_self, pending_touch, pending_writeMarked, pending_sendWrite, pending_sendRead,
    pending_circWrite]

theorem pending_moveCopyBody (q : Nat) (s : State) (f : Fetched) (d : Done) (h : moveCopyBody q s f = .ok d) :
    d.s.pending = s.pending := by
  obtain ⟨b, hb⟩ := ok_of_bind h
  split at hb
  · cases hb
  · cases hb
    exact pending_foldl (pending_copyRow _ _ _)

theorem pending_readAdd (s : State) (chip a n da q op fmt : Nat) : (readAdd s chip a n da q op fmt).pending = s.pending := by
  simp only [readAdd, pending_modFab, pending_sendRead]

theorem pending_atomicRows (q op : Nat) (b : W512) (l : List Nat) (s : State) :
    (atomicRows q op b l s).1.pending = s.pending := by
  induction l generalizing s with
  | nil => rfl
  | cons r l ih =>
    simp only [atomicRows, pending_ite_fst, ih, pending_ite, pending_sendWrite, pending_atomicAdds, pending_readAdd,
    pending_raiseQ,
      ite_self]

theorem pending_runPartial (s : State) (q i : Nat) (isOp : W128 → Bool) (touches : State → Fetched → Touches)
    {body : State → Fetched → Except Nat (Done × Option Nat)} (hb : ∀ f d, body s f = .ok d → d.1.s.pending = s.pending) :
    (runPartial s q i isOp touches body).pending = s.pending := by
  unfold runPartial
  split
  · rfl
  · rw [pending_failHead]
  · rw [pending_skipNow]
  · split
    · rw [pending_slotWait]
    · split
      · rw [pending_keepPred]
      · split
        · rw [pending_failHead]
        · next d hd => rw [pending_amendOp, pending_startOp, pending_popHead, hb _ _ hd]
        · next d st hd => rw [pending_failHead, pending_orphanReqs, hb _ _ hd]

theorem pending_moveAtomicBody (q : Nat) (s : State) (f : Fetched) (d) (h : moveAtomicBody q s f = .ok d) :
    d.1.s.pending = s.pending := by
  obtain ⟨b, hb⟩ := ok_of_bind h
  split at hb
  · cases hb
  · cases hb
    exact pending_atomicRows _ _ _ _ _

theorem pending_dispRow (q op : Nat) (b : W512) (s : State) (p : Place) (slot t : Nat) :
    (dispRow q op b s p slot t).pending = s.pending := by
  unfold dispRow
  repeat' split
  all_goals simp only [pending_touch, pending_writeMarked, pending_sendWrite]

theorem pending_dispEntry (q op : Nat) (b : W512) (x : DispAcc) (i : Nat) : (dispEntry q op b x i).s.pending = x.s.pending := by
  unfold dispEntry
  dsimp only
  split
  · rfl
  · split
    · simp only [pending_writeNat]
    · simp only [pending_dispRow, pending_writeNat]

theorem pending_dispLocalEnd (q : Nat) (b : W512) (s : State) (e c : Nat) : (dispLocalEnd q b s e c).pending = s.pending := by
  simp only [dispLocalEnd, pending_sqAdd, pending_touch, pending_writeNat]

theorem pending_afterOne (q : Nat) (o : Op) (s : State) (a : After) : (afterOne q o s a).1.pending = s.pending := by
  simp only [afterOne, ite_self, pending_sendSignal, pending_sendWrite, pending_ite_fst]

theorem pending_afterAll (q : Nat) (o : Op) (l : List After) (s : State) : (afterAll q o l s).1.pending = s.pending := by
  induction l generalizing s with
  | nil => rfl
  | cons a l ih => rw [afterAll, ih, pending_afterOne]

theorem pending_afterStep (s : State) (q : Nat) : (afterStep s q).pending = s.pending := by
  simp only [afterStep, pending_foldl, implies_true, pending_afterAll, pending_modQuarter]

theorem pending_dispEntries (s : State) (q : Nat) (b : W512) : (dispEntries s q b).s.pending = s.pending := by
  unfold dispEntries
  exact pending_foldl_in DispAcc.s (pending_dispEntry _ _ _) _ _

theorem pending_dispatchGo (s : State) (q : Nat) (f : Fetched) (b : W512) : (dispatchGo s q f b).pending = s.pending := by
  simp only [dispatchGo, pending_ite, ite_self, pending_foldl, implies_true, pending_dispEntries, pending_dispLocalEnd,
    pending_count, pending_afterStep, pending_amendOp, pending_startOp, pending_popHead]

theorem pending_doDispatch (s : State) (q : Nat) : (doDispatch s q).pending = s.pending := by
  unfold doDispatch
  repeat' split
  all_goals simp only [pending_failHead, pending_skipNow, pending_slotWait, pending_keepPred, pending_dispatchGo,
    pending_raiseQ]

theorem pending_gatherRowsBody (q : Nat) (s : State) (f : Fetched) (d : Done) (h : gatherRowsBody q s f = .ok d) :
    d.s.pending = s.pending := by
  obtain ⟨b, hb⟩ := ok_of_bind h
  split at hb
  · cases hb
  · dsimp only at hb
    split at hb
    · cases hb
    · split at hb
      · cases hb
      · cases hb
        simp only [pending_foldl, pending_touch, pending_writeMarked, implies_true]

theorem pending_combineBody (q : Nat) (s : State) (f : Fetched) (d : Done) (h : combineBody q s f = .ok d) :
    d.s.pending = s.pending := by
  -- By induction, not by `pending_foldl`: the kernel would evaluate a row to see that the fold's step is the one meant.
  have hrows : ∀ (b : W512) (rows : List (Nat × List Cell1)) (u : State),
      (rows.foldl (fun u r => writeElems u .b32 (lsBase q + scDst b + r.1 * scDstS b) r.2 (scLen b)) u).pending = u.pending :=
    fun b rows u => by
      induction rows generalizing u with
      | nil => rfl
      | cons r rows ih => rw [List.foldl_cons, ih, pending_writeElems]
  have hread : ∀ (b : W512) (es : List Nat) (n : Nat),
      (es.foldl (fun u i => touch u clQtr (retAddr s q b i) n false) s).pending = s.pending := fun _ _ _ =>
    pending_foldl fun _ _ => pending_touch ..
  obtain ⟨b, hb⟩ := ok_of_bind h
  split at hb
  · cases hb
  · dsimp only at hb
    split at hb
    · cases hb
    · split at hb
      · cases hb
      · cases hb
        exact pending_of_ite ((pending_raiseQ ..).trans ((hrows ..).trans (hread ..))) ((hrows ..).trans (hread ..))

theorem pending_scatterAdds (q : Nat) (b : W512) (l : List Nat) (s : State) : (scatterAdds q b l s).1.pending = s.pending := by
  induction l generalizing s with
  | nil => rfl
  | cons i l ih => simp only [scatterAdds, pending_ite_fst, ih, pending_atomicAdds, pending_raiseQ, ite_self]

theorem pending_scatterAddBody (q : Nat) (s : State) (f : Fetched) (d) (h : scatterAddBody q s f = .ok d) :
    d.1.s.pending = s.pending := by
  obtain ⟨b, hb⟩ := ok_of_bind h
  split at hb
  · cases hb
  · split at hb
    · cases hb
    · cases hb
      exact pending_scatterAdds _ _ _ _

theorem pending_scatterRowsBody (q : Nat) (s : State) (f : Fetched) (d : Done) (h : scatterRowsBody q s f = .ok d) :
    d.s.pending = s.pending := by
  obtain ⟨b, hb⟩ := ok_of_bind h
  split at hb
  · cases hb
  · dsimp only at hb
    split at hb
    · cases hb
    · split at hb
      · cases hb
      · cases hb
        simp only [pending_foldl, pending_touch, pending_writeMarked, implies_true]

/-! ### Packets -/

theorem pending_takePkt (s : State) (k : Pkt) : (takePkt s k).pending = s.pending := by
  unfold takePkt
  split <;> simp only [pending_freeBuf, pending_modFab]

theorem pending_respond (s : State) (p : Nat) (k : Pkt) (typ : Nat) (ws : List CWord) :
    (respond s p k typ ws).pending = s.pending := by
  unfold respond
  repeat' split
  all_goals simp only [pending_pushPkt, pending_inject]

theorem pending_refuse (s : State) (p : Nat) (k : Pkt) (cause : Nat) : (refuse s p k cause).pending = s.pending := by
  simp only [refuse, pending_respond]

theorem pending_acked (s : State) (p : Nat) (k : Pkt) : (acked s p k).pending = s.pending := by
  simp only [acked, pending_respond]

theorem pending_reqIn (s : State) (p : Nat) (k : Pkt) (typ : Nat) {act : State → State} (hact : ∀ t, (act t).pending =
  t.pending) :
    (reqIn s p k typ act).pending = s.pending := by
  simp only [reqIn, pending_ite, pending_raiseF, pending_takePkt, hact, ite_self]

theorem pending_doWrite (p : Nat) (k : Pkt) (s : State) : (doWrite p k s).pending = s.pending := by
  unfold doWrite
  repeat' split
  all_goals simp only [pending_refuse, pending_acked, pending_touch, pending_writeWords]

theorem pending_doRead (p : Nat) (k : Pkt) (s : State) : (doRead p k s).pending = s.pending := by
  unfold doRead
  repeat' split
  all_goals simp only [pending_ite, ite_self, pending_refuse, pending_touch, pending_respond]

theorem pending_doReqSignal (p : Nat) (k : Pkt) (s : State) : (doReqSignal p k s).pending = s.pending := by
  unfold doReqSignal
  split <;> simp only [pending_ite, ite_self, pending_refuse, pending_acked, pending_sqAdd]

theorem pending_doAtomicAdd (p : Nat) (k : Pkt) (s : State) : (doAtomicAdd p k s).pending = s.pending := by
  unfold doAtomicAdd
  repeat' split
  all_goals simp only [pending_refuse, pending_acked, pending_atomicAdds]

theorem pending_recovOver (s : State) (a : Nat) : (recovOver s a).pending = s.pending := by
  simp only [recovOver, pending_modStk]

theorem pending_recovFail (s : State) (a : Nat) : (recovFail s a).pending = s.pending := by
  simp only [recovFail, pending_foldl, implies_true, pending_stopHere, pending_touch, pending_poisonRange, pending_recovOver]

theorem pending_recovData (s : State) (a : Nat) (ws : List CWord) : (recovData s a ws).pending = s.pending := by
  simp only [recovData, pending_ite, ite_self, pending_foldl, implies_true, pending_recovFail, pending_touch,
    pending_writeWords, pending_recovOver]

theorem pending_dropReq (s : State) (r : Req) : (dropReq s r).pending = s.pending := by
  simp only [dropReq, pending_modFab]

theorem pending_lateRsp (s : State) (p : Nat) : (lateRsp s p).pending = s.pending := by
  simp only [lateRsp, pending_addFld, pending_raiseF]

theorem pending_reqOver (s : State) (r : Req) : (reqOver s r).pending = s.pending := by
  simp only [reqOver, pending_ite, ite_self, pending_afterStep, pending_admEnd]

theorem pending_rspIn (s : State) (p : Nat) (k : Pkt) (typ : Nat) (fits : Req → Bool) {act : Req → State → State}
    (hact : ∀ r t, (act r t).pending = t.pending) : (rspIn s p k typ fits act).pending = s.pending := by
  unfold rspIn
  split
  · rfl
  · split
    · simp only [pending_ite, pending_raiseF, pending_takePkt, ite_self]
    · dsimp only
      split <;> simp only [pending_ite, hact, pending_dropReq, pending_lateRsp, pending_takePkt, ite_self]

theorem pending_takeData (k : Pkt) (r : Req) (s : State) : (takeData k r s).pending = s.pending := by
  unfold takeData
  repeat' split
  all_goals simp only [pending_recovData, pending_reqOver, pending_atomicAdds, pending_touch, pending_writeWords]

theorem pending_unitRange (s : State) (r : Req) : (unitRange s r).pending = s.pending := by
  simp only [unitRange, pending_ite, ite_self, pending_raiseQ, pending_raise]

theorem pending_takeError (p : Nat) (r : Req) (s : State) : (takeError p r s).pending = s.pending := by
  simp only [takeError, pending_ite, ite_self, pending_unitRange, pending_raiseF, pending_recovFail, pending_reqOver,
    pending_poisonRange]

theorem pending_deadOp (s : State) (q id : Nat) : (deadOp s q id).pending = s.pending := by
  simp only [deadOp, pending_modQuarter]

theorem pending_overrunOf (s : State) (r : Req) : (overrunOf s r).pending = s.pending := by
  unfold overrunOf
  repeat' split
  all_goals simp only [pending_admEnd]

theorem pending_expire (s : State) (r : Req) : (expire s r).pending = s.pending := by
  simp only [expire, pending_ite, ite_self, pending_addFld, pending_dropReq, pending_stopAtEnd, pending_recovFail,
    pending_poisonRange, pending_overrunOf, pending_deadOp]

theorem pending_doE2eTimeout (s : State) (flow seq : Nat) : (doE2eTimeout s flow seq).pending = s.pending := by
  unfold doE2eTimeout
  split <;> simp only [pending_expire]

theorem pending_ctrlIn (s : State) (k : Pkt) (typ : Nat) (acts : Bool) {act : State → State}
    (hact : ∀ t, (act t).pending = t.pending) : (ctrlIn s k typ acts act).pending = s.pending := by
  simp only [ctrlIn, pending_ite, pending_takePkt, hact, ite_self]

theorem pending_doStopCell (s : State) (p : Nat) (k : Pkt) : (doStopCell s p k).pending = s.pending := by
  simp only [doStopCell, pending_ctrlIn, pending_startStop, implies_true]

theorem pending_doEcho (s : State) (p : Nat) (k : Pkt) (turn : Nat) : (doEcho s p k turn).pending = s.pending := by
  simp only [doEcho, pending_ctrlIn, pending_pushCtrl, implies_true]

theorem pending_moveBoundary (s : State) (old new : Nat) : (moveBoundary s old new).pending = s.pending := by
  simp only [moveBoundary, pending_modDisp]

theorem pending_doEchoReply (s : State) (p : Nat) (k : Pkt) (rtt parentDly : Nat) :
    (doEchoReply s p k rtt parentDly).pending = s.pending := by
  rw [doEchoReply]
  refine pending_ctrlIn s k 5 _ fun t => ?_
  split
  · rfl
  · simp only [pending_moveBoundary, pending_setFld, pending_modFab]

theorem pending_doWriteHead (s : State) (n : Nat) (c : List CWord) : (doWriteHead s n c).pending = s.pending := by
  simp only [doWriteHead, pending_ite, ite_self, pending_sinkCtl, pending_sinkFree, pending_modSink, pending_raiseSink]

theorem pending_doDataCell (s : State) (n : Nat) (c : List CWord) : (doDataCell s n c).pending = s.pending := by
  simp only [doDataCell, pending_ite, ite_self, pending_raiseSink, pending_takeCirc, pending_sinkFree, pending_modSink,
    pending_touch, pending_writeWords]

theorem pending_doCircSignal (s : State) (n : Nat) (c : List CWord) : (doCircSignal s n c).pending = s.pending := by
  simp only [doCircSignal, pending_ite, ite_self, pending_sinkCtl, pending_sinkFree, pending_modSink, pending_sqAdd]

/-! ### HELLO -/

theorem pending_modDisco (s : State) (key : Nat) (f : Disco → Disco) : (modDisco s key f).pending = s.pending := by
  simp only [modDisco, pending_modFab]

theorem pending_helloOut (s : State) (p key : Nat) (k : Pkt) : (helloOut s p key k).pending = s.pending := by
  simp only [helloOut, pending_pushCtrl]

theorem pending_sendHello (s : State) (p key : Nat) : (sendHello s p key).pending = s.pending := by
  simp only [sendHello, pending_helloOut]

theorem pending_openHello (s : State) (p key : Nat) : (openHello s p key).pending = s.pending := by
  simp only [openHello, pending_ite, ite_self, pending_draw256, pending_modDisco, pending_sendHello]

theorem pending_helloAnswer (s : State) (p key : Nat) (nonce : W128) : (helloAnswer s p key nonce).pending = s.pending := by
  simp only [helloAnswer, pending_ite, ite_self, pending_helloOut, pending_draw256]

theorem pending_putDisc (s : State) (p r : Nat) : (putDisc s p r).pending = s.pending := by
  simp only [putDisc, pending_setReg]

theorem pending_rejoin (s : State) (p : Nat) : (rejoin s p).pending = s.pending := by
  simp only [rejoin, pending_ite, ite_self, pending_modDisco, pending_putDisc, pending_setFld, pending_stopHere]

theorem pending_doHello (s : State) (p : Nat) (k : Pkt) : (doHello s p k).pending = s.pending := by
  simp only [doHello, pending_ctrlIn, pending_modDisco, pending_rejoin, pending_helloAnswer, implies_true]

theorem pending_doHelloSig (s : State) (p : Nat) (k : Pkt) : (doHelloSig s p k).pending = s.pending := by
  simp only [doHelloSig, pending_ctrlIn, pending_rejoin, pending_modDisco, implies_true]

theorem pending_bindLane (s : State) (p l k st : Nat) : (bindLane s p l k st).pending = s.pending := by
  simp only [bindLane, pending_setReg, pending_setLane]

theorem pending_unbindPort (s : State) (p : Nat) : (unbindPort s p).pending = s.pending := by
  simp only [unbindPort, pending_foldl, implies_true, pending_setFld, pending_setLane]

theorem pending_bindSet (s : State) (p : Nat) (b : Bool) : (bindSet s p b).pending = s.pending := by
  simp only [bindSet, pending_foldl, implies_true, pending_bindLane, pending_unbindPort]

theorem pending_turnSet (s : State) (p : Nat) : (turnSet s p).pending = s.pending := by
  simp only [turnSet, pending_ite, ite_self, pending_bindSet]

theorem pending_lostPartner (s : State) (p : Nat) : (lostPartner s p).pending = s.pending := by
  simp only [lostPartner, pending_ite, ite_self, pending_stopHere, pending_modDisco, pending_putDisc]

theorem pending_doHelloResend (s0 : State) (p : Nat) : (doHelloResend s0 p).pending = s0.pending := by
  simp only [doHelloResend, pending_ite, ite_self, pending_foldl, implies_true, pending_lostPartner, pending_sendHello,
    pending_turnSet]

/-! ### Samples and power -/

theorem pending_modMgt (s : State) (f : Mgt → Mgt) : (modMgt s f).pending = s.pending := by
  simp only [modMgt]

theorem pending_thermal (s : State) : (thermal s).pending = s.pending := by
  simp only [thermal, pending_ite, ite_self, pending_stopHere, pending_setFld, pending_modMgt]

theorem pending_doDieSample (s : State) (key : Nat) (t : Int) : (doDieSample s key t).pending = s.pending := by
  simp only [doDieSample, pending_modMgt, pending_thermal]

theorem pending_doPowerSample (s : State) (w : Nat) : (doPowerSample s w).pending = s.pending := by
  simp only [doPowerSample, pending_modMgt]

theorem pending_beatPower (s : State) : (beatPower s).pending = s.pending := by
  simp only [beatPower, pending_ite, ite_self, pending_setFld, pending_modMgt]

/-! ### Photonic links -/

theorem pending_dropLane (s : State) (b p l : Nat) : (dropLane s b p l).pending = s.pending := by
  simp only [dropLane, pending_ite, ite_self, pending_laneOut, pending_raiseO]

theorem pending_doOptSample (s : State) (die i : Nat) (t : Int) : (doOptSample s die i t).pending = s.pending := by
  simp only [doOptSample, pending_ite, ite_self, pending_foldl, implies_true, pending_modOpt, pending_raiseO, pending_modMgt,
    pending_dropLane, pending_thermal, pending_prjNote]

theorem pending_feedRing (s : State) (k : Nat) : (feedRing s k).pending = s.pending := by
  unfold feedRing
  split <;> simp only [pending_modOpt]

theorem pending_doFeedforward (s : State) : (doFeedforward s).pending = s.pending := by
  simp only [doFeedforward, pending_foldl, implies_true, pending_prjFeed, pending_feedRing]

theorem pending_notePrefec (s : State) (p l errs bits : Nat) : (notePrefec s p l errs bits).pending = s.pending := by
  simp only [notePrefec, pending_setFld]

theorem pending_doLaneDown (s : State) (p l : Nat) (c : LaneCause) : (doLaneDown s p l c).pending = s.pending := by
  unfold doLaneDown
  split <;> simp only [pending_ite, ite_self, pending_dropLane, pending_notePrefec]

theorem pending_laneJoins (s : State) (p l : Nat) : (laneJoins s p l).pending = s.pending := by
  simp only [laneJoins, pending_ite, ite_self, pending_portLanes, pending_inService, pending_setLane, pending_openHello]

theorem pending_laneGood (s : State) (p l : Nat) : (laneGood s p l).pending = s.pending := by
  simp only [laneGood, pending_ite, ite_self, pending_setFld, pending_modDisco, pending_laneJoins]

theorem pending_relockFailed (s : State) (p l : Nat) : (relockFailed s p l).pending = s.pending := by
  simp only [relockFailed, pending_ite, ite_self, pending_modOpt, pending_laneOut, pending_setFld]

theorem pending_ringsGood (s : State) (p wl : Nat) : (ringsGood s p wl).pending = s.pending := by
  simp only [ringsGood, pending_ite, ite_self, pending_setFld]

theorem pending_pilotGood (s : State) (p l wl : Nat) : (pilotGood s p l wl).pending = s.pending := by
  simp only [pilotGood, pending_ite, ite_self, pending_ringsGood, pending_setFld]

theorem pending_doRelockEnd (s : State) (p l : Nat) (r : RelockStage) : (doRelockEnd s p l r).pending = s.pending := by
  unfold doRelockEnd
  split <;> simp only [pending_ite, ite_self, pending_setFld, pending_pilotGood, pending_laneGood, pending_modOpt,
    pending_relockFailed]

theorem pending_doManagementWord (s : State) (p l : Nat) (w0 : W64) (c : Byte) :
    (doManagementWord s p l w0 c).pending = s.pending := by
  unfold doManagementWord
  split <;> simp only [pending_ite, ite_self, pending_count, pending_modOpt, pending_setFld, pending_raiseO, pending_laneJoins]

theorem pending_doRxPower (s : State) (p l : Nat) (v : Int) (errs bits : Nat) :
    (doRxPower s p l v errs bits).pending = s.pending := by
  simp only [doRxPower, pending_setFld, pending_notePrefec]

theorem pending_darken (s : State) (b wl : Nat) : (darken s b wl).pending = s.pending := by
  simp only [darken, pending_ite, ite_self, pending_foldl, implies_true, pending_laneOut, pending_setFld]

theorem pending_doLaserFail (s : State) (n : Nat) : (doLaserFail s n).pending = s.pending := by
  simp only [doLaserFail, pending_ite, ite_self, pending_foldl, implies_true, pending_setFld, pending_raiseO, pending_laneOut,
    pending_prjNote, pending_darken]

theorem pending_swapLaser (s : State) (n : Nat) : (swapLaser s n).pending = s.pending := by
  simp only [swapLaser, pending_ite, ite_self, pending_setFld]

theorem pending_doLaserSwap (s : State) (n : Nat) : (doLaserSwap s n).pending = s.pending := by
  simp only [doLaserSwap, pending_ite, ite_self, pending_swapLaser]

theorem pending_doLaserAge (s : State) (n : Nat) : (doLaserAge s n).pending = s.pending := by
  simp only [doLaserAge, pending_raiseO, pending_setFld]

theorem pending_swapWarned (s : State) : (swapWarned s).pending = s.pending := by
  simp only [swapWarned, pending_ite, ite_self, pending_foldl, implies_true, pending_swapLaser, pending_setFld]

theorem pending_sendBlocks (s : State) (p : Nat) : (sendBlocks s p).pending = s.pending := by
  simp only [sendBlocks, pending_modOpt]

theorem pending_rollSet (s : State) (b : Bool) : (rollSet s b).pending = s.pending := by
  simp only [rollSet, pending_foldl, implies_true, pending_sendBlocks, pending_bindSet]

theorem pending_rollTurn (s : State) (due : Bool) : (rollTurn s due).pending = s.pending := by
  simp only [rollTurn, pending_ite, ite_self, pending_rollSet, pending_modOpt]

theorem pending_doAnnounce (s0 : State) (p : Nat) (xs : List (W64 × Byte)) : (doAnnounce s0 p xs).pending = s0.pending := by
  unfold doAnnounce
  split <;> simp only [pending_ite, ite_self, pending_rollTurn, pending_count, pending_modOpt]

theorem pending_dropFrames (p : Nat) (s : State) (l : Nat) : (dropFrames p s l).pending = s.pending := by
  simp only [dropFrames, pending_ite, ite_self, pending_raiseO, pending_setLane, pending_count]

theorem pending_dropQueue (s : State) (k : Nat) : (dropQueue s k).pending = s.pending := by
  simp only [dropQueue, pending_ite, ite_self, pending_modFab, pending_count]

theorem pending_avenueDrop (s : State) : (avenueDrop s).pending = s.pending := by
  simp only [avenueDrop, pending_ite, ite_self, pending_foldl, implies_true, pending_dropFrames, pending_dropQueue,
    pending_modFab]

theorem pending_rollCall (s : State) : (rollCall s).pending = s.pending := by
  simp only [rollCall, pending_ite, ite_self, pending_modOpt, pending_rollSet]

theorem pending_bindPair (s : State) (x : Nat × Nat) : (bindPair s x).pending = s.pending := by
  simp only [bindPair]
  split <;> simp only [pending_setFld, pending_bindLane, pending_modOpt]

theorem pending_steerWaiting (s : State) (y : Nat) : (steerWaiting s y).pending = s.pending := by
  simp only [steerWaiting, pending_foldl, implies_true, pending_modFab]

theorem pending_doAssignment (s0 : State) : (doAssignment s0).pending = s0.pending := by
  simp only [doAssignment, pending_ite, ite_self, pending_foldl, implies_true, pending_rollTurn, pending_raiseO,
    pending_count, pending_modOpt, pending_unbindPort, pending_bindPair, pending_steerWaiting, pending_setReg]

/-! ### FABRIC_CFG -/

theorem pending_rteWrite (s : State) (b e : Nat) (v : W64) : (rteWrite s b e v).1.pending = s.pending := by
  simp only [rteWrite, ite_self, pending_raiseF, pending_rangeErr, pending_setReg, pending_ite_fst]

theorem pending_circFresh (s : State) (n : Nat) : (circFresh s n).pending = s.pending := by
  simp only [circFresh]

theorem pending_circWr (s : State) (n : Nat) (v : W64) : (circWr s n v).1.pending = s.pending := by
  simp only [circWr, pending_ite, ite_self, pending_regPut, pending_circFresh]

theorem pending_calWr (s : State) (p r : Nat) (v : W64) : (calWr s p r v).1.pending = s.pending := by
  simp only [calWr, pending_regPut]

theorem pending_cfgEntry (op : Nat) (s : State) (i : Nat) (v : W64) : (cfgEntry op s i v).1.pending = s.pending := by
  unfold cfgEntry
  split <;> simp only [pending_rteWrite, pending_circWr, pending_calWr]

theorem pending_fcStart (s : State) (a : Adm) {act : State → State} (hact : ∀ t, (act t).pending = t.pending) :
    (fcStart s a act).pending = s.pending := by
  unfold fcStart
  split <;> simp only [pending_admEnd, hact, pending_modAdm]

theorem pending_cfgEntries (op id first cnt : Nat) (l : List W64) (i : Nat) (s : State) :
    (cfgEntries op id first cnt l i s).pending = s.pending := by
  induction l generalizing s i with
  | nil => rw [cfgEntries, pending_ite, pending_admEnd, ite_self]
  | cons w l ih => simp only [cfgEntries, pending_ite, pending_admEnd, ih, pending_modAdm, pending_cfgEntry, ite_self]

theorem pending_fcWrite (s : State) (op : Nat) (d : Answer (List W64)) : (fcWrite s op d).pending = s.pending := by
  unfold fcWrite
  repeat' split
  all_goals simp only [pending_fcStart, pending_cfgEntries, pending_count, pending_admEnd, pending_poisonRx,
    pending_pcieReport, implies_true]

theorem pending_flipBanks (s : State) : (flipBanks s).pending = s.pending := by
  simp only [flipBanks, pending_setFld, pending_modFab]

theorem pending_doFlip (s : State) : (doFlip s).pending = s.pending := by
  unfold doFlip
  split <;> simp only [pending_fcStart, pending_admEnd, pending_flipBanks, pending_setFld, implies_true]

theorem pending_closeOld (s : State) : (closeOld s).pending = s.pending := by
  simp only [closeOld, pending_ite, ite_self, pending_setFld, pending_modFab]

theorem pending_seekLane (p : Nat) (s : State) (l : Nat) : (seekLane p s l).pending = s.pending := by
  simp only [seekLane, pending_modOpt, pending_setFld]

theorem pending_offLane (p : Nat) (s : State) (l : Nat) : (offLane p s l).pending = s.pending := by
  simp only [offLane, pending_setLane, pending_setFld]

theorem pending_portChanged (s : State) (p : Nat) : (portChanged s p).pending = s.pending := by
  simp only [portChanged, pending_ite, ite_self, pending_foldl, implies_true, pending_offLane, pending_setFld, pending_seekLane]

theorem pending_planPort (d : List Byte) (s : State) (p : Nat) : (planPort d s p).pending = s.pending := by
  simp only [planPort, pending_modFab, pending_setReg, pending_portChanged]

theorem pending_planPut (s : State) (d : List Byte) : (planPut s d).pending = s.pending := by
  simp only [planPut, pending_foldl, implies_true, pending_setReg, pending_planPort, pending_modFab]

theorem pending_doLoadPlan (s : State) (d : Answer (List Byte)) : (doLoadPlan s d).pending = s.pending := by
  unfold doLoadPlan
  repeat' split
  all_goals simp only [pending_fcStart, pending_count, pending_admEnd, pending_planPut, pending_poisonRx, pending_pcieReport,
    implies_true]

theorem pending_discoLanes (s : State) (p : Nat) : (discoLanes s p).pending = s.pending := by
  simp only [discoLanes, pending_ite, ite_self, pending_foldl, implies_true, pending_bindSet, pending_seekLane]

theorem pending_discoPort (s : State) (p : Nat) : (discoPort s p).pending = s.pending := by
  simp only [discoPort, pending_ite, ite_self, pending_foldl, implies_true, pending_openHello, pending_discoLanes]

theorem pending_endPort (forced : Option Nat) (s : State) (p : Nat) : (endPort forced s p).pending = s.pending := by
  simp only [endPort, pending_ite, ite_self, pending_setFld, pending_putDisc, pending_stopHere, pending_raiseF]

theorem pending_endDiscover (s : State) (forced : Option Nat) : (endDiscover s forced).pending = s.pending := by
  unfold endDiscover
  split <;> simp only [pending_foldl, implies_true, pending_endPort, pending_setFld, pending_admEnd, pending_modFab]

theorem pending_doDiscover (s : State) : (doDiscover s).pending = s.pending := by
  unfold doDiscover
  split <;> simp only [pending_ite, ite_self, pending_foldl, implies_true, pending_fcStart, pending_modFab,
    pending_swapWarned, pending_discoPort, pending_endDiscover]

theorem pending_doEntropyFail (s : State) : (doEntropyFail s).pending = s.pending := by
  simp only [doEntropyFail, pending_endDiscover, pending_raise, pending_modMgt]

/-! ### The stacks -/

theorem pending_raiseM (s : State) (k b c addr : Nat) : (raiseM s k b c addr).pending = s.pending := by
  simp only [raiseM, pending_raise]

theorem pending_stackBad (s : State) (k : Nat) : (stackBad s k).pending = s.pending := by
  simp only [stackBad, pending_ite, ite_self, pending_modStk, pending_addFld, pending_setFld, pending_raiseM]

theorem pending_stackGood (s : State) (k : Nat) (t : Int) : (stackGood s k t).pending = s.pending := by
  simp only [stackGood, pending_ite, ite_self, pending_modStk, pending_setFld]

theorem pending_setChan (s : State) (k c v : Nat) : (setChan s k c v).pending = s.pending := by
  simp only [setChan, pending_modStk]

theorem pending_startRetrain (s : State) (k c : Nat) : (startRetrain s k c).pending = s.pending := by
  simp only [startRetrain, pending_setChan, pending_raiseM]

theorem pending_trigger (s : State) (k c : Nat) : (trigger s k c).pending = s.pending := by
  simp only [trigger, pending_ite, ite_self, pending_modStk, pending_startRetrain]

theorem pending_doDrift (s : State) (k c lane : Nat) (up : Bool) : (doDrift s k c lane up).pending = s.pending := by
  simp only [doDrift, pending_ite, ite_self, pending_modStk, pending_setFld, pending_raiseM, pending_trigger]

theorem pending_chanTrained (s : State) (k c : Nat) : (chanTrained s k c).pending = s.pending := by
  simp only [chanTrained, pending_modStk, pending_setFld]

theorem pending_chanDown (s : State) (k c : Nat) : (chanDown s k c).pending = s.pending := by
  simp only [chanDown, pending_stopHere, pending_raiseM, pending_setChan]

theorem pending_switchSpares (s : State) (k c : Nat) (bad : List Nat) (t : State) (h : switchSpares s k c bad = some t) :
    t.pending = s.pending := by
  unfold switchSpares at h
  dsimp only at h
  split at h
  · cases h
  · cases h
    simp only [pending_foldl, pending_ite, pending_setFld, implies_true, ite_self]

theorem pending_windowOn (s : State) (k : Nat) : (windowOn s k).pending = s.pending := by
  simp only [windowOn, pending_modStk, pending_setFld]

theorem pending_nextWindow (s : State) : (nextWindow s).pending = s.pending := by
  unfold nextWindow
  repeat' split
  all_goals simp only [pending_windowOn, pending_modStk]

theorem pending_nextRetrain (s : State) (k : Nat) : (nextRetrain s k).pending = s.pending := by
  unfold nextRetrain
  repeat' split
  all_goals simp only [pending_startRetrain, pending_modStk]

theorem pending_stackNext (s : State) (k : Nat) : (stackNext s k).pending = s.pending := by
  simp only [stackNext, pending_nextRetrain, pending_nextWindow]

theorem pending_doRetrainEnd (s : State) (k c : Nat) (bad : List Nat) : (doRetrainEnd s k c bad).pending = s.pending := by
  unfold doRetrainEnd
  split
  · rfl
  · simp only [pending_stackNext]
    split
    · next t ht => rw [pending_chanTrained, pending_switchSpares _ _ _ _ _ ht, pending_setChan]
    · rw [pending_chanDown, pending_setChan]

theorem pending_fullChan (k : Nat) (bad : List (Nat × List Nat)) (s : State) (c : Nat) :
    (fullChan k bad s c).pending = s.pending := by
  unfold fullChan
  split
  · next t ht => rw [pending_chanTrained, pending_switchSpares _ _ _ _ _ ht]
  · rw [pending_chanDown]

theorem pending_doFullEnd (s : State) (k : Nat) (bad : List (Nat × List Nat)) : (doFullEnd s k bad).pending = s.pending := by
  simp only [doFullEnd, pending_ite, ite_self, pending_foldl, implies_true, pending_modStk, pending_setFld, pending_stackNext,
    pending_fullChan]

theorem pending_openWindow (s : State) : (openWindow s).pending = s.pending := by
  simp only [openWindow, pending_ite, ite_self, pending_setFld, pending_nextWindow, pending_modStk]

theorem pending_recovStart (s : State) (a n : Nat) : (recovStart s a n).pending = s.pending := by
  simp only [recovStart, pending_modStk]

theorem pending_refetch (s0 : State) (a n : Nat) : (refetch s0 a n).pending = s0.pending := by
  simp only [refetch]
  split <;> simp only [pending_ite, ite_self, pending_recovStart, pending_sendRead, pending_recovFail]

theorem pending_doReqTo (s : State) (a n : Nat) : (doReqTo s a n).pending = s.pending := by
  simp only [doReqTo, pending_ite, ite_self, pending_foldl, implies_true, pending_refetch, pending_raiseM]

theorem pending_fillError (s : State) (a : Nat) (good : Bool) : (fillError s a good).pending = s.pending := by
  simp only [fillError, pending_ite, ite_self, pending_foldl, implies_true, pending_count, pending_raiseM, pending_refetch]

theorem pending_fixedWord (s : State) (a : Nat) : (fixedWord s a).pending = s.pending := by
  simp only [fixedWord, pending_ite, ite_self, pending_count, pending_addFld, pending_raiseM, pending_modStk,
    pending_touchLine, pending_trigger]

theorem pending_storeError (s : State) (a src : Nat) (fixed : Bool) : (storeError s a src fixed).pending = s.pending := by
  simp only [storeError, pending_ite, ite_self, pending_raiseQ, pending_stopAtEnd, pending_poisonWord]

theorem pending_doReread (s : State) (a : Nat) (w : WordErr) (good : Bool) : (doReread s a w good).pending = s.pending := by
  unfold doReread
  split <;> simp only [pending_ite, ite_self, pending_fillError, pending_fixedWord, pending_storeError, pending_stopHere,
    pending_setSquare, pending_setBank]

theorem pending_tgBurst (k c : Nat) (v : W64) (s : State) (i : Nat) : (tgBurst k c v s i).pending = s.pending := by
  unfold tgBurst
  split <;> simp only [pending_foldl, implies_true, pending_writePart]

theorem pending_tgWrite (s : State) (k c : Nat) (v : W64) : (tgWrite s k c v).pending = s.pending := by
  simp only [tgWrite, pending_ite, ite_self, pending_foldl, implies_true, pending_regPut, pending_rangeErr, pending_setReg,
    pending_setFld, pending_tgBurst]

theorem pending_doTgEnd (s : State) (k c : Nat) (errors : W32) (lanes : BitVec 20) (first : BitVec 30) :
    (doTgEnd s k c errors lanes first).pending = s.pending := by
  simp only [doTgEnd, pending_ite, ite_self, pending_setReg, pending_setFld]

theorem pending_retireWrite (s : State) (k : Nat) (v : W64) : (retireWrite s k v).pending = s.pending := by
  simp only [retireWrite, pending_ite, ite_self, pending_regPut, pending_modStk, pending_loseStack, pending_setChan]

theorem pending_rehome (s : State) (toStack : Bool) (ws : List Nat) : (rehome s toStack ws).pending = s.pending := by
  simp only [rehome, pending_ite, ite_self, pending_foldl, implies_true, pending_dropLines]

theorem pending_recode (old s : State) (x : Nat × Nat) : (recode old s x).pending = s.pending := by
  unfold recode
  dsimp only
  split <;> simp only [pending_ite, pending_modStk, pending_writeBytes, ite_self]

theorem pending_recodeAll (old s : State) : (recodeAll old s).pending = s.pending :=
  pending_foldl (pending_recode old)

theorem pending_flushCompressed (s : State) : (flushCompressed s).pending = s.pending := by
  simp only [flushCompressed, pending_foldl, implies_true, pending_evict]

theorem pending_regionWr (s : State) (n : Nat) (v : W64) : (regionWr s n v).pending = s.pending := by
  simp only [regionWr, pending_ite, ite_self, pending_flushCompressed, pending_regPut, pending_rehome, pending_recodeAll]

theorem pending_atomWrite (s : State) (n : Nat) (v : W64) : (atomWrite s n v).pending = s.pending := by
  simp only [atomWrite, pending_ite, ite_self, pending_regPut, pending_setFld, pending_dropLines]

/-! ### Beats -/

theorem pending_startLaunch (s : State) (q : Nat) (a : Adm) : (startLaunch s q a).pending = s.pending := by
  simp only [startLaunch, pending_foldl, implies_true, pending_setReg, pending_ccIrq, pending_modQuarter]

theorem pending_nextLaunch (s : State) (q : Nat) : (nextLaunch s q).pending = s.pending := by
  unfold nextLaunch
  repeat' split
  all_goals simp only [pending_modQuarter, pending_startLaunch]

theorem pending_joinQuarter (id : Nat) (s : State) (q : Nat) : (joinQuarter id s q).pending = s.pending := by
  simp only [joinQuarter, pending_ite, ite_self, pending_modQuarter, pending_nextLaunch]

theorem pending_doLaunch (s : State) : (doLaunch s).pending = s.pending := by
  unfold doLaunch
  split <;> simp only [pending_foldl, implies_true, pending_kLaunch, pending_joinQuarter, pending_modAdm]

theorem pending_ldoneWrite (s : State) (q : Nat) (v : W64) (src : Src) : (ldoneWrite s q v src).pending = s.pending := by
  simp only [ldoneWrite, pending_ite, ite_self, pending_raiseQReg, pending_modQuarter]

theorem pending_launchOver (s : State) (q code : Nat) (l : Launch) : (launchOver s q code l).pending = s.pending := by
  simp only [launchOver]
  split <;> simp only [pending_ite, ite_self, pending_modAdm, pending_admEnd]

theorem pending_doLaunchEnd (s : State) (q : Nat) : (doLaunchEnd s q).pending = s.pending := by
  unfold doLaunchEnd
  split <;> simp only [pending_ite, ite_self, pending_nextLaunch, pending_launchOver, pending_modQuarter]

theorem pending_copyMoved (s : State) (a : Adm) (moved : Nat) : (copyMoved s a moved).pending = s.pending := by
  simp only [copyMoved, pending_ite, ite_self, pending_modAdm, pending_admEnd]

theorem pending_copyIn (l : List W512) (s : State) (d : Nat) : (copyIn s d l).pending = s.pending := by
  induction l generalizing s d with
  | nil => rfl
  | cons w l ih => rw [copyIn, ih, pending_touch, pending_writeNat]

theorem pending_copyOut (a : Adm) (n i : Nat) (s : State) : (copyOut a i n s).pending = s.pending := by
  induction n generalizing s i with
  | zero => rfl
  | succ n ih => simp only [copyOut, ih, pending_ite, pending_modAdm, pending_raise, pending_hostWrite, pending_touch, ite_self]

theorem pending_doCopy (s : State) (d : Answer (List W512)) (n : Nat) : (doCopy s d n).pending = s.pending := by
  unfold doCopy
  repeat' split
  all_goals simp only [pending_modAdm, pending_copyMoved, pending_copyOut, pending_admEnd, pending_count, pending_copyIn,
    pending_poisonRx, pending_pcieReport]

theorem pending_doSignal (s : State) : (doSignal s).pending = s.pending := by
  unfold doSignal
  split <;> simp only [pending_ite, ite_self, pending_modAdm, pending_admEnd, pending_sqPut, pending_sendSignal, pending_sqAdd]

theorem pending_doStop (s : State) : (doStop s).pending = s.pending := by
  unfold doStop
  split <;> simp only [pending_modAdm]

theorem pending_refuseJob (s : State) : (refuseJob s).pending = s.pending := by
  simp only [refuseJob, pending_ite, ite_self, pending_raiseF, pending_setFld]

theorem pending_doStart (s : State) : (doStart s).pending = s.pending := by
  simp only [doStart, pending_ite, ite_self, pending_raise, pending_refuseJob, pending_modDisp]

theorem pending_forwardTick (s : State) (k : Pkt) : (forwardTick s k).pending = s.pending := by
  simp only [forwardTick, pending_foldl, implies_true, pending_pushCtrl]

theorem pending_doTickSend (s0 : State) : (doTickSend s0).pending = s0.pending := by
  unfold doTickSend
  split <;> simp only [pending_ite, ite_self, pending_forwardTick, pending_modDisp]

theorem pending_stopParent (s : State) (reason : Nat) : (stopParent s reason).pending = s.pending := by
  simp only [stopParent, pending_pushStop]

theorem pending_acceptTick (s : State) (n bq resid at_ chip : Nat) :
    (acceptTick s n bq resid at_ chip).pending = s.pending := by
  simp only [acceptTick, pending_ite, ite_self, pending_modDisp, pending_forwardTick, pending_pushCtrl, pending_modFab]

theorem pending_takeTick (s : State) (k : Pkt) (at_ : Nat) : (takeTick s k at_).pending = s.pending := by
  simp only [takeTick, pending_ite, ite_self, pending_raise, pending_stopParent, pending_refuseJob, pending_acceptTick]

theorem pending_tellTick (s : State) : (tellTick s).pending = s.pending := by
  simp only [tellTick, pending_foldl, implies_true, pending_ccIrq]

theorem pending_doTick (s0 : State) (p : Nat) (k : Pkt) (at_ : Nat) : (doTick s0 p k at_).pending = s0.pending := by
  simp only [doTick, pending_ctrlIn, pending_takeTick, pending_tellTick, implies_true]

theorem pending_doTickMissed (s : State) : (doTickMissed s).pending = s.pending := by
  simp only [doTickMissed, pending_ite, ite_self, pending_count, pending_raise, pending_modDisp, pending_stopAtEnd]

theorem pending_endWithBeat (s : State) (a : Adm) : (endWithBeat s a).pending = s.pending := by
  simp only [endWithBeat, pending_ite, ite_self, pending_endOpen]

theorem pending_endBeat (s : State) : (endBeat s).pending = s.pending := by
  simp only [endBeat, pending_ite, ite_self, pending_foldl, implies_true, pending_cut, pending_endWithBeat, pending_stopAtEnd,
    pending_dropLaunches, pending_completeAll, pending_beatPower, pending_avenueDrop]

theorem pending_leaveJob (s : State) : (leaveJob s).pending = s.pending := by
  simp only [leaveJob, pending_ite, ite_self, pending_foldl, implies_true, pending_endOpen, pending_completeAll,
    pending_modFab, pending_modDisp, pending_setFld]

theorem pending_enterJob (s : State) : (enterJob s).pending = s.pending := by
  simp only [enterJob, pending_foldl, implies_true, pending_setFwQuota, pending_setFld, pending_modDisp]

theorem pending_openBeat (s : State) (n t dr : Nat) : (openBeat s n t dr).pending = s.pending := by
  simp only [openBeat, pending_ite, ite_self, pending_setReg, pending_modDisp, pending_count, pending_prjBeat,
    pending_closeOld, pending_setFld, pending_openWindow, pending_rollCall, pending_modOpt]

theorem pending_doBoundary (s : State) : (doBoundary s).pending = s.pending := by
  unfold doBoundary
  split
  · rfl
  · split
    · rfl
    · dsimp only
      split <;> simp only [pending_ite, pending_stopHere, pending_modDisp, pending_openBeat, pending_enterJob, pending_leaveJob,
        pending_endBeat, ite_self]

theorem pending_doUpdateEnd (s : State) : (doUpdateEnd s).pending = s.pending := by
  unfold doUpdateEnd
  split <;> simp only [pending_ite, ite_self, pending_updEnd, pending_stopHere]

theorem pending_doChainTo (s : State) : (doChainTo s).pending = s.pending := by
  unfold doChainTo
  split <;> simp only [pending_ite, ite_self, pending_foldl, implies_true, pending_raiseU, pending_modCur, pending_stopHere,
    pending_updEnd]

/-! ### The host port -/

theorem pending_apReport (s : State) (w : Nat) : (apReport s w).pending = s.pending := by
  unfold apReport
  split <;> simp only [pending_ite, ite_self, pending_raiseQ, pending_raise]

theorem pending_touchHost (s : State) (a n : Nat) (wr : Bool) : (touchHost s a n wr).pending = s.pending := by
  simp only [touchHost, pending_touch]

theorem pending_answer (s : State) (v : List Byte) (ep : Bool) : (answer s v ep).pending = s.pending := by
  simp only [answer, pending_hostPush]

theorem pending_bar4Read (s : State) (a n : Nat) : (bar4Read s a n).pending = s.pending := by
  simp only [bar4Read, pending_foldl, implies_true, pending_apReport, pending_touchHost, pending_answer]

theorem pending_bar4Early (s : State) (n : Nat) : (bar4Early s n).pending = s.pending := by
  simp only [bar4Early, pending_answer]

theorem pending_apWrite (ep : Bool) (s : State) (w lo : Nat) (bs : List Byte) : (apWrite ep s w lo bs).pending = s.pending := by
  unfold apWrite
  split <;> simp only [pending_ite, ite_self, pending_poisonWord, pending_writePart, pending_raise, pending_apReport]

theorem pending_apLoop (ep : Bool) (f a : Nat) (bs : List Byte) (s : State) : (apLoop ep a bs f s).pending = s.pending := by
  induction f generalizing s a bs with
  | zero => rfl
  | succ f ih =>
    unfold apLoop
    split
    · rfl
    · rw [ih, pending_apWrite]

theorem pending_bar4Write (s : State) (a : Nat) (bs : List Byte) (ep : Bool) : (bar4Write s a bs ep).pending = s.pending := by
  simp only [bar4Write, pending_ite, ite_self, pending_apLoop, pending_touchHost, pending_poisonRx]

theorem pending_bar4BaseWrite (s : State) (v : W64) : (bar4BaseWrite s v).pending = s.pending := by
  simp only [bar4BaseWrite, pending_regPut]

theorem pending_sendPending (s : State) : (sendPending s).pending = s.pending := by
  simp only [sendPending, pending_foldl, implies_true, pending_msixRaise]

theorem pending_vecWrite (s : State) (i : Nat) (v : W64) : (vecWrite s i v).pending = s.pending := by
  simp only [vecWrite, pending_sendPending]

theorem pending_irqSrcWrite (s : State) (e : Nat) (v : W64) : (irqSrcWrite s e v).pending = s.pending := by
  simp only [irqSrcWrite, pending_ite, ite_self, pending_regPut, pending_fireEvent]

theorem pending_modHost (s : State) (f : HostP → HostP) : (modHost s f).pending = s.pending := by
  simp only [modHost]

theorem pending_doD0 (s : State) : (doD0 s).pending = s.pending := by
  simp only [doD0, pending_sendPending, pending_modHost]

theorem pending_doFunctionMask (s : State) (enable mask : Bool) : (doFunctionMask s enable mask).pending = s.pending := by
  simp only [doFunctionMask, pending_sendPending, pending_modHost]

theorem pending_setLink (s : State) (w : W64) : (setLink s w).pending = s.pending := by
  simp only [setLink, pending_setReg, pending_modHost]

theorem pending_doLinkChange (s : State) (width rate : Nat) (flit l0p : Bool) (errs : List PcieErr) :
    (doLinkChange s width rate flit l0p errs).pending = s.pending := by
  simp only [doLinkChange, pending_ite, ite_self, pending_foldl, implies_true, pending_pcieReport, pending_setLink]

theorem pending_doResize (s : State) (log2 : Nat) : (doResize s log2).pending = s.pending := by
  simp only [doResize, pending_ite, ite_self, pending_setFld]

theorem pending_doCplTimeout (s : State) (what : Nat) : (doCplTimeout s what).pending = s.pending := by
  unfold doCplTimeout
  split
  · rfl
  · split
    · exact pending_fetchOne s fun r hr t => by
        cases hr
        rw [pending_readTimeout]
    · split
      · simp only [pending_ite, pending_admEnd, pending_readTimeout, pending_modAdm, ite_self]
      · rfl
    · split
      · exact pending_fcStart s _ fun t => by rw [pending_admEnd, pending_readTimeout]
      · rfl

/-! ### Reset and boot -/

theorem pending_deviceReset (s : State) (keep por : Bool) : (deviceReset s keep por).pending = s.pending := by
  simp only [deviceReset]

theorem pending_pinTaken (s : State) (us : Nat) : (pinTaken s us).2.pending = s.pending := by
  simp only [pinTaken, ite_self, pending_draw32, pending_ite_snd]

theorem pending_doPin (s : State) (us : Nat) (por : Bool) : (doPin s us por).pending = s.pending := by
  simp only [doPin, pending_ite, ite_self, pending_pinTaken, pending_deviceReset]

theorem pending_doRelease (s : State) : (doRelease s).pending = s.pending := by
  simp only [doRelease, pending_ite, ite_self, pending_modMgt, pending_setFld, pending_setReg]

theorem pending_recovery (s : State) (code : Nat) : (recovery s code).pending = s.pending := by
  simp only [recovery, pending_setFld]

theorem pending_failCode (s : State) (code : Nat) : (failCode s code).pending = s.pending := by
  simp only [failCode, pending_ite, ite_self, pending_setFld]

theorem pending_imageErr (s : State) (t : Nat) (b : Bool) (o : Nat) : (imageErr s t b o).pending = s.pending := by
  simp only [imageErr, pending_raise]

theorem pending_imageLoad (s : State) (t : Nat) (b : Bool) (o : Nat) : (imageLoad s t b o).pending = s.pending := by
  simp only [imageLoad, pending_ite, ite_self, pending_setReg, pending_setFld, pending_modMgt]

theorem pending_tryImage (t : Nat) (x : State × Bool) (b : Bool) : (tryImage t x b).1.pending = x.1.pending := by
  unfold tryImage
  repeat' split
  all_goals simp only [pending_imageLoad, pending_imageErr]

theorem pending_loadImages (l : List Nat) (s : State) : (loadImages s l).1.pending = s.pending := by
  induction l generalizing s with
  | nil => rfl
  | cons t l ih =>
    simp only [loadImages, pending_ite_fst, ih, pending_foldl_in Prod.fst (pending_tryImage t), ite_self]

theorem pending_stageImages (s : State) : (stageImages s).pending = s.pending := by
  simp only [stageImages, pending_ite, ite_self, pending_loadImages, pending_recovery, pending_imageErr, pending_modMgt,
    pending_imageLoad]

theorem pending_identFail (s : State) (pct : Nat) : (identFail s pct).pending = s.pending := by
  simp only [identFail, pending_raise, pending_setReg]

theorem pending_stageIdentity (s0 : State) : (stageIdentity s0).pending = s0.pending := by
  simp only [stageIdentity]
  split <;> simp only [pending_ite, ite_self, pending_foldl, implies_true, pending_modMgt, pending_identFail, pending_setReg]

theorem pending_setLanes (s : State) : (setLanes s).pending = s.pending := by
  simp only [setLanes, pending_foldl, implies_true, pending_setReg]

theorem pending_trainEyes (k : Nat) (x : State × List Nat) (e : Fin 8 × Fin 128 × List (Fin 20)) :
    (trainEyes k x e).1.pending = x.1.pending := by
  unfold trainEyes
  split
  · rfl
  · split
    · next t ht => exact pending_switchSpares _ _ _ _ _ ht
    · rfl

theorem pending_stackOff (s : State) (k : Nat) : (stackOff s k).pending = s.pending := by
  simp only [stackOff, pending_modStk]

theorem pending_trainStack (r : BootRes) (s : State) (k : Nat) : (trainStack r s k).pending = s.pending := by
  have heyes : (r.eyes.foldl (trainEyes k) (s, partRetire s k)).1.pending = s.pending :=
    pending_foldl_in Prod.fst (pending_trainEyes k) _ _
  have hon := (pending_setFld (r.eyes.foldl (trainEyes k) (s, partRetire s k)).1 (aMemStatus k) 30 30 1).trans heyes
  have hlost : ∀ (t : State) (l : List Nat), (match l with
      | [] => t
      | [c] => (retireChan t k c).1
      | _ => failCode (stackOff t k) 3).pending = t.pending := fun t l => by
    split
    · rfl
    · rw [pending_retireChan]
    · rw [pending_failCode, pending_stackOff]
  exact pending_of_ite ((pending_failCode ..).trans ((pending_stackOff ..).trans hon)) ((hlost _ _).trans hon)

theorem pending_stageTrain (s : State) (r : BootRes) : (stageTrain s r).pending = s.pending := by
  simp only [stageTrain, pending_foldl, implies_true, pending_trainStack, pending_setLanes]

theorem pending_stageSelftest (s : State) (r : BootRes) : (stageSelftest s r).pending = s.pending := by
  simp only [stageSelftest, pending_ite, ite_self, pending_setReg, pending_modMgt, pending_recovery]

theorem pending_laserBoot (r : BootRes) (s : State) (n : Nat) : (laserBoot r s n).pending = s.pending := by
  simp only [laserBoot, pending_setReg]

theorem pending_stageLasers (s : State) (r : BootRes) : (stageLasers s r).pending = s.pending := by
  simp only [stageLasers, pending_ite, ite_self, pending_foldl, implies_true, pending_laserBoot, pending_failCode]

theorem pending_stageRings (s : State) (r : BootRes) : (stageRings s r).pending = s.pending := by
  simp only [stageRings, pending_foldl, implies_true, pending_setReg]

theorem pending_stampElapsed (s : State) : (stampElapsed s).pending = s.pending := by
  simp only [stampElapsed, pending_setFld]

theorem pending_loadRuntime (s : State) (q : Nat) : (loadRuntime s q).pending = s.pending := by
  simp only [loadRuntime, pending_setReg, pending_modQuarter]

theorem pending_stageRuntime (s0 : State) : (stageRuntime s0).pending = s0.pending := by
  simp only [stageRuntime, pending_foldl, implies_true, pending_loadRuntime, pending_setFld, pending_modMgt,
    pending_fireEvent, pending_modDisp]

theorem pending_stageWork (s : State) (st : Nat) (r : BootRes) : (stageWork s st r).pending = s.pending := by
  unfold stageWork
  split <;> simp only [pending_stageImages, pending_stageIdentity, pending_stageTrain, pending_stageSelftest,
    pending_stageLasers, pending_stageRings, pending_stageRuntime]

theorem pending_doStageEnd (s : State) (r : BootRes) : (doStageEnd s r).pending = s.pending := by
  simp only [doStageEnd, pending_ite, ite_self, pending_stageWork, pending_stampElapsed, pending_setFld]

theorem pending_doClockFault (s : State) (d : Nat) : (doClockFault s d).pending = s.pending := by
  simp only [doClockFault, pending_stopHere, pending_raise]

theorem pending_doStuck (s : State) (d : Nat) : (doStuck s d).pending = s.pending := by
  simp only [doStuck, pending_ite, ite_self, pending_setFld, pending_stopHere, pending_raise]

/-! ### The management endpoint -/

theorem pending_mctpSend (s : State) (smb : Bool) (m : List Byte) : (mctpSend s smb m).pending = s.pending := by
  simp only [mctpSend]
  split <;> simp only [pending_modMgt]

theorem pending_mctpOn (s : State) (b : MctpIn) (typ : Byte) {act : State → State} (hact : ∀ t, (act t).pending = t.pending) :
    (mctpOn s b typ act).pending = s.pending := by
  simp only [mctpOn, pending_ite, hact, ite_self]

theorem pending_reply (s : State) (smb : Bool) (cmd status : Nat) (fields : List Byte) :
    (reply s smb cmd status fields).pending = s.pending := by
  simp only [reply, pending_mctpSend]

theorem pending_vendorOn (s : State) (b : MctpIn) (code : Nat) {act : State → State} (hact : ∀ t, (act t).pending = t.pending) :
    (vendorOn s b code act).pending = s.pending := by
  rw [vendorOn]
  exact pending_mctpOn s b _ fun t => by simp only [pending_ite, pending_reply, hact, ite_self]

theorem pending_doBootStatus (s : State) (smb : Bool) : (doBootStatus s smb).pending = s.pending := by
  simp only [doBootStatus, pending_reply]

theorem pending_doFlashRead (s : State) (smb : Bool) (o n : Nat) : (doFlashRead s smb o n).pending = s.pending := by
  simp only [doFlashRead]
  split <;> simp only [pending_reply]

theorem pending_flashChange (s : State) (smb : Bool) (cmd : Nat) (ok : Bool) (act : SMap Byte → SMap Byte) :
    (flashChange s smb cmd ok act).pending = s.pending := by
  simp only [flashChange]
  split <;> simp only [pending_ite, ite_self, pending_reply, pending_modMgt]

theorem pending_doFlashErase (s : State) (smb : Bool) (o : Nat) : (doFlashErase s smb o).pending = s.pending := by
  simp only [doFlashErase, pending_flashChange]

theorem pending_doFlashWrite (s : State) (smb : Bool) (o : Nat) (d : List Byte) :
    (doFlashWrite s smb o d).pending = s.pending := by
  simp only [doFlashWrite, pending_flashChange]

theorem pending_doPartRecord (s : State) (smb : Bool) (o n : Nat) : (doPartRecord s smb o n).pending = s.pending := by
  simp only [doPartRecord, pending_ite, ite_self, pending_reply]

theorem pending_doReset (s : State) (smb : Bool) : (doReset s smb).pending = s.pending := by
  simp only [doReset, pending_ite, ite_self, pending_reply, pending_deviceReset, pending_modMgt]

theorem pending_doSetEid (s : State) (smb : Bool) (e : Byte) : (doSetEid s smb e).pending = s.pending := by
  simp only [doSetEid, pending_ite, ite_self, pending_mctpSend, pending_modMgt]

theorem pending_doControl (s : State) (b : MctpIn) : (doControl s b).pending = s.pending := by
  simp only [doControl, pending_mctpSend]

theorem pending_spdmSend (s : State) (smb : Bool) (m : List Byte) : (spdmSend s smb m).pending = s.pending := by
  simp only [spdmSend, pending_mctpSend]

theorem pending_spdmReply (s : State) (smb : Bool) (p : Nat) (req m : List Byte) :
    (spdmReply s smb p req m).pending = s.pending := by
  simp only [spdmReply, pending_spdmSend, pending_modMgt]

theorem pending_spdmError (s : State) (smb : Bool) (code : Byte) : (spdmError s smb code).pending = s.pending := by
  simp only [spdmError, pending_spdmSend]

theorem pending_spdmOther (s : State) (smb : Bool) (req : List Byte) : (spdmOther s smb req).pending = s.pending := by
  simp only [spdmOther, pending_spdmError]

theorem pending_spdmTurn (s : State) (smb : Bool) (req : List Byte) (code : Byte) (turn : Bool) {act : State → State}
    (hact : ∀ t, (act t).pending = t.pending) : (spdmTurn s smb req code turn act).pending = s.pending := by
  simp only [spdmTurn, pending_ite, pending_spdmOther, pending_spdmError, hact, ite_self]

theorem pending_doGetVersion (s : State) (smb : Bool) (req : List Byte) : (doGetVersion s smb req).pending = s.pending := by
  simp only [doGetVersion, pending_ite, ite_self, pending_spdmOther, pending_spdmError, pending_spdmReply, pending_modMgt]

theorem pending_doGetCapabilities (s : State) (smb : Bool) (req : List Byte) :
    (doGetCapabilities s smb req).pending = s.pending := by
  simp only [doGetCapabilities, pending_spdmTurn, pending_spdmReply, implies_true]

theorem pending_doNegotiate (s : State) (smb : Bool) (req : List Byte) : (doNegotiate s smb req).pending = s.pending := by
  simp only [doNegotiate, pending_ite, ite_self, pending_spdmTurn, pending_spdmReply, pending_spdmError, implies_true]

theorem pending_doGetDigests (s : State) (smb : Bool) (req : List Byte) : (doGetDigests s smb req).pending = s.pending := by
  simp only [doGetDigests, pending_spdmTurn, pending_spdmReply, implies_true]

theorem pending_doGetCertificate (s : State) (smb : Bool) (req : List Byte) :
    (doGetCertificate s smb req).pending = s.pending := by
  simp only [doGetCertificate, pending_ite, ite_self, pending_spdmTurn, pending_spdmError, pending_spdmReply, implies_true]

theorem pending_spdmSig (s : State) (context transcript : List Byte) :
    (spdmSig s context transcript).2.pending = s.pending := by
  simp only [spdmSig, pending_draw256]

theorem pending_doChallenge (s : State) (smb : Bool) (req : List Byte) : (doChallenge s smb req).pending = s.pending := by
  simp only [doChallenge, pending_ite, ite_self, pending_spdmTurn, pending_spdmError, pending_draw256, pending_spdmSig,
    pending_spdmSend, implies_true]

theorem pending_doGetMeasurements (s : State) (smb : Bool) (req : List Byte) :
    (doGetMeasurements s smb req).pending = s.pending := by
  rw [doGetMeasurements]
  refine pending_spdmTurn s smb req _ _ fun t => ?_
  dsimp only
  split
  · rw [pending_spdmError]
  · simp only [pending_ite, pending_spdmError, pending_spdmSend, pending_modMgt, pending_spdmSig, pending_draw256,
    pending_spdmReply,
      ite_self]

theorem pending_doSmbRead (s : State) : (doSmbRead s).pending = s.pending := by
  simp only [doSmbRead, pending_modMgt]

theorem pending_doTap (s : State) (ir : Nat) : (doTap s ir).pending = s.pending := by
  simp only [doTap, pending_modMgt]

/-! ### Counters -/

theorem pending_pmcClear (s : State) : (pmcClear s).pending = s.pending := by
  simp only [pmcClear]

theorem pending_pmcCtlWrite (s : State) (v : W64) : (pmcCtlWrite s v).pending = s.pending := by
  simp only [pmcCtlWrite, pending_ite, ite_self, pending_regPut, pending_pmcClear, pending_modMgt]

theorem pending_h1Write (s : State) (j : Nat) (v : W64) : (h1Write s j v).pending = s.pending := by
  simp only [h1Write]

/-! ### Training -/

theorem pending_lwConsec (s : State) : (lwConsec s).pending = s.pending := by
  simp only [lwConsec, pending_addFld]

theorem pending_lwAccept (s : State) (x : W32) : (lwAccept s x).pending = s.pending := by
  simp only [lwAccept, pending_setFld]

theorem pending_doLoss (s : State) (x : W32) : (doLoss s x).pending = s.pending := by
  simp only [doLoss, pending_ite, ite_self, pending_lwConsec, pending_setFld, pending_lwAccept]

theorem pending_doRestart (s : State) : (doRestart s).pending = s.pending := by
  simp only [doRestart, pending_setReg, pending_setFld]

theorem pending_doGradNfRaise (s : State) : (doGradNfRaise s).pending = s.pending := by
  simp only [doGradNfRaise, pending_setFld]

theorem pending_closeEntry (s : State) (n : Nat) : (closeEntry s n).pending = s.pending := by
  simp only [closeEntry, pending_setReg]

theorem pending_doClose (s : State) : (doClose s).pending = s.pending := by
  simp only [doClose, pending_ite, ite_self, pending_foldl, implies_true, pending_rwiErr, pending_addFld, pending_setFld,
    pending_closeEntry]

theorem pending_doCloseEnd (s : State) : (doCloseEnd s).pending = s.pending := by
  simp only [doCloseEnd, pending_setFld]

/-! ### Reads that clear -/

theorem pending_clearFlds (s : State) (off hi lo : Nat) : (clearFlds s off hi lo).pending = s.pending := by
  simp only [clearFlds, pending_ite, ite_self, pending_foldl, implies_true, pending_setFld]

theorem pending_readClears (s : State) (off bytes : Nat) : (readClears s off bytes).pending = s.pending := by
  simp only [readClears]
  split <;> simp only [pending_ite, ite_self, pending_clearFlds]

theorem pending_readBar (s : State) (off bytes : Nat) : (readBar s off bytes).2.2.pending = s.pending := by
  unfold readBar
  split <;> simp only [pending_raise, pending_readClears]

/-! ### Configuration space -/

theorem pending_cfgPlain (s : State) (off : Nat) (v : W32) : (cfgPlain s off v).pending = s.pending := by
  simp only [cfgPlain, pending_ite, ite_self, pending_modHost]

theorem pending_devCtlWrite (s : State) (v : W32) : (devCtlWrite s v).pending = s.pending := by
  simp only [devCtlWrite, pending_ite, ite_self, pending_deviceReset, pending_cfgPlain]

theorem pending_cfgRegWrite (s : State) (off : Nat) (v : W32) : (cfgRegWrite s off v).pending = s.pending := by
  unfold cfgRegWrite
  split <;> simp only [pending_ite, ite_self, pending_modHost, pending_doD0, pending_doFunctionMask, pending_devCtlWrite,
    pending_doResize, pending_cfgPlain]

theorem pending_cfgRead (s : State) (off bytes : Nat) : (cfgRead s off bytes).pending = s.pending := by
  simp only [cfgRead, pending_ite, ite_self, pending_answer, pending_unsupported]

theorem pending_cfgPut (s : State) (off bytes : Nat) (v : W64) : (cfgPut s off bytes v).pending = s.pending := by
  simp only [cfgPut, pending_ite, ite_self, pending_cfgRegWrite, pending_unsupportedWrite]

/-! ### Writes of registers -/

theorem pending_qtrPut (s : State) (q off : Nat) (legal : Bool) (v : W64) (src : Src) :
    (qtrPut s q off legal v src).pending = s.pending := by
  simp only [qtrPut, pending_ite, ite_self, pending_raiseQReg, pending_setReg]

theorem pending_engFaultWrite (s : State) (q : Nat) (v : W64) (src : Src) : (engFaultWrite s q v src).pending = s.pending := by
  simp only [engFaultWrite, pending_ite, ite_self, pending_qtrPut, pending_modQuarter]

theorem pending_ccIrqWrite (s : State) (q : Nat) (v : W64) (src : Src) : (ccIrqWrite s q v src).pending = s.pending := by
  simp only [ccIrqWrite, pending_qtrPut, pending_setReg]

theorem pending_setCcore (s : State) (q i : Nat) (c : CCore) : (setCcore s q i c).pending = s.pending := by
  simp only [setCcore, pending_modQuarter]

theorem pending_ccStarts (old : State) (q : Nat) (s : State) (i : Nat) : (ccStarts old q s i).pending = s.pending := by
  simp only [ccStarts, pending_ite, pending_setCcore, ite_self]

theorem pending_ccCtlWrite (s : State) (q : Nat) (v : W64) (src : Src) : (ccCtlWrite s q v src).pending = s.pending := by
  simp only [ccCtlWrite, pending_foldl, implies_true, pending_qtrPut, pending_ccStarts]

theorem pending_cmpWrite (s : State) (q i : Nat) (v : W64) (src : Src) : (cmpWrite s q i v src).pending = s.pending := by
  simp only [cmpWrite, pending_qtrPut, pending_setCcore]

theorem pending_gftCtlWrite (s : State) (v : W64) : (gftCtlWrite s v).pending = s.pending := by
  simp only [gftCtlWrite, pending_ite, ite_self, pending_regPut, pending_doClose]

theorem pending_gftWrite (s : State) (off : Nat) (legal : Bool) (v : W64) : (gftWrite s off legal v).pending = s.pending := by
  simp only [gftWrite, pending_ite, ite_self, pending_rwiErr, pending_regPut]

theorem pending_lwCtlWrite (s : State) (v : W64) : (lwCtlWrite s v).pending = s.pending := by
  simp only [lwCtlWrite, pending_ite, ite_self, pending_regPut, pending_doRestart]

theorem pending_sccModeWrite (s : State) (k : Nat) (v : W64) : (sccModeWrite s k v).pending = s.pending := by
  simp only [sccModeWrite, pending_regPut, pending_setFld]

theorem pending_beatCtlWrite (s : State) (v : W64) : (beatCtlWrite s v).pending = s.pending := by
  simp only [beatCtlWrite, pending_ite, ite_self, pending_regPut, pending_setFld, pending_doStart]

theorem pending_derateWrite (s : State) (v : W64) : (derateWrite s v).pending = s.pending := by
  simp only [derateWrite, pending_ite, ite_self, pending_regPut, pending_setFld]

theorem pending_portWrite (s : State) (p : Nat) (v : W64) : (portWrite s p v).pending = s.pending := by
  simp only [portWrite, pending_ite, ite_self, pending_regPut, pending_portChanged]

theorem pending_mapWrite (s : State) (p : Nat) (v : W64) : (mapWrite s p v).pending = s.pending := by
  simp only [mapWrite, pending_ite, ite_self, pending_regPut, pending_portChanged]

theorem pending_stopCtlWrite (s : State) (v : W64) : (stopCtlWrite s v).pending = s.pending := by
  simp only [stopCtlWrite, pending_ite, ite_self, pending_doForce, pending_doRearm]

theorem pending_plainWrite (s : State) (d : RegD) (i off : Nat) (v : W64) : (plainWrite s d i off v).pending = s.pending := by
  simp only [plainWrite, pending_ite, ite_self, pending_regPut, pending_recClear]

theorem pending_qtrWrite (s : State) (d : RegD) (q j off : Nat) (v : W64) (src : Src) :
    (qtrWrite s d q j off v src).pending = s.pending := by
  unfold qtrWrite
  split <;> simp only [pending_cfgWrite, pending_ptrWrite, pending_engFaultWrite, pending_ccCtlWrite, pending_ccIrqWrite,
    pending_cmpWrite, pending_ldoneWrite, pending_recClear, pending_qtrPut]

theorem pending_writeRow (s : State) (d : RegD) (i j off : Nat) (v : W64) (src : Src) :
    (writeRow s d i j off v src).pending = s.pending := by
  unfold writeRow
  repeat' split
  all_goals simp only [pending_qtrWrite, pending_gftCtlWrite, pending_gftWrite, pending_lwCtlWrite, pending_doLoss,
    pending_doGradNfRaise, pending_retireWrite, pending_regionWr, pending_tgWrite, pending_sccModeWrite, pending_atomWrite,
    pending_sqBaseWrite, pending_sqCfgWrite, pending_cqCfgWrite, pending_beatCtlWrite, pending_derateWrite, pending_portWrite,
    pending_rteWrite, pending_circWr, pending_calWr, pending_mapWrite, pending_bar4BaseWrite, pending_irqSrcWrite,
    pending_prjNote, pending_plainWrite, pending_stopCtlWrite, pending_pmcCtlWrite, pending_h1Write]

theorem pending_writeHalf (s : State) (d : RegD) (i j off h : Nat) (v : Nat) (src : Src) :
    (writeHalf s d i j off h v src).pending = s.pending := by
  simp only [writeHalf, pending_ite, ite_self, pending_gateWrite, pending_writeRow]

theorem pending_write4 (s : State) (off v : Nat) (src : Src) : (write4 s off v src).1.pending = s.pending := by
  unfold write4
  repeat' split
  all_goals simp only [pending_writeHalf, pending_writeRow]

theorem pending_write8 (s : State) (off : Nat) (v : W64) (src : Src) : (write8 s off v src).1.pending = s.pending := by
  unfold write8
  split <;> simp only [ite_self, pending_writeRow, pending_write4, pending_ite_fst]

theorem pending_msixWrite (s : State) (off bytes : Nat) (v : W64) : (msixWrite s off bytes v).pending = s.pending := by
  simp only [msixWrite, pending_ite, ite_self, pending_vecWrite]

theorem pending_writeBar (s : State) (off bytes : Nat) (v : W64) (src : Src) :
    (writeBar s off bytes v src).pending = s.pending := by
  unfold writeBar
  repeat' split
  all_goals simp only [pending_ite, ite_self, pending_raise, pending_msixWrite, pending_write8, pending_write4]

theorem pending_hostRead (s : State) (off bytes : Nat) : (hostRead s off bytes).pending = s.pending := by
  simp only [hostRead, pending_ite, ite_self, pending_unsupported, pending_answer, pending_readBar]

theorem pending_barWrite (s : State) (off bytes : Nat) (v : W64) (src : Src) (ep : Bool) :
    (barWrite s off bytes v src ep).pending = s.pending := by
  simp only [barWrite, pending_ite, ite_self, pending_unsupportedWrite, pending_fromSrc, pending_poisonRx, pending_writeBar,
    implies_true]

theorem pending_barRead (s : State) (off bytes : Nat) (src : Src) : (barRead s off bytes src).pending = s.pending := by
  unfold barRead
  split <;> simp only [pending_hostRead, pending_readBar, pending_setCcore]

/-! ### Control cores -/

theorem pending_ccTrap (s : State) (q i cause : Nat) (a : W64) : (ccTrap s q i cause a).pending = s.pending := by
  simp only [ccTrap, pending_setCcore]

theorem pending_ccInterrupt (s : State) (q i code : Nat) : (ccInterrupt s q i code).pending = s.pending := by
  simp only [ccInterrupt, pending_setCcore]

theorem pending_ccTake (s : State) (q i : Nat) (v : Nat) : (ccTake s q i v).pending = s.pending := by
  simp only [ccTake, pending_setCcore]

theorem pending_ccUnpop (s : State) (q : Fin 96) (i : Fin 2) (p b : Nat) : (ccUnpop s q i p b).pending = s.pending := by
  simp only [ccUnpop, pending_ite, ite_self, pending_raiseQ]

theorem pending_ccRead (s : State) (q : Fin 96) (i : Fin 2) (a n : Nat) : (ccRead s q i a n).2.pending = s.pending := by
  unfold ccRead
  repeat' split
  all_goals simp only [pending_readBar, pending_touch, pending_ccUnpop]

theorem pending_ccWrite (s : State) (q : Fin 96) (i : Fin 2) (a n : Nat) (v : W64) :
    (ccWrite s q i a n v).2.pending = s.pending := by
  unfold ccWrite
  repeat' split
  all_goals simp only [pending_writeNat, pending_writeBar, pending_touch, pending_ccUnpop]

theorem pending_ccFetch (s : State) (q : Fin 96) (i : Fin 2) (a : W64) : (ccFetch s q i a).pending = s.pending := by
  unfold ccFetch
  split <;> simp only [pending_ite, ite_self, pending_ccInterrupt, pending_setCcore, pending_ccTrap, pending_ccTake]

theorem pending_ccLoad (s : State) (q : Fin 96) (i : Fin 2) (a : W64) (n : Nat) : (ccLoad s q i a n).pending = s.pending := by
  have hread := pending_ccRead s q i a.toNat n
  unfold ccLoad
  split <;> next h => simp only [pending_ccTake, pending_ccTrap, ← hread, h]

theorem pending_ccStore (s : State) (q : Fin 96) (i : Fin 2) (a : W64) (n : Nat) (v : W64) :
    (ccStore s q i a n v).pending = s.pending := by
  have hwrite := pending_ccWrite s q i a.toNat n v
  unfold ccStore
  split <;> next h => simp only [pending_ccTrap, ← hwrite, h]

theorem pending_ccAtomic (s : State) (q : Fin 96) (i : Fin 2) (a : W64) (n align fault : Nat) {act : Nat → State}
    (hact : ∀ b, (act b).pending = s.pending) : (ccAtomic s q i a n align fault act).pending = s.pending := by
  simp only [ccAtomic, pending_ite, pending_ccTrap, hact, ite_self]

theorem pending_ccAmo (s : State) (q : Fin 96) (i : Fin 2) (a : W64) (op : AmoOp) (n : Nat) (v : W64) :
    (ccAmo s q i a op n v).pending = s.pending := by
  simp only [ccAmo, pending_ccAtomic, pending_ccTake, pending_writeNat, implies_true]

theorem pending_ccLr (s : State) (q : Fin 96) (i : Fin 2) (a : W64) (n : Nat) : (ccLr s q i a n).pending = s.pending := by
  simp only [ccLr, pending_ccAtomic, pending_setCcore, implies_true]

theorem pending_ccSc (s : State) (q : Fin 96) (i : Fin 2) (a : W64) (n : Nat) (v : W64) :
    (ccSc s q i a n v).pending = s.pending := by
  simp only [ccSc, pending_ite, ite_self, pending_ccAtomic, pending_writeNat, pending_setCcore, implies_true]

theorem pending_ccCsr (s : State) (q i : Nat) (num : BitVec 12) (v : W64) : (ccCsr s q i num v).pending = s.pending := by
  unfold ccCsr
  split <;> simp only [pending_ite, ite_self, pending_setCcore, pending_ccTrap]

theorem pending_ccAccess (s : State) (q : Fin 96) (i : Fin 2) (acc : CcAccess) (a : W64) :
    (ccAccess s q i acc a).pending = s.pending := by
  unfold ccAccess
  split <;> simp only [pending_ite, ite_self, pending_ccFetch, pending_ccLoad, pending_ccStore, pending_ccAmo, pending_ccLr,
    pending_ccSc, pending_ccCsr, pending_setCcore]

theorem pending_doTimer (s : State) (q i : Nat) : (doTimer s q i).pending = s.pending := by
  simp only [doTimer, pending_ite, ite_self, pending_setCcore, pending_ccInterrupt]

/-! ### Time -/

/-! ### Commands -/

/-- Where an outcome of a command goes on, the queue is as before. -/
def QueueKept (s : State) (o : Out) : Prop := ∀ t, o = .next t → t.pending = s.pending

section
variable {s t : State}

theorem queueKept_next (h : t.pending = s.pending) : QueueKept s (.next t) := by
  rintro u ⟨⟩
  exact h

theorem queueKept_fault (r : Fault) : QueueKept s (.fault r) := by rintro u ⟨⟩

theorem queueKept_wellFormed {c : Bool} (h : t.pending = s.pending) : QueueKept s (if c then .next t else .fault .illFormed) := by
  cases c
  · exact queueKept_fault _
  · exact queueKept_next h

theorem queueKept_onPkt {k : Pkt} (h : t.pending = s.pending) : QueueKept s (onPkt k t) := queueKept_wellFormed h

theorem queueKept_onCell {c : List CWord} (h : t.pending = s.pending) : QueueKept s (onCell c t) := queueKept_wellFormed h

/-- A write of a source to a quarter's register, which a disabled quarter ignores (R46). -/
theorem pending_quarterWrite {src : Src} {q : Nat} {act : State → State} (hact : ∀ t, (act t).pending = t.pending) :
    (fromSrc s src fun t => if qtrPresent t q then act t else t).pending = s.pending :=
  pending_fromSrc s src fun t => pending_of_ite (hact t) rfl

/-! Commands on the first admitted descriptor that fits: without one, nothing changes. -/

theorem queueKept_update : QueueKept s (execUpdate s) := by
  refine queueKept_next ?_
  split
  exacts [pending_updStart .., rfl]

theorem queueKept_load : QueueKept s (execLoad s) := by
  refine queueKept_next ?_
  split
  exacts [pending_doLoad .., rfl]

theorem queueKept_select : QueueKept s (execSelect s) := by
  refine queueKept_next ?_
  split
  exacts [pending_prjSelect .., rfl]

theorem queueKept_loadSelect : QueueKept s (execLoadSelect s) := by
  refine queueKept_next ?_
  split
  exacts [pending_doLoadSelect .., rfl]

/-! Commands whose meaning looks at an operand first. -/

theorem queueKept_doorbellIgnored (off bytes : Nat) (v : Option W64) : QueueKept s (execDoorbellIgnored off bytes v s) := by
  cases v with
  | some w => exact queueKept_next (pending_hostBar2 ..)
  | none => exact queueKept_next (pending_of_ite (pending_unsupported _) (pending_answer ..))

theorem queueKept_descriptorFetch (a : Answer W512) : QueueKept s (execDescriptorFetch a s) := by
  refine queueKept_next (pending_fetchOne _ fun r hr t => ?_)
  cases a with
  | data b => cases hr
  | poison => cases hr; exact pending_poisonRx ..
  | error e => cases hr; exact pending_pcieReport ..

theorem queueKept_bar4Read (off bytes : Nat) : QueueKept s (execBar4Read off bytes s) := by
  unfold execBar4Read
  split
  · exact queueKept_fault _
  · exact queueKept_next (pending_of_ite (pending_unsupported _) (pending_of_ite (pending_bar4Early ..)
      (pending_of_ite rfl (pending_bar4Read ..))))

theorem queueKept_bar4Write (off : Nat) (data : List Byte) (ep : Bool) : QueueKept s (execBar4Write off data ep s) := by
  unfold execBar4Write
  split
  · exact queueKept_fault _
  · exact queueKept_next (pending_of_ite (pending_unsupportedWrite _) (pending_of_ite rfl (pending_bar4Write ..)))

theorem queueKept_registerWrite (at_ : RegAt) (bytes : Nat) (v : W64) (src : Src) (ep : Bool) :
    QueueKept s (execRegisterWrite at_ bytes v src ep s) := by
  cases at_ with
  | bar0 off => exact queueKept_next (pending_barWrite ..)
  | config off => exact queueKept_next (pending_of_ite (pending_of_ite (pending_poisonRx ..) (pending_cfgPut ..)) rfl)

theorem queueKept_registerReadClear (at_ : RegAt) (bytes : Nat) (src : Src) :
    QueueKept s (execRegisterReadClear at_ bytes src s) := by
  cases at_ with
  | bar0 off => exact queueKept_next (pending_barRead ..)
  | config off => exact queueKept_next (pending_of_ite (pending_cfgRead ..) rfl)

/-- Every command keeps the queue behind it: arm by arm of `exec`. -/
theorem queueKept_exec (c : Instr) : QueueKept s (exec c s) := by
  cases c with
  | nop _ _ => exact queueKept_next (pending_doNop ..)
  | mma _ _ => exact queueKept_next (pending_doMma ..)
  | mmaEnd _ _ => exact queueKept_next (pending_doMmaEnd ..)
  | dcfg _ _ => exact queueKept_next (pending_doDcfg ..)
  | drain _ _ => exact queueKept_next (pending_doDrain ..)
  | drainEnd _ _ => exact queueKept_next (pending_doDrainEnd ..)
  | valu _ _ => exact queueKept_next (pending_runInstr _ _ _ _ _ fun f d h => pending_valuBody _ _ _ f d h)
  | vld _ _ => exact queueKept_next (pending_runInstr _ _ _ _ _ fun f d h => pending_vldBody _ _ _ f d h)
  | vst _ _ => exact queueKept_next (pending_runInstr _ _ _ _ _ fun f d h => pending_vstBody _ _ _ f d h)
  | vred _ _ => exact queueKept_next (pending_runInstr _ _ _ _ _ fun f d h => pending_vredBody _ _ _ f d h)
  | momfin _ _ => exact queueKept_next (pending_runInstr _ _ _ _ _ fun f d h => pending_momfinBody _ _ _ f d h)
  | vrelay _ _ => exact queueKept_next (pending_runInstr _ _ _ _ _ fun f d h => pending_vrelayBody _ _ _ f d h)
  | topk _ _ => exact queueKept_next (pending_runInstr _ _ _ _ _ fun f d h => pending_topkBody _ _ _ f d h)
  | dropout _ _ => exact queueKept_next (pending_runInstr _ _ _ _ _ fun f d h => pending_dropoutBody _ _ _ f d h)
  | maskapply _ _ => exact queueKept_next (pending_runInstr _ _ _ _ _ fun f d h => pending_maskapplyBody _ _ _ f d h)
  | moveCopy _ => exact queueKept_next (pending_runInstr _ _ _ _ _ fun f d h => pending_moveCopyBody _ _ f d h)
  | moveAtomicAdd _ => exact queueKept_next (pending_runPartial _ _ _ _ _ fun f d h => pending_moveAtomicBody _ _ f d h)
  | dispatch _ => exact queueKept_next (pending_doDispatch ..)
  | gatherRows _ => exact queueKept_next (pending_runInstr _ _ _ _ _ fun f d h => pending_gatherRowsBody _ _ f d h)
  | combine _ => exact queueKept_next (pending_runInstr _ _ _ _ _ fun f d h => pending_combineBody _ _ f d h)
  | scatterAdd _ => exact queueKept_next (pending_runPartial _ _ _ _ _ fun f d h => pending_scatterAddBody _ _ f d h)
  | scatterRows _ => exact queueKept_next (pending_runInstr _ _ _ _ _ fun f d h => pending_scatterRowsBody _ _ f d h)
  | rotate _ => exact queueKept_next (pending_doPrjsub ..)
  | sketch _ => exact queueKept_next (pending_doPrjsub ..)
  | prjSubmissionEnd => exact queueKept_next (pending_doPrjEnd ..)
  | sqsig _ _ => exact queueKept_next (pending_doSqsig ..)
  | sqwait _ _ => exact queueKept_next (pending_doSqwait ..)
  | sqwaitResume _ _ => exact queueKept_next (pending_doSqwaitResume ..)
  | sqset _ _ => exact queueKept_next (pending_doSqset ..)
  | streamFetch _ _ => exact queueKept_next (pending_doFetch ..)
  | engineOpRetire _ _ => exact queueKept_next (pending_doRetire ..)
  | waitTo _ _ => exact queueKept_next (pending_doWaitTo ..)
  | streamHeadWrite _ _ _ _ => exact queueKept_next (pending_quarterWrite fun _ => pending_ptrWrite ..)
  | streamGateWrite _ _ _ _ => exact queueKept_next (pending_quarterWrite fun _ => pending_gateWrite ..)
  | streamDisable _ _ _ _ => exact queueKept_next (pending_quarterWrite fun _ => pending_cfgWrite ..)
  | ccStart _ _ _ => exact queueKept_next (pending_quarterWrite fun _ => pending_ccCtlWrite ..)
  | ldone _ _ _ => exact queueKept_next (pending_quarterWrite fun _ => pending_ldoneWrite ..)
  | launchEnd _ => exact queueKept_next (pending_doLaunchEnd ..)
  | sqDoorbell _ _ => exact queueKept_next (pending_hostBar2 ..)
  | cqDoorbell _ _ => exact queueKept_next (pending_hostBar2 ..)
  | doorbellIgnored off bytes v => exact queueKept_doorbellIgnored off bytes v
  | descriptorFetch a => exact queueKept_descriptorFetch a
  | launch => exact queueKept_next (pending_doLaunch ..)
  | copy _ _ => exact queueKept_next (pending_doCopy ..)
  | signal => exact queueKept_next (pending_doSignal ..)
  | update => exact queueKept_update
  | stop => exact queueKept_next (pending_doStop ..)
  | load => exact queueKept_load
  | select => exact queueKept_select
  | loadSelect => exact queueKept_loadSelect
  | settleEnd => exact queueKept_next (pending_doSettleEnd ..)
  | tracking _ => exact queueKept_next (pending_doReferences ..)
  | writeRt _ => exact queueKept_next (pending_fcWrite ..)
  | writeCirc _ => exact queueKept_next (pending_fcWrite ..)
  | writeCal _ => exact queueKept_next (pending_fcWrite ..)
  | flip => exact queueKept_next (pending_doFlip ..)
  | discover => exact queueKept_next (pending_doDiscover ..)
  | helloResend _ => exact queueKept_next (pending_doHelloResend ..)
  | discoverEnd => exact queueKept_next (pending_endDiscover ..)
  | loadPlan _ => exact queueKept_wellFormed (pending_doLoadPlan ..)
  | start => exact queueKept_next (pending_doStart ..)
  | tickSend => exact queueKept_next (pending_doTickSend ..)
  | tick _ _ _ => exact queueKept_onPkt (pending_doTick ..)
  | tickMissed => exact queueKept_next (pending_doTickMissed ..)
  | beatBoundary => exact queueKept_next (pending_doBoundary ..)
  | fullRetrainEnd _ _ => exact queueKept_next (pending_doFullEnd ..)
  | cut => exact queueKept_next (pending_of_ite (pending_doCut ..) rfl)
  | pass1Start _ => exact queueKept_next (pending_doPass1Start ..)
  | pass1End _ => exact queueKept_next (pending_doPass1End ..)
  | seqrec _ _ => exact queueKept_wellFormed (pending_doSeqrec ..)
  | pass2Start _ _ _ => exact queueKept_next (pending_doPass2Start ..)
  | updateEnd => exact queueKept_next (pending_doUpdateEnd ..)
  | chainTo => exact queueKept_next (pending_doChainTo ..)
  | loss _ => exact queueKept_next (pending_doLoss ..)
  | restart => exact queueKept_next (pending_doRestart ..)
  | gradNfRaise => exact queueKept_next (pending_doGradNfRaise ..)
  | close => exact queueKept_next (pending_doClose ..)
  | closeEnd => exact queueKept_next (pending_doCloseEnd ..)
  | stackTempSample _ _ => exact queueKept_next (pending_of_ite (pending_stackGood ..) (pending_stackBad ..))
  | driftTracking _ _ _ _ => exact queueKept_next (pending_doDrift ..)
  | emergencyRetrain _ _ => exact queueKept_next (pending_of_ite (pending_trigger ..) rfl)
  | emergencyRetrainEnd _ _ _ => exact queueKept_next (pending_doRetrainEnd ..)
  | reqTo _ _ _ => exact queueKept_next (pending_doReqTo ..)
  | ueReread _ _ _ => exact queueKept_next (pending_doReread ..)
  | tgStart _ _ _ => exact queueKept_next (pending_tgWrite ..)
  | tgEnd _ _ _ _ _ => exact queueKept_next (pending_doTgEnd ..)
  | channelRetire _ _ => exact queueKept_next (pending_retireWrite ..)
  | regionWrite _ _ => exact queueKept_next (pending_regionWr ..)
  | atomicRegionEnable _ _ => exact queueKept_next (pending_atomWrite ..)
  | atomicRegionDisable _ _ => exact queueKept_next (pending_atomWrite ..)
  | frameRx _ _ _ _ => exact queueKept_wellFormed (pending_doFrameRx ..)
  | replayTimeout _ _ => exact queueKept_next (pending_of_ite (pending_resend ..) rfl)
  | round _ => exact queueKept_next (pending_doRound ..)
  | ctrlDisplace _ => exact queueKept_next (pending_doCtrlDisplace ..)
  | write p k => exact queueKept_onPkt (pending_reqIn _ _ _ _ (pending_doWrite p k))
  | read p k => exact queueKept_onPkt (pending_reqIn _ _ _ _ (pending_doRead p k))
  | reqSignal p k => exact queueKept_onPkt (pending_reqIn _ _ _ _ (pending_doReqSignal p k))
  | atomicAdd p k => exact queueKept_onPkt (pending_reqIn _ _ _ _ (pending_doAtomicAdd p k))
  | ack _ _ => exact queueKept_onPkt (pending_rspIn _ _ _ _ _ fun _ _ => pending_reqOver ..)
  | readData _ k => exact queueKept_onPkt (pending_of_ite rfl (pending_rspIn _ _ _ _ _ (pending_takeData k)))
  | error p _ => exact queueKept_onPkt (pending_rspIn _ _ _ _ _ (pending_takeError p))
  | stopCell _ _ => exact queueKept_onPkt (pending_doStopCell ..)
  | hello _ _ => exact queueKept_onPkt (pending_doHello ..)
  | helloSig _ _ => exact queueKept_onPkt (pending_doHelloSig ..)
  | echo _ _ _ => exact queueKept_onPkt (pending_doEcho ..)
  | echoReply _ _ _ _ => exact queueKept_onPkt (pending_doEchoReply ..)
  | writeHead _ _ => exact queueKept_onCell (pending_doWriteHead ..)
  | circuitSignal _ _ => exact queueKept_onCell (pending_doCircSignal ..)
  | circuitDataCell _ _ => exact queueKept_onCell (pending_doDataCell ..)
  | e2eTimeout _ _ => exact queueKept_next (pending_doE2eTimeout ..)
  | optSensorSample _ _ _ => exact queueKept_next (pending_doOptSample ..)
  | ringFeedforward => exact queueKept_next (pending_doFeedforward ..)
  | laneDown _ _ _ => exact queueKept_next (pending_doLaneDown ..)
  | laneRelockEnd _ _ _ => exact queueKept_next (pending_doRelockEnd ..)
  | laneManagementWord _ _ _ => exact queueKept_next (pending_doManagementWord ..)
  | rxPowerMeasure _ _ _ => exact queueKept_next (pending_doRxPower ..)
  | laserFail _ => exact queueKept_next (pending_doLaserFail ..)
  | laserSwap _ => exact queueKept_next (pending_doLaserSwap ..)
  | laserAgeWarn _ => exact queueKept_next (pending_doLaserAge ..)
  | announceBlock _ _ _ => exact queueKept_wellFormed (pending_doAnnounce ..)
  | avAssignment => exact queueKept_next (pending_doAssignment ..)
  | bar4Read off bytes => exact queueKept_bar4Read off bytes
  | bar4Write off data ep => exact queueKept_bar4Write off data ep
  | bar4BaseWrite _ => exact queueKept_next (pending_bar4BaseWrite ..)
  | registerWrite at_ bytes v src ep => exact queueKept_registerWrite at_ bytes v src ep
  | registerReadClear at_ bytes src => exact queueKept_registerReadClear at_ bytes src
  | sqBaseWrite _ _ => exact queueKept_next (pending_sqBaseWrite ..)
  | sqCfgWrite _ _ => exact queueKept_next (pending_sqCfgWrite ..)
  | cqEnable _ _ => exact queueKept_next (pending_cqCfgWrite ..)
  | cqDisable _ _ => exact queueKept_next (pending_cqCfgWrite ..)
  | irqSrcEnable _ _ => exact queueKept_next (pending_of_ite (pending_irqSrcWrite ..) (pending_raise ..))
  | bmeClear _ => exact queueKept_next (pending_modHost ..)
  | mseClear _ => exact queueKept_next (pending_modHost ..)
  | d3hot => exact queueKept_next (pending_modHost ..)
  | d0Return => exact queueKept_next (pending_doD0 ..)
  | linkChange _ _ _ _ => exact queueKept_next (pending_doLinkChange ..)
  | flr => exact queueKept_next (pending_deviceReset ..)
  | hotReset => exact queueKept_next (pending_deviceReset ..)
  | perstN _ => exact queueKept_next (pending_doPin ..)
  | porN _ => exact queueKept_next (pending_doPin ..)
  | resetRelease => exact queueKept_next (pending_doRelease ..)
  | bootStageEnd _ => exact queueKept_next (pending_doStageEnd ..)
  | getBootStatus _ => exact queueKept_next (pending_vendorOn _ _ _ fun _ => pending_doBootStatus ..)
  | flashRead _ _ _ => exact queueKept_next (pending_vendorOn _ _ _ fun _ => pending_doFlashRead ..)
  | flashErase _ _ => exact queueKept_next (pending_vendorOn _ _ _ fun _ => pending_doFlashErase ..)
  | flashWrite _ _ _ => exact queueKept_next (pending_vendorOn _ _ _ fun _ => pending_doFlashWrite ..)
  | getPartRecord _ _ _ => exact queueKept_next (pending_vendorOn _ _ _ fun _ => pending_doPartRecord ..)
  | reset _ => exact queueKept_next (pending_vendorOn _ _ _ fun _ => pending_doReset ..)
  | setEndpointId _ _ => exact queueKept_next (pending_mctpOn _ _ _ fun _ => pending_of_ite (pending_doSetEid ..) (pending_doControl ..))
  | getVersion _ _ => exact queueKept_next (pending_mctpOn _ _ _ fun _ => pending_doGetVersion ..)
  | getCapabilities _ _ => exact queueKept_next (pending_mctpOn _ _ _ fun _ => pending_doGetCapabilities ..)
  | negotiateAlgorithms _ _ => exact queueKept_next (pending_mctpOn _ _ _ fun _ => pending_doNegotiate ..)
  | getDigests _ _ => exact queueKept_next (pending_mctpOn _ _ _ fun _ => pending_doGetDigests ..)
  | getCertificate _ _ => exact queueKept_next (pending_mctpOn _ _ _ fun _ => pending_doGetCertificate ..)
  | challenge _ _ => exact queueKept_next (pending_mctpOn _ _ _ fun _ => pending_doChallenge ..)
  | getMeasurements _ _ => exact queueKept_next (pending_mctpOn _ _ _ fun _ => pending_doGetMeasurements ..)
  | smbusTimeout => exact queueKept_next (pending_modMgt ..)
  | tapInstruction _ => exact queueKept_next (pending_doTap ..)
  | clockFault _ => exact queueKept_next (pending_doClockFault ..)
  | heartbeat _ => exact queueKept_next (pending_modMgt ..)
  | domainStuck _ => exact queueKept_next (pending_doStuck ..)
  | force => exact queueKept_next (pending_doForce ..)
  | jobStopCompletions => exact queueKept_next (pending_doStopCompletions ..)
  | readable => exact queueKept_next (pending_doReadable ..)
  | rearm => exact queueKept_next (pending_doRearm ..)
  | dieSensorSample _ _ _ => exact queueKept_next (pending_doDieSample ..)
  | powerSample _ => exact queueKept_next (pending_doPowerSample ..)
  | thermtrip => exact queueKept_next (pending_modMgt ..)
  | clear => exact queueKept_next (pending_pmcCtlWrite ..)
  | h1CounterWrite _ _ => exact queueKept_next (pending_h1Write ..)
  | controlCoreLoadStore _ _ _ _ => exact queueKept_next (pending_of_ite (pending_ccAccess ..) rfl)
  | machineTimerInterrupt _ _ => exact queueKept_next (pending_doTimer ..)
  | completionTimeout _ => exact queueKept_next (pending_doCplTimeout ..)
  | surpriseDown => exact queueKept_next ((pending_setLink ..).trans (pending_aerSet ..))
  | entropyHealthFail => exact queueKept_next (pending_doEntropyFail ..)
  | sccAtomBusyEnd _ => exact queueKept_next (pending_setFld ..)
  | resizableBarWrite _ => exact queueKept_next (pending_doResize ..)
  | msixFunctionMaskWrite _ _ => exact queueKept_next (pending_doFunctionMask ..)
  | smbusResponseRead => exact queueKept_next (pending_doSmbRead ..)

end

/-- Settles O5: what every operation leaves of the queue, put together over the commands. -/
theorem stepTakesOnlyTheFront : Obligations.StepTakesOnlyTheFront := fun c s t h => queueKept_exec (s := s) c t h

end Sys2Proof.Machine
